-- ==== Sys2Proof/Word.lean ====
section
/-!
DEFINITION. The word types of the block and their plainest abbreviations. Registers are 32 bits wide
(00_scope.md, "Registers"); host memory and the dies move bytes.
-/

namespace Sys2Proof

/-- A register's value (00_scope.md: all registers are 32 bits wide). -/
abbrev Word := BitVec 32

/-- A byte of a host structure, of a codeword or of a die's data bus. -/
abbrev Byte := BitVec 8

end Sys2Proof
end

