-- ==== Sys2Proof/Syntax.lean ====
section
/-!
DEFINITION. The commands of the block: one constructor of `Instr` for each row of
spec/opcode_table.json, in the table's order. A row of the table is a whole, indivisible step of the
part: a pin changing, a request on the fabric or on a register port, an entry of a queue, an
instruction of a sequencer or of a comb unit, a timer running out. What the row needs from outside
the block (a byte from a die, a beat from the fabric, the answer of a decoder's search) is an operand
of its constructor.
-/

namespace Sys2Proof

/-- The two register masters (R15, R144). -/
inductive Master where
  | mport | mirror
  deriving DecidableEq, Repr

/-- The boundary at which an applied register write takes effect (R29). An instruction boundary is met by one channel at a time,
a codeword boundary by one stage: 0 to 31 the read path's entry of a channel, 32 the mover, 33 the comb units, 34 the soft
decoders, 35 the write sequence, 64 to 95 the write path's entry, 96 to 127 the hard decoder, 128 to 159 the staging queue. -/
inductive BoundaryHit where
  | fetch
  | instr (ch : Nat)
  | codeword (stage : Nat)
  deriving DecidableEq, Repr

/-- How a port answered: the RD_RESP values of R43. -/
inductive Resp where
  | ok | err | poison | reserved
  deriving DecidableEq, Repr

/-- One read-data beat: its response and its 64 bytes (R43, R47). -/
structure RdBeat where
  resp : Resp
  data : List Byte
  deriving DecidableEq, Repr

/-- The four channels of a GFP port (R43). -/
inductive GfpChan where
  | request | writeData | readData | writeResponse
  deriving DecidableEq, Repr

/-- What the dies did with a channel operation that waits on them (R208). -/
inductive DieEnd where
  | ready | stuckBusy | noStatus
  deriving DecidableEq, Repr

/-- What TRAIN or EYE measured: for each lane the set of passing positions as a bit mask, bit p for
position p, for the read and for the write direction, and the mask of passing VREF codes (R211). -/
structure EyeScan where
  rx   : List Nat
  tx   : List Nat
  vref : Nat
  deriving DecidableEq, Repr

/-- The path by which a claim or complete access reaches the notification controller (R402). -/
inductive ClaimPath where
  | registerBus | targetPort
  deriving DecidableEq, Repr

/-- A unit found by the check read of a fill, with the bits it read as (R378). -/
structure FillFinding where
  mem  : Nat
  inst : Nat
  addr : Nat
  bits : Nat
  deriving DecidableEq, Repr

/-- A failing row found by memory self-test (R470). -/
structure BistRow where
  mem  : Nat
  inst : Nat
  bg   : Nat
  row  : Nat
  deriving DecidableEq, Repr

/-- What a channel operation that scans the eye ends with: how its die operations ended, and what it measured (R208, R211). -/
structure EyeEnd where
  die : DieEnd
  eye : EyeScan
  deriving DecidableEq, Repr

/-- What the end of a wake measured: for each channel, by number, its read training, and for each channel group the resistance at
CALR in tenths of an ohm (R206, R213). -/
structure WakeEnd where
  eyes : List (Nat × EyeScan)
  ohms : List (Nat × Nat)
  deriving DecidableEq, Repr

/-- A write through the read-level window; `lost` says that an update by tracking or calibration reaches the entry in the same KCLK
cycle (R276). -/
structure TblWrite where
  word : Word
  lost : Bool
  deriving DecidableEq, Repr

/-- Who reads units of a memory: the scrubber where it stands, or another reader at an address; `queue` says that the units lie in
a staging queue (R370, R382, R385). -/
inductive MemRead where
  | scrubber
  | reader (addr : Nat) (queue : Bool)
  deriving DecidableEq, Repr

/-- What the test network behind the TAP is used for (R75). -/
inductive TestUse where
  | memoryBist (rows : List BistRow)     -- the failing rows
  | debugStore (group addr : Nat)        -- a word of a control store
  | debugContext (ctx : Nat)             -- a scan context
  | phy (ch : Nat)                       -- PHY loopback and eye measurement
  | boundaryScan
  deriving DecidableEq, Repr

/-- The commands of the block. Each constructor's docstring names its row and its rule. -/
inductive Instr where
  /-- PORST_N_ASSERT, R72. -/
  | porstNAssert
  /-- PORST_N_RELEASE, R422. -/
  | porstNRelease
  /-- SRST_N_ASSERT, R73. -/
  | srstNAssert
  /-- SRST_N_RELEASE, R73. -/
  | srstNRelease
  /-- OPT_ACK_RISE, R64. -/
  | optAckRise
  /-- OPTION_AREA_LOADED, R425: the bytes from byte 8 to the last. -/
  | optionAreaLoaded (rest : List Byte)
  /-- OPT_ACK_FALL, R66. -/
  | optAckFall
  /-- REFERENCE_PLL_LOCK, R422. -/
  | referencePllLock
  /-- PLL_LOCK_TIMEOUT, R422. -/
  | pllLockTimeout
  /-- SRAM_FILL_DONE, R378: the units the check read found in error. -/
  | sramFillDone (found : List FillFinding)
  /-- RELOAD, R422. -/
  | reload
  /-- SMOKE_SEQUENCE, R439. -/
  | smokeSequence
  /-- SMOKE_LEDGER_WRITE, R439. -/
  | smokeLedgerWrite
  /-- SMOKE_RECORD_WRITE, R441. -/
  | smokeRecordWrite
  /-- SMOKE_SUMMARY, R442. -/
  | smokeSummary
  /-- POWER_STATE_REQUEST, R436: the word written to GLB_PWR_CTL. -/
  | powerStateRequest (value : Word)
  /-- P1_ENTRY, R437. -/
  | p1Entry
  /-- AUTO_P1_IDLE, R436. -/
  | autoP1Idle
  /-- P2_ENTRY, R436. -/
  | p2Entry
  /-- WAKE_COMPLETE, R438: what the fast paths of the channels measured. -/
  | wakeComplete (wake : WakeEnd)
  /-- TEMP_IN_ACCEPT, R26. -/
  | tempInAccept (group : Nat) (value : Byte)
  /-- TGT_IDLE_CHANGE, R68. -/
  | tgtIdleChange (target : Nat) (level : Bool)
  /-- RB_N_HIGH, R189. -/
  | rbNHigh (ch : Nat) (input : Nat)
  /-- GFP_CREDIT_RETURN, R44: port 4 is the target port. -/
  | gfpCreditReturn (port : Nat) (chan : GfpChan)
  /-- GFP_READ_COMPLETE, R50. -/
  | gfpReadComplete (port : Nat) (tag : Nat) (beats : List RdBeat)
  /-- GFP_WRITE_RESPONSE, R49. -/
  | gfpWriteResponse (port : Nat) (tag : Nat) (ok : Bool)
  /-- GFP_REQUEST_TIMEOUT, R54. -/
  | gfpRequestTimeout (port : Nat) (tag : Nat)
  /-- SQ_TAIL_DOORBELL, R84. -/
  | sqTailDoorbell (qid : Nat) (value : Word)
  /-- CQ_HEAD_DOORBELL, R85. -/
  | cqHeadDoorbell (qid : Nat) (value : Word)
  /-- TARGET_PORT_ERR, R57: offset in the window, direction, RQ_LEN and byte enables. -/
  | targetPortErr (offset : Nat) (write : Bool) (len : Nat) (enables : Nat)
  /-- REGISTER_WRITE, R27: with the value of a mirror write to the same register in the same cycle, if any. -/
  | registerWrite (master : Master) (offset : Nat) (value : Word) (collide : Option Word)
  /-- WRITE_TAKES_EFFECT, R29. -/
  | writeTakesEffect (hit : BoundaryHit)
  /-- REGISTER_PAIR_LO_WRITE, R15. -/
  | registerPairLoWrite (master : Master) (offset : Nat) (value : Word)
  /-- REGISTER_PAIR_HI_WRITE, R15. -/
  | registerPairHiWrite (master : Master) (offset : Nat) (value : Word)
  /-- REGISTER_PAIR_LO_READ, R15. -/
  | registerPairLoRead (master : Master) (offset : Nat)
  /-- NTF_CLAIM, R400. -/
  | ntfClaim (path : ClaimPath) (target : Nat)
  /-- NTF_COMPLETE, R401. -/
  | ntfComplete (path : ClaimPath) (target : Nat) (value : Word)
  /-- RPL_RAISE, R432. -/
  | rplRaise
  /-- RPL_LOWER_REQUEST, R433: the word written to SEC_RPL_REQ. -/
  | rplLowerRequest (value : Word)
  /-- ZEROIZE_DONE, R434. -/
  | zeroizeDone
  /-- RESTORE, R248. -/
  | restore (group : Nat)
  /-- RESTORE_DONE, R248. -/
  | restoreDone (group : Nat)
  /-- BCINV, R232. -/
  | bcinv (group : Nat)
  /-- UNFREEZE, R248. -/
  | unfreeze (ch : Nat)
  /-- UNFREEZE_TAKES_EFFECT, R248. -/
  | unfreezeTakesEffect (ch : Nat)
  /-- MOV_ABORT, R373. -/
  | movAbort
  /-- ABORTED, R373. -/
  | aborted
  /-- MOV_RELEASE, R373. -/
  | movRelease
  /-- FLUSH, R372. -/
  | flush (ch : Nat)
  /-- KICK, R358. -/
  | kick (ring : Nat)
  /-- BUFFER_RING_ENABLE, R355: the word written to HQ_BR_CFG. -/
  | bufferRingEnable (ring : Nat) (value : Word)
  /-- BUFFER_RING_DISABLE, R360: the word written to HQ_BR_CFG. -/
  | bufferRingDisable (ring : Nat) (value : Word)
  /-- ALERT_RING_ENABLE, R103: the word written to HQ_AR_CFG. -/
  | alertRingEnable (value : Word)
  /-- ALERT_RING_HEAD_WRITE, R103. -/
  | alertRingHeadWrite (value : Word)
  /-- HQ_AQ_CFG_WRITE, R95. -/
  | hqAqCfgWrite (value : Word)
  /-- QP_ENABLE, R93. -/
  | qpEnable (qid : Nat)
  /-- QP_DISABLE, R93. -/
  | qpDisable (qid : Nat)
  /-- LOG_STREAM_ENABLE, R304: the word written to HQ_LS_CTL. -/
  | logStreamEnable (stream : Nat) (value : Word)
  /-- SMOKE_REGION_ENABLE, R314: the word written to RLV_SMOKE_DIE. -/
  | smokeRegionEnable (value : Word)
  /-- RLV_TBL_DATA_WRITE, R271. -/
  | rlvTblDataWrite (w : Nat) (value : TblWrite)
  /-- RLV_TBL_LG_WRITE, R280. -/
  | rlvTblLgWrite (value : Word)
  /-- LIVE_WRITE, R201: the word written to CH_CTL, with LIVE = 1. -/
  | liveWrite (ch : Nat) (value : Word)
  /-- TSEL_WRITE, R200: the timing set named by the write of CH_CTL. -/
  | tselWrite (ch : Nat) (tsel : Nat)
  /-- CH_PLL_LOCK, R200. -/
  | chPllLock (ch : Nat)
  /-- WP_N_RAISE, R202. -/
  | wpNRaise (ch : Nat)
  /-- WP_N_LOWER, R202. -/
  | wpNLower (ch : Nat)
  /-- PHY_ZQ, R206: the measured resistance of the group's CALR pad, in units of 0.1 Ω. -/
  | phyZq (ch : Nat) (ohm10 : Nat)
  /-- RESET, R208. -/
  | reset (ch : Nat) (die : DieEnd)
  /-- READ_ID, R208: the bytes the die returns. -/
  | readId (ch : Nat) (die : DieEnd) (data : List Byte)
  /-- CH_OP_READ_PARAM, R208. -/
  | chOpReadParam (ch : Nat) (die : DieEnd) (data : List Byte)
  /-- CH_OP_SET_FEATURE, R208. -/
  | chOpSetFeature (ch : Nat) (die : DieEnd)
  /-- CH_OP_GET_FEATURE, R208. -/
  | chOpGetFeature (ch : Nat) (die : DieEnd) (data : List Byte)
  /-- VOLUME, R208. -/
  | volume (ch : Nat) (die : DieEnd)
  /-- DIE_ZQ, R208. -/
  | dieZq (ch : Nat) (die : DieEnd)
  /-- TRAIN, R211: the scan and the duty corrections found, as the word of CH_DCC. -/
  | train (ch : Nat) (scan : EyeEnd) (dcc : Word)
  /-- EYE, R211. -/
  | eye (ch : Nat) (scan : EyeEnd)
  /-- WGL_FIRE, R406. -/
  | wglFire (value : Word)
  /-- WGL_TMR_START, R410. -/
  | wglTmrStart (timer : Nat)
  /-- WGL_TMR_STOP, R410. -/
  | wglTmrStop (timer : Nat)
  /-- READ, R118: the admitted command in this slot starts. -/
  | read (slot : Nat)
  /-- READ_GATHER, R120. -/
  | readGather (slot : Nat)
  /-- SCAN, R344. -/
  | scan (slot : Nat)
  /-- PROGRAM, R122. -/
  | program (slot : Nat)
  /-- ERASE, R122. -/
  | erase (slot : Nat)
  /-- COPY, R124. -/
  | copy (slot : Nat)
  /-- LOG_APPEND, R306. -/
  | logAppend (slot : Nat)
  /-- LOG_READ, R302. -/
  | logRead (slot : Nat)
  /-- DIE_RAW, R236. -/
  | dieRaw (slot : Nat)
  /-- GET_FEATURE, R133. -/
  | getFeature (slot : Nat)
  /-- SET_FEATURE, R133. -/
  | setFeature (slot : Nat)
  /-- READ_PARAM, R134. -/
  | readParam (slot : Nat)
  /-- ERASE_SUSPEND, R127. -/
  | eraseSuspend (slot : Nat)
  /-- ERASE_RESUME, R127. -/
  | eraseResume (slot : Nat)
  /-- FENCE, R128. -/
  | fence (slot : Nat)
  /-- CALIBRATE, R135. -/
  | calibrate (slot : Nat)
  /-- ABORT, R130. -/
  | abort (slot : Nat)
  /-- CREATE_QP, R96. -/
  | createQp (slot : Nat)
  /-- DELETE_QP, R97. -/
  | deleteQp (slot : Nat)
  /-- SET_KEY_SLOT, R431. -/
  | setKeySlot (slot : Nat)
  /-- KEY_SLOT_CLEAR, R431. -/
  | keySlotClear (slot : Nat)
  /-- LOAD_SCAN_CONTEXT, R333. -/
  | loadScanContext (slot : Nat)
  /-- LOAD_MICROCODE_CUSTOMER, R242. -/
  | loadMicrocodeCustomer (slot : Nat)
  /-- LOAD_MICROCODE_ENTRY, R242. -/
  | loadMicrocodeEntry (slot : Nat)
  /-- LOAD_MICROCODE_PATCH, R242. -/
  | loadMicrocodePatch (slot : Nat)
  /-- GET_LOG, R137. -/
  | getLog (slot : Nat)
  /-- SANITIZE_CRYPTO_ERASE, R435. -/
  | sanitizeCryptoErase (slot : Nat)
  /-- SANITIZE_BLOCK_ERASE, R435. -/
  | sanitizeBlockErase (slot : Nat)
  /-- SET_PATROL, R294. -/
  | setPatrol (slot : Nat)
  /-- SET_BUDGET, R168. -/
  | setBudget (slot : Nat)
  /-- SQ_READ, R88. -/
  | sqRead
  /-- FENCE_RELEASE, R129. -/
  | fenceRelease (slot : Nat)
  /-- DISPATCH, R152. -/
  | dispatch (die : Nat)
  /-- SUSPENSION, R161. -/
  | suspension (die : Nat)
  /-- SUSPENSION_RESUME, R162. -/
  | suspensionResume (die : Nat)
  /-- BULK_AGEING, R154: the operation that ages. -/
  | bulkAgeing (op : Nat)
  /-- SEGMENT_START, R229. -/
  | segmentStart (ch : Nat)
  /-- CONTEXT_WAKE, R228. -/
  | contextWake (ch : Nat) (ctx : Nat)
  /-- MACHINE_CHECK, R245: the slices whose parity failed, and whether the word came from the branch cache. -/
  | machineCheck (ch : Nat) (slices : Nat) (fromCache : Bool)
  /-- FROZEN_TOKEN_RELEASE, R245. -/
  | frozenTokenRelease (ch : Nat)
  /-- BUS_NONE, R226. -/
  | busNone (ch : Nat)
  /-- BUS_CMD, R219. -/
  | busCmd (ch : Nat)
  /-- BUS_ADDR, R220. -/
  | busAddr (ch : Nat)
  /-- BUS_DIN, R219: the bytes taken from the die. -/
  | busDin (ch : Nat) (data : List Byte)
  /-- BUS_DOUT, R219: the bytes sent before a higher-priority transfer stopped the burst, if one did. -/
  | busDout (ch : Nat) (stop : Option Nat)
  /-- BUS_STATUS, R190: the two status transfers, and whether DQS toggled within tRPRE. -/
  | busStatus (ch : Nat) (first second : Byte) (dqs : Bool)
  /-- BUS_CELOW, R219. -/
  | busCelow (ch : Nat)
  /-- BUS_CEHIGH, R219. -/
  | busCehigh (ch : Nat)
  /-- BUS_WPSET, R219. -/
  | busWpset (ch : Nat)
  /-- BUS_VSEL, R188. -/
  | busVsel (ch : Nat)
  /-- BUS_PHYOP, R219. -/
  | busPhyop (ch : Nat)
  /-- CE_LOW_LIMIT, R239. -/
  | ceLowLimit (ch : Nat)
  /-- DIE_RAW_RUN_LIMIT, R239. -/
  | dieRawRunLimit (die : Nat)
  /-- DIE_TIMEOUT, R191. -/
  | dieTimeout (die : Nat)
  /-- HARD_DECODE_DONE, R277: the codeword, what the decoder found, and the syndrome weight. -/
  | hardDecodeDone (cw : Nat) (found : Option (List Byte)) (weight : Nat)
  /-- SOFT_DECODER_GRANT, R21. -/
  | softDecoderGrant
  /-- SOFT_DECODE_DONE, R281. -/
  | softDecodeDone (cw : Nat) (found : Option (List Byte))
  /-- XTS_GRANT, R23. -/
  | xtsGrant
  /-- STAGING_NOTICE, R371. -/
  | stagingNotice (cw : Nat)
  /-- CALIBRATION_START, R288. -/
  | calibrationStart
  /-- FORAGER_PACE, R296. -/
  | foragerPace (die : Nat)
  /-- FORAGER_PAUSE_END, R296. -/
  | foragerPauseEnd
  /-- TEMP_POLL, R273: byte P1 of FA_TEMP, or none for an invalid status. -/
  | tempPoll (ch : Nat) (target : Nat) (answer : Option Byte)
  /-- TEMP_POLL_STALE, R273. -/
  | tempPollStale (ch : Nat) (target : Nat)
  /-- COMB_UNIT_GRANT, R22. -/
  | combUnitGrant
  /-- ROW_GROUP_READY, R344. -/
  | rowGroupReady (unit : Nat)
  /-- LOADCOL, R335. -/
  | loadcol (unit : Nat)
  /-- CMP, R337. -/
  | cmp (unit : Nat)
  /-- RANGE, R337. -/
  | range (unit : Nat)
  /-- INSET, R337. -/
  | inset (unit : Nat)
  /-- ISNULL, R338. -/
  | isnull (unit : Nat)
  /-- AND, R335. -/
  | combAnd (unit : Nat)
  /-- OR, R335. -/
  | combOr (unit : Nat)
  /-- NOT, R336. -/
  | combNot (unit : Nat)
  /-- ANDN, R335. -/
  | combAndn (unit : Nat)
  /-- EMITSEL, R341. -/
  | emitsel (unit : Nat)
  /-- EMITVAL, R341. -/
  | emitval (unit : Nat)
  /-- EMITROW, R341. -/
  | emitrow (unit : Nat)
  /-- PARTITION, R342. -/
  | partition (unit : Nat)
  /-- AGG, R343. -/
  | agg (unit : Nat)
  /-- COMB_END, R344. -/
  | combEnd (unit : Nat)
  /-- CHUNK_ACCEPT, R363. -/
  | chunkAccept (unit : Nat)
  /-- BUFFER_RING_PLACE, R357. -/
  | bufferRingPlace (ring : Nat)
  /-- DESCRIPTOR_WRITE_BACK, R357. -/
  | descriptorWriteBack (ring : Nat)
  /-- BR_POLL, R358. -/
  | brPoll (ring : Nat)
  /-- BR_WAIT_EXPIRY, R358. -/
  | brWaitExpiry (ring : Nat)
  /-- DURABLE_READBACK, R368. -/
  | durableReadback (slot : Nat)
  /-- COMPLETION_WRITE, R51. -/
  | completionWrite (slot : Nat)
  /-- ALERT_RECORD_WRITE, R104. -/
  | alertRecordWrite
  /-- MODERATION_TIMER, R394. -/
  | moderationTimer (source : Nat)
  /-- NOTIFICATION_MESSAGE, R398. -/
  | notificationMessage (target : Nat)
  /-- SCRUB_STEP, R384: the bank group, the unit bits read, and who reads them (log entry 126). -/
  | scrubStep (mem inst bg : Nat) (units : List Nat) (who : MemRead)
  /-- WAGGLE_TIMER_EXPIRY, R410. -/
  | waggleTimerExpiry (timer : Nat)
  /-- LOOP_WINDOW_END, R418. -/
  | loopWindowEnd
  /-- PATROL_START, R411. -/
  | patrolStart
  /-- PATROL_STOP, R411. -/
  | patrolStop
  /-- CAL_START, R412. -/
  | calStart
  /-- ERASE_RESUME_ALL, R411. -/
  | eraseResumeAll
  /-- ERASE_SUSPEND_ALL, R411. -/
  | eraseSuspendAll
  /-- DISPATCH_RELEASE, R411. -/
  | dispatchRelease
  /-- DISPATCH_HOLD, R413. -/
  | dispatchHold
  /-- SNAPSHOT, R414. -/
  | snapshot
  /-- WAKE, R411. -/
  | wake
  /-- TIMER_START, R410. -/
  | timerStart (timer : Nat)
  /-- TIMER_STOP, R410. -/
  | timerStop (timer : Nat)
  /-- GRP_ENABLE, R415. -/
  | grpEnable (group : Nat)
  /-- GRP_DISABLE, R415. -/
  | grpDisable (group : Nat)
  /-- REGISTER_PAIR_HI_READ, R15. -/
  | registerPairHiRead (master : Master) (offset : Nat)
  /-- PLOSS_N_RISE, R408. -/
  | plossNRise
  /-- OPTION_HEADER_TAKEN, R425: bytes 0 to 7. -/
  | optionHeaderTaken (header : List Byte)
  /-- MPORT_WAKE, R62: MPORT makes a request in P2 that no other row carries: a read of offset 0 (log entry 125). -/
  | mportWake
  /-- KCLK_RESTART, R438. -/
  | kclkRestart
  /-- MEMORY_BIST, R470, and the other uses of the test port (R75). -/
  | memoryBist (use : TestUse)
  deriving DecidableEq, Repr

end Sys2Proof
end

