-- ==== Sys2Proof/Decode.lean ====
section
/-!
DEFINITION. The opcode table of this block gives bits to none of its rows: its rows are steps of the part, and
what comes from outside is operands, not words. So no word spells a command.
-/

namespace Sys2Proof

/-- The command a word spells: none, for any word. -/
def decodeTableWord (_nbits _w : Nat) : Option Instr := none

end Sys2Proof
end

