-- ==== Sys2Proof/Config.lean ====
section
/-!
DEFINITION. What an implementation fixes, and the values the spec leaves open.

The build configuration (R4) is a parameter of synthesis: its three values and the quantities that
depend on them are here, and `State` holds the one the machine was built as, which no step changes.

The opaque constants have no body: nothing can evaluate one, so a statement holds for every value.
-/

namespace Sys2Proof

/-- The three build configurations (R4). -/
inductive Build where
  | fc8 | fc16 | fc32
  deriving DecidableEq, Repr

namespace Config

/-- Flash channels (R4). -/
def channels : Build → Nat
  | .fc8 => 8 | .fc16 => 16 | .fc32 => 32

/-- Channel groups of eight channels (R4). -/
def groups : Build → Nat
  | .fc8 => 1 | .fc16 => 2 | .fc32 => 4

/-- Soft-decision decoders (R4). -/
def softDecoders : Build → Nat
  | .fc8 => 2 | .fc16 => 4 | .fc32 => 8

/-- Comb units (R4). -/
def combUnits : Build → Nat
  | .fc8 => 8 | .fc16 => 16 | .fc32 => 32

/-- Notifications nest by priority in FC8 and FC16, and not in FC32 (R397). -/
def nested : Build → Bool
  | .fc8 => true | .fc16 => true | .fc32 => false

/-- Command slots (R90), and those kept for QP 0. -/
def slotCount : Nat := 131072
def slotsReserved : Nat := 64

/-- A value the spec calls undefined: the n-th such value the machine meets. DESIGN CHOICE: free, log entry 3. -/
opaque freeWord : Nat → Word

/-- The Mladob ROM image of a channel group's control store, words 0 to 11,263 (R214). The manual does
not print it: free, log entry 4. -/
opaque romWord : Nat → BitVec 128

/-- Where a queue context keeps a doorbell's value (R387): 0 is the byte of D in the SQ half, 1 that of the recorded head
in the CQ half. The spec gives a context no layout: free, log entry 5. -/
opaque ctxByte : Nat → Nat

/-- The control-store address at which a Mladob routine begins, by number (R214 gives the ROM no map): free, log
entry 4. -/
opaque romStart : Nat → Nat

end Config

end Sys2Proof
end

