-- ==== Sys2Proof/Machine/State.lean ====
section
/-!
DEFINITION. The state of the block, as plain data, and the state right after reset.

Registers that software reads and writes have one home, `State.regs`, keyed by their MPORT byte offset
(18_register_map.md). Status that the block itself computes (read-only fields) lives in the structure of
the unit it belongs to, and the register read of Machine/RegRead.lean presents it. Large memories are
sparse lists keyed by address, with absent entries at the value the fill of R378 leaves.
-/

namespace Sys2Proof.Machine

/-- Why the machine stops. -/
inductive Fault where
  /-- Raised by every meaning whose operand names a unit the part does not have (a channel of 32 and above,
  a port of 4 and above, ...): the command names nothing of the block. Safe: the spec gives no such step. -/
  | noSuchUnit
  deriving DecidableEq, Repr

/-- Why the model has no meaning for a command. -/
inductive Refusal where
  /-- Raised by a dispatch arm whose command has no meaning yet. Safe. -/
  | notModelled (mnemonic : String)
  deriving DecidableEq, Repr


/-! ## Registers -/

/-- When a write takes effect (R29). -/
inductive Boundary where
  | immediate | fetch | instr | codeword
  deriving DecidableEq, Repr

/-- A register write that has been applied and is not in effect yet (R29, R36). `left` lists the places that
have not passed their boundary: channels for an instruction boundary, stages (Machine/Ops.lean) for a codeword
boundary, and the one entry 0 for a next-fetch write. A write with `act` performs an action at its boundary
instead of setting the register; `sel` tells apart the entries that one window register reaches. -/
structure PendWrite where
  bnd  : Boundary
  addr : Nat
  val  : Word
  left : List Nat
  sel  : Nat := 0
  act  : Bool := false
  deriving DecidableEq, Repr

/-- What R15 keeps for one register pair and one master. `addr` is the offset of _LO. -/
structure PairState where
  addr   : Nat
  master : Master
  staged : Option Word
  capHi  : Option Word
  deriving DecidableEq, Repr

/-- The answer the register bus or the target port gave last: DENIED or ERR, and the read data (R57, R61). -/
structure Answer where
  refused : Bool
  data    : Word
  deriving DecidableEq, Repr

/-! ## Reset, option area, power (chapter 17) -/

/-- A checked option area (R424). -/
structure OptArea where
  mask     : Word
  rpl      : Nat
  rpl2     : Bool
  idRow    : List Byte
  repair   : List Word
  defaults : List (Nat × Word)
  phyTrim  : List Byte
  deriving DecidableEq, Repr

/-- Where the block stands in lowering its protection level (R434). -/
inductive Lowering where
  | none | zeroize | rewrite | load
  deriving DecidableEq, Repr

/-- The reset sequence, the option port and the protection level. -/
structure Init where
  phase     : Nat            -- GLB_INIT_STATUS.PHASE
  err       : Nat            -- GLB_INIT_STATUS.ERR
  done      : Bool           -- INIT_DONE
  optReq    : Nat            -- OPT_REQ (R63)
  optAck    : Bool           -- the level of OPT_ACK
  armed     : Bool           -- OPT_ACK has been 0 since the request was raised (R66)
  want      : Nat := 0       -- a request that waits until OPT_ACK is 0 (R64)
  loading   : Bool           -- the bytes of an area are being taken (R64)
  header    : List Byte      -- bytes 0 to 7 once taken
  area      : Option OptArea -- the area in use since PORST_N
  pll       : Bool           -- reference PLLs locked (step 4)
  rplSec    : Nat            -- protection level of the loaded RPL section
  raised    : Bool           -- SEC_RPL_CTL.RAISE since PORST_N
  lowering  : Lowering
  keyArmed  : Bool           -- the first keyed write of R433 was the last write of SEC_RPL_REQ
  result    : Nat            -- SEC_RPL_STS.RESULT
  refuse    : Nat            -- SEC_RPL_STS.REFUSE
  kek       : List Byte      -- the key-encryption key (R430); never readable
  pllAt     : Nat := 0       -- ACLK count at which step 4 began (R422)
  deriving DecidableEq, Repr

/-- Power states (R437). P3 is the absence of supply; only PORST_N leaves it. -/
inductive PState where
  | p0 | p1 | p2
  deriving DecidableEq, Repr

structure Power where
  st       : PState
  waking   : Bool            -- a wake from P2 has started
  waitClk  : Bool            -- a WAKE task waits for KCLK (R438)
  clkStop  : Bool            -- the integrator has stopped KCLK and FCLK in P2
  wasLive  : List Nat        -- channels LIVE when P2 was entered (R213)
  mpHeld   : Option (Nat × Bool × Word) -- the MPORT request held with MP_READY at 0: offset, write, value (R62)
  filled   : Bool            -- the wake fill of R438 has ended
  idle     : Nat := 0        -- ACLK edges in a row at which conditions 1 to 3 and 5 of R436 held
  deriving DecidableEq, Repr

/-- One operation in the smoke record (R440, R441). -/
structure SmokeEntry where
  op      : Nat
  paddr   : Nat
  seq     : Nat
  qid     : Nat
  outcome : Option Nat
  opc     : Nat
  planes  : Nat
  deriving DecidableEq, Repr

structure Smoke where
  step    : Nat              -- GLB_SMOKE_STS.STEP; 0 = none
  done    : Bool
  start   : Nat              -- ACLK count at step 1
  wseq    : Nat              -- WSEQ at step 1
  seq     : Nat              -- RLV_SMOKE_SEQ of the event
  entries : List SmokeEntry
  written : Bool             -- the smoke record was written
  lines   : List (Nat × List Byte) -- the lines of the last event: (line in the region, 256 B)
  summary : Nat              -- commands completed in step 8
  deriving DecidableEq, Repr

/-! ## Pins -/

structure Pins where
  porst   : Bool             -- PORST_N is low
  srst    : Bool             -- SRST_N is low
  ploss   : Bool             -- PLOSS_N is low
  bist    : Bool             -- memory self-test ran; PORST_N is required (R75, R470)
  tgtIdle : Nat              -- TGT_IDLE after synchronisation, bit t
  temp    : List (Nat × Byte)  -- the accepted TEMP_IN byte of a group, where one was accepted (R69)
  rb      : List (Nat × Nat)   -- (channel, mask of R/B_n inputs that read high)
  tdo     : List Byte := []  -- the data last shifted out on TDO (R37, R75)
  deriving DecidableEq, Repr

/-! ## The fabric (chapter 02) -/

/-- What a request is for. -/
inductive Purpose where
  | sqRead (qid idx count : Nat)
  | cqWrite (qid idx slot : Nat)
  | dataRead (slot off : Nat)       -- host data of a PROGRAM, LOG_APPEND, DIE_RAW, or an image or a list
  | metaRead (slot off : Nat)
  | dataWrite (slot : Nat)
  | metaWrite (slot : Nat)
  | table (slot : Nat)              -- a fragment table
  | descRead (ring idx count : Nat)
  | unitData (ring slot : Nat)
  | descBack (ring slot : Nat) (first : Bool)
  | readback (slot : Nat)
  | alert
  | message (target : Nat)
  | dead                            -- a request whose owner is gone: its response is discarded
  deriving DecidableEq, Repr

/-- A request on an initiator port (R43, R45, R46). `bytes` are the write data of the span, `start` the byte
of the first line at which the span starts; `psn` the poisoned beats. -/
structure Req where
  tag    : Nat
  write  : Bool
  addr   : Nat
  beats  : Nat
  start  : Nat
  bytes  : List Byte
  psn    : List Nat
  dur    : Bool
  notify : Bool
  purpose : Purpose
  sent   : Nat := 0          -- ACLK count of its request transfer (R54)
  tfab   : Nat := 0          -- the timeout it started with, in µs (R53)
  deriving DecidableEq, Repr

/-- A tag out of use after a timeout (R55). -/
structure Quar where
  tag   : Nat
  write : Bool
  beats : Nat
  deriving DecidableEq, Repr

/-- One initiator port: the credits the block holds and the credits it has granted (R44, R48), requests
outstanding, tags quarantined, requests waiting to be transferred, and beats still to be sent. -/
structure Port where
  rqCrd : Nat
  wdCrd : Nat
  rdGrant : Nat
  wrGrant : Nat
  out   : List Req
  quar  : List Quar
  wait  : List Req
  beats : List (Nat × Nat)   -- (tag, write-data beats not yet sent)
  deriving DecidableEq, Repr

/-- The target port: credits it has granted and credits it holds for its responses (R58), and the
request held in P2 (R59). -/
structure TargetPort where
  rqGrant : Nat
  wdGrant : Nat
  rdCrd   : Nat
  wrCrd   : Nat
  held    : Option (Nat × Bool × Word)  -- offset, write, value
  rdDue   : Nat := 0         -- read answers that wait for a credit (R44)
  wrDue   : Nat := 0         -- write responses that wait for a credit (R44)
  deriving DecidableEq, Repr

/-! ## Queue pairs and commands (chapters 03, 04) -/

/-- The fields of a submission entry (R80). -/
structure Entry where
  opc   : Nat
  flags : Nat
  cid   : Nat
  lcls  : Nat
  fmt   : Nat
  kslot : Nat
  rsv0  : Nat                -- bits [31:17] of offset 0x04
  paddr : Nat
  count : Nat
  xctl  : Nat
  haddr : Nat
  aux0  : Nat
  aux1  : Nat
  aux2  : Nat
  tag   : Nat
  rsv1  : Nat                -- bits [30:0] of offset 0x3C
  phase : Bool
  deriving DecidableEq, Repr

/-- A queue pair that exists: its rings (R82, R83), doorbells (R84, R85), faults (R98), and the base and
sizes CREATE_QP or HQ_AQ_CFG gave it. -/
structure QP where
  qid    : Nat
  sqBase : Nat
  cqBase : Nat
  sqSize : Nat               -- entries
  cqSize : Nat
  port   : Nat
  head   : Nat               -- H
  expect : Bool              -- E
  bell   : Nat               -- D
  tail   : Nat               -- T
  wphase : Bool              -- W
  posted : Nat               -- the posted tail
  cqHead : Nat               -- the recorded CQ head
  fault  : Bool
  cqFault : Bool             -- the fault is on the CQ, so completions are held (R99)
  stall  : Bool              -- FETCH_STALL
  turn   : Nat               -- entries fetched in the current turn (R88)
  irqNow : Bool              -- an IRQ_NOW entry was written since the last claim (R395)
  okIdx  : List Nat          -- CQ entries written with OK and not yet posted
  deriving DecidableEq, Repr

/-- The settings of a codeword, sampled when it enters its path (R32). -/
structure CwFmt where
  fmt   : Nat
  reg   : Word               -- ECC_FMT
  salt  : Word
  laya  : Word
  layb  : Word
  deriving DecidableEq, Repr

/-- Completion status and its rank come from R138; the conditions a command has met, in the order found. -/
abbrev Status := Nat

/-- The life of a command in its slot. -/
inductive Phase where
  | held          -- by a fence, after checks 1 to 9 (R129)
  | placing (held : Bool) -- a LOG_APPEND that waits for the ledger records its placement needs (R306, R311); held by a fence at its fetch
  | listing       -- the element list or row-group list is being read, before its admission test (R159)
  | admitted      -- passed the checks; not started
  | running       -- its operations or requests have started
  | fullHeld      -- completion ready, the CQ is full (R91)
  | faultHeld     -- completion ready, held under R99
  | posting       -- the CQ entry write is outstanding
  deriving DecidableEq, Repr

/-- Settings sampled when the entry was fetched (R34, R150). -/
structure Samp where
  cls   : List Word          -- ADM_CLS[0] to ADM_CLS[7]
  bound : Nat                -- ADM_BOUND of its class, µs
  susp  : Word               -- ADM_SUSP_CFG
  age   : Nat                -- ADM_BULK_AGE
  twr   : Nat
  trb   : Nat
  clks  : Word               -- ADM_CLKS
  turns : Nat                -- the sum of T_F: entries that may be fetched before its own
  rsv   : Nat := 0           -- ADM_COMB_CFG.RSV
  deriving DecidableEq, Repr

/-- One element of a READ_GATHER list (R120). -/
structure Elem where
  paddr : Nat
  cnt   : Nat
  doff  : Nat
  deriving DecidableEq, Repr

/-- A row-group descriptor (R322). -/
structure RowGroup where
  rows    : Nat
  nseg    : Nat
  baseRow : Nat
  segs    : List Nat
  colids  : List Nat
  rsv     : Nat              -- nonzero when a reserved field or an unused slot is nonzero
  deriving DecidableEq, Repr

/-- An accumulator of a SCAN (R343, R349). -/
structure Accum where
  used  : Bool
  fn    : Nat
  sg    : Bool
  value : Int
  nrows : Nat
  empty : Bool
  deriving DecidableEq, Repr

structure Chunk where
  slot   : Nat
  ring   : Nat
  stream : Nat
  header : List Byte
  body   : List Byte
  skip   : Bool              -- not written, under SKIP_EMPTY
  deriving DecidableEq, Repr

/-- What a SCAN has done so far (R344 to R351). -/
structure ScanRun where
  groups  : List RowGroup
  next    : Nat              -- row groups whose reads have been placed
  eval    : Nat
  excl    : Nat
  pruned  : Nat
  exclIdx : List Nat
  accs    : List Accum
  seqs    : List (Nat × Nat) -- (stream, chunks so far)
  unit    : Option Nat       -- the bounded unit reserved (R176)
  ord     : Nat              -- row groups that have committed or been excluded, which orders their chunks (R344)
  late    : List (Nat × List Chunk) -- chunks of excluded row groups that wait, with their place in that order
  accBad  : Bool             -- the accumulators hold stored poison (R352): no memory of R374 holds them, so no command sets it
  deriving DecidableEq, Repr

/-- A command slot. -/
structure Slot where
  id      : Nat
  qid     : Nat
  seq     : Nat              -- the 64-bit admission sequence (R143)
  entry   : Entry
  fetched : Nat              -- ACLK count
  released : Nat             -- when admission applied (R177)
  fenced  : Bool := false    -- a fence held it, so its admission is its release (R177)
  ctxLate : Bool := false    -- SCAN fetched during a load of its context, whose new content is checked at its start (R333)
  adm     : Nat := 0         -- its place in the order of admissions
  adies   : List Nat := []   -- LOG_APPEND: the active dies fixed at its placement (R305)
  lines   : List (Nat × Nat × Nat) := [] -- LOG_APPEND: its slots: (line index, die, line of the LUN)
  samp    : Samp
  phase   : Phase
  reject  : Option Status    -- the status of the check of R111 that failed, where one did
  conds   : List Status      -- conditions of items 1 to 6 of R138, in the order found
  outc    : List Nat         -- which of items 7 to 11 applied: 0x30, 0x21, 0x04, 0x02, 0x01
  res0    : Nat
  maxBe   : Nat
  rstep   : Nat
  warn    : Bool
  retried : Bool
  psnDel  : Bool
  suspOth : Bool
  throttled : Bool
  cqHeld  : Bool
  alert   : Bool
  charged : Bool             -- holds share and tests of admission
  credits : List (Nat × Nat) -- the overtake credit C(e, d) each of its entries at a die receives (R153)
  waitsOn : Nat              -- commands a FENCE waited for (R128)
  spans   : List (Nat × Nat) -- host spans known so far: (address, length)
  tblDone : Bool             -- the entry with LAST has been read, or there is no table
  tblNext : Nat              -- address of the table being read
  tblSeen : List Nat         -- the last tables visited
  hops    : Nat
  bytesIn : Nat              -- host data read with OK
  bytesOut : Nat             -- host data covered by write requests issued
  data    : List (Nat × List Byte)  -- host data read: (offset, bytes)
  mdata   : List (Nat × List Byte)  -- host metadata read
  outq    : List (Nat × List Byte × Bool) -- output whose host span is not known yet: (offset, bytes, poisoned)
  stageNo : Nat              -- STAGE, RING and REASON of R367
  ringNo  : Nat
  reason  : Nat
  noWrite : Bool             -- no further host write (R138, R366)
  lastLine : Option (Nat × Bool) -- line of the last write request, and whether it was poisoned
  lastPort : Nat
  readback : Nat             -- 0 none, 1 outstanding, 2 passed
  report  : Bool             -- a COMMAND_EXT or CALIBRATION_DONE record is pending before the completion
  reported : Bool            -- that record has been raised
  enc     : List (Nat × List Byte) -- encoded codewords or lines in program staging
  cfgs    : List (Nat × CwFmt) := [] -- their settings, sampled at write step 3 (R32)
  wseq    : Option Nat       -- the write sequence its program operation took (R253)
  elems   : List Elem
  scan    : Option ScanRun
  done    : Nat              -- pages programmed, lines verified, LUNs swept
  placed  : Option (Nat × Nat × Nat × List Nat) -- LOG_APPEND: first row, column, ACTIVE, skip offsets
  todo    : List Nat         -- COPY pages, LOG_APPEND lines, SANITIZE blocks not yet placed
  calFirst : Nat            -- CALIBRATE: die of the first visit, and LUNs with a NO_VALLEY level
  calNoVal : Nat
  ready   : Nat              -- order in which the completion became ready
  latu    : Nat              -- LATU once ready (R180)
  cqIdx   : Nat              -- index of its CQ entry once written
  status  : Status           -- the completion's status once ready
  deriving DecidableEq, Repr

/-! ## Alert ring (R103 to R105) -/

structure Record where
  typ   : Nat
  src   : Nat
  info0 : Nat
  info1 : Nat
  info2 : Nat
  time  : Nat
  owner : Option Nat         -- the slot whose completion waits for it (R108, R292)
  deriving DecidableEq, Repr

structure AlertRing where
  tail  : Nat
  wphase : Bool
  lost  : Bool
  out   : Option Record      -- the record whose write is outstanding
  queue : List Record
  deriving DecidableEq, Repr

/-! ## Operations at the dies (chapters 05, 09) -/

inductive Owner where
  | cmd (slot : Nat)
  | forager
  | cal (k : Nat)
  | ledger (die seg : Nat)
  | smoke
  deriving DecidableEq, Repr

inductive OpKind where
  | read | program | erase | lineRead | lineWrite | exclusive | calRead
  deriving DecidableEq, Repr

inductive StepKind where
  | first
  | ladder (s : Nat)
  | soft (s : Nat)           -- 1 to 4
  | again (n : Nat)          -- extra attempt of a line write
  deriving DecidableEq, Repr

inductive OpStage where
  | queued | dispatched | confirmed | suspended | done
  deriving DecidableEq, Repr

/-- One operation (R151). -/
structure Op where
  id      : Nat
  owner   : Owner
  kind    : OpKind
  die     : Nat
  cls     : Nat              -- 0 to 7; 8 for forager, calibration and ledger
  seq     : Nat
  paddr   : Nat
  fmt     : Nat              -- the format of a Class N page
  planes  : Nat
  cws     : List (Nat × Nat) -- (index in the command, PADDR) of the codewords or lines it moves
  step    : StepKind
  stage   : OpStage
  placed  : Nat              -- ACLK count of placement
  aged    : Bool
  susp    : Nat              -- suspensions used
  expl    : Bool             -- explicitly suspended (R127)
  resume  : Bool             -- a RESUME has been accepted and not sent
  wantSusp : Option Nat      -- slot of the ERASE_SUSPEND that waits for it
  wantRes : Option Nat       -- slot of the ERASE_RESUME that waits for it
  wantAlso : List Nat := []  -- slots of further ERASE_SUSPENDs that wait for the same suspension
  suspReads : Nat            -- array reads dispatched during this suspension
  suspSeq : Nat              -- the commands admitted when this suspension began
  stgWait : Bool             -- counted in CMB_STAGE_WAIT_CNT
  tokens  : Nat
  rsv     : Bool             -- tokens are drawn from the reserve
  waited  : Bool             -- counted in ADM_THROTTLE_CNT
  ran     : Nat              -- ACLK count at which it started or last resumed
  failed  : Bool             -- the die reported FAIL
  offs    : List (Nat × Int) -- offsets applied, by slot of the read-level entry
  image   : List Byte        -- bytes to send for a program, a line write or features
  cfgs    : List CwFmt := [] -- the settings of the codewords in the image (R32)
  credit  : Nat := 0         -- its overtake credit left (R153)
  front   : List Nat := []   -- the commands ahead of it at its die when it was placed (R153)
  behind  : List Nat := []   -- operations of other dies of its channel whose transfers stay ahead of its own (R153, R156)
  burst   : Bool := false    -- a burst of it waits for its transfer cost (R165)
  spent   : Nat := 0         -- µs it ran before it was last suspended (R191)
  endSt   : Option Nat := none -- the status it ends with once its Reset LUN has ended (R239)
  reports : List Nat := []   -- the reports 2 to 6 its routine has made (R225)
  feat    : List (Nat × List Byte) := [] -- Set Features due before the read: address and P1 to P4 (R275)
  ready   : Bool             -- the die has reported ready after the confirm cycle
  bad     : Bool             -- a word of the image holds stored poison (R369)
  deriving DecidableEq, Repr

/-! ## Channels and sequencers (chapters 06, 07) -/

/-- One context of a sequencer (R227). -/
structure Ctx where
  id     : Nat               -- target × 4 + LUN
  pc     : Nat               -- resume address, or the address of the next word
  g      : List Word         -- G0 to G11
  c      : List Nat          -- C0 to C3
  sr     : Byte
  srValid : Bool
  zero   : Bool
  neg    : Bool
  part   : Bool
  wokeRb : Bool
  stack  : List Nat
  asleep : Bool
  sidx   : Nat               -- parameter of the sleep
  ready  : Bool              -- waits for the sequencer (R228)
  urgent : Bool              -- its segment suspends or resumes and ranks first (R229)
  op     : Option Nat        -- the operation it serves
  cust   : Option Nat        -- customer entry, for a DIE_RAW routine
  moved  : Nat               -- bytes a customer routine has moved
  post   : Nat               -- status of the last POST
  got    : List Byte         -- bytes of the transfer record received
  badSt  : Nat               -- consecutive invalid statuses (R190)
  events : Nat               -- events latched at the last boundary: bit k = condition 16 + k
  tset   : Nat := 0          -- the timing set sampled when the routine was entered (R33)
  fresh  : Bool := true      -- the routine has not been entered yet
  start  : Nat := 0          -- ACLK count at which it was entered (R239)
  sleptAt : Nat := 0         -- ACLK count at which it fell asleep (R228)
  sent   : Nat := 0          -- bytes sent to the die
  plane  : Nat := 0          -- planes of a multi-plane operation already sent (R192)
  last   : Nat := 256        -- the last command byte; 256 before the first
  addr   : List Byte := []   -- address bytes since that command
  burst  : Bool := false     -- the die stands ready for the data burst of that command (R192)
  deriving DecidableEq, Repr

/-- Why a channel operation of R207 runs: the word of CH_OP and the word of CH_OP_ARG, as sampled. -/
structure ChOp where
  word : Word
  arg  : Word
  tset : Nat := 0            -- the timing set sampled when the routine was entered (R33)
  begun : Nat := 0           -- ACLK count at which it began
  fresh : Bool := false      -- its first instruction has not run
  deriving DecidableEq, Repr

structure Chan where
  id      : Nat
  notLive : Nat
  pll     : Bool             -- PLL_LOCK
  zqOk    : Bool
  trained : Bool
  frozen  : Bool
  unfrz   : Bool             -- UNFRZ_PEND
  frozenTok : Bool           -- tokens of confirmed operations are still held (R245)
  wp      : Bool             -- level driven on WP_n
  wpFall  : Option Nat       -- WP_REL = 0 written; commands admitted before this sequence must finish
  op      : Option ChOp      -- BUSY
  opRes   : Nat
  opBytes : Nat
  pbuf    : List Byte
  eyeValid : Bool
  eyeW    : Nat
  eyeH    : Nat
  eyeTemp : Byte
  eyeLane : Nat
  keepRx  : Option (List Nat)  -- kept window widths (R211)
  keepTx  : Option (List Nat)
  volSel  : List (Nat × Nat) -- (CE_n line, volume last selected) (R188)
  ceLow   : Option Nat       -- the CE_n line asserted
  run     : Option Nat       -- the context that runs
  ctxs    : List Ctx
  cache   : List (Nat × BitVec 132) -- branch cache, most recent first (R232)
  lastHit : Bool             -- the word to execute comes from the branch cache
  mc      : Nat              -- SEQ_MC
  cfReason : Nat             -- SEQ_CFAULT
  cfAddr  : Nat
  cfEntry : Nat
  flushing : Bool
  opened  : List Byte        -- bytes of the last burst to the die
  cycles  : List (Nat × Byte) -- command (1) and address (2) cycles since CE_n fell, oldest first
  resetDue : List Nat        -- LUN contexts whose Reset LUN has not ended (R191, R239)
  zq      : List Byte := []  -- pull-up and pull-down codes of the last successful calibration (R206)
  ceK     : Nat := 0         -- KCLK cycles of bus time and waits since CE_n fell (R239)
  ceAt    : Nat := 0         -- ACLK count at which CE_n fell
  ceBy    : Nat := 64        -- the context that made it fall
  frozeAt : Nat := 0         -- ACLK count of the freeze (R245)
  deriving DecidableEq, Repr

/-- One control store (R214 to R216) and its entry table (R235). Words not listed hold what the fill left:
the ROM image below 11,264, zero above. -/
structure Store where
  words   : List (Nat × BitVec 132)
  entries : List (Nat × List Byte)
  restoring : Bool
  csErr   : Bool
  deriving DecidableEq, Repr

/-! ## Codewords in the read path (chapters 08, 09, 13) -/

inductive CwStage where
  | raw          -- in decode staging, before or under a hard decode
  | failed       -- waits for a recovery step
  | softWait     -- waits for a pooled decoder (R21)
  | softRun
  | xtsWait      -- waits for an XTS engine (R23)
  | decoded      -- in the staging queue, complete (R371)
  deriving DecidableEq, Repr

structure Cw where
  id     : Nat
  owner  : Owner
  ch     : Nat
  paddr  : Nat
  idx    : Nat               -- index in the command
  cfg    : CwFmt
  stage  : CwStage
  first  : Bool              -- no recovery step has been taken
  hard   : List Byte         -- the descrambled hard read it is decoded from
  raw    : List Byte         -- that read, as sensed
  reads  : List (Nat × Nat × List Byte × List (Nat × Int)) -- its hard reads: operation, syndrome weight, bytes, offsets (R281)
  data   : List Byte         -- decoded bytes
  be     : Nat
  lad    : Option Nat        -- the ladder step of its last read
  passed : Nat               -- order in which it became complete in the staging queue
  bad    : Option Nat        -- a word of it holds stored poison: the beat of that word (R370, R385)
  bcw    : Nat := 0          -- CMB_STAGE.BCW as sampled with it (R32, R36)
  deriving DecidableEq, Repr

/-- Recovery of one page of one command (R278 to R282). -/
structure Recov where
  owner  : Owner
  page   : Nat               -- PADDR with CW 0
  taken  : Nat               -- ladder steps taken
  start  : Nat               -- the last good step at its start
  soft   : Nat               -- soft steps taken
  steps  : Nat
  centre : Option Nat        -- the operation of the centre read, once the soft phase has begun (R281)
  deriving DecidableEq, Repr

/-! ## Read levels, calibration, forager, ledger (chapters 09, 10) -/

structure TrackUnit where
  die : Nat
  grp : Nat
  cls : Nat
  up  : Nat
  dn  : Nat
  n   : Nat
  cool : Nat
  last : Int
  deriving DecidableEq, Repr

structure CalSlot where
  k      : Nat
  slot   : Option Nat        -- the command; none for CAL_START
  die    : Nat
  level  : Nat
  point  : Nat
  page   : Nat
  mask   : Nat
  left   : Nat               -- visits still to make
  cfg    : Word              -- RLV_CAL_CFG as sampled for the LUN
  centre : Int
  temp   : Int
  prev   : List Byte         -- raw data of the previous read
  diffs  : List Nat
  visit  : Nat               -- visits made
  swept  : Nat
  noVal  : Nat               -- LUNs with a NO_VALLEY level
  first  : Nat               -- die of the first visit
  widths : List (Nat × Nat)  -- results of the visit: (level, WIDTH)
  newoff : List (Nat × Int)
  novl   : Nat
  edge   : Nat
  start  : Nat              -- ACLK count at its start
  ended  : Bool             -- the sweep has ended; the slot stays busy until the command finishes (R288)
  deriving DecidableEq, Repr

/-- A range of the forager's list (R295). -/
structure FgRange where
  paddr  : Nat
  nblk   : Nat
  npage  : Nat
  fmt    : Nat
  stride : Nat
  deriving DecidableEq, Repr

/-- A page the forager is reading: codewords not yet decided, and what its record will say (R298). -/
structure FgPage where
  page    : Nat
  fmt     : Nat
  left    : Nat
  refresh : Nat
  bad     : Nat
  most    : Nat
  steps   : Nat
  deriving DecidableEq, Repr

structure Forager where
  run     : Bool
  waiting : Bool
  ranges  : List FgRange
  listed  : Bool
  pos     : Nat
  total   : Nat
  passes  : Nat              -- passes started since reset
  at_     : List (Nat × Nat × Nat × Nat) -- per die: (die, range index, block offset, page offset) to read next; the index is the list's length once the die has finished
  pages   : List FgPage      -- pages being read
  lastAt  : List (Nat × Nat) -- per die: (die, ACLK count at its last page read's dispatch) (R296)
  waitAt  : Nat              -- ACLK count at the end of the last pass
  deriving DecidableEq, Repr

/-- A cached ledger record (R310, R311). -/
structure Ledger where
  die    : Nat
  seg    : Nat
  loaded : Bool
  count  : Nat
  alarm  : Bool
  full   : Bool
  failed : List Nat
  dirty  : Bool
  stream : Nat
  deriving DecidableEq, Repr

structure Rlv where
  table  : List (Nat × Int)  -- slot of an entry: ((d × 16 + g) × 4 + k) × 16 + s
  good   : List (Nat × Nat)  -- last good step: (d × 16 + g) × 5 + class
  units  : List TrackUnit
  temps  : List (Nat × Byte × Bool)  -- (ch × 16 + t, TEMP, SRC) of the targets whose sensor answered
  tIn    : List Nat          -- groups whose TEMP_IN has been accepted since reset or wake
  polled : List (Nat × Nat)  -- (ch × 16 + t, ACLK count of the last poll)
  pollGood : List (Nat × Nat) -- (ch × 16 + t, ACLK count of the last poll that succeeded)
  applied : List (Nat × Nat × Int)   -- offsets last applied to a LUN: (die, slot, value)
  cals   : List CalSlot
  calWait : List (Option Nat × Nat × Nat × Nat) -- commands, or CAL_START with its template (PADDR, count, levels), that wait for a slot
  fg     : Forager
  ledger : List Ledger
  lsSet  : List (Nat × List Nat) -- active set of a stream's last placement (R306)
  lsLast : List (Nat × Nat)  -- (stream, line of the LUNs that is the last row placed) (R311)
  lsBad  : List Nat          -- streams whose last EN write was refused
  deriving DecidableEq, Repr

/-! ## Comb units (chapters 11, 12) -/

/-- A column image of a unit (R335): what predicates need of its header, and its rows. -/
structure Column where
  k      : Nat
  signed : Bool
  nulls  : Bool
  rows   : List (Option Nat)
  deriving DecidableEq, Repr

structure CombUnit where
  u      : Nat
  slot   : Option Nat        -- the SCAN whose row group it holds
  rg     : Nat
  segs   : List (Nat × List Byte) -- segments taken: (slot k, 4,096 B)
  cols   : List Column
  bits   : List Nat          -- S0 to S7 as bit masks
  pc     : Nat
  running : Bool
  emits  : List (Nat × Nat × Nat × Nat × List Byte) -- (stream, kind and width code, items, nskip, payload)
  accs   : List (Nat × Accum)
  commit : Option (List Chunk) -- chunks that wait for the output store (R363)
  ord    : Nat              -- the place of its commit in the order of its SCAN
  deriving DecidableEq, Repr

/-! ## Buffer rings (chapter 13) -/

/-- A unit for a buffer ring: a chunk or a LOG_READ's data. -/
structure BrUnit where
  slot   : Nat
  stream : Nat
  kind   : Nat
  bytes  : List Byte
  psn    : List Nat          -- 64-B beats written with poison
  hole   : List Nat          -- 64-B beats that are not written (R369)
  gen    : Nat               -- KiB it uses in the general part of the output store, ×64 B
  bnd    : Nat
  bad    : Bool              -- a word of it in the output store holds stored poison (R385)
  deriving DecidableEq, Repr

structure Descr where
  idx  : Nat
  addr : Nat
  len  : Nat
  deriving DecidableEq, Repr

structure BufRing where
  r       : Nat
  active  : Bool
  head    : Nat
  starved : Bool
  fault   : Bool
  freason : Nat
  units   : List BrUnit      -- first = the one being placed
  taken   : List Descr       -- descriptors taken for it
  phase   : Nat              -- 0 idle, 1 reading, 2 writing data, 3 writing back the rest, 4 writing back the first
  waited  : Bool             -- counted in HQ_BR_STARVE_CNT
  again   : Bool             -- a KICK came while a read was outstanding
  closing : Bool             -- EN = 0 waits for the unit boundary
  since  : Nat              -- ACLK count at which the unit began to wait (R358)
  readAt : Nat              -- ACLK count of the last descriptor read
  deriving DecidableEq, Repr

structure Mover where
  aborting : Bool
  aborted  : Bool
  ostGen   : Nat             -- output store in use, in 64 B lines
  ostBnd   : Nat
  ostPend  : Option Word     -- a value of MOV_OSTORE_CFG not yet taken
  deriving DecidableEq, Repr

/-! ## Memory protection (chapter 14) -/

structure CeEntry where
  i     : Nat
  mem   : Nat
  inst  : Nat
  addr  : Nat
  syn   : Nat
  hits  : Nat
  sticky : Bool
  wb    : Bool
  scrub : Bool
  born  : Nat                -- order of creation
  deriving DecidableEq, Repr

structure Mem where
  log    : List CeEntry
  births : Nat
  poison : List (Nat × Nat × Nat)      -- units with stored poison: (mem, inst, addr)
  rrep   : List (Nat × Word)           -- runtime entries: ((mem × 32 + inst) × 16 + bg) × 8 + e
  spares : List (Nat × Nat × Nat × Nat) -- rows replaced: (mem, inst, bg, row)
  scrubAt : List (Nat × Nat)           -- next address per bank group: (mem × 32 + inst) × 16 + bg
  passed : List Nat                    -- bank groups that have completed the current pass
  passAt : List (Nat × Nat)            -- ACLK count at which a bank group's pass started, where one has ended since the fill
  fillAt : Nat                         -- ACLK count of the last fill
  deriving DecidableEq, Repr

/-! ## Notification controller (chapter 15) -/

structure Src where
  s      : Nat
  n      : Nat
  timer  : Option Nat        -- ACLK edges since the event that started it, when it runs
  fired  : Bool              -- the moderation timer has reached TIME
  ready  : Bool
  latch  : Bool              -- edge sources
  active : Option Nat        -- the target that serves it
  route  : Option Nat
  lastT  : Option Nat        -- the target that last claimed it
  deriving DecidableEq, Repr

structure Tgt where
  t      : Nat
  stack  : List (Nat × Nat)  -- (source, priority it raised RUN to), top first; at most one in FC32
  msgErr : Bool
  due    : Bool              -- a message is to be sent
  out    : Bool              -- a message write is outstanding
  cands  : List Nat          -- its candidates at the last KCLK
  deriving DecidableEq, Repr

structure Ntf where
  srcs : List Src
  tgts : List Tgt
  int  : Nat                 -- INT_OUT[7:0] as held in P2 (R67)
  deriving DecidableEq, Repr

/-! ## Waggle fabric (chapter 16) -/

structure WTimer where
  k    : Nat
  run  : Bool
  elapsed : Nat
  arm  : Bool                -- a write of START waits for the next ACLK edge (R410)
  deriving DecidableEq, Repr

structure Wgl where
  unarmed : List Nat         -- producers that have fired and not re-armed
  timers  : List WTimer
  counts  : List (Nat × Nat) -- firings of a channel in the window
  soft    : List Nat         -- channels with a WGL_FIRE write in the window
  latch   : List (Nat × Nat) -- task latches set: (task, channel)
  heldT   : List Nat         -- tasks held in P2, WGL_HELD
  loopRec : List Record      -- WAGGLE_LOOP records that wait for P0 (R419)
  calBusy : Bool
  deriving DecidableEq, Repr

/-! ## Keys, contexts, SANITIZE -/

structure Sanitize where
  busy  : Bool
  mode  : Nat
  total : Nat
  ended : Nat
  log   : List Nat           -- log 0x10: PADDRs of failed blocks
  deriving DecidableEq, Repr

/-- The whole state of the block. -/
structure State where
  pending : List Instr       -- commands that wait, first in first out
  build   : Build
  aclk    : Nat              -- ACLK count since reset, µs
  free    : Nat              -- the model's own: undefined values met so far
  regs    : List (Nat × Word)
  pend    : List PendWrite
  pairs   : List PairState
  answer  : Answer           -- last answer on the register bus
  tpAnswer : Answer          -- last answer on the target port
  init    : Init
  power   : Power
  smoke   : Smoke
  pins    : Pins
  ports   : List Port        -- initiator ports 0 to 3
  target  : TargetPort
  qps     : List QP
  lastQp  : Nat              -- the queue pair that had the last fetch turn (R88)
  turnOn  : Bool             -- that turn has not ended
  admSeq  : Nat              -- next 64-bit admission sequence
  adms    : Nat              -- commands admitted so far
  slots   : List Slot
  readyNo : Nat              -- completions that have become ready so far
  alert   : AlertRing
  ops     : List Op
  opNo    : Nat
  chans   : List Chan
  stores  : List Store       -- one per channel group
  cws     : List Cw
  cwNo    : Nat
  recov   : List Recov
  xtsTurn : Nat              -- the channel that had the last XTS grant (R23)
  rlv     : Rlv
  units   : List CombUnit
  scanCtx : List (Nat × List Byte)  -- scan contexts that are not empty
  keys    : List (Nat × List Byte)  -- key slots that are loaded
  san     : Sanitize
  rings   : List BufRing     -- buffer rings whose state is not that of reset
  mover   : Mover
  mem     : Mem
  ntf     : Ntf
  wgl     : Wgl
  deriving DecidableEq, Repr

/-! ## Reset -/

def Init.reset : Init :=
  { phase := 0, err := 0, done := false, optReq := 0, optAck := false, armed := false, loading := false,
    header := [], area := none, pll := false, rplSec := 1, raised := false, lowering := .none,
    keyArmed := false, result := 0, refuse := 0, kek := [] }

def Power.reset : Power :=
  { st := .p0, waking := false, waitClk := false, clkStop := false, wasLive := [], mpHeld := none, filled := false }

def Smoke.reset : Smoke :=
  { step := 0, done := false, start := 0, wseq := 0, seq := 0, entries := [], written := false, lines := [], summary := 0 }

def Pins.reset : Pins :=
  { porst := false, srst := false, ploss := false, bist := false, tgtIdle := 0, temp := [], rb := [] }

def Port.reset : Port :=
  { rqCrd := 0, wdCrd := 0, rdGrant := 0, wrGrant := 0, out := [], quar := [], wait := [], beats := [] }

def TargetPort.reset : TargetPort :=
  { rqGrant := 0, wdGrant := 0, rdCrd := 0, wrCrd := 0, held := none }

/-- QP 0 always exists (R102). Before HQ_AQ_CFG is written it has the rings that a zero HQ_AQ_CFG describes. -/
def QP.fresh (qid : Nat) : QP :=
  { qid := qid, sqBase := 0, cqBase := 0, sqSize := 16, cqSize := 16, port := 0, head := 0, expect := true,
    bell := 0, tail := 0, wphase := true, posted := 0, cqHead := 0, fault := false, cqFault := false,
    stall := false, turn := 0, irqNow := false, okIdx := [] }

def AlertRing.reset : AlertRing :=
  { tail := 0, wphase := true, lost := false, out := none, queue := [] }

def Chan.reset (ch : Nat) : Chan :=
  { id := ch, notLive := 0, pll := false, zqOk := false, trained := false, frozen := false,
    unfrz := false, frozenTok := false, wp := false, wpFall := none, op := none, opRes := 0, opBytes := 0,
    pbuf := [], eyeValid := false, eyeW := 0, eyeH := 0, eyeTemp := 0, eyeLane := 0, keepRx := none,
    keepTx := none, volSel := [], ceLow := none, run := none, ctxs := [], cache := [], lastHit := false,
    mc := 0, cfReason := 0, cfAddr := 0, cfEntry := 0, flushing := false, opened := [],
    cycles := [], resetDue := [] }

def Store.reset : Store :=
  { words := [], entries := [], restoring := false, csErr := false }

def Forager.reset : Forager :=
  { run := false, waiting := false, ranges := [], listed := false, pos := 0, total := 0, passes := 0,
    at_ := [], pages := [], lastAt := [], waitAt := 0 }

def Rlv.reset : Rlv :=
  { table := [], good := [], units := [], temps := [], tIn := [], polled := [], pollGood := [], applied := [], cals := [], calWait := [],
    fg := Forager.reset, ledger := [], lsSet := [], lsLast := [], lsBad := [] }

def CombUnit.reset (u : Nat) : CombUnit :=
  { u := u, slot := none, rg := 0, segs := [], cols := [], bits := [], pc := 0, running := false, emits := [],
    accs := [], commit := none, ord := 0 }

def BufRing.reset (r : Nat) : BufRing :=
  { r := r, active := false, head := 0, starved := false, fault := false, freason := 0, units := [], taken := [],
    phase := 0, waited := false, again := false, closing := false, since := 0, readAt := 0 }

def Mover.reset : Mover :=
  { aborting := false, aborted := false, ostGen := 0, ostBnd := 0, ostPend := none }

def Mem.reset : Mem :=
  { log := [], births := 0, poison := [], rrep := [], spares := [], scrubAt := [], passed := [], passAt := [], fillAt := 0 }

def Ntf.reset : Ntf := { srcs := [], tgts := [], int := 0 }

def Wgl.reset : Wgl :=
  { unarmed := [], timers := [], counts := [], soft := [], latch := [], heldT := [], loopRec := [],
    calBusy := false }

def Sanitize.reset : Sanitize := { busy := false, mode := 0, total := 0, ended := 0, log := [] }

/-- The machine of a build right after reset: PORST_N asserted (R72), every register at its reset value
(18_register_map.md), nothing in flight. PORST_N_RELEASE then starts the reset sequence. -/
def State.resetOf (b : Build) : State :=
  { pending := [], build := b, aclk := 0, free := 0, regs := [], pend := [], pairs := [],
    answer := { refused := false, data := 0 }, tpAnswer := { refused := false, data := 0 },
    init := Init.reset, power := Power.reset, smoke := Smoke.reset,
    pins := { Pins.reset with porst := true },
    ports := [Port.reset, Port.reset, Port.reset, Port.reset], target := TargetPort.reset,
    qps := [QP.fresh 0], lastQp := 1023, turnOn := false, admSeq := 0, adms := 0, slots := [], readyNo := 0, alert := AlertRing.reset,
    ops := [], opNo := 0, chans := [], stores := [Store.reset, Store.reset, Store.reset, Store.reset],
    cws := [], cwNo := 0, recov := [], xtsTurn := 0, rlv := Rlv.reset, units := [], scanCtx := [], keys := [],
    san := Sanitize.reset, rings := [], mover := Mover.reset, mem := Mem.reset, ntf := Ntf.reset,
    wgl := Wgl.reset }

/-- The machine right after reset, built as FC32 (00_scope.md: figures are for FC32 unless a passage names
the configuration; log entry 1). -/
def State.reset : State := State.resetOf .fc32

end Sys2Proof.Machine
end

