-- ==== Sys2Proof/Machine/Regs.lean ====
section
/-!
DEFINITION. The register map (18_register_map.md): every register's address, reset value, access type, boundary
(R30), retention across P2, and the writable fields with the encodings the spec defines for them (R13).
`A.<register>` gives an MPORT byte offset; `Reg.table` holds one row per register of R449 to R461.
-/

namespace Sys2Proof.Machine

/-! ## Bit fields -/

/-- Bits [lo + w − 1 : lo] of a word as a number. -/
def bits (v lo w : Nat) : Nat := (v >>> lo) % 2 ^ w

/-- Bits [lo + w − 1 : lo] of a register value. -/
def fld (v : Word) (lo w : Nat) : Nat := bits v.toNat lo w

/-- Bit `i` of a number. -/
def bit (v i : Nat) : Bool := v.testBit i

/-- A signed byte. -/
def sbyte (v : Nat) : Int := if v % 256 < 128 then (v % 256 : Nat) else ((v % 256 : Nat) : Int) - 256

/-- The two's complement byte of a small integer. -/
def ubyte (v : Int) : Nat := (v % 256).toNat

/-- The value with bits [lo + w − 1 : lo] replaced. -/
def setFld (v : Word) (lo w n : Nat) : Word :=
  BitVec.ofNat 32 (v.toNat - bits v.toNat lo w * 2 ^ lo + (n % 2 ^ w) * 2 ^ lo)

/-! ## Addresses -/

namespace A
def glbVersion := 0x000000
def glbInitStatus := 0x000004
def glbInitCtl := 0x000008
def glbOptFailCnt := 0x00000C
def glbApply := 0x000010
def glbPwrCtl := 0x000020
def glbPwrSts := 0x000024
def glbSmokeCfg := 0x000030
def glbSmokeSts := 0x000034
def glbCollideCnt := 0x000040
def secId (k : Nat) := 0x010000 + 4 * k
def secOptMask := 0x010100
def secRplCtl := 0x010104
def secRplReq := 0x010108
def secRplSts := 0x01010C
def secSanSts := 0x010110
def secSanFailCnt := 0x010114
def secKsValid (j : Nat) := 0x010200 + 4 * j
def hqAqSqbLo := 0x020000
def hqAqCqbLo := 0x020008
def hqAqCfg := 0x020010
def hqArBaseLo := 0x020020
def hqArCfg := 0x020028
def hqArHead := 0x02002C
def hqArTail := 0x020030
def hqArDropCnt := 0x020034
def hqDbErrCnt := 0x020040
def hqSlotUsed := 0x020044
def hqTgtErrCnt := 0x020048
def hqBrPoll := 0x02004C
def hqQpCtl (q : Nat) := 0x021000 + 4 * q
def hqQpSts (q : Nat) := 0x022000 + 4 * q
def hqQpArb (q : Nat) := 0x023000 + 4 * q
def hqQpQuota (q : Nat) := 0x024000 + 4 * q
def hqQpCqfullCnt (q : Nat) := 0x025000 + 4 * q
def hqQpPhstallCnt (q : Nat) := 0x026000 + 4 * q
def hqLsCtl (s : Nat) := 0x027000 + 64 * s
def hqLsDie (s j : Nat) := 0x027004 + 64 * s + 4 * j
def hqLsReg (s : Nat) := 0x027014 + 64 * s
def hqLsTail (s : Nat) := 0x027018 + 64 * s
def hqLsAseq (s : Nat) := 0x02701C + 64 * s
def hqLsSts (s : Nat) := 0x027020 + 64 * s
def hqBrBaseLo (r : Nat) := 0x028000 + 32 * r
def hqBrCfg (r : Nat) := 0x028008 + 32 * r
def hqBrHead (r : Nat) := 0x02800C + 32 * r
def hqBrKick (r : Nat) := 0x028010 + 32 * r
def hqBrSts (r : Nat) := 0x028014 + 32 * r
def hqBrStarveCnt (r : Nat) := 0x028018 + 32 * r
def admBound (c : Nat) := 0x030000 + 4 * c
def admCls (c : Nat) := 0x030020 + 4 * c
def admSuspCfg := 0x030040
def admBulkAge := 0x030044
def admTwr := 0x030048
def admTrb := 0x03004C
def admClks := 0x030050
def admCombCfg := 0x030054
def admRailBudget (g : Nat) := 0x030100 + 16 * g
def admRailCost (g : Nat) := 0x030104 + 16 * g
def admRailHeld (g : Nat) := 0x030108 + 16 * g
def admThrottleCnt (g : Nat) := 0x03010C + 16 * g
def admRefuseCnt (c : Nat) := 0x030200 + 4 * c
def admBreachCnt (c : Nat) := 0x030220 + 4 * c
def admLateCnt (c : Nat) := 0x030240 + 4 * c
def ntfSrcCfg (s : Nat) := 0x040000 + 4 * s
def ntfSrcEn (t j : Nat) := 0x042000 + 0x100 * t + 4 * j
def ntfTgtAddrLo (t : Nat) := 0x046000 + 16 * t
def ntfTgtData (t : Nat) := 0x046008 + 16 * t
def ntfTgtCtl (t : Nat) := 0x04600C + 16 * t
def ntfMsgCnt := 0x046400
def ntfMsgErrCnt := 0x046404
def ntfEmptyClaimCnt := 0x046408
def ntfCmplErrCnt := 0x04640C
def ntfClaim (t : Nat) := 0x048000 + 0x40 * t
def ntfComplete (t : Nat) := 0x048004 + 0x40 * t
def ntfTgtSts (t : Nat) := 0x048008 + 0x40 * t
def wglPmap (p : Nat) := 0x050000 + 4 * p
def wglTcmap (k : Nat) := 0x050100 + 4 * k
def wglChEn := 0x050200
def wglFire := 0x050204
def wglLoopCfg := 0x050208
def wglLoopSts := 0x05020C
def wglOvr (j : Nat) := 0x050210 + 4 * j
def wglHeld (j : Nat) := 0x050218 + 4 * j
def wglDisp := 0x050220
def wglGrpCtl := 0x050224
def wglSts := 0x050228
def wglSnapSeq := 0x05022C
def wglOvrCnt := 0x050230
def wglCoincCnt := 0x050234
def wglCalPaddrLo := 0x050238
def wglCalCtl := 0x050240
def wglDrdyMask (ch : Nat) := 0x050300 + 4 * ch
def wglTempTh (g : Nat) := 0x050380 + 4 * g
def wglRingCfg (k : Nat) := 0x050390 + 4 * k
def wglTmrCfg (k : Nat) := 0x0503A0 + 8 * k
def wglTmrCtl (k : Nat) := 0x0503A4 + 8 * k
def wglTmrSts (k : Nat) := 0x050400 + 4 * k
def wglSnapSrc (k : Nat) := 0x050440 + 4 * k
def wglSnap (k : Nat) := 0x050480 + 4 * k
def wglFireCnt (c : Nat) := 0x050500 + 4 * c
def movCtl := 0x060000
def movSts := 0x060004
def movOstoreCfg := 0x060008
def movOstoreUsed := 0x06000C
def movPsnCnt := 0x060010
def movTfab (p : Nat) := 0x060100 + 16 * p
def movToCnt (p : Nat) := 0x060104 + 16 * p
def movLateCnt (p : Nat) := 0x060108 + 16 * p
def movStrayCnt (p : Nat) := 0x06010C + 16 * p
def movSqCtl (ch : Nat) := 0x061000 + 32 * ch
def movSqSts (ch : Nat) := 0x061004 + 32 * ch
def movSqCwCnt (ch : Nat) := 0x061008 + 32 * ch
def movSqCorrCnt (ch : Nat) := 0x06100C + 32 * ch
def movSqFlushCnt (ch : Nat) := 0x061010 + 32 * ch
def memScrubCfg := 0x070000
def memSts := 0x070004
def memRrepSel := 0x070008
def memRrepData (e : Nat) := 0x070010 + 4 * e
def memCeCnt := 0x070040
def memUeCnt := 0x070044
def memCeLostCnt := 0x070048
def memFillErrCnt := 0x07004C
def memRepOvfCnt := 0x070050
def memRlvPsnCnt := 0x070054
def memScrubPassCnt := 0x070058
def memScrubLateCnt := 0x07005C
def memCelA (i : Nat) := 0x070100 + 8 * i
def memCelB (i : Nat) := 0x070104 + 8 * i
def eccFmt (f : Nat) := 0x080000 + 8 * f
def eccFmtSalt (f : Nat) := 0x080004 + 8 * f
def eccLayoutA (k : Nat) := 0x080100 + 8 * k
def eccLayoutB (k : Nat) := 0x080104 + 8 * k
def eccCtl := 0x080200
def eccWseqLo := 0x080204
def eccErasedCnt := 0x080210
def eccMiscorCnt := 0x080214
def eccStampCnt := 0x080218
def eccLineFixCnt := 0x08021C
def eccLineUncCnt := 0x080220
def rlvDtA (dt : Nat) := 0x090000 + 32 * dt
def rlvDtB (dt : Nat) := 0x090004 + 32 * dt
def rlvDtLad (dt : Nat) := 0x090008 + 32 * dt
def rlvDtLpt (dt : Nat) := 0x09000C + 32 * dt
def rlvDtLdir (dt : Nat) := 0x090010 + 32 * dt
def rlvDtZoneA (dt : Nat) := 0x090014 + 32 * dt
def rlvDtZoneB (dt : Nat) := 0x090018 + 32 * dt
def rlvTblSel := 0x090400
def rlvTblData (w : Nat) := 0x090410 + 4 * w
def rlvTblLg := 0x090420
def rlvTblLostCnt := 0x090424
def rlvBucket (j : Nat) := 0x090600 + 4 * j
def rlvTpoll := 0x090800
def rlvTempPt := 0x090804
def rlvTemp (i : Nat) := 0x091000 + 4 * i
def rlvLadCfg (k : Nat) := 0x091800 + 4 * k
def rlvEsc (c : Nat) := 0x091900 + 4 * c
def rlvDecCfg := 0x091920
def rlvStepCnt := 0x091924
def rlvSoftCnt := 0x091928
def rlvSoftOkCnt := 0x09192C
def rlvFailCnt := 0x091930
def rlvTrackCfg := 0x091940
def rlvTrackMoveCnt := 0x091944
def rlvTrackClampCnt := 0x091948
def rlvCalCfg := 0x091960
def rlvCalPos (k : Nat) := 0x091980 + 8 * k
def rlvCalId (k : Nat) := 0x091984 + 8 * k
def rlvFgCfg := 0x0919C0
def rlvFgSts := 0x0919C4
def rlvFgRate := 0x0919C8
def rlvFgPosLo := 0x0919CC
def rlvFgTotalLo := 0x0919D4
def rlvFgPassCnt := 0x0919DC
def rlvFgSkipCnt := 0x0919E0
def rlvFgAlertCnt := 0x0919E4
def rlvLwCfg := 0x091A00
def rlvLwRate := 0x091A04
def rlvLwLossCnt := 0x091A08
def rlvLwVretryCnt := 0x091A0C
def rlvLwLfailCnt := 0x091A10
def rlvLwRo (j : Nat) := 0x091B00 + 4 * j
def rlvSmokeDie := 0x091C00
def rlvSmokeReg := 0x091C04
def rlvSmokeCur := 0x091C08
def rlvSmokeSeq := 0x091C0C
def rlvFmtMode (f : Nat) := 0x091C40 + 4 * f
def rlvLad (k s w : Nat) := 0x092000 + 256 * k + 16 * s + 4 * w
def rlvFgUncCnt (d : Nat) := 0x094000 + 4 * d
def cmbStage := 0x0A0000
def cmbStageSts := 0x0A0004
def cmbSegBadCnt := 0x0A0010
def cmbSegLast := 0x0A0014
def cmbRgExclCnt := 0x0A0018
def cmbRgEvalCnt := 0x0A001C
def cmbRgPruneCnt := 0x0A0020
def cmbChunkCnt := 0x0A0024
def cmbStageWaitCnt := 0x0A0028
def cmbUnitSts (u : Nat) := 0x0A0100 + 8 * u
def cmbUnitAdm (u : Nat) := 0x0A0104 + 8 * u
def cmbHeld (ch : Nat) := 0x0A0200 + 4 * ch
def seqCtl (g : Nat) := 0x0B0000 + 64 * g
def seqSts (g : Nat) := 0x0B0004 + 64 * g
def seqDrLimit (g : Nat) := 0x0B0008 + 64 * g
def seqCsFixCnt (g : Nat) := 0x0B000C + 64 * g
def seqCswAddr (g : Nat) := 0x0B0010 + 64 * g
def seqCswData (g k : Nat) := 0x0B0014 + 64 * g + 4 * k
def seqEnt (g e : Nat) := 0x0B0400 + 256 * g + 4 * e
def seqChctl (ch : Nat) := 0x0B1000 + 32 * ch
def seqChst (ch : Nat) := 0x0B1004 + 32 * ch
def seqMc (ch : Nat) := 0x0B1008 + 32 * ch
def seqCfault (ch : Nat) := 0x0B100C + 32 * ch
def seqBcHitCnt (ch : Nat) := 0x0B1010 + 32 * ch
def seqBcMissCnt (ch : Nat) := 0x0B1014 + 32 * ch
def seqFstallCnt (ch : Nat) := 0x0B1018 + 32 * ch
def ch (c off : Nat) := 0x100000 + 0x2000 * c + off
def chCtl (c : Nat) := ch c 0x00
def chSts (c : Nat) := ch c 0x04
def chPhyCfg (c : Nat) := ch c 0x08
def chOvh0 (c : Nat) := ch c 0x0C
def chOvh1 (c : Nat) := ch c 0x10
def chDtoCnt (c : Nat) := ch c 0x14
def chDnrCnt (c : Nat) := ch c 0x18
def chOp (c : Nat) := ch c 0x20
def chOpArg (c : Nat) := ch c 0x24
def chOpSts (c : Nat) := ch c 0x28
def chTrimTemp (c : Nat) := ch c 0x2C
def chDcc (c : Nat) := ch c 0x30
def chEye (c : Nat) := ch c 0x34
def chEyeMin (c : Nat) := ch c 0x38
def chDiemapA (c t : Nat) := ch c (0x100 + 8 * t)
def chDiemapB (c t : Nat) := ch c (0x104 + 8 * t)
def chTrim (c k l : Nat) := ch c (0x200 + 64 * k + 4 * l)
def chTset (c s i : Nat) := ch c (0x400 + 128 * s + 4 * i)
def chPbuf (c k : Nat) := ch c (0x800 + 4 * k)
end A

/-! ## The table -/

/-- Access types (R12). -/
inductive Acc where
  | rw | ro | w1c | wo | rc
  deriving DecidableEq, Repr

/-- The encodings a field accepts; a write of any other leaves the field as it was (R13). -/
inductive Rule where
  | any
  | range (lo hi : Nat)
  | codes (l : List Nat)
  | rate                      -- RATE of R193: 0, or 400 to 4,800 in steps of 100
  deriving DecidableEq, Repr

def Rule.ok : Rule → Nat → Bool
  | .any, _ => true
  | .range a b, v => a ≤ v && v ≤ b
  | .codes l, v => l.contains v
  | .rate, v => v == 0 || (400 ≤ v && v ≤ 4800 && v % 100 == 0)

/-- A writable field. -/
structure Fld where
  lo   : Nat
  w    : Nat
  rule : Rule
  deriving DecidableEq, Repr

/-- A register, or an array of up to three indices: `dims` are (count, stride) pairs, largest stride first. -/
structure RegRow where
  base  : Nat
  dims  : List (Nat × Nat)
  acc   : Acc
  rst   : Nat
  bnd   : Boundary
  flds  : List Fld
  kept  : Bool
  deriving DecidableEq, Repr

namespace Reg

/-- The indices of offset `d` in an array, where it has one. -/
def index : List (Nat × Nat) → Nat → Option (List Nat)
  | [], d => if d == 0 then some [] else none
  | (c, st) :: ds, d =>
    if d / st < c then (index ds (d % st)).map (fun is => (d / st) :: is) else none

/-- The indices at which row `r` holds address `a`. -/
def rowIndex (r : RegRow) (a : Nat) : Option (List Nat) :=
  if r.base ≤ a then index r.dims (a - r.base) else none

/-- A field that takes any value. -/
def f (lo w : Nat) : Fld := ⟨lo, w, .any⟩
/-- A field whose encodings are a range. -/
def fr (lo w a b : Nat) : Fld := ⟨lo, w, .range a b⟩
/-- A field of 32 bits. -/
def whole : List Fld := [f 0 32]
/-- A read-only register. -/
def ro (a : Nat) (dims : List (Nat × Nat)) (rst : Nat := 0) (kept := false) : RegRow :=
  ⟨a, dims, .ro, rst, .immediate, [], kept⟩
/-- A write-only register. -/
def wo (a : Nat) (dims : List (Nat × Nat)) (bnd : Boundary := .immediate) : RegRow :=
  ⟨a, dims, .wo, 0, bnd, [], false⟩
/-- A counter (R447). -/
def cnt (a : Nat) (dims : List (Nat × Nat)) (kept := false) : RegRow :=
  ⟨a, dims, .rw, 0, .immediate, whole, kept⟩
/-- A register software writes. -/
def rw (a : Nat) (dims : List (Nat × Nat)) (rst : Nat) (bnd : Boundary) (flds : List Fld) (kept := false) : RegRow :=
  ⟨a, dims, .rw, rst, bnd, flds, kept⟩
/-- A register whose bits a write of 1 clears. -/
def w1c (a : Nat) (dims : List (Nat × Nat)) (flds : List Fld) (kept := false) (bnd : Boundary := .immediate) : RegRow :=
  ⟨a, dims, .w1c, 0, bnd, flds, kept⟩

/-- GLB (R449, R423, R36, R436, R438, R442, R144). -/
def glb : List RegRow := [
  ro A.glbVersion [], ro A.glbInitStatus [], wo A.glbInitCtl [], ro A.glbOptFailCnt [] 0 true, ro A.glbApply [],
  rw A.glbPwrCtl [] 0x00640000 .immediate [fr 0 2 0 2, f 2 1, fr 16 16 1 65535] true,
  ro A.glbPwrSts [], rw A.glbSmokeCfg [] 0 .immediate [f 0 1] true, ro A.glbSmokeSts [], cnt A.glbCollideCnt []]

/-- SEC (R450, R435). -/
def sec : List RegRow := [
  ro (A.secId 0) [(32, 4)] 0 true, ro A.secOptMask [] 0 true, wo A.secRplCtl [], wo A.secRplReq [],
  ro A.secRplSts [] 1 true, ro A.secSanSts [], cnt A.secSanFailCnt [], ro (A.secKsValid 0) [(32, 4)]]

/-- HQ (R451, R95, R102, R106, R305, R353). -/
def hq : List RegRow := [
  rw A.hqAqSqbLo [] 0 .fetch [f 12 20], rw (A.hqAqSqbLo + 4) [] 0 .fetch [f 0 24],
  rw A.hqAqCqbLo [] 0 .fetch [f 12 20], rw (A.hqAqCqbLo + 4) [] 0 .fetch [f 0 24],
  rw A.hqAqCfg [] 0 .fetch [fr 0 4 0 12, fr 4 4 0 12, f 8 2],
  rw A.hqArBaseLo [] 0 .immediate [f 12 20], rw (A.hqArBaseLo + 4) [] 0 .immediate [f 0 24],
  rw A.hqArCfg [] 0 .immediate [fr 0 4 0 12, f 4 2, f 8 1], rw A.hqArHead [] 0 .immediate [f 0 16],
  ro A.hqArTail [], cnt A.hqArDropCnt [], cnt A.hqDbErrCnt [], ro A.hqSlotUsed [], cnt A.hqTgtErrCnt [],
  rw A.hqBrPoll [] 0x0A .immediate [fr 0 16 1 65535],
  rw (A.hqQpCtl 0) [(1024, 4)] 0 .fetch [f 0 1], ro (A.hqQpSts 0) [(1024, 4)],
  rw (A.hqQpArb 0) [(1024, 4)] 0x0F01 .fetch [fr 0 8 1 255, f 8 6],
  rw (A.hqQpQuota 0) [(1024, 4)] 0x40 .fetch [fr 0 17 1 131072],
  cnt (A.hqQpCqfullCnt 0) [(1024, 4)], cnt (A.hqQpPhstallCnt 0) [(1024, 4)],
  rw (A.hqLsCtl 0) [(64, 64)] 0 .fetch [f 0 1, f 1 3] true,
  rw (A.hqLsDie 0 0) [(64, 64), (4, 4)] 0 .fetch [f 0 11, f 16 11] true,
  rw (A.hqLsReg 0) [(64, 64)] 0 .fetch [fr 0 12 0 4094, fr 16 12 0 4094] true,
  rw (A.hqLsTail 0) [(64, 64)] 0 .fetch [f 0 24, f 24 3] true,
  rw (A.hqLsAseq 0) [(64, 64)] 0 .fetch whole true, ro (A.hqLsSts 0) [(64, 64)] 2,
  rw (A.hqBrBaseLo 0) [(256, 32)] 0 .immediate [f 12 20],
  rw (A.hqBrBaseLo 0 + 4) [(256, 32)] 0 .immediate [f 0 24],
  rw (A.hqBrCfg 0) [(256, 32)] 0 .immediate [fr 0 4 0 12, f 7 1, f 16 16],
  ro (A.hqBrHead 0) [(256, 32)], wo (A.hqBrKick 0) [(256, 32)], ro (A.hqBrSts 0) [(256, 32)] 8,
  cnt (A.hqBrStarveCnt 0) [(256, 32)]]

/-- ADM (R452, R148, R165, R178). The rail registers are loaded only by SET_BUDGET. -/
def adm : List RegRow := [
  rw (A.admBound 0) [(7, 4)] 0x3E8 .fetch [fr 0 20 1 1000000],
  rw (A.admCls 0) [(7, 4)] 0x200304 .fetch [fr 0 8 1 255, f 8 4, f 12 1, fr 16 8 1 255],
  rw (A.admCls 7) [] 0xF04 .fetch [fr 0 8 1 255, f 8 4, f 12 1, f 16 8],
  rw A.admSuspCfg [] 0x410 .fetch [fr 0 5 1 16, fr 8 5 1 16], rw A.admBulkAge [] 0 .fetch [f 0 20],
  rw A.admTwr [] 0x0A .fetch [fr 0 20 1 1000000], rw A.admTrb [] 0x0A .fetch [fr 0 20 1 1000000],
  rw A.admClks [] 0x06400708 .fetch [fr 0 12 800 2000, fr 16 12 200 1600], rw A.admCombCfg [] 0 .fetch [f 0 5],
  ro (A.admRailBudget 0) [(8, 16)] 0x00400100, ro (A.admRailCost 0) [(8, 16)] 0x03061310,
  ro (A.admRailHeld 0) [(8, 16)], cnt (A.admThrottleCnt 0) [(8, 16)],
  cnt (A.admRefuseCnt 0) [(7, 4)], cnt (A.admBreachCnt 0) [(8, 4)], cnt (A.admLateCnt 0) [(7, 4)]]

/-- NTF (R453, R392, R403). -/
def ntf : List RegRow := [
  rw (A.ntfSrcCfg 0) [(1088, 4)] 0x10 .immediate [f 0 4, fr 4 8 1 255, f 12 16] true,
  rw (A.ntfSrcEn 0 0) [(64, 0x100), (34, 4)] 0 .immediate whole true,
  rw (A.ntfTgtAddrLo 0) [(64, 16)] 0 .immediate [f 2 30] true,
  rw (A.ntfTgtAddrLo 0 + 4) [(64, 16)] 0 .immediate [f 0 24] true,
  rw (A.ntfTgtData 0) [(64, 16)] 0 .immediate whole true,
  rw (A.ntfTgtCtl 0) [(64, 16)] 0 .immediate [f 0 1, f 1 1, f 2 3] true,
  cnt A.ntfMsgCnt [], cnt A.ntfMsgErrCnt [], cnt A.ntfEmptyClaimCnt [], cnt A.ntfCmplErrCnt [],
  ⟨A.ntfClaim 0, [(64, 0x40)], .rc, 0, .immediate, [], false⟩, wo (A.ntfComplete 0) [(64, 0x40)],
  w1c (A.ntfTgtSts 0) [(64, 0x40)] [f 1 1] true]

/-- WGL (R454, R421). -/
def wgl : List RegRow := [
  rw (A.wglPmap 0) [(56, 4)] 0 .immediate whole true, rw (A.wglTcmap 0) [(33, 4)] 0 .immediate whole true,
  rw A.wglChEn [] 0xFFFFFFFF .immediate whole true, wo A.wglFire [],
  rw A.wglLoopCfg [] 0x40 .immediate [fr 0 16 1 65535] true, w1c A.wglLoopSts [] whole true,
  w1c (A.wglOvr 0) [] whole true, w1c (A.wglOvr 1) [] [f 0 1] true, ro (A.wglHeld 0) [(2, 4)] 0 true,
  rw A.wglDisp [] 0 .immediate [f 0 1], rw A.wglGrpCtl [] 0xF .immediate [f 0 4] true, ro A.wglSts [] 0xF,
  cnt A.wglSnapSeq [], cnt A.wglOvrCnt [], cnt A.wglCoincCnt [],
  rw A.wglCalPaddrLo [] 0 .immediate whole, rw (A.wglCalPaddrLo + 4) [] 0 .immediate whole,
  rw A.wglCalCtl [] 0 .immediate [f 0 11, f 11 15],
  rw (A.wglDrdyMask 0) [(32, 4)] 0 .immediate [f 0 16] true,
  rw (A.wglTempTh 0) [(4, 4)] 0x807F .immediate [f 0 8, f 8 8, f 16 4] true,
  rw (A.wglRingCfg 0) [(4, 4)] 0 .immediate [fr 0 2 0 2, f 2 10, f 16 16] true,
  rw (A.wglTmrCfg 0) [(8, 8)] 0x3E8 .immediate [fr 0 28 1 268435455, f 28 1] true,
  wo (A.wglTmrCtl 0) [(8, 8)], ro (A.wglTmrSts 0) [(8, 4)] 0 true,
  rw (A.wglSnapSrc 0) [(16, 4)] 0 .immediate [f 2 22], ro (A.wglSnap 0) [(16, 4)], cnt (A.wglFireCnt 0) [(32, 4)]]

/-- MOV (R455, R53, R362, R372, R373). -/
def mov : List RegRow := [
  wo A.movCtl [], ro A.movSts [],
  rw A.movOstoreCfg [] 8 .codeword [fr 0 6 0 32, fr 8 6 0 32], ro A.movOstoreUsed [], cnt A.movPsnCnt [],
  rw (A.movTfab 0) [(4, 16)] 0x186A0 .immediate [fr 0 20 1 1000000],
  cnt (A.movToCnt 0) [(4, 16)], cnt (A.movLateCnt 0) [(4, 16)], cnt (A.movStrayCnt 0) [(4, 16)],
  wo (A.movSqCtl 0) [(32, 32)] .codeword, ro (A.movSqSts 0) [(32, 32)], cnt (A.movSqCwCnt 0) [(32, 32)],
  cnt (A.movSqCorrCnt 0) [(32, 32)], cnt (A.movSqFlushCnt 0) [(32, 32)]]

/-- MEM (R456, R389, R381). -/
def mem : List RegRow := [
  rw A.memScrubCfg [] 0x03E80001 .immediate [f 0 1, fr 16 16 1 65535],
  w1c A.memSts [] [f 0 1, f 1 1, f 2 1, f 3 1], rw A.memRrepSel [] 0 .immediate [f 0 4, f 4 5, f 9 4],
  rw (A.memRrepData 0) [(8, 4)] 0 .immediate whole true,
  cnt A.memCeCnt [] true, cnt A.memUeCnt [] true, cnt A.memCeLostCnt [] true, cnt A.memFillErrCnt [] true,
  cnt A.memRepOvfCnt [] true, cnt A.memRlvPsnCnt [] true, cnt A.memScrubPassCnt [] true,
  cnt A.memScrubLateCnt [] true, ro (A.memCelA 0) [(16, 8)], w1c (A.memCelB 0) [(16, 8)] [f 8 1]]

/-- ECC (R457, R254, R258, R263). -/
def ecc : List RegRow := [
  rw (A.eccFmt 0) [(16, 8)] 0x40000004 .codeword [fr 0 4 0 8, f 4 4, f 8 1, f 9 1, f 10 10, f 20 10],
  rw (A.eccFmtSalt 0) [(16, 8)] 0 .codeword whole,
  rw (A.eccLayoutA 0) [(16, 8)] 0x000348A0 .codeword [f 0 16, f 16 3],
  rw (A.eccLayoutB 0) [(16, 8)] 0x12200000 .codeword [f 0 16, f 16 16],
  rw A.eccCtl [] 0x40 .codeword [f 0 10],
  rw A.eccWseqLo [] 0 .codeword whole true, rw (A.eccWseqLo + 4) [] 0 .codeword [f 0 8] true,
  cnt A.eccErasedCnt [], cnt A.eccMiscorCnt [], cnt A.eccStampCnt [], cnt A.eccLineFixCnt [], cnt A.eccLineUncCnt []]

/-- RLV (R458 and chapter 09, chapter 10). -/
def rlv : List RegRow := [
  rw (A.rlvDtA 0) [(32, 32)] 0 .instr [f 0 2, f 8 8, f 16 8, f 24 8],
  rw (A.rlvDtB 0) [(32, 32)] 0x007F8000 .instr [f 0 8, f 8 8, f 16 8, f 24 5],
  rw (A.rlvDtLad 0) [(32, 32)] 0 .instr [f 0 5, f 8 5, f 16 5, f 24 5],
  rw (A.rlvDtLpt 0) [(32, 32)] 0 .instr [f 0 30], rw (A.rlvDtLdir 0) [(32, 32)] 0 .instr [f 0 15],
  rw (A.rlvDtZoneA 0) [(32, 32)] 0 .instr [f 0 12, f 16 12], rw (A.rlvDtZoneB 0) [(32, 32)] 0 .instr [f 0 12],
  rw A.rlvTblSel [] 0 .instr [f 0 11, f 11 4, f 15 2],
  rw (A.rlvTblData 0) [(4, 4)] 0 .instr whole, rw A.rlvTblLg [] 0 .instr [f 0 4, f 4 4, f 8 4, f 12 4, f 16 4],
  cnt A.rlvTblLostCnt [], rw (A.rlvBucket 0) [(128, 4)] 0 .instr whole,
  rw A.rlvTpoll [] 0 .instr [f 0 16], rw A.rlvTempPt [] 0x5F462300 .instr [f 0 8, f 8 8, f 16 8, f 24 8],
  ro (A.rlvTemp 0) [(512, 4)],
  rw (A.rlvLadCfg 0) [(32, 4)] 0x2100 .instr [fr 0 5 0 16, fr 8 4 1 15, f 12 4],
  rw (A.rlvEsc 0) [(8, 4)] 0x10 .instr [fr 0 5 0 16],
  rw A.rlvDecCfg [] 0x0C14 .codeword [fr 0 5 1 20, fr 8 4 1 12],
  cnt A.rlvStepCnt [], cnt A.rlvSoftCnt [], cnt A.rlvSoftOkCnt [], cnt A.rlvFailCnt [],
  rw A.rlvTrackCfg [] 0x01002200 .instr [f 0 1, fr 4 8 1 255, f 12 4, fr 16 12 16 4095],
  cnt A.rlvTrackMoveCnt [], cnt A.rlvTrackClampCnt [],
  rw A.rlvCalCfg [] 0x00800110 .instr [fr 0 7 1 64, f 8 3, f 16 16],
  ro (A.rlvCalPos 0) [(8, 8)], ro (A.rlvCalId 0) [(8, 8)],
  rw A.rlvFgCfg [] 0 .instr [f 0 1, f 16 16], ro A.rlvFgSts [],
  rw A.rlvFgRate [] 0x0A .instr [fr 0 16 1 65535],
  ro A.rlvFgPosLo [], ro (A.rlvFgPosLo + 4) [], ro A.rlvFgTotalLo [], ro (A.rlvFgTotalLo + 4) [],
  cnt A.rlvFgPassCnt [], cnt A.rlvFgSkipCnt [], cnt A.rlvFgAlertCnt [],
  rw A.rlvLwCfg [] 1 .instr [f 0 2, f 2 1], rw A.rlvLwRate [] 0x05F5E100 .instr whole,
  cnt A.rlvLwLossCnt [], cnt A.rlvLwVretryCnt [], cnt A.rlvLwLfailCnt [],
  w1c (A.rlvLwRo 0) [(64, 4)] whole false .instr,
  rw A.rlvSmokeDie [] 0 .instr [f 0 11, f 16 1] true, rw A.rlvSmokeReg [] 0 .instr [f 0 12, f 16 12] true,
  rw A.rlvSmokeCur [] 0 .instr [f 0 24] true, rw A.rlvSmokeSeq [] 0 .instr whole true,
  rw (A.rlvFmtMode 0) [(16, 4)] 0 .instr [f 0 1],
  rw (A.rlvLad 0 0 0) [(32, 256), (16, 16), (4, 4)] 0 .instr whole, cnt (A.rlvFgUncCnt 0) [(2048, 4)]]

/-- CMB (R459, R325, R352). -/
def cmb : List RegRow := [
  rw A.cmbStage [] 8 .codeword [fr 0 6 1 32], ro A.cmbStageSts [] 0x4808,
  cnt A.cmbSegBadCnt [], ro A.cmbSegLast [], cnt A.cmbRgExclCnt [], cnt A.cmbRgEvalCnt [], cnt A.cmbRgPruneCnt [],
  cnt A.cmbChunkCnt [], cnt A.cmbStageWaitCnt [], ro (A.cmbUnitSts 0) [(32, 8)], ro (A.cmbUnitAdm 0) [(32, 8)],
  ro (A.cmbHeld 0) [(32, 4)]]

/-- SEQ (R460, R250). -/
def seq : List RegRow := [
  wo (A.seqCtl 0) [(4, 64)] .instr, ro (A.seqSts 0) [(4, 64)],
  rw (A.seqDrLimit 0) [(4, 64)] 0x2710 .instr [fr 0 20 1 1000000], cnt (A.seqCsFixCnt 0) [(4, 64)],
  rw (A.seqCswAddr 0) [(4, 64)] 0 .instr [f 0 14], ro (A.seqCswData 0 0) [(4, 64), (5, 4)],
  ro (A.seqEnt 0 0) [(4, 256), (64, 4)], wo (A.seqChctl 0) [(32, 32)] .instr, ro (A.seqChst 0) [(32, 32)],
  ro (A.seqMc 0) [(32, 32)], ro (A.seqCfault 0) [(32, 32)], cnt (A.seqBcHitCnt 0) [(32, 32)],
  cnt (A.seqBcMissCnt 0) [(32, 32)], cnt (A.seqFstallCnt 0) [(32, 32)]]

/-- The per-channel block (R461, chapter 06). CH_TSET 30 and 31 are reserved. -/
def chn : List RegRow := [
  rw (A.chCtl 0) [(32, 0x2000)] 0 .instr [f 0 1, f 1 3, f 4 1, f 5 1, f 6 1] true,
  ro (A.chSts 0) [(32, 0x2000)] 4 true,
  rw (A.chPhyCfg 0) [(32, 0x2000)] 0x141A .instr [⟨0, 3, .codes [1, 2, 3]⟩, fr 3 3 0 4, f 6 7] true,
  ro (A.chOvh0 0) [(32, 0x2000)], ro (A.chOvh1 0) [(32, 0x2000)],
  cnt (A.chDtoCnt 0) [(32, 0x2000)], cnt (A.chDnrCnt 0) [(32, 0x2000)],
  rw (A.chOp 0) [(32, 0x2000)] 0 .immediate [f 0 4, f 4 4, f 8 2, f 10 8, f 18 1],
  rw (A.chOpArg 0) [(32, 0x2000)] 0 .immediate whole, ro (A.chOpSts 0) [(32, 0x2000)],
  rw (A.chTrimTemp 0) [(32, 0x2000)] 0x5F462300 .instr [f 0 8, f 8 8, f 16 8, f 24 8] true,
  rw (A.chDcc 0) [(32, 0x2000)] 0 .instr [f 0 6, f 8 6] true, ro (A.chEye 0) [(32, 0x2000)] 0 true,
  rw (A.chEyeMin 0) [(32, 0x2000)] 0x18 .immediate [f 0 7, f 8 12] true,
  rw (A.chDiemapA 0 0) [(32, 0x2000), (16, 8)] 0 .instr
    [f 0 1, f 1 1, f 2 2, f 4 3, f 7 14, f 21 3, f 24 1, f 25 2] true,
  rw (A.chDiemapB 0 0) [(32, 0x2000), (16, 8)] 0 .instr [f 0 12, f 12 2, f 14 2, f 16 5] true,
  rw (A.chTrim 0 0 0) [(32, 0x2000), (4, 64), (9, 4)] 0 .instr [f 0 7, f 8 7] true,
  rw (A.chTset 0 0 0) [(32, 0x2000), (8, 128)] 0 .instr [⟨0, 28, .rate⟩] true,
  rw (A.chTset 0 0 1) [(32, 0x2000), (8, 128), (29, 4)] 0 .instr [f 0 28] true,
  ro (A.chPbuf 0 0) [(32, 0x2000), (256, 4)]]

/-- The rows of the region in which an address lies (R444). -/
def rowsAt (a : Nat) : List RegRow :=
  match a / 0x10000 with
  | 0 => glb | 1 => sec | 2 => hq | 3 => adm | 4 => ntf | 5 => wgl | 6 => mov | 7 => mem | 8 => ecc | 9 => rlv
  | 10 => cmb | 11 => seq
  | 16 => chn | 17 => chn | 18 => chn | 19 => chn
  | _ => []

/-- The first row that holds an address, with its indices. -/
def search : List RegRow → Nat → Option (RegRow × List Nat)
  | [], _ => none
  | r :: rs, a =>
    match rowIndex r a with
    | some is => some (r, is)
    | none => search rs a

/-- The register at an MPORT offset, where there is one (R445). -/
def find (a : Nat) : Option (RegRow × List Nat) := search (rowsAt a) a

/-- The reset values of a timing set (R462), parameters 0 to 29. -/
def tsetReset (i : Nat) : Nat :=
  [0, 0x186A0, 0x11170, 0x4E20, 0x30D40, 0x1D4C0, 0x61A80, 0x7A120, 0x9C40, 0x30D40, 0, 0, 0, 0, 0x3E8, 0xF4240,
   0x64, 0x3E8, 0x3E8, 0x3E8, 0x30D40, 0x4C4B40, 0x1312D00, 0x30D40, 0xF4240, 0x2710, 0xC350, 0x3E8, 0x3E8,
   0x3E8].getD i 0

/-- The value of a register after reset (R446, with the registers whose value is per build or per index). -/
def resetValue (b : Build) (a : Nat) : Word :=
  match find a with
  | none => 0
  | some (r, is) =>
    if r.base == A.glbVersion then BitVec.ofNat 32 (0x03010000 + Config.channels b)
    else if r.base == A.wglGrpCtl || r.base == A.wglSts then BitVec.ofNat 32 (2 ^ Config.groups b - 1)
    else if r.base == A.ntfSrcCfg 0 && (a == A.ntfSrcCfg 0 || (A.ntfSrcCfg 37 ≤ a && a ≤ A.ntfSrcCfg 63)) then 0
    else if r.base == A.hqQpSts 0 && a == A.hqQpSts 0 then 3
    else if r.base == A.chTset 0 0 1 then BitVec.ofNat 32 (tsetReset (is.getD 2 0 + 1))
    else BitVec.ofNat 32 r.rst

/-- The low halves of the register pairs (R15). -/
def pairBase (a : Nat) : Bool :=
  a == A.hqAqSqbLo || a == A.hqAqCqbLo || a == A.hqArBaseLo || a == A.wglCalPaddrLo || a == A.eccWseqLo ||
  a == A.rlvFgPosLo || a == A.rlvFgTotalLo ||
  (A.hqBrBaseLo 0 ≤ a && a < A.hqBrBaseLo 256 && (a - A.hqBrBaseLo 0) % 32 == 0) ||
  (A.ntfTgtAddrLo 0 ≤ a && a < A.ntfTgtAddrLo 64 && (a - A.ntfTgtAddrLo 0) % 16 == 0)

/-- The fields of a write laid over the value a register holds: a field whose encoding is reserved keeps its
value, reserved bits stay 0 (R13). -/
def merge (flds : List Fld) (old new : Word) : Word :=
  flds.foldl (fun acc x => if x.rule.ok (fld new x.lo x.w) then setFld acc x.lo x.w (fld new x.lo x.w) else acc) old

end Reg

end Sys2Proof.Machine
end

