-- ==== Sys2Proof/Machine/Ops.lean ====
section
/-!
DEFINITION. The named operations over the state that every family uses: keyed lists, registers in effect and
applied, counters, free values, alert records, and the frame `run` around every meaning.
-/

namespace Sys2Proof.Machine

/-! ## Keyed lists: strictly rising keys -/

/-- The element with a key. -/
def getBy {α : Type} (key : α → Nat) (k : Nat) : List α → Option α
  | [] => none
  | x :: xs => if key x = k then some x else getBy key k xs

/-- The list with an element in its place, by key. -/
def putBy {α : Type} (key : α → Nat) (x : α) : List α → List α
  | [] => [x]
  | y :: ys =>
    if key x < key y then x :: y :: ys
    else if key x = key y then x :: ys
    else y :: putBy key x ys

/-- The list without the element with a key. -/
def delBy {α : Type} (key : α → Nat) (k : Nat) : List α → List α
  | [] => []
  | x :: xs => if key x = k then delBy key k xs else x :: delBy key k xs

/-- Each element that satisfies `p`, changed. -/
def updBy {α : Type} (p : α → Bool) (f : α → α) (l : List α) : List α :=
  l.map fun x => if p x then f x else x

/-- The value at a key of a list of pairs. -/
def assoc {β : Type} (l : List (Nat × β)) (k : Nat) : Option β := (getBy Prod.fst k l).map Prod.snd

/-- A set of numbers as a rising list. -/
def addN (k : Nat) (l : List Nat) : List Nat := putBy id k l
def delN (k : Nat) (l : List Nat) : List Nat := delBy id k l

/-! ## The register file -/

/-- The value in effect of a register of a build, from the sparse list. -/
def regGet (b : Build) (l : List (Nat × Word)) (a : Nat) : Word := (assoc l a).getD (Reg.resetValue b a)

/-- The list with a register at a value: a value equal to the reset value is not listed. -/
def regPut (b : Build) (l : List (Nat × Word)) (a : Nat) (v : Word) : List (Nat × Word) :=
  if v = Reg.resetValue b a then delBy Prod.fst a l else putBy Prod.fst (a, v) l

/-- The canonical form of the register file: addresses strictly rising, no entry at its reset value. -/
def regsWf (b : Build) : List (Nat × Word) → Bool
  | [] => true
  | (a, v) :: l => v != Reg.resetValue b a && (match l with | [] => true | (a', _) :: _ => a < a') && regsWf b l

/-- The value of a register in effect (R29). -/
def State.reg (s : State) (a : Nat) : Word := regGet s.build s.regs a

/-- The value in effect as a number. -/
def State.regN (s : State) (a : Nat) : Nat := (s.reg a).toNat

/-- A field of a register in effect. -/
def State.fldOf (s : State) (a lo w : Nat) : Nat := fld (s.reg a) lo w

/-- Set the value in effect. -/
def State.setReg (s : State) (a : Nat) (v : Word) : State := { s with regs := regPut s.build s.regs a v }

/-- Set the value in effect to a number. -/
def State.setRegN (s : State) (a : Nat) (n : Nat) : State := s.setReg a (BitVec.ofNat 32 n)

/-- Set one field of the value in effect. -/
def State.setFldOf (s : State) (a lo w n : Nat) : State := s.setReg a (setFld (s.reg a) lo w n)

/-- The value a read returns: the last one applied, in effect or not (R27). -/
def State.applied (s : State) (a : Nat) : Word :=
  (s.pend.foldl (fun acc p => if p.addr = a ∧ !p.act then some p.val else acc) none).getD (s.reg a)

/-- The word of the last write of an action that waits for its boundary. -/
def State.pendAct (s : State) (a sel : Nat) : Option Word :=
  s.pend.foldl (fun acc p => if p.addr = a ∧ p.sel = sel ∧ p.act then some p.val else acc) none

/-- The value that governs a channel or a stage: of the writes that wait for an instruction or codeword boundary, the
last one whose boundary it has passed (R29, R31). -/
def State.regAt (s : State) (ch : Nat) (a : Nat) : Word :=
  (s.pend.foldl (fun acc p => if p.addr = a ∧ p.bnd ≠ .fetch ∧ !p.act ∧ ch ∉ p.left then some p.val else acc) none).getD (s.reg a)

/-- A field of the value that governs a channel or a stage. -/
def State.fldAt (s : State) (ch a lo w : Nat) : Nat := fld (s.regAt ch a) lo w

/-! ### Stages that pass a codeword boundary of their own (R29)

Stage `ch` is the entry of the read path of a channel. -/

/-- The entry of a channel's write path (write step 3 of R16). -/
def stWrite (ch : Nat) : Nat := 64 + ch
/-- A channel's hard decoder. -/
def stHard (ch : Nat) : Nat := 96 + ch
/-- A channel's staging queue. -/
def stQueue (ch : Nat) : Nat := 128 + ch
/-- The data mover. -/
def stMover : Nat := 32
/-- The comb units. -/
def stComb : Nat := 33
/-- The pooled soft decoders. -/
def stSoft : Nat := 34
/-- The write sequence (R253). -/
def stWseq : Nat := 35

/-- The writes that satisfy `p` take effect, in the order in which they were applied (R29, R35). -/
def takeNow (s : State) (p : PendWrite → Bool) : State :=
  (s.pend.filter p).foldl (fun st x => st.setReg x.addr x.val) { s with pend := s.pend.filter fun x => !p x }

/-- The fetch unit is at its boundary: the writes that wait for it take effect (R29). -/
def passFetch (s : State) : State := takeNow s fun x => x.bnd == Boundary.fetch

/-- Count `n` more events: a counter saturates (R11, R447). -/
def State.bump (s : State) (a : Nat) (n : Nat := 1) : State := s.setRegN a (min (s.regN a + n) (2 ^ 32 - 1))

/-- Count in a counter that wraps (R11). -/
def State.bumpWrap (s : State) (a : Nat) (n : Nat := 1) : State := s.setRegN a (s.regN a + n)

/-- A 64-bit register pair in effect. -/
def State.pair (s : State) (lo : Nat) : Nat := s.regN lo + s.regN (lo + 4) * 2 ^ 32

/-! ## Free values (log entry 3) -/

/-- The next value the spec leaves undefined. -/
def State.freeVal (s : State) : Word := Config.freeWord s.free

/-- The state in which that value has been used. -/
def State.useFree (s : State) (n : Nat := 1) : State := { s with free := s.free + n }

/-- `n` undefined bytes. -/
def State.freeBytes (s : State) (n : Nat) : List Byte :=
  (List.range n).map fun i => (Config.freeWord (s.free + i)).setWidth 8

/-! ## Bytes -/

/-- The little-endian value of bytes (R10). -/
def leNat : List Byte → Nat
  | [] => 0
  | x :: xs => x.toNat + 256 * leNat xs

/-- `n` little-endian bytes of a number. -/
def leBytes : Nat → Nat → List Byte
  | 0, _ => []
  | n + 1, v => BitVec.ofNat 8 v :: leBytes n (v / 256)

/-- `n` bytes from offset `o` as a little-endian number; bytes past the end are 0. -/
def leAt (l : List Byte) (o n : Nat) : Nat := leNat ((l.drop o).take n)

/-- `n` zero bytes. -/
def zeros (n : Nat) : List Byte := List.replicate n 0

/-- Bytes `o` onward replaced by `x`. -/
def splice (l : List Byte) (o : Nat) (x : List Byte) : List Byte :=
  l.take o ++ zeros (o - l.length) ++ x ++ l.drop (o + x.length)

/-! ## Physical addresses (R109) -/

def pCw (p : Nat) : Nat := bits p 0 3
def pPage (p : Nat) : Nat := bits p 3 12
def pPlane (p : Nat) : Nat := bits p 15 3
def pBlock (p : Nat) : Nat := bits p 18 14
def pTarget (p : Nat) : Nat := bits p 34 4
def pChan (p : Nat) : Nat := bits p 38 5
def pDie (p : Nat) : Nat := bits p 32 11

/-- The parts of a die number PADDR[42:32]. -/
def dieCh (d : Nat) : Nat := d / 64
def dieTgt (d : Nat) : Nat := d / 4 % 16
def dieLun (d : Nat) : Nat := d % 4
/-- The context of a die in its sequencer (R227). -/
def dieCtx (d : Nat) : Nat := d % 64

/-- The PADDR of a codeword. -/
def mkPaddr (die block plane page cw : Nat) : Nat :=
  cw + page * 8 + plane * 2 ^ 15 + block * 2 ^ 18 + die * 2 ^ 32

/-- The block of a PADDR, plane and die included. -/
def pBlk (p : Nat) : Nat := p / 2 ^ 15 % 2 ^ 28

/-- The page of a PADDR: CW set to 0. -/
def pageOf (p : Nat) : Nat := p / 8 * 8

/-! ## The die map (R200) -/

def State.dmA (s : State) (d : Nat) : Word := s.regAt (dieCh d) (A.chDiemapA (dieCh d) (dieTgt d))
def State.dmB (s : State) (d : Nat) : Word := s.regAt (dieCh d) (A.chDiemapB (dieCh d) (dieTgt d))

/-- The channel exists and its mask bit is set (R5, R426). -/
def State.chPresent (s : State) (ch : Nat) : Bool :=
  ch < Config.channels s.build && (match s.init.area with | some a => bit a.mask.toNat ch | none => false)

/-- The die answers at its position of the die map. -/
def State.diePresent (s : State) (d : Nat) : Bool :=
  s.chPresent (dieCh d) && fld (s.dmA d) 0 1 == 1 && dieLun d ≤ fld (s.dmA d) 2 2

def State.classL (s : State) (d : Nat) : Bool := fld (s.dmA d) 1 1 == 1
def State.planes (s : State) (d : Nat) : Nat := fld (s.dmA d) 4 3 + 1
def State.blocks (s : State) (d : Nat) : Nat := fld (s.dmA d) 7 14 + 1
def State.rail (s : State) (d : Nat) : Nat := fld (s.dmA d) 21 3
def State.pages (s : State) (d : Nat) : Nat := fld (s.dmB d) 0 12 + 1
def State.dtype (s : State) (d : Nat) : Nat := fld (s.dmB d) 16 5

/-- Every die of the build, by number. -/
def State.dies (s : State) : List Nat := List.range (64 * Config.channels s.build)

/-! ## Units of the state -/

def State.chan (s : State) (ch : Nat) : Chan := (getBy Chan.id ch s.chans).getD (Chan.reset ch)
def State.setChan (s : State) (c : Chan) : State := { s with chans := putBy Chan.id c s.chans }
def State.updChan (s : State) (ch : Nat) (f : Chan → Chan) : State := s.setChan (f (s.chan ch))

def State.slot (s : State) (n : Nat) : Option Slot := getBy Slot.id n s.slots
def State.setSlot (s : State) (x : Slot) : State := { s with slots := putBy Slot.id x s.slots }
def State.updSlot (s : State) (n : Nat) (f : Slot → Slot) : State :=
  { s with slots := updBy (fun x => x.id == n) f s.slots }
def State.delSlot (s : State) (n : Nat) : State := { s with slots := delBy Slot.id n s.slots }

def State.qp (s : State) (q : Nat) : Option QP := getBy QP.qid q s.qps
def State.setQp (s : State) (x : QP) : State := { s with qps := putBy QP.qid x s.qps }
def State.updQp (s : State) (q : Nat) (f : QP → QP) : State := { s with qps := updBy (fun x => x.qid == q) f s.qps }

def State.op (s : State) (n : Nat) : Option Op := getBy Op.id n s.ops
def State.updOp (s : State) (n : Nat) (f : Op → Op) : State := { s with ops := updBy (fun x => x.id == n) f s.ops }
def State.delOp (s : State) (n : Nat) : State := { s with ops := delBy Op.id n s.ops }

def State.cw (s : State) (n : Nat) : Option Cw := getBy Cw.id n s.cws
def State.setCw (s : State) (x : Cw) : State := { s with cws := putBy Cw.id x s.cws }
def State.delCw (s : State) (n : Nat) : State := { s with cws := delBy Cw.id n s.cws }

def State.ring (s : State) (r : Nat) : BufRing := (getBy BufRing.r r s.rings).getD (BufRing.reset r)
def State.setRing (s : State) (x : BufRing) : State := { s with rings := putBy BufRing.r x s.rings }

def State.unit (s : State) (u : Nat) : CombUnit := (getBy CombUnit.u u s.units).getD (CombUnit.reset u)
def State.setUnit (s : State) (x : CombUnit) : State := { s with units := putBy CombUnit.u x s.units }

def State.store (s : State) (g : Nat) : Store := s.stores.getD g Store.reset
/-- The four control stores with one in its place. -/
def State.setStore (s : State) (g : Nat) (x : Store) : State :=
  { s with stores := (List.range 4).map fun i => if i = g then x else s.store i }

def State.port (s : State) (p : Nat) : Port := s.ports.getD p Port.reset
/-- The four initiator ports with one in its place. -/
def State.setPort (s : State) (p : Nat) (x : Port) : State :=
  { s with ports := (List.range 4).map fun i => if i = p then x else s.port i }

def State.src (s : State) (n : Nat) : Src :=
  (getBy Src.s n s.ntf.srcs).getD
    { s := n, n := 0, timer := none, fired := false, ready := false, latch := false, active := none, route := none,
      lastT := none }
def State.setSrc (s : State) (x : Src) : State := { s with ntf := { s.ntf with srcs := putBy Src.s x s.ntf.srcs } }

def State.tgt (s : State) (t : Nat) : Tgt :=
  (getBy Tgt.t t s.ntf.tgts).getD { t := t, stack := [], msgErr := false, due := false, out := false, cands := [] }
def State.setTgt (s : State) (x : Tgt) : State := { s with ntf := { s.ntf with tgts := putBy Tgt.t x s.ntf.tgts } }

def State.timer (s : State) (k : Nat) : WTimer := (getBy WTimer.k k s.wgl.timers).getD { k := k, run := false, elapsed := 0, arm := false }
def State.setTimer (s : State) (x : WTimer) : State :=
  { s with wgl := { s.wgl with timers := putBy WTimer.k x s.wgl.timers } }

/-- Apply `f` for each element of a list, first to last. -/
def State.each {α : Type} (s : State) (l : List α) (f : State → α → State) : State := l.foldl f s

/-! ## Protection level and phases -/

/-- The protection level (R425, R432): RPL1 until an area is loaded; RPL2 from the ID row; otherwise the section's
value, raised by SEC_RPL_CTL.RAISE. -/
def State.level (s : State) : Nat :=
  match s.init.area with
  | none => 1
  | some a => if a.rpl2 then 2 else if s.init.raised then max 1 s.init.rplSec else s.init.rplSec

/-- A protection-level change is running (R434). -/
def State.lowering (s : State) : Bool := s.init.lowering != .none

/-- The smoke sequence has started and only a reset ends it (R439). -/
def State.smoking (s : State) : Bool := s.smoke.step != 0 || s.smoke.done

/-- One more event of a notification source (R394): the count saturates at 255, and the first starts the timer. -/
def State.event (s : State) (n : Nat) : State :=
  let x := s.src n
  s.setSrc { x with n := min (x.n + 1) 255, timer := if x.n = 0 then some 0 else x.timer,
                    fired := if x.n = 0 then false else x.fired }

/-! ## Alert records (R103 to R105) -/

def State.arEn (s : State) : Bool := s.fldOf A.hqArCfg 8 1 == 1
def State.arSize (s : State) : Nat := 16 * 2 ^ s.fldOf A.hqArCfg 0 4
def State.arHead (s : State) : Nat := s.fldOf A.hqArHead 0 16

/-- A command whose completion waits for a record waits no longer (R108, R292). -/
def State.recordEnd (s : State) (owner : Option Nat) (ok : Bool) : State :=
  match owner with
  | none => s
  | some n => s.updSlot n fun x => { x with report := false, alert := x.alert || ok }

/-- A record is dropped (R104). -/
def State.dropRecord (s : State) (owner : Option Nat) : State :=
  ({ s with alert := { s.alert with lost := true } }.bump A.hqArDropCnt).recordEnd owner false

/-- A record arises: it is dropped while the ring is disabled, and waits for its write otherwise. TIME is the low
32 bits of the ACLK count. -/
def State.raise (s : State) (typ src info0 info1 info2 : Nat) (owner : Option Nat := none) : State :=
  if s.arEn then
    { s with alert := { s.alert with queue := s.alert.queue ++
      [{ typ := typ, src := src, info0 := info0, info1 := info1, info2 := info2, time := s.aclk % 2 ^ 32, owner := owner }] } }
  else s.dropRecord owner

/-- The 32 bytes of a record (R105). -/
def recordBytes (r : Record) (lost phase : Bool) : List Byte :=
  leBytes 4 (r.typ % 256 + (if lost then 256 else 0) + r.src % 65536 * 65536) ++ leBytes 4 r.time ++
  leBytes 8 r.info0 ++ leBytes 8 r.info1 ++ leBytes 4 r.info2 ++ leBytes 4 (if phase then 2 ^ 31 else 0)

/-! ## Stored poison -/

/-- A unit of a memory that lies in a span of addresses holds stored poison. -/
def State.poisoned (s : State) (mem inst addr len : Nat) : Bool :=
  s.mem.poison.any fun x => x.1 == mem && x.2.1 == inst && decide (addr ≤ x.2.2) && decide (x.2.2 < addr + len)

/-- A whole write of a span clears its stored poison (R377). -/
def clearPoison (s : State) (mem inst addr len : Nat) : State :=
  { s with mem := { s.mem with poison := s.mem.poison.filter fun x =>
      !(x.1 == mem && x.2.1 == inst && decide (addr ≤ x.2.2) && decide (x.2.2 < addr + len)) } }

end Sys2Proof.Machine
end

