-- ==== Sys2Proof/Machine/Notify.lean ====
section
/-!
DEFINITION. The notification controller (chapter 15): what it evaluates at every KCLK (R394 to R398), the claim and
complete accesses (R400, R401) and the INT_OUT lines (R67, R398).
-/

namespace Sys2Proof.Machine

/-- A source is raised (R391, R392): the level is high, or the latch is set. A CQ source compares the posted tail
with the recorded head (R85). -/
def State.raised (s : State) (n : Nat) : Bool :=
  if n = 1 then s.chans.any (·.frozen)
  else if n = 2 then s.smoking
  else if n = 3 then s.fldOf A.memSts 1 1 == 1
  else if n = 4 then s.alert.tail != s.arHead
  else if n < 37 then (s.src n).latch
  else if n < 64 then false
  else match s.qp (n - 64) with
    | some q => q.posted != q.cqHead
    | none => false

/-- PRIO of a source: 0 in FC32 (R393). -/
def State.prio (s : State) (n : Nat) : Nat :=
  if Config.nested s.build then s.fldOf (A.ntfSrcCfg n) 0 4 else 0

/-- The targets for which a source is enabled, ascending. Enable words are 0 at reset, so only listed ones count. -/
def State.enabledAt (s : State) (n : Nat) : List Nat :=
  s.regs.filterMap fun e =>
    if A.ntfSrcEn 0 0 ≤ e.1 ∧ e.1 < A.ntfSrcEn 64 0 ∧ (e.1 - A.ntfSrcEn 0 0) % 0x100 = 4 * (n / 32) ∧
       bit e.2.toNat (n % 32)
    then some ((e.1 - A.ntfSrcEn 0 0) / 0x100) else none

/-- RUN of a target: the priority its newest active source raised it to. -/
def Tgt.running (x : Tgt) : Option Nat := x.stack.head?.map Prod.snd

/-- A target is eligible for a source (R397). -/
def State.eligible (s : State) (t n : Nat) : Bool :=
  match (s.tgt t).running with
  | none => true
  | some r => Config.nested s.build && decide (r < s.prio n)

/-- A source outranks another (R397). -/
def State.outranks (s : State) (a b : Nat) : Bool :=
  if Config.nested s.build then decide (s.prio b < s.prio a) || (s.prio a == s.prio b && decide (a < b))
  else decide (a < b)

/-- The moderation bypass (R395). -/
def State.bypass (s : State) (n : Nat) : Bool :=
  (s.enabledAt n).any (fun t => bit s.pins.tgtIdle t) ||
  (decide (64 ≤ n) && match s.qp (n - 64) with | some q => q.irqNow | none => false)

/-- The moderation timer of a source meets TIME: at once with TIME 0, otherwise from the (TIME + 1)-th ACLK edge. -/
def State.timerMet (s : State) (x : Src) : Bool :=
  match x.timer with
  | none => false
  | some e => x.fired || s.fldOf (A.ntfSrcCfg x.s) 12 16 == 0 || decide (s.fldOf (A.ntfSrcCfg x.s) 12 16 + 1 ≤ e)

/-- The first enabled target after the one that last claimed the source, eligible ones first (R396). -/
def State.routeOf (s : State) (x : Src) : Option Nat :=
  let en := s.enabledAt x.s
  let from_ := match x.lastT with | none => 0 | some t => t + 1
  let order := en.filter (fun t => decide (from_ ≤ t)) ++ en.filter (fun t => decide (t < from_))
  match order.find? (fun t => s.eligible t x.s) with
  | some t => some t
  | none => order.head?

/-- A source is pending: READY, raised, not active, and enabled somewhere. -/
def State.pendingSrc (s : State) (x : Src) : Bool :=
  x.ready && s.raised x.s && x.active.isNone && !(s.enabledAt x.s).isEmpty

/-- One source at one KCLK edge (R394, R396). -/
def State.evalSrc (s : State) (x : Src) : Src :=
  let y : Src :=
    if s.raised x.s then
      (if decide (s.fldOf (A.ntfSrcCfg x.s) 4 8 ≤ x.n) || s.timerMet x || s.bypass x.s then { x with ready := true } else x)
    else { x with n := 0, timer := none, fired := false, ready := false }
  if s.pendingSrc y then
    (match y.route with
     | some t => if t ∈ s.enabledAt y.s then y else { y with route := s.routeOf y }
     | none => { y with route := s.routeOf y })
  else { y with route := none }

/-- The sources that need evaluating: those with a record and those raised. -/
def State.liveSrcs (s : State) : List Nat :=
  let a := (s.ntf.srcs.map Src.s)
  let b := [1, 2, 3, 4].filter s.raised
  let c := s.qps.filterMap fun q => if q.posted != q.cqHead then some (64 + q.qid) else none
  (a ++ b ++ c).foldl (fun acc n => addN n acc) []

/-- The candidates of a target among evaluated sources, ascending (R398). -/
def State.candsOf (s : State) (srcs : List Src) (t : Nat) : List Nat :=
  (srcs.filter fun x => s.pendingSrc x && x.route == some t && s.eligible t x.s).map Src.s

/-- One target at one KCLK edge (R398): a message is due when its candidates gain one that outranks all it had. -/
def State.evalTgt (s : State) (srcs : List Src) (x : Tgt) : Tgt :=
  let new := s.candsOf srcs x.t
  let gain := new.any fun n => !(n ∈ x.cands) && x.cands.all fun o => s.outranks n o
  { x with cands := new,
           due := x.due || (gain && s.fldOf (A.ntfTgtCtl x.t) 0 1 == 1 && !x.msgErr) }

/-- The targets that need evaluating: those with a record and those a source is routed to. -/
def liveTgts (tgts : List Tgt) (srcs : List Src) : List Nat :=
  (tgts.map Tgt.t ++ srcs.filterMap Src.route).foldl (fun acc t => addN t acc) []

/-- The controller after the evaluation of one KCLK cycle. In P2 it holds its state (R404). -/
def State.settledNtf (s : State) : Ntf :=
  let srcs := s.liveSrcs.map fun n => s.evalSrc (s.src n)
  { s.ntf with srcs := srcs, tgts := (liveTgts s.ntf.tgts srcs).map fun t => s.evalTgt srcs (s.tgt t) }

/-- What the controller evaluates at every KCLK (R394): nothing while KCLK is gated in P1 or lost in P2 (R404, R437). -/
def settle (s : State) : State :=
  if s.power.st = .p0 then { s with ntf := s.settledNtf } else s

/-- INT_OUT (R67, R398): the OR of CAND over the targets that drive each line; held in P2; 0 during reset. -/
def State.intOut (s : State) : Nat :=
  if s.pins.porst || s.pins.srst then 0
  else if s.power.st = .p2 then s.ntf.int
  else s.ntf.tgts.foldl (fun acc x =>
    if !x.cands.isEmpty && s.fldOf (A.ntfTgtCtl x.t) 1 1 == 1 then acc ||| (1 <<< s.fldOf (A.ntfTgtCtl x.t) 2 3) else acc) 0

/-- The highest-ranked candidate of a target. -/
def State.bestCand (s : State) (t : Nat) : Option Nat :=
  (s.tgt t).cands.foldl (fun acc n => match acc with
    | none => some n
    | some m => if s.outranks n m then some n else acc) none

/-- A read of NTF_CLAIM (R400): the source it returns and the state after it. -/
def claim (s : State) (t : Nat) : Nat × State :=
  match s.bestCand t with
  | none => (0, s.bump A.ntfEmptyClaimCnt)
  | some n =>
    let x := s.src n
    let g := s.tgt t
    let s1 := s.setSrc { x with n := 0, timer := none, fired := false, ready := false, latch := false,
                                active := some t, route := none, lastT := some t }
    let s2 := s1.setTgt { g with stack := (n, s.prio n) :: g.stack, cands := g.cands.filter (· != n) }
    (n, s2.updQp (n - 64) fun q => if 64 ≤ n then { q with irqNow := false } else q)

/-- A write of NTF_COMPLETE (R401): it must name the target's newest active source. -/
def complete (s : State) (t n : Nat) : State :=
  match (s.tgt t).stack with
  | (m, _) :: rest =>
    if m = n then
      let x := s.src n
      let s1 := s.setTgt { s.tgt t with stack := rest }
      s1.setSrc { x with active := none, ready := x.ready || s.raised n }
    else s.bump A.ntfCmplErrCnt
  | [] => s.bump A.ntfCmplErrCnt

/-- The status register of a target (R399). -/
def State.tgtSts (s : State) (t : Nat) : Nat :=
  let x := s.tgt t
  let run := if Config.nested s.build then x.running.getD 0 else 0
  let act := match x.stack with | (n, _) :: _ => n | [] => 0
  (if x.cands.isEmpty then 0 else 1) + (if x.msgErr then 2 else 0) + (if bit s.pins.tgtIdle t then 4 else 0) +
  (if x.stack.isEmpty then 0 else 8) + run * 16 + x.stack.length % 32 * 256 + act * 65536

end Sys2Proof.Machine
end

