-- ==== Sys2Proof/Machine/Fire.lean ====
section
/-!
DEFINITION. The waggle fabric's event paths (chapter 16): firing a channel, the loop limit, the level producers, and
`run`, the frame around every meaning.
-/

namespace Sys2Proof.Machine

/-- A task acts in the KCLK domain (R411): all but WAKE and the timer tasks. -/
def kclkTask (k : Nat) : Bool := k < 8 || 25 ≤ k

/-- Return from P1 to P0 (R436, R437): REQ returns to 0. -/
def leaveP1 (s : State) : State :=
  if s.power.st = .p1 then ({ s with power := { s.power with st := .p0 } }).setFldOf A.glbPwrCtl 0 2 0 else s

/-- A trigger reaches a task that is busy or held: an overrun (R416, R420). -/
def overrun (s : State) (k : Nat) : State :=
  (s.setReg (A.wglOvr (k / 32)) (s.reg (A.wglOvr (k / 32)) ||| BitVec.ofNat 32 (1 <<< (k % 32)))).bump A.wglOvrCnt

/-- Channel `c` triggers task `k` (R416, R420): its latch is set; in P2 a KCLK task is held instead; in P1 a KCLK
task first returns the block to P0. -/
def trigger (s : State) (c k : Nat) : State :=
  if kclkTask k && s.power.st == .p2 then
    (if k ∈ s.wgl.heldT then overrun s k else { s with wgl := { s.wgl with heldT := addN k s.wgl.heldT } })
  else
    let s1 := if kclkTask k then leaveP1 s else s
    { s1 with wgl := { s1.wgl with latch := s1.wgl.latch.filter (· != (k, c)) ++ [(k, c)] } }

/-- The producers enabled onto a channel, as a mask. -/
def producersOn (s : State) (c : Nat) : Nat :=
  (List.range 56).foldl (fun acc p => if bit (s.regN (A.wglPmap p)) c then acc + 2 ^ p else acc) 0

/-- The tasks a channel triggers, ascending. -/
def tasksOn (s : State) (c : Nat) : List Nat := (List.range 33).filter fun k => bit (s.regN (A.wglTcmap k)) c

/-- The loop rule stops a channel (R418, R419). In P2 the record waits for P0. -/
def loopStop (s : State) (c : Nat) : State :=
  let s1 := s.setReg A.wglChEn (s.reg A.wglChEn &&& ~~~ BitVec.ofNat 32 (1 <<< c))
  let s2 := s1.setReg A.wglLoopSts (s1.reg A.wglLoopSts ||| BitVec.ofNat 32 (1 <<< c))
  let info0 := producersOn s2 c + (if c ∈ s2.wgl.soft then 2 ^ 56 else 0)
  let info1 := (tasksOn s2 c).foldl (fun acc k => acc + 2 ^ k) 0
  let lim := s2.fldOf A.wglLoopCfg 0 16
  if s2.power.st = .p2 then
    { s2 with wgl := { s2.wgl with loopRec := s2.wgl.loopRec ++
      [{ typ := 8, src := c, info0 := info0, info1 := info1, info2 := lim, time := s2.aclk % 2 ^ 32, owner := none }] } }
  else s2.raise 8 c info0 info1 lim

/-- Channel `c` fires (R406, R418). `soft` marks a WGL_FIRE write. -/
def fireChan (soft : Bool) (s : State) (c : Nat) : State :=
  if !bit (s.regN A.wglChEn) c then s
  else
    let s0 := if soft then { s with wgl := { s.wgl with soft := addN c s.wgl.soft } } else s
    let n := (assoc s0.wgl.counts c).getD 0
    if s0.fldOf A.wglLoopCfg 0 16 < n + 1 then loopStop s0 c
    else
      let s1 := { s0 with wgl := { s0.wgl with counts := putBy Prod.fst (c, n + 1) s0.wgl.counts } }
      let s2 := s1.setSrc { s1.src (5 + c) with latch := true }
      let s3 := (s2.event (5 + c)).bump (A.wglFireCnt c)
      s3.each (tasksOn s3 c) (fun st k => trigger st c k)

/-- Producer `p` emits a pulse (R406, R408): every channel it is enabled onto fires, in ascending order. -/
def produce (s : State) (p : Nat) : State :=
  let mask := s.regN (A.wglPmap p)
  s.each ((List.range 32).filter (bit mask)) (fireChan false)

/-- A level producer meets its condition: it emits once and re-arms when `rearm` holds (R408). With HYST 0 both may hold: it emits again only
after its condition has been false. -/
def levelProducer (s : State) (p : Nat) (holds rearm : Bool) : State :=
  if p ∈ s.wgl.unarmed then
    (if rearm && !holds then { s with wgl := { s.wgl with unarmed := delN p s.wgl.unarmed } } else s)
  else if holds then
    produce { s with wgl := { s.wgl with unarmed := addN p s.wgl.unarmed } } p
  else s

/-- The occupancy that RING[k] watches (R409). -/
def ringOcc (s : State) (k : Nat) : Nat :=
  let kind := s.fldOf (A.wglRingCfg k) 0 2
  if kind = 0 then (s.alert.tail + s.arSize - s.arHead % s.arSize) % s.arSize
  else match s.qp (s.fldOf (A.wglRingCfg k) 2 10) with
    | none => 0
    | some q =>
      if kind = 1 then (q.posted + q.cqSize - q.cqHead % q.cqSize) % q.cqSize
      else (q.bell + q.sqSize - q.head % q.sqSize) % q.sqSize

/-- RING[k] (R408, R409): off with LEVEL 0. -/
def ringProducer (s : State) (k : Nat) : State :=
  let lvl := s.fldOf (A.wglRingCfg k) 16 16
  if lvl = 0 then s
  else levelProducer s (49 + k) (decide (lvl ≤ ringOcc s k)) (decide (ringOcc s k < lvl))

/-- The ring producers follow the rings outside P2. -/
def ringCheck (s : State) : State :=
  if s.power.st = .p2 then s else ringProducer (ringProducer (ringProducer (ringProducer s 0) 1) 2) 3

/-- The accepted temperature of a group, 35 °C before any (R69). -/
def State.tempIn (s : State) (g : Nat) : Int :=
  match assoc s.pins.temp g with | some v => v.toInt | none => 35

/-- TEMP_HI[g] and TEMP_LO[g] (R408) against the accepted value, where there is one. -/
def tempCheck (s : State) (g : Nat) : State :=
  match assoc s.pins.temp g with
  | none => s
  | some v =>
    let th := s.regN (A.wglTempTh g)
    let hi := sbyte (bits th 0 8)
    let lo := sbyte (bits th 8 8)
    let h : Int := bits th 16 4
    let t := v.toInt
    let s1 := levelProducer s (32 + g) (decide (hi ≤ t)) (decide (t ≤ hi - h))
    levelProducer s1 (36 + g) (decide (t ≤ lo)) (decide (lo + h ≤ t))

/-- A block that is held: a reset pin is low, or memory self-test ran and PORST_N has not been asserted since
(R74, R470). -/
def State.held (s : State) : Bool := s.pins.porst || s.pins.srst || s.pins.bist

/-- The state a command leaves: its effect, after which the ring producers (R409) and the notification controller (R394)
look at the new state. The queue of commands and the build stay as they were: no command acts on them (R4). -/
def after (s t : State) : State := settle { ringCheck t with pending := s.pending, build := s.build }

/-- The frame of every meaning: a command that names no unit of the part faults; a held block does nothing; otherwise
the command has its effect. -/
def run (ok : Bool) (s : State) (f : State → State) : Host.Outcome State Fault Refusal :=
  if ok then .next (if s.held then s else after s (f s)) else .fault .noSuchUnit

/-- The frame of the pin commands that act on a held block. -/
def runPin (s : State) (f : State → State) : Host.Outcome State Fault Refusal := .next (after s (f s))

end Sys2Proof.Machine
end

