-- ==== Sys2Proof/Machine/Operands.lean ====
section
/-!
DEFINITION. The operand forms of the commands (chapter 04): opcodes, formats and page layouts (R250, R256, R258),
codeword sequences (R118, R122, R262), Class L geometry (R301) and the dies a command names.
-/

namespace Sys2Proof.Machine

/-! ## Opcodes (R117, R136) -/

namespace Opc
def read := 0x01
def gather := 0x02
def scan := 0x03
def program := 0x04
def erase := 0x05
def copy := 0x06
def logAppend := 0x07
def logRead := 0x08
def dieRaw := 0x09
def getFeature := 0x0A
def setFeature := 0x0B
def readParam := 0x0C
def eraseControl := 0x0D
def fence := 0x0E
def calibrate := 0x0F
def abort := 0x10
def createQp := 0x80
def deleteQp := 0x81
def setKeySlot := 0x82
def loadScan := 0x83
def loadMicro := 0x84
def getLog := 0x85
def sanitize := 0x86
def setPatrol := 0x87
def setBudget := 0x88
end Opc

/-- An opcode is defined. -/
def opDefined (o : Nat) : Bool := (0x01 ≤ o && o ≤ 0x10) || (0x80 ≤ o && o ≤ 0x88)
/-- Admin-only opcodes (R76, R136). -/
def opAdmin (o : Nat) : Bool := 0x80 ≤ o && o ≤ 0x88
/-- The opcodes that use a format (R114). -/
def opFormat (o : Nat) : Bool := o == 0x01 || o == 0x02 || o == 0x03 || o == 0x04 || o == 0x06
/-- Opcodes that run an exclusive operation at a die (R155). -/
def opExclusive (o : Nat) : Bool := o == 0x09 || o == 0x0A || o == 0x0B || o == 0x0C
/-- Opcodes with an admission test in a bounded class (R115). -/
def opBounded (o : Nat) : Bool := o == 0x01 || o == 0x02 || o == 0x03 || o == 0x04 || o == 0x05 || o == 0x07 || o == 0x08
/-- Opcodes that write the media (R111 step 6). -/
def opWrites (o : Nat) : Bool := o == 0x04 || o == 0x05 || o == 0x06 || o == 0x07
/-- Read-type commands of R131. -/
def opReadType (o : Nat) : Bool := o == 0x01 || o == 0x02 || o == 0x03 || o == 0x08 || o == 0x0C || o == 0x0A || o == 0x0F

/-- Bit `i` and field of XCTL. -/
def Entry.x (e : Entry) (lo w : Nat) : Nat := bits e.xctl lo w

/-- A command is bounded: LC0 to LC6 of an opcode that has a latency class (R147). -/
def Entry.bounded (e : Entry) : Bool := opBounded e.opc && decide (e.lcls < 7)

/-- META of XCTL. -/
def Entry.hasMeta (e : Entry) : Bool :=
  if e.opc == Opc.gather then bit e.xctl 1 else if e.opc == Opc.read || e.opc == Opc.program then bit e.xctl 0 else false

/-- LTWEAK of XCTL. -/
def Entry.ltweak (e : Entry) : Bool :=
  if e.opc == Opc.copy then bit e.xctl 14
  else if e.opc == Opc.read || e.opc == Opc.program then bit e.xctl 1 else false

/-! ## Formats and layouts (R250, R256, R258). `CwFmt` carries the four registers as sampled. -/

/-- The registers of format `f` in effect. -/
def State.fmtNow (s : State) (f : Nat) : CwFmt :=
  let r := s.reg (A.eccFmt f)
  let k := fld r 4 4
  { fmt := f, reg := r, salt := s.reg (A.eccFmtSalt f), laya := s.reg (A.eccLayoutA k), layb := s.reg (A.eccLayoutB k) }

/-- The registers of format `f` as a stage samples them: the entry of channel `ch`'s read path, or `stWrite ch` (R32). -/
def State.fmtAt (s : State) (ch f : Nat) : CwFmt :=
  let r := s.regAt ch (A.eccFmt f)
  let k := fld r 4 4
  { fmt := f, reg := r, salt := s.regAt ch (A.eccFmtSalt f), laya := s.regAt ch (A.eccLayoutA k),
    layb := s.regAt ch (A.eccLayoutB k) }

/-- Parity bytes P. -/
def CwFmt.p (c : CwFmt) : Nat := 256 + 64 * fld c.reg 0 4
/-- Codeword length L (R250). -/
def CwFmt.len (c : CwFmt) : Nat := 4128 + c.p
def CwFmt.enc (c : CwFmt) : Bool := fld c.reg 8 1 == 1
def CwFmt.stampchk (c : CwFmt) : Bool := fld c.reg 9 1 == 1
def CwFmt.warnBe (c : CwFmt) : Nat := fld c.reg 10 10
def CwFmt.refreshBe (c : CwFmt) : Nat := fld c.reg 20 10
def CwFmt.pageBytes (c : CwFmt) : Nat := fld c.laya 0 16
/-- Codewords per page. -/
def CwFmt.ncw (c : CwFmt) : Nat := fld c.laya 16 3 + 1
/-- The column at which codeword `i` of a page starts. -/
def CwFmt.col (c : CwFmt) (i : Nat) : Nat := fld c.layb 0 16 + i * fld c.layb 16 16

/-- LAYOUT_OK (R258). -/
def CwFmt.layoutOk (c : CwFmt) : Bool :=
  let n := fld c.laya 16 3
  let pitch := fld c.layb 16 16
  decide (4096 ≤ c.pageBytes) && decide (c.pageBytes ≤ 36864) && (n == 0 || decide (c.len ≤ pitch)) &&
  decide (fld c.layb 0 16 + n * pitch + c.len ≤ c.pageBytes)

/-- Pseudo-SLC (R269). -/
def State.pslc (s : State) (ch f : Nat) : Bool := s.fldAt ch (A.rlvFmtMode f) 0 1 == 1

/-! ## Class L geometry (R301) -/

/-- The die-map entry is one that Class L commands accept. -/
def State.classLOk (s : State) (d : Nat) : Bool :=
  s.diePresent d && s.classL d && s.planes d == 1 && s.pages d == 4096 && 2 ≤ s.blocks d && s.blocks d ≤ 4096

/-- Segments S of a Class L LUN. -/
def State.segs (s : State) (d : Nat) : Nat := s.blocks d

/-! ## Log streams (R304, R305) -/

def State.lsDies (s : State) (n : Nat) : List Nat :=
  (List.range (s.fldOf (A.hqLsCtl n) 1 3 + 1)).map fun j => s.fldOf (A.hqLsDie n (j / 2)) (16 * (j % 2)) 11
def State.lsEn (s : State) (n : Nat) : Bool := s.fldOf (A.hqLsCtl n) 0 1 == 1
def State.lsFirst (s : State) (n : Nat) : Nat := s.fldOf (A.hqLsReg n) 0 12
def State.lsNseg (s : State) (n : Nat) : Nat := s.fldOf (A.hqLsReg n) 16 12 + 1
/-- R_s. -/
def State.lsRows (s : State) (n : Nat) : Nat := s.lsNseg n * 4096
/-- A die is read-only by RLV_LW_RO. -/
def State.readOnly (s : State) (d : Nat) : Bool := bit (s.regN (A.rlvLwRo (d / 32))) (d % 32)

/-! ## The codewords a command names -/

/-- Codeword `i` from PADDR `p`, with `n` codewords in each page (R118). -/
def nextCw (p n i : Nat) : Nat :=
  let k := pCw p + i
  pageOf p + k / n * 8 + k % n

/-- The codewords of a READ. -/
def State.readCws (s : State) (e : Entry) : List Nat := (List.range e.count).map (nextCw e.paddr (s.fmtNow e.fmt).ncw)

/-- The pages of a PROGRAM or the blocks of an ERASE: consecutive planes (R122). -/
def planePages (e : Entry) : List Nat := (List.range e.count).map fun i => e.paddr + i * 2 ^ 15

/-- The dies a command names, as far as it has named them. -/
def State.namedDies (s : State) (e : Entry) (elems : List Elem) (groups : List RowGroup) : List Nat :=
  let o := e.opc
  let l : List Nat :=
    if o == Opc.gather then elems.map fun x => pDie x.paddr
    else if o == Opc.scan then groups.flatMap fun g => g.segs.map pDie
    else if o == Opc.copy then [pDie e.paddr, pDie e.aux0]
    else if o == Opc.logAppend then (s.lsDies (e.x 0 6)).filter fun d => !s.readOnly d
    else if o == Opc.calibrate then
      ((List.range 2048).filter fun d => decide (pDie e.paddr ≤ d) && s.diePresent d).take e.count
    else if o == Opc.sanitize then
      (if e.x 0 1 == 1 then s.dies.filter fun d => bit e.aux0 (dieCh d) && s.diePresent d else [])
    else if o ≤ 0x0D ∧ 1 ≤ o then [pDie e.paddr]
    else []
  l.foldl (fun acc d => addN d acc) []

/-- The dies of a command; those of a LOG_APPEND are fixed once it has been placed (R305). -/
def State.slotDies (s : State) (x : Slot) : List Nat :=
  if x.placed.isSome then x.adies
  else s.namedDies x.entry x.elems (match x.scan with | some r => r.groups | none => [])

/-- A command names a die of channel `ch`. -/
def State.onChan (s : State) (ch : Nat) (x : Slot) : Bool := (s.slotDies x).any fun d => dieCh d == ch

/-- A LOG_APPEND waits for its placement. -/
def Slot.waitsPlace (x : Slot) : Bool := match x.phase with | .placing _ => true | _ => false

/-- A command has not finished (R128): it is held, or its effects go on. -/
def Slot.unfinished (x : Slot) : Bool :=
  x.phase == .held || x.waitsPlace || x.phase == .listing || x.phase == .admitted || x.phase == .running

end Sys2Proof.Machine
end

