-- ==== Sys2Proof/Machine/Levels.lean ====
section
/-!
DEFINITION. Read levels (chapter 09): page classes, block groups, temperature, the offsets of a read (R269 to R276),
ladders (R279, R280) and tracking (R285 to R287).
-/

namespace Sys2Proof.Machine

/-! ## Interpolation (R210, R274) -/

/-- One segment between two set points: `÷` rounds down. -/
def lerp (t ta tb va vb : Int) : Int :=
  let den := tb - ta
  let num := va * den + (vb - va) * (t - ta)
  (2 * num + den) / (2 * den)

/-- The value at `t` from four set points and four values. -/
def interp (t : Int) (p : Nat → Int) (v : Nat → Int) : Int :=
  if t ≤ p 0 then v 0
  else if p 3 ≤ t then v 3
  else if p 2 ≤ t then lerp t (p 2) (p 3) (v 2) (v 3)
  else if p 1 ≤ t then lerp t (p 1) (p 2) (v 1) (v 2)
  else lerp t (p 0) (p 1) (v 0) (v 1)

/-- The set whose point is closest to `t`, the lower of two equally close. -/
def nearestSet (t : Int) (p : Nat → Int) : Nat :=
  [1, 2, 3].foldl (fun best k => if (p k - t).natAbs < (p best - t).natAbs then k else best) 0

/-- A value held between two limits. -/
def clampInt (lo hi v : Int) : Int := if v < lo then lo else if hi < v then hi else v

/-- Set point `k` in a register of four signed bytes. -/
def setPoint (w : Word) (k : Nat) : Int := sbyte (fld w (8 * k) 8)

/-- Four signed bytes rise strictly. -/
def risingPoints (w : Word) : Bool :=
  decide (setPoint w 0 < setPoint w 1) && decide (setPoint w 1 < setPoint w 2) && decide (setPoint w 2 < setPoint w 3)

/-! ## Die types (R269, R270). `d` is a die, `f` a format. -/

def State.dtA (s : State) (d : Nat) : Word := s.regAt (dieCh d) (A.rlvDtA (s.dtype d))
def State.dtB (s : State) (d : Nat) : Word := s.regAt (dieCh d) (A.rlvDtB (s.dtype d))
/-- Bits per cell. -/
def State.cellBits (s : State) (d : Nat) : Nat := fld (s.dtA d) 0 2 + 1
def State.faTemp (s : State) (d : Nat) : Nat := fld (s.dtA d) 24 8
def State.offMin (s : State) (d : Nat) : Int := sbyte (fld (s.dtB d) 8 8)
def State.offMax (s : State) (d : Nat) : Int := sbyte (fld (s.dtB d) 16 8)
/-- The page type of level `v`, 1 to 15. -/
def State.lpt (s : State) (d v : Nat) : Nat := s.fldAt (dieCh d) (A.rlvDtLpt (s.dtype d)) (2 * v - 2) 2
def State.ldir (s : State) (d v : Nat) : Bool := s.fldAt (dieCh d) (A.rlvDtLdir (s.dtype d)) (v - 1) 1 == 1

/-- Page class of page `p` (R270). -/
def State.pageClass (s : State) (d f p : Nat) : Nat := if s.pslc (dieCh d) f then 4 else p % s.cellBits d
def State.wordline (s : State) (d f p : Nat) : Nat := if s.pslc (dieCh d) f then p else p / s.cellBits d

/-- The slots a page class uses. -/
def State.slotsOfClass (s : State) (d cls : Nat) : List Nat :=
  if cls = 4 then [0] else (List.range (2 ^ s.cellBits d)).filter fun v => v != 0 && s.lpt d v == cls

/-- The ladder of a page class. -/
def State.ladderOf (s : State) (d cls : Nat) : Nat :=
  if cls = 4 then fld (s.dtB d) 24 5 else s.fldAt (dieCh d) (A.rlvDtLad (s.dtype d)) (8 * cls) 5

/-- The block group of a wordline of a die (R272). -/
def State.blockGroup (s : State) (d wl : Nat) : Nat :=
  let za := s.regAt (dieCh d) (A.rlvDtZoneA (s.dtype d))
  let zb := s.regAt (dieCh d) (A.rlvDtZoneB (s.dtype d))
  let zone := ([fld za 0 12, fld za 16 12, fld zb 0 12].filter fun z => decide (z ≤ wl)).length
  4 * s.fldAt (dieCh d) (A.rlvBucket (d / 16)) (2 * (d % 16)) 2 + zone

/-! ## Temperature (R273) -/

/-- The target of a die as an index of RLV_TEMP. -/
def tempIdx (d : Nat) : Nat := dieCh d * 16 + dieTgt d

/-- The sensor value in use, where polling is on and the last poll is not stale. -/
def State.sensor (s : State) (d : Nat) : Option Int :=
  if s.faTemp d = 0 ∨ s.fldAt (dieCh d) A.rlvTpoll 0 16 = 0 then none
  else match s.rlv.temps.find? fun x => x.1 == tempIdx d with
    | some (_, v, false) => some v.toInt
    | _ => none

/-- T of a target. -/
def State.tempOf (s : State) (d : Nat) : Int := (s.sensor d).getD (s.tempIn (dieCh d / 8))

/-! ## The table (R271) -/

/-- The key of a slot of an entry. -/
def tblKey (d g k slot : Nat) : Nat := ((d * 16 + g) * 4 + k) * 16 + slot
def State.tbl (s : State) (d g k slot : Nat) : Int := (assoc s.rlv.table (tblKey d g k slot)).getD 0
/-- Write a slot; a zero is not listed. -/
def State.setTbl (s : State) (d g k slot : Nat) (v : Int) : State :=
  let l := if v = 0 then delBy Prod.fst (tblKey d g k slot) s.rlv.table else putBy Prod.fst (tblKey d g k slot, v) s.rlv.table
  { s with rlv := { s.rlv with table := l } }

def lgKey (d g cls : Nat) : Nat := (d * 16 + g) * 5 + cls
def State.lastGoodRaw (s : State) (d g cls : Nat) : Nat := (assoc s.rlv.good (lgKey d g cls)).getD 0
def State.setLastGood (s : State) (d g cls v : Nat) : State :=
  let l := if v = 0 then delBy Prod.fst (lgKey d g cls) s.rlv.good else putBy Prod.fst (lgKey d g cls, v) s.rlv.good
  { s with rlv := { s.rlv with good := l } }

/-! ## Ladders (R279, R280) -/

def State.ladLen (s : State) (ch k : Nat) : Nat := s.fldAt ch (A.rlvLadCfg k) 0 5
def State.ladDelta (s : State) (ch k step slot : Nat) : Int :=
  sbyte (s.fldAt ch (A.rlvLad k step (slot / 4)) (8 * (slot % 4)) 8)
def State.softDist (s : State) (ch k n : Nat) : Int :=
  let sd1 : Nat := s.fldAt ch (A.rlvLadCfg k) 8 4
  let sd2 : Nat := s.fldAt ch (A.rlvLadCfg k) 12 4
  if n = 1 then -(sd1 : Int) else if n = 2 then (sd1 : Int) else if n = 3 then -(sd2 : Int) else (sd2 : Int)

/-- The last good step; one at or above LEN counts as 0 (R280). -/
def State.lastGood (s : State) (d g cls : Nat) : Nat :=
  let v := s.lastGoodRaw d g cls
  if s.ladLen (dieCh d) (s.ladderOf d cls) ≤ v then 0 else v

/-! ## Offsets of a read (R274, R275) -/

/-- The offset of a slot in use. -/
def State.offsetOf (s : State) (d g slot : Nat) : Int :=
  let pt := s.regAt (dieCh d) A.rlvTempPt
  clampInt (s.offMin d) (s.offMax d) (interp (s.tempOf d) (setPoint pt) fun k => s.tbl d g k slot)

/-- Block group, page class and slots of the page at PADDR `p` under format `f`. -/
def State.pageInfo (s : State) (p f : Nat) : Nat × Nat × List Nat :=
  let d := pDie p
  let cls := s.pageClass d f (pPage p)
  (s.blockGroup d (s.wordline d f (pPage p)), cls, s.slotsOfClass d cls)

/-- The tracked offsets of a read of a page. -/
def State.firstOffs (s : State) (p f : Nat) : List (Nat × Int) :=
  let i := s.pageInfo p f
  i.2.2.map fun v => (v, s.offsetOf (pDie p) i.1 v)

/-- The offsets of a ladder step: the tracked value plus the step's delta, clamped. -/
def State.ladderOffs (s : State) (p f step : Nat) : List (Nat × Int) :=
  let d := pDie p
  let i := s.pageInfo p f
  i.2.2.map fun v => (v, clampInt (s.offMin d) (s.offMax d)
    (s.offsetOf d i.1 v + s.ladDelta (dieCh d) (s.ladderOf d i.2.1) step v))

/-- The offsets of a soft step around the centre's (R281). -/
def State.softOffs (s : State) (p f n : Nat) (centre : List (Nat × Int)) : List (Nat × Int) :=
  let d := pDie p
  let k := s.ladderOf d (s.pageInfo p f).2.1
  centre.map fun x => (x.1, clampInt (s.offMin d) (s.offMax d) (x.2 + s.softDist (dieCh d) k n))

/-- The offsets last applied to a LUN change to those of a read (R275). -/
def applyOffs (s : State) (d : Nat) (offs : List (Nat × Int)) : State :=
  { s with rlv := { s.rlv with applied :=
      (s.rlv.applied.filter fun x => !(x.1 == d && offs.any fun o => o.1 == x.2.1)) ++ offs.map fun o => (d, o.1, o.2) } }

/-- The record of the LUNs that satisfy `p` holds no value (R275). -/
def forgetOffs (s : State) (p : Nat → Bool) : State :=
  { s with rlv := { s.rlv with applied := s.rlv.applied.filter fun x => !p x.1 } }

/-- The slots for which Set Features precedes a read: those whose value differs from the one last applied. -/
def State.offsToSet (s : State) (d : Nat) (offs : List (Nat × Int)) : List Nat :=
  (offs.filter fun o => !(s.rlv.applied.any fun x => x.1 == d && x.2.1 == o.1 && x.2.2 == o.2)).map Prod.fst

/-- The feature address of slot `v` of a die: FA_SLC of the pSLC slot, FA_RL + j of levels 4j + 1 to 4j + 4 (R269). -/
def State.slotFa (s : State) (d v : Nat) : Nat := if v = 0 then fld (s.dtA d) 16 8 else (fld (s.dtA d) 8 8 + (v - 1) / 4) % 256

/-- The value a Set Features sends for slot `v`: that of the read. For a level the read does not use, of which the spec says nothing,
it is the one last applied, or 0 where none is recorded (DESIGN CHOICE, log entry 104). -/
def State.sentOff (s : State) (d : Nat) (offs : List (Nat × Int)) (v : Nat) : Int :=
  match assoc offs v with
  | some x => x
  | none => ((s.rlv.applied.find? fun x => x.1 == d && x.2.1 == v).map fun x => x.2.2).getD 0

/-- The Set Features due before a read with offsets `offs`: the address and P1 to P4 of each (R269, R275). -/
def State.featsDue (s : State) (d : Nat) (offs : List (Nat × Int)) : List (Nat × List Byte) :=
  let firsts := ((s.offsToSet d offs).map fun v => if v = 0 then 0 else (v - 1) / 4 * 4 + 1).eraseDups
  firsts.map fun v =>
    (s.slotFa d v, if v = 0 then [BitVec.ofInt 8 (s.sentOff d offs 0), 0, 0, 0]
                   else (List.range 4).map fun i => BitVec.ofInt 8 (s.sentOff d offs (v + i)))

/-! ## Tracking (R285 to R287) -/

def State.track (s : State) (d g cls : Nat) : TrackUnit :=
  (s.rlv.units.find? fun x => x.die == d && x.grp == g && x.cls == cls).getD
    { die := d, grp := g, cls := cls, up := 0, dn := 0, n := 0, cool := 0, last := 0 }

def State.setTrack (s : State) (x : TrackUnit) : State :=
  { s with rlv := { s.rlv with units :=
      (s.rlv.units.filter fun y => !(y.die == x.die && y.grp == x.grp && y.cls == x.cls)) ++ [x] } }

/-- The units of a die and group are cleared and their last move set to 0 (R287). -/
def clearTrack (s : State) (d g : Nat) : State :=
  { s with rlv := { s.rlv with units := s.rlv.units.filter fun y => !(y.die == d && y.grp == g) } }

def State.trackCfg (s : State) (d lo w : Nat) : Nat := s.fldAt (dieCh d) A.rlvTrackCfg lo w

/-- The sign of an integer. -/
def sgn (a : Int) : Int := if a < 0 then -1 else if 0 < a then 1 else 0

/-- One slot of a move (R286). -/
def trackSlot (s : State) (d g k : Nat) (a : Int) (slot : Nat) : State :=
  let dir := if slot = 0 then -sgn a else if s.ldir d slot then sgn a else -sgn a
  let new := s.tbl d g k slot + dir
  if new < s.offMin d ∨ s.offMax d < new then
    (s.bump A.rlvTrackClampCnt).setTbl d g k slot (clampInt (s.offMin d) (s.offMax d) new)
  else s.setTbl d g k slot new

/-- A window of unit `x` is judged (R286): `a` is its asymmetry. -/
def trackJudge (s : State) (x : TrackUnit) (a : Int) (slots : List Nat) : State :=
  let d := x.die
  if 0 < x.cool then s.setTrack { x with up := 0, dn := 0, n := 0, cool := x.cool - 1 }
  else
    let thr := s.trackCfg d 4 8
    let need := if x.last ≠ 0 ∧ sgn a ≠ x.last then 2 * thr else thr
    if a.natAbs < need then s.setTrack { x with up := 0, dn := 0, n := 0 }
    else
      let k := nearestSet (s.tempOf d) (setPoint (s.regAt (dieCh d) A.rlvTempPt))
      let s1 := s.each slots fun st v => trackSlot st d x.grp k a v
      (s1.setTrack { x with up := 0, dn := 0, n := 0, last := sgn a, cool := s.trackCfg d 12 4 }).bump A.rlvTrackMoveCnt

/-- A qualifying codeword feeds its unit (R286). -/
def trackFeed (s : State) (d g cls : Nat) (slots : List Nat) (up dn : Nat) : State :=
  if s.trackCfg d 0 1 = 0 then s
  else
    let x0 := s.track d g cls
    let x := { x0 with up := x0.up + up, dn := x0.dn + dn, n := x0.n + 1 }
    if x.n < s.trackCfg d 16 12 then s.setTrack x
    else trackJudge s x ((x.up : Int) - (x.dn : Int)) slots

/-! ## The window (R271, R280). The writes of RLV_TBL_SEL and of the window are applied in order, so a window write
reaches the entry that the last applied selection names (R35). -/

def State.selDie (s : State) : Nat := fld (s.applied A.rlvTblSel) 0 11
def State.selGroup (s : State) : Nat := fld (s.applied A.rlvTblSel) 11 4
def State.selSet (s : State) : Nat := fld (s.applied A.rlvTblSel) 15 2

/-- The key of the selected entry: die, group and temperature set. -/
def State.selKey (s : State) : Nat := (s.selDie * 16 + s.selGroup) * 4 + s.selSet

/-- A write of RLV_TBL_DATA[w] takes effect at the entry of a key (R271, R287); it clears stored poison of its slots (R385). -/
def tblDataWrite (s : State) (key w : Nat) (v : Word) : State :=
  let d := key / 64
  let g := key / 4 % 16
  let k := key % 4
  let s1 := (clearPoison s 3 0 (tblKey d g k (4 * w)) 4).each (List.range 4) fun st i =>
    st.setTbl d g k (4 * w + i) (sbyte (fld v (8 * i) 8))
  clearTrack s1 d g

/-- A write of RLV_TBL_LG takes effect for the die and group of a key (R280). -/
def tblLgWrite (s : State) (key : Nat) (v : Word) : State :=
  s.each (List.range 5) fun st c => st.setLastGood (key / 16) (key % 16) c (fld v (4 * c) 4)

/-- What the window shows: the write that waits for its boundary (R27), or the entry. -/
def State.tblData (s : State) (w : Nat) : Nat :=
  match s.pendAct (A.rlvTblData w) s.selKey with
  | some v => v.toNat
  | none => (List.range 4).foldl (fun acc i => acc + ubyte (s.tbl s.selDie s.selGroup s.selSet (4 * w + i)) * 2 ^ (8 * i)) 0
def State.tblLg (s : State) : Nat :=
  match s.pendAct A.rlvTblLg (s.selKey / 4) with
  | some v => fld v 0 20
  | none => (List.range 5).foldl (fun acc c => acc + s.lastGoodRaw s.selDie s.selGroup c * 2 ^ (4 * c)) 0

/-! ## Temperature polls (R273) -/

/-- A poll of a target succeeded: T is P1 − TOFF. -/
def pollOk (s : State) (d : Nat) (p1 : Byte) : State :=
  let t : Int := (p1.toNat : Int) - ((fld (s.dtB d) 0 8 : Nat) : Int)
  { s with rlv := { s.rlv with temps := (s.rlv.temps.filter fun x => x.1 != tempIdx d) ++
      [(tempIdx d, BitVec.ofInt 8 t, false)], pollGood := putBy Prod.fst (tempIdx d, s.aclk) s.rlv.pollGood } }

end Sys2Proof.Machine
end

