-- ==== Sys2Proof/Machine/Channel.lean ====
section
/-!
DEFINITION. Channels (chapter 06): timing sets and overheads (R193 to R196), channel state and CH_CTL (R198 to R202),
channel operations (R206 to R208), trims and training (R209 to R213).
-/

namespace Sys2Proof.Machine

/-! ## Timing sets (R193, R194) -/

/-- The selected timing set. -/
def State.tsel (s : State) (ch : Nat) : Nat := s.fldOf (A.chCtl ch) 1 3
/-- Parameter `i` of set `t`. -/
def State.tparamIn (s : State) (ch t i : Nat) : Nat := s.fldAt ch (A.chTset ch t i) 0 28
/-- Parameter `i` of the selected set. -/
def State.tparam (s : State) (ch i : Nat) : Nat := s.tparamIn ch (s.tsel ch) i
/-- RATE in MT/s; 0 is SDR timing mode 0. -/
def State.rateOf (s : State) (ch : Nat) : Nat := s.tparam ch 0
/-- Bytes per µs: 10 when RATE is 0 (R193). -/
def State.rateB (s : State) (ch : Nat) : Nat := if s.rateOf ch = 0 then 10 else s.rateOf ch

/-- Picoseconds in the unit of parameter `i`. -/
def unitPs (i : Nat) : Nat := if i ≤ 13 then 1 else if i = 27 then 1000000 else 1000

/-- A parameter in ps. -/
def State.tps (s : State) (ch i : Nat) : Nat := s.tparam ch i * unitPs i

/-- The count of parameter `i` of set `t` in KCLK cycles, from the KCLK_MHZ of ADM_CLKS (R194). -/
def State.kcount (s : State) (ch t i : Nat) : Nat :=
  if i = 0 then 0 else (s.tparamIn ch t i * unitPs i * s.fldOf A.admClks 0 12 + 999999) / 1000000

/-- KCLK cycles of a transfer of `n` bytes at the RATE of set `t` (R219); 10 bytes per µs where RATE is 0 (R193). -/
def State.kxfer (s : State) (ch t n : Nat) : Nat :=
  let r := if s.tparamIn ch t 0 = 0 then 10 else s.tparamIn ch t 0
  (n * s.fldOf A.admClks 0 12 + r - 1) / r

/-! ## Overheads (R196) -/

/-- The present targets of a channel. -/
def State.targets (s : State) (ch : Nat) : List Nat :=
  (List.range 16).filter fun t => s.chPresent ch && fld (s.regAt ch (A.chDiemapA ch t)) 0 1 == 1

/-- The largest value over the present targets. -/
def State.maxTgt (s : State) (ch : Nat) (f : Nat → Nat) : Nat := (s.targets ch).foldl (fun m t => max m (f t)) 0
def State.ovN (s : State) (ch : Nat) : Nat := s.maxTgt ch fun t => fld (s.regAt ch (A.chDiemapA ch t)) 4 3 + 1
def State.ovNca (s : State) (ch : Nat) : Nat := s.maxTgt ch fun t => fld (s.regAt ch (A.chDiemapB ch t)) 12 2 + 1
def State.ovNra (s : State) (ch : Nat) : Nat := s.maxTgt ch fun t => fld (s.regAt ch (A.chDiemapB ch t)) 14 2 + 1

/-- O_R in ps; with no target present every overhead has its reset value 0 (DEDUCED, log entry 12). -/
def State.ovR (s : State) (ch : Nat) : Nat :=
  if s.targets ch = [] then 0
  else s.tps ch 2 + (2 + s.ovNca ch + s.ovNra ch) * s.tps ch 1 + s.tps ch 7 + s.tps ch 10 + s.tps ch 11 + s.tps ch 3
def State.ovP (s : State) (ch : Nat) : Nat :=
  if s.targets ch = [] then 0
  else s.tps ch 2 + s.ovN ch * ((2 + s.ovNca ch + s.ovNra ch) * s.tps ch 1 + s.tps ch 6 + s.tps ch 12 + s.tps ch 13) +
    (s.ovN ch - 1) * s.tps ch 19 + s.tps ch 3
def State.ovE (s : State) (ch : Nat) : Nat :=
  if s.targets ch = [] then 0
  else s.tps ch 2 + s.ovN ch * (2 + s.ovNra ch) * s.tps ch 1 + (s.ovN ch - 1) * s.tps ch 19 + s.tps ch 3
/-- O_S without its two transfers, in ps. -/
def State.ovSbase (s : State) (ch : Nat) : Nat :=
  s.tps ch 2 + (1 + s.ovNra ch) * s.tps ch 1 + s.tps ch 5 + s.tps ch 10 + s.tps ch 11 + s.tps ch 3

/-- Whole ns, rounded up. -/
def nsUp (ps : Nat) : Nat := (ps + 999) / 1000
/-- O_S in whole ns: the two transfers take 2 ÷ RATE µs. At RATE 0 they take the 10 bytes per µs of R193 (DESIGN CHOICE, log entry
100). -/
def State.ovSns (s : State) (ch : Nat) : Nat :=
  if s.targets ch = [] then 0
  else (s.ovSbase ch * s.rateB ch + 2000000 + 1000 * s.rateB ch - 1) / (1000 * s.rateB ch)

/-- OVH_VIOL. -/
def State.ovhViol (s : State) (ch : Nat) : Bool := decide (400000 < s.ovR ch)

/-! ## Channel state (R198 to R201) -/

def State.en (s : State) (ch : Nat) : Bool := s.fldOf (A.chCtl ch) 0 1 == 1
def State.live (s : State) (ch : Nat) : Bool := s.fldOf (A.chCtl ch) 5 1 == 1
def State.wpRel (s : State) (ch : Nat) : Bool := s.fldOf (A.chCtl ch) 4 1 == 1
def State.volume (s : State) (ch : Nat) : Bool := s.fldOf (A.chCtl ch) 6 1 == 1
/-- The channel's group is enabled (R415). -/
def State.grpOn (s : State) (ch : Nat) : Bool := bit (s.regN A.wglGrpCtl) (ch / 8)

/-- No routine runs: none is between its start and its END, and no channel operation is busy. -/
def Chan.idle (c : Chan) : Bool := c.ctxs.isEmpty && c.op.isNone && c.run.isNone

/-- QUIET. -/
def State.quiet (s : State) (ch : Nat) : Bool :=
  !s.live ch && (s.chan ch).idle && !(s.slots.any fun x => x.unfinished && x.phase != .held && s.onChan ch x)

/-- The first condition of R201 that fails; 0 when all hold. -/
def State.notLiveReason (s : State) (ch : Nat) : Nat :=
  let c := s.chan ch
  if !(s.en ch && c.pll) then 1
  else if !c.zqOk then 2
  else if s.ovhViol ch then 3
  else if (s.targets ch).isEmpty then 4
  else if decide (0 < s.rateOf ch) &&
      !(c.eyeValid && decide (s.fldOf (A.chEyeMin ch) 0 7 ≤ c.eyeW) && decide (s.fldOf (A.chEyeMin ch) 8 12 ≤ c.eyeH)) then 5
  else if decide (4000 ≤ s.rateOf ch) && !c.trained then 6
  else if c.frozen then 7
  else 0

/-- LIVE is written 1 (R201): it takes effect only when every condition holds. A write of 1 while LIVE is 1 changes neither LIVE nor
NOTLIVE (DESIGN CHOICE, log entry 101). -/
def setLive (s : State) (ch : Nat) : State :=
  let r := s.notLiveReason ch
  if s.live ch then s
  else if r = 0 then forgetOffs ((s.setFldOf (A.chCtl ch) 5 1 1).updChan ch fun c => { c with notLive := 0 }) fun d => dieCh d == ch
  else s.updChan ch fun c => { c with notLive := r }

/-- LIVE is written 0. -/
def clearLive (s : State) (ch : Nat) : State := (s.setFldOf (A.chCtl ch) 5 1 0).updChan ch fun c => { c with notLive := 0 }

/-- The PLL relocks (R200): what was measured at the old RATE is gone. -/
def relock (s : State) (ch : Nat) : State :=
  s.updChan ch fun c => { c with pll := false, trained := false, eyeValid := false, keepRx := none, keepTx := none }

/-- A write of TSEL (R200). -/
def setTsel (s : State) (ch t : Nat) : State :=
  let same := s.fldAt ch (A.chTset ch t 0) 0 28 == s.rateOf ch
  if same then s.setFldOf (A.chCtl ch) 1 3 t
  else if s.quiet ch then relock (s.setFldOf (A.chCtl ch) 1 3 t) ch
  else s

/-- A write of EN: the PLL starts or stops, and no volume counts as selected (R188). -/
def setEn (s : State) (ch : Nat) (on : Bool) : State :=
  if s.en ch == on then s
  else (s.setFldOf (A.chCtl ch) 0 1 (if on then 1 else 0)).updChan ch fun c =>
    { c with pll := false, volSel := if on then [] else c.volSel }

/-- A write of WP_REL (R202). -/
def setWpRel (s : State) (ch : Nat) (on : Bool) : State :=
  let s1 := s.setFldOf (A.chCtl ch) 4 1 (if on then 1 else 0)
  if on then s1.updChan ch fun c => { c with wpFall := none }
  else if s.wpRel ch then s1.updChan ch fun c => { c with wpFall := some s.admSeq }
  else s1

/-- EN, TSEL and VOLUME of a CH_CTL write take effect: the channel stands at an instruction boundary (R198). -/
def chCtlTake (s : State) (ch : Nat) (v : Word) : State :=
  (setTsel (setEn s ch (fld v 0 1 == 1)) ch (fld v 1 3)).setFldOf (A.chCtl ch) 6 1 (fld v 6 1)

/-- WP_REL and LIVE of a CH_CTL write, which act from the write on (R201, R202). -/
def chCtlNow (s : State) (ch : Nat) (v : Word) : State :=
  let s1 := setWpRel s ch (fld v 4 1 == 1)
  if fld v 5 1 = 1 then setLive s1 ch else clearLive s1 ch

/-- The TSEL a write of CH_CTL leaves: one whose RATE differs is a reserved encoding unless QUIET is 1 (R200). -/
def State.tselKept (s : State) (ch : Nat) (v : Word) : Word :=
  let t := fld v 1 3
  if s.fldAt ch (A.chTset ch t 0) 0 28 == s.rateOf ch || s.quiet ch then v else setFld v 1 3 (s.tsel ch)

/-- The sequencer of a channel is idle or halted, so it always stands at an instruction boundary (R29). -/
def Chan.atBoundary (c : Chan) : Bool := (c.run.isNone && c.op.isNone) || c.frozen

/-- CH_PLL_LOCK: the PLL of an enabled channel locks at the selected RATE (R200). -/
def execChPllLock (ch : Nat) (s : State) : Host.Outcome State Fault Refusal :=
  run (ch < 32) s fun s => if s.chPresent ch && s.en ch then s.updChan ch fun c => { c with pll := true } else s

/-- WP_N_RAISE (R202): WP_REL is 1, no routine runs, the channel is not frozen. -/
def execWpNRaise (ch : Nat) (s : State) : Host.Outcome State Fault Refusal :=
  run (ch < 32) s fun s =>
    if s.chPresent ch && s.wpRel ch && (s.chan ch).idle && !(s.chan ch).frozen then s.updChan ch fun c => { c with wp := true } else s

/-- A command that may write the channel, admitted before sequence `n`, has not finished. -/
def State.writesBefore (s : State) (ch n : Nat) : Bool :=
  s.slots.any fun x => x.unfinished && opWrites x.entry.opc && decide (x.seq < n) && s.onChan ch x

/-- WP_N_LOWER (R202): WP_REL is 0 and every writing command admitted before that write has finished. -/
def execWpNLower (ch : Nat) (s : State) : Host.Outcome State Fault Refusal :=
  run (ch < 32) s fun s =>
    if s.wpRel ch || s.writesBefore ch ((s.chan ch).wpFall.getD s.admSeq) then s
    else s.updChan ch fun c => { c with wp := false, wpFall := none }

/-! ## Channel operations (R206 to R208) -/

/-- The argument of a channel operation is malformed, or the operation is reserved (log entry 13). -/
def chOpBad (s : State) (ch : Nat) (w : Word) : Bool :=
  let op := fld w 0 4
  let arg := fld w 10 8
  let n := s.regN (A.chOpArg ch)
  op == 0 || decide (0xA < op) || (fld w 18 1 == 1 && op != 5) ||
  ((op == 3 || op == 4) && (n == 0 || decide (1024 < n))) ||
  (op == 2 && (decide (1 < arg) || (arg == 1 && !s.volume ch))) || (op == 7 && decide (1 < arg)) ||
  (op == 9 && (arg % 8 == 0 || bit arg 3))

/-- An operation ends: BUSY falls, RESULT and BYTES are set. -/
def chOpEnd (s : State) (ch res n : Nat) : State := s.updChan ch fun c => { c with op := none, opRes := res, opBytes := n }

/-- A write of CH_OP (R207, R208): ignored while BUSY. -/
def chOpWrite (s : State) (ch : Nat) (v : Word) : State :=
  let c := s.chan ch
  if !s.chPresent ch || c.op.isSome then s
  else
    let w := Reg.merge [Reg.f 0 4, Reg.f 4 4, Reg.f 8 2, Reg.f 10 8, Reg.f 18 1] 0 v
    let s1 := s.setReg (A.chOp ch) w
    if c.frozen || (s.live ch && fld w 0 4 != 1) then chOpEnd s1 ch 1 0
    else if chOpBad s1 ch w then chOpEnd s1 ch 7 0
    else s1.updChan ch fun c => { c with op := some { word := w, arg := s1.reg (A.chOpArg ch), tset := s1.tsel ch, begun := s1.aclk, fresh := c.run.isSome }, opBytes := 0 }

/-- The CE_n line of a target, direct or in volume addressing (R188). -/
def State.ceLine (s : State) (ch t : Nat) : Nat := if s.volume ch then t / 8 else t

/-- Cycles, command (1) and address (2), are seen by the dies of the channel. -/
def cycles (s : State) (ch : Nat) (l : List (Nat × Byte)) : State := s.updChan ch fun c => { c with cycles := c.cycles ++ l }

/-- The volume of a target is the one last selected on its CE_n line, or needs no selection (R188). -/
def State.volOk (s : State) (ch t : Nat) : Bool := !s.volume ch || assoc (s.chan ch).volSel (t / 8) == some t

/-- Volume Select for a target where its line has another volume selected (R188): 0xE1 and the volume address. -/
def selectVolume (s : State) (ch t : Nat) : State :=
  if s.volOk ch t then s
  else cycles (s.updChan ch fun c => { c with volSel := putBy Prod.fst (t / 8, t) c.volSel }) ch [(1, 0xE1), (2, BitVec.ofNat 8 t)]

/-! ### The pins outside a bus cycle (R39) -/

/-- The levels of a channel's pins: true is high; DQ and DQS are driven or not. -/
structure ChanPins where
  ce  : List Bool
  we  : Bool
  reT : Bool
  reC : Bool
  ale : Bool
  cle : Bool
  wp  : Bool
  dqDriven : Bool
  deriving DecidableEq, Repr

/-- The pins of a channel between bus cycles, which is where every command leaves it. A CE_n line is low only inside a bus
sequence, which no freeze, reset or P2 leaves open. -/
def State.chanPins (s : State) (ch : Nat) : ChanPins :=
  { ce := (List.range 16).map fun i => (s.chan ch).ceLow != some i, we := true, reT := true, reC := false, ale := false, cle := false,
    wp := (s.chan ch).wp, dqDriven := false }

/-- `n` bytes returned by a die: those given, and undefined ones where fewer were given. -/
def State.fitBytes (s : State) (n : Nat) (l : List Byte) : List Byte := (l ++ s.freeBytes (n - l.length)).take n

/-- The RESULT of an operation that waits on a die (R208). -/
def dieResult (e : DieEnd) : Nat := match e with | .ready => 0 | .stuckBusy => 2 | .noStatus => 3

/-- The operation enters the sequencer at an instruction boundary with CE_n high: its timing set is sampled (R33, R207). -/
def opEnter (s : State) (ch : Nat) : State :=
  s.updChan ch fun c => { c with op := c.op.map fun (o : ChOp) => if o.fresh then { o with tset := s.tsel ch, begun := s.aclk, fresh := false } else o }

/-- The parameter an operation waits for (R208). -/
def opWaits (o : Nat) : Nat := if o = 2 then 15 else if o = 4 then 20 else if o = 5 ∨ o = 6 then 14 else if o = 8 then 28 else 0

/-- An operation may end so now: a die counts as stuck busy once the named wait has passed, and a Set Features with an interface
change lasts tITC beyond (R208). -/
def State.opMayEnd (s : State) (ch : Nat) (op : ChOp) (e : DieEnd) : Bool :=
  let o := fld op.word 0 4
  let ran := 1000 * (s.aclk - op.begun)
  match e with
  | .stuckBusy => opWaits o == 0 || decide (s.tparamIn ch op.tset (opWaits o) ≤ ran)
  | .ready => !(o == 5 && (fld op.word 10 8 == 1 || fld op.word 18 1 == 1)) || decide (s.tparamIn ch op.tset 29 ≤ ran)
  | .noStatus => true

/-- The operation `o` that runs on a channel's bus: its PLL is locked, and no routine holds a CE_n line (R200, R207). -/
def State.opRuns (s : State) (ch o : Nat) : Option ChOp :=
  (s.chan ch).op.filter fun p => fld p.word 0 4 == o && (s.chan ch).pll && (s.chan ch).ceLow.isNone

/-- The cycles of an operation (R208). R208 leaves the volume appointment and ZQ calibration to ONFI 5.1: Set Features 0x58 with the
volume address, and 0xF9 with the LUN (PRESUMED, log entry 102). -/
def opCycles (op : ChOp) : List (Nat × Byte) :=
  let arg := BitVec.ofNat 8 (fld op.word 10 8)
  match fld op.word 0 4 with
  | 2 => [(1, 0xFF)]
  | 3 => [(1, 0x90), (2, arg)]
  | 4 => [(1, 0xEC), (2, arg)]
  | 5 => [(1, 0xEF), (2, arg)]
  | 6 => [(1, 0xEE), (2, arg)]
  | 7 => [(1, 0xEF), (2, 0x58)]
  | 8 => [(1, 0xF9), (2, BitVec.ofNat 8 (fld op.word 8 2))]
  | _ => []

/-- The data bytes of an operation: P1 to P4 of a Set Features. -/
def opData (op : ChOp) : List Byte :=
  match fld op.word 0 4 with
  | 5 => leBytes 4 op.arg.toNat
  | 7 => [BitVec.ofNat 8 (fld op.word 4 4), 0, 0, 0]
  | _ => []

/-- The targets an operation addresses by their volume: none for the operations on a whole CE_n line, every present one for TRAIN and EYE. -/
def State.opTargets (s : State) (ch : Nat) (op : ChOp) : List Nat :=
  let o := fld op.word 0 4
  if o = 7 ∨ (o = 2 ∧ fld op.word 10 1 = 1) then [] else if o = 9 ∨ o = 10 then s.targets ch else [fld op.word 4 4]

/-- The bus sequence of an operation. -/
def opIssue (s : State) (ch : Nat) (op : ChOp) : State :=
  let s1 := (s.updChan ch fun c => { c with cycles := [], opened := opData op }).each (s.opTargets ch op) fun st t => selectVolume st ch t
  cycles s1 ch (opCycles op)

/-- A channel operation `o` ends with what the dies did; `eff` is its effect when the die answered. -/
def dieOpEnd (s0 : State) (ch o : Nat) (e : DieEnd) (eff : ChOp → State → State) : State :=
  let s := opEnter s0 ch
  match s.opRuns ch o with
  | none => s0
  | some op =>
    if !s.opMayEnd ch op e then s0
    else if e == .ready then eff op (opIssue s ch op) else chOpEnd (opIssue s ch op) ch (dieResult e) 0

/-- The operation ends with `n` bytes in CH_PBUF. -/
def dieOpData (s : State) (ch o : Nat) (e : DieEnd) (n : Nat) (data : List Byte) : State :=
  dieOpEnd s ch o e fun _ st =>
    chOpEnd ((st.updChan ch fun c => { c with pbuf := st.fitBytes n data }).useFree (n - data.length)) ch 0 n

/-- CH_OP_ARG as sampled, as a byte count. -/
def State.opCount (s : State) (ch : Nat) : Nat := match (s.chan ch).op with | some o => o.arg.toNat | none => 0

/-- RESET (R208): no volume counts as selected on the line, and the dies' read-level records are invalid (R275). -/
def execReset (ch : Nat) (die : DieEnd) (s : State) : Host.Outcome State Fault Refusal :=
  run (ch < 32) s fun s =>
    match ((opEnter s ch).opRuns ch 2).filter fun o => (opEnter s ch).opMayEnd ch o die with
    | none => s
    | some o =>
      let t := fld o.word 4 4
      let line := s.ceLine ch t
      let all := fld o.word 10 1 == 1
      let s1 := dieOpEnd s ch 2 die fun _ st => chOpEnd st ch 0 0
      let s2 := s1.updChan ch fun c => { c with volSel := delBy Prod.fst line c.volSel }
      forgetOffs s2 fun d => dieCh d == ch && (dieTgt d == t || (all && s.ceLine ch (dieTgt d) == line))

/-- READ_ID (R208). -/
def execReadId (ch : Nat) (die : DieEnd) (data : List Byte) (s : State) : Host.Outcome State Fault Refusal :=
  run (ch < 32) s fun s => dieOpData s ch 3 die (s.opCount ch) data

/-- CH_OP_READ_PARAM (R208). -/
def execChOpReadParam (ch : Nat) (die : DieEnd) (data : List Byte) (s : State) : Host.Outcome State Fault Refusal :=
  run (ch < 32) s fun s => dieOpData s ch 4 die (s.opCount ch) data

/-- CH_OP_SET_FEATURE (R208): the target's read-level records are invalid (R275). -/
def execChOpSetFeature (ch : Nat) (die : DieEnd) (s : State) : Host.Outcome State Fault Refusal :=
  run (ch < 32) s fun s =>
    match ((opEnter s ch).opRuns ch 5).filter fun o => (opEnter s ch).opMayEnd ch o die with
    | none => s
    | some o => forgetOffs (dieOpEnd s ch 5 die fun _ st => chOpEnd st ch 0 0) fun d => dieCh d == ch && dieTgt d == fld o.word 4 4

/-- CH_OP_GET_FEATURE (R208). -/
def execChOpGetFeature (ch : Nat) (die : DieEnd) (data : List Byte) (s : State) : Host.Outcome State Fault Refusal :=
  run (ch < 32) s fun s => dieOpData s ch 6 die 4 data

/-- VOLUME (R208). -/
def execVolume (ch : Nat) (die : DieEnd) (s : State) : Host.Outcome State Fault Refusal :=
  run (ch < 32) s fun s => dieOpEnd s ch 7 die fun _ st => chOpEnd st ch 0 0

/-- DIE_ZQ (R208). -/
def execDieZq (ch : Nat) (die : DieEnd) (s : State) : Host.Outcome State Fault Refusal :=
  run (ch < 32) s fun s => dieOpEnd s ch 8 die fun _ st => chOpEnd st ch 0 0

/-- A channel of the group runs PHY_ZQ. -/
def Chan.inZq (c : Chan) : Bool := match c.op with | some o => fld o.word 0 4 == 1 | none => false

/-- The codes a calibration derives: pull-up and pull-down for the three DRV and the four ODT settings (R205). The spec gives no code
for a resistance: free values (log entry 103). -/
def zqCodes : Nat := 14

/-- The group's CALR calibration ends (R206): the resistor measures 240 Ω within 3 %, or it does not. The codes of a successful one
go to the eight PHYs; a failed one leaves the codes as they are. -/
def zqEnd (s : State) (g ohm10 : Nat) : State :=
  let ok := decide (2328 ≤ ohm10) && decide (ohm10 ≤ 2472)
  let s1 := s.each ((List.range 8).map fun i => 8 * g + i) fun st c =>
    let st1 := st.updChan c fun x => { x with zqOk := ok, zq := if ok then s.freeBytes zqCodes else x.zq }
    if (st.chan c).inZq then chOpEnd st1 c (if ok then 0 else 4) 0 else st1
  if ok then s1.useFree zqCodes else s1

/-- PHY_ZQ (R206). -/
def execPhyZq (ch ohm10 : Nat) (s : State) : Host.Outcome State Fault Refusal :=
  run (ch < 32) s fun s => if (s.chan ch).inZq then zqEnd s (ch / 8) ohm10 else s

/-! ## Trims (R209, R210) -/

/-- The trim in use of lane `l` of a channel: receive or transmit. -/
def State.trimInUse (s : State) (ch l : Nat) (tx : Bool) : Int :=
  let pt := s.regAt ch (A.chTrimTemp ch)
  interp (s.tempIn (ch / 8)) (setPoint pt) fun k => ((s.fldAt ch (A.chTrim ch k l) (if tx then 8 else 0) 7 : Nat) : Int)

/-! ## Training (R211) -/

/-- Runs of consecutive set bits of a mask of `n` positions, as (lo, hi). -/
def runsOf (mask : Nat) : Nat → List (Nat × Nat)
  | 0 => []
  | n + 1 =>
    if bit mask n then
      (match runsOf mask n with
       | (lo, hi) :: l => if hi + 1 = n then (lo, n) :: l else (n, n) :: (lo, hi) :: l
       | [] => [(n, n)])
    else runsOf mask n

/-- The widest runs, the higher first; which of several equally wide ones is meant the spec does not say. -/
def widest (mask : Nat) : List (Nat × Nat) :=
  let l := runsOf mask 128
  let w := l.foldl (fun m x => max m (x.2 - x.1 + 1)) 0
  l.filter fun x => x.2 - x.1 + 1 == w

/-- One of a list, chosen by the k-th free value from here (log entry 3). -/
def State.pick {α : Type} (s : State) (k : Nat) (l : List α) : Option α :=
  l[(Config.freeWord (s.free + k)).toNat % max 1 l.length]?

/-- The window of lane `l` among the masks of a direction. -/
def State.window (s : State) (k : Nat) (masks : List Nat) (l : Nat) : Option (Nat × Nat) := s.pick (k + l) (widest (masks.getD l 0))

/-- The widths of the nine lanes, 0 for a lane without a window. -/
def State.widths (s : State) (k : Nat) (masks : List Nat) : List Nat :=
  (List.range 9).map fun l => match s.window k masks l with | some w => w.2 - w.1 + 1 | none => 0

/-- The narrowest width over the given directions, and the lanes that have it. -/
def narrowest (a b : Option (List Nat)) : Nat × List Nat :=
  let all := ((a.getD []).zipIdx ++ (b.getD []).zipIdx)
  let w := all.foldl (fun m x => min m x.1) 128
  (w, (all.filter fun x => x.1 == w).map Prod.snd)

/-- Write the centres of a direction's windows into the temperature sets of `sets`. -/
def writeTrims (s : State) (ch sets k : Nat) (tx : Bool) (masks : List Nat) : State :=
  s.each ((List.range 4).filter (bit sets)) fun st j =>
    st.each (List.range 9) fun st2 l =>
      match s.window k masks l with
      | some w => st2.setFldOf (A.chTrim ch j l) (if tx then 8 else 0) 7 ((w.1 + w.2) / 2)
      | none => st2

/-- TRAIN's or EYE's read and write measurement (R211). `rd` and `wr` say which directions were measured, `sets` the
temperature sets written, `train` that the trims and VREF are written. -/
def measure (s : State) (ch : Nat) (e : EyeScan) (rd wr train : Bool) (sets steps : Nat) : State :=
  let c := s.chan ch
  let rx := if rd then some (s.widths 0 e.rx) else c.keepRx
  let tx := if wr then some (s.widths 16 e.tx) else c.keepTx
  let vw := s.pick 40 (widest e.vref)
  let bad := ((List.range 9).filter fun l => (rd && ((rx.getD []).getD l 0 == 0)) || (wr && ((tx.getD []).getD l 0 == 0)))
  match s.pick 42 bad with
  | some lane =>
    let f := fun (c : Chan) =>
      { c with keepRx := rx, keepTx := tx, eyeValid := false, eyeW := 0, eyeLane := lane, trained := c.trained && !train }
    chOpEnd ((s.updChan ch f).useFree 48) ch 5 0
  | none =>
    let nw := narrowest rx tx
    let h := if rd then (match vw with | some w => 3 * (w.2 - w.1 + 1) | none => 0) else c.eyeH
    let low := decide (nw.1 < s.fldOf (A.chEyeMin ch) 0 7) || decide (h < s.fldOf (A.chEyeMin ch) 8 12)
    let s1 := if train && rd then
        (let t := writeTrims s ch sets 0 false e.rx
         match vw with | some w => t.setFldOf (A.chPhyCfg ch) 6 7 ((w.1 + w.2) / 2) | none => t) else s
    let s2 := if train && wr then writeTrims s1 ch sets 16 true e.tx else s1
    let f := fun (c : Chan) =>
      { c with
        keepRx := rx, keepTx := tx, eyeValid := true, eyeW := nw.1, eyeH := h,
        eyeLane := (s.pick 41 nw.2).getD 0, eyeTemp := BitVec.ofInt 8 (s.tempIn (ch / 8)),
        trained := c.trained || (train && steps == 7 && !low) }
    chOpEnd ((s2.updChan ch f).useFree 48) ch (if low then 6 else 0) 0

/-- TRAIN (R211): DCC, read DQ and write DQ as ARG[2:0] selects. -/
def execTrain (ch : Nat) (scan : EyeEnd) (dcc : Word) (s : State) : Host.Outcome State Fault Refusal :=
  run (ch < 32) s fun s =>
    dieOpEnd s ch 9 scan.die fun o st =>
      let steps := fld o.word 10 3
      let s1 := if bit steps 0 then st.setReg (A.chDcc ch) (Reg.merge [Reg.f 0 6, Reg.f 8 6] 0 dcc) else st
      if !bit steps 1 && !bit steps 2 then chOpEnd s1 ch 0 0
      else measure s1 ch scan.eye (bit steps 1) (bit steps 2) true (fld o.word 14 4) steps

/-- EYE (R208, R211): both windows of every lane, and no trim changes. -/
def execEye (ch : Nat) (scan : EyeEnd) (s : State) : Host.Outcome State Fault Refusal :=
  run (ch < 32) s fun s => dieOpEnd s ch 10 scan.die fun _ st => measure st ch scan.eye true true false 0 0

/-! ## The fast path of a wake (R213) -/

/-- The PLL of a woken channel locks again and its read DQ is trained, on every present target in turn; then LIVE where R201 holds. -/
def fastPath (s : State) (ch : Nat) (e : EyeScan) : State :=
  let c := s.chan ch
  let s0 := (s.updChan ch fun c => { c with pll := true, volSel := [], op := none }).each (s.targets ch) fun st t => selectVolume st ch t
  let rx := s.widths 0 e.rx
  let set := nearestSet (s.tempIn (ch / 8)) (setPoint (s.reg (A.chTrimTemp ch)))
  let s2 := if rx.any (· == 0) then
      s0.updChan ch fun c => { c with keepRx := some rx, trained := false, eyeValid := false }
    else
      let nw := narrowest (some rx) c.keepTx
      let vw := s.pick 40 (widest e.vref)
      let t := writeTrims s0 ch (2 ^ set) 0 false e.rx
      let h := match vw with | some w => 3 * (w.2 - w.1 + 1) | none => 0
      t.updChan ch fun c =>
        { c with
          keepRx := some rx, eyeValid := true, eyeW := nw.1, eyeLane := (s.pick 41 nw.2).getD 0, eyeH := h,
          eyeTemp := BitVec.ofInt 8 (s.tempIn (ch / 8)) }
  setLive (s2.useFree 48) ch

end Sys2Proof.Machine
end

