-- ==== Sys2Proof/Machine/Fabric.lean ====
section
/-!
DEFINITION. The Gheso fabric port (chapter 02): credits (R44, R48), the form of requests (R45, R46, R354), tags
(R47, R55) and how a request leaves the block.
-/

namespace Sys2Proof.Machine

/-- How a read ended: its data, or the way it failed (R50, R54). -/
inductive RdEnd where
  | ok (data : List Byte)
  | err | poison | timeout
  deriving DecidableEq, Repr

/-- How a write ended (R49, R54). -/
inductive WrEnd where
  | ok | err | timeout
  deriving DecidableEq, Repr

/-- The lowest tag that is neither outstanding nor quarantined (R47, R55). -/
def freeTag (x : Port) : Option Nat :=
  (List.range 256).find? fun t => !(x.out.any fun r => r.tag == t) && !(x.quar.any fun q => q.tag == t)

/-- Write-data beats leave in the order of their requests while credits last (R44, R45). -/
def sendBeats : Nat → List (Nat × Nat) → Nat × List (Nat × Nat)
  | c, [] => (c, [])
  | c, (t, n) :: l => if n ≤ c then sendBeats (c - n) l else (0, (t, n - c) :: l)

/-- Requests that wait are transferred in order while a request credit and a tag are free (R44, R47, R48). Each starts its timeout,
under the T_FAB then in force (R53, R54). -/
def transfer (now tfab : Nat) : List Req → Port → Port
  | [], x => { x with wait := [] }
  | r :: l, x =>
    match freeTag x with
    | some t =>
      if 0 < x.rqCrd then
        transfer now tfab l { x with rqCrd := x.rqCrd - 1, out := x.out ++ [{ r with tag := t, sent := now, tfab := tfab }],
                                     beats := if r.write then x.beats ++ [(t, r.beats)] else x.beats }
      else { x with wait := r :: l }
    | none => { x with wait := r :: l }

/-- A port moves what its credits allow. -/
def pumpPort (now tfab : Nat) (x : Port) : Port :=
  let y := transfer now tfab x.wait x
  { y with wdCrd := (sendBeats y.wdCrd y.beats).1, beats := (sendBeats y.wdCrd y.beats).2 }

/-- Beats of requests that carry poison. -/
def psnBeats (l : List Req) : Nat := (l.map fun r => r.psn.length).sum

/-- Port `p` has become `x`, and moves what its credits allow; MOV_PSN_CNT counts the poisoned beats that leave (R369). -/
def pump (s : State) (p : Nat) (x : Port) : State :=
  let y := pumpPort s.aclk (fld (s.reg (A.movTfab p)) 0 20) x
  let left := psnBeats x.wait - psnBeats y.wait
  if left = 0 then s.setPort p y else (s.setPort p y).bump A.movPsnCnt left

/-- The mover has been told to stop: no new request is issued (R373). -/
def State.stopped (s : State) : Bool := s.mover.aborting || s.mover.aborted

/-- A request is issued on a port (R45). -/
def issue (s : State) (p : Nat) (r : Req) : State :=
  if s.stopped then s
  else
    let x := s.port p
    pump s p { x with wait := x.wait ++ [r] }

/-- The pieces of a span: each within one 4 KiB page, so of at most 64 beats (R45, R354). -/
def cutSpan : Nat → Nat → Nat → List (Nat × Nat)
  | 0, _, _ => []
  | f + 1, a, n =>
    if n = 0 then []
    else
      let k := min n (4096 - a % 4096)
      (a, k) :: cutSpan f (a + k) (n - k)

/-- The pieces of a span of `n` bytes from `a`. -/
def pieces (a n : Nat) : List (Nat × Nat) := cutSpan (n / 4096 + 2) a n

/-- Beats of a request for bytes `a` to `a + n − 1`. -/
def beatsOf (a n : Nat) : Nat := (a % 64 + n + 63) / 64

/-- A write request for bytes that lie in one 4 KiB page. -/
def mkWrite (a : Nat) (bytes : List Byte) (dur : Bool) (psn : Bool) (why : Purpose) : Req :=
  { tag := 0, write := true, addr := a / 64 * 64, beats := beatsOf a bytes.length, start := a % 64, bytes := bytes,
    psn := if psn then List.range (beatsOf a bytes.length) else [], dur := dur, notify := false, purpose := why }

/-- A read request for the lines that hold bytes `a` to `a + n − 1`, within one 4 KiB page. -/
def mkRead (a n : Nat) (dur : Bool) (why : Purpose) : Req :=
  { tag := 0, write := false, addr := a / 64 * 64, beats := beatsOf a n, start := a % 64, bytes := [], psn := [],
    dur := dur, notify := false, purpose := why }

/-- Write a contiguous host span (R354). -/
def writeSpan (s : State) (p a : Nat) (bytes : List Byte) (dur psn : Bool) (why : Purpose) : State :=
  s.each (pieces a bytes.length) fun st x => issue st p (mkWrite x.1 ((bytes.drop (x.1 - a)).take x.2) dur psn why)

/-- The request with a tag, read or write. -/
def Port.find (x : Port) (tag : Nat) (write : Bool) : Option Req := x.out.find? fun r => r.tag == tag && r.write == write

/-- A request is no longer outstanding: its tag is free and waiting requests may leave. -/
def retire (s : State) (p tag : Nat) : State :=
  let x := s.port p
  pump s p { x with out := x.out.filter fun r => r.tag != tag }

/-- The response of a quarantined request arrives: it is discarded and its tag released (R55). -/
def lateResponse (s : State) (p tag : Nat) : State :=
  let x := s.port p
  (pump s p { x with quar := x.quar.filter fun q => q.tag != tag }).bump (A.movLateCnt p)

/-- What a read's beats mean: failed when any beat is not OK; a reserved value counts as ERR (R50). -/
def readEnd (beats : List RdBeat) : RdEnd :=
  if beats.all fun b => b.resp == .ok then .ok (beats.flatMap RdBeat.data)
  else if beats.any fun b => b.resp == .err || b.resp == .reserved then .err
  else .poison

/-- A credit comes back to the block on a channel it sends on (R44): requests and write data on an initiator port,
read data and write responses on the target port (number 4), where an answer that waited for it leaves. A receiver never has
more than 64 granted and unused. Until INIT_DONE the counts are 0 (R74). -/
def creditReturn (s : State) (p : Nat) (c : GfpChan) : State :=
  if !s.init.done then s
  else if p = 4 then
    let t := s.target
    match c with
    | .readData =>
      { s with target := if 0 < t.rdDue then { t with rdDue := t.rdDue - 1 } else { t with rdCrd := min 64 (t.rdCrd + 1) } }
    | .writeResponse =>
      { s with target := if 0 < t.wrDue then { t with wrDue := t.wrDue - 1 } else { t with wrCrd := min 64 (t.wrCrd + 1) } }
    | .request => s
    | .writeData => s
  else
    let x := s.port p
    match c with
    | .request => pump s p { x with rqCrd := min 64 (x.rqCrd + 1) }
    | .writeData => pump s p { x with wdCrd := min 64 (x.wdCrd + 1) }
    | .readData => s
    | .writeResponse => s

/-- GFP_CREDIT_RETURN. The block returns its own credits in the cycle after each transfer (R48, R58), so the channels
it receives on bring nothing from outside. -/
def execGfpCreditReturn (port : Nat) (chan : GfpChan) (s : State) : Host.Outcome State Fault Refusal :=
  run (port < 5) s fun s => creditReturn s port chan

/-! ## The target port (R56 to R59) -/

/-- An answer leaves with one of the host's credits, or waits for one (R44). -/
def TargetPort.answer (t : TargetPort) (write : Bool) : TargetPort :=
  if write then (if 0 < t.wrCrd then { t with wrCrd := t.wrCrd - 1 } else { t with wrDue := t.wrDue + 1 })
  else if 0 < t.rdCrd then { t with rdCrd := t.rdCrd - 1 } else { t with rdDue := t.rdDue + 1 }

/-- The target port answers a request: OK or ERR, with read data. -/
def tpRespond (s : State) (write refused : Bool) (data : Word) : State :=
  { s with tpAnswer := { refused := refused, data := data }, target := s.target.answer write }

/-- A target-port request without effect (R57): ERR, a beat of zeros for a read, and one more HQ_TGT_ERR_CNT. -/
def tpErr (s : State) (write : Bool) : State := tpRespond (s.bump A.hqTgtErrCnt) write true 0

/-- A request reaches the target port (R59, R74): before INIT_DONE no credit is granted, so none can arrive; in P1 it
returns the block to P0; in P2 one request is held; otherwise it is served. -/
def tpServe (s : State) (offset : Nat) (write : Bool) (value : Word) (serve : State → State) : State :=
  if !s.init.done then s
  else if s.power.st = .p2 then
    (if s.target.held.isNone then { s with target := { s.target with held := some (offset, write, value), rqGrant := 0 } } else s)
  else serve (leaveP1 s)

end Sys2Proof.Machine
end

