-- ==== Sys2Proof/Machine/Queue.lean ====
section
/-!
DEFINITION. Queue pairs, rings and doorbells (chapter 03): fetch arbitration, phases, slots, completion entries, queue
faults and the alert ring.
-/

namespace Sys2Proof.Machine

/-! ## Entries (R80, R81) -/

/-- A submission entry from its 64 bytes. -/
def parseEntry (l : List Byte) : Entry :=
  let w1 := leAt l 4 4
  { opc := leAt l 0 1, flags := leAt l 1 1, cid := leAt l 2 2, lcls := bits w1 0 3, fmt := bits w1 3 4,
    kslot := bits w1 7 10, rsv0 := bits w1 17 15, paddr := leAt l 8 8, count := leAt l 16 4, xctl := leAt l 20 4,
    haddr := leAt l 24 8, aux0 := leAt l 32 8, aux1 := leAt l 40 8, aux2 := leAt l 48 8, tag := leAt l 56 4,
    rsv1 := bits (leAt l 60 4) 0 31, phase := bit (leAt l 60 4) 31 }

/-- The 64 bytes of a submission entry, as the host writes them. -/
def entryBytes (e : Entry) : List Byte :=
  leBytes 1 e.opc ++ leBytes 1 e.flags ++ leBytes 2 e.cid ++
  leBytes 4 (e.lcls + e.fmt * 8 + e.kslot * 128 + e.rsv0 * 2 ^ 17) ++ leBytes 8 e.paddr ++ leBytes 4 e.count ++
  leBytes 4 e.xctl ++ leBytes 8 e.haddr ++ leBytes 8 e.aux0 ++ leBytes 8 e.aux1 ++ leBytes 8 e.aux2 ++
  leBytes 4 e.tag ++ leBytes 4 (e.rsv1 + if e.phase then 2 ^ 31 else 0)

/-- Flag `i` of an entry (R116). -/
def Entry.flag (e : Entry) (i : Nat) : Bool := bit e.flags i
def Entry.suspendOk (e : Entry) : Bool := e.flag 0
def Entry.noRetry (e : Entry) : Bool := e.flag 1
def Entry.deliverPoison (e : Entry) : Bool := e.flag 2
def Entry.durable (e : Entry) : Bool := e.flag 3
def Entry.indirect (e : Entry) : Bool := e.flag 4
def Entry.fence (e : Entry) : Bool := e.flag 5
def Entry.encrypt (e : Entry) : Bool := e.flag 6
def Entry.irqNow (e : Entry) : Bool := e.flag 7

/-- The CFLAGS byte of a completion (R81, R140). -/
def Slot.cflags (x : Slot) : Nat :=
  (if x.warn then 1 else 0) + (if x.retried then 2 else 0) + (if x.psnDel then 4 else 0) +
  (if x.suspOth then 8 else 0) + (if x.throttled then 16 else 0) + (if x.cqHeld then 32 else 0) +
  (if x.alert then 64 else 0)

/-- The 32 bytes of a completion entry (R81). -/
def cqBytes (x : Slot) (sqhd : Nat) (phase : Bool) : List Byte :=
  leBytes 2 x.entry.cid ++ leBytes 1 x.status ++ leBytes 1 x.cflags ++ leBytes 4 (sqhd + x.qid * 65536) ++
  leBytes 8 x.res0 ++ leBytes 4 (x.seq % 2 ^ 32) ++
  leBytes 4 (min x.maxBe 1023 + min x.rstep 15 * 1024 + x.latu % 2 ^ 18 * 2 ^ 14) ++ leBytes 4 x.entry.tag ++
  leBytes 4 (if phase then 2 ^ 31 else 0)

/-! ## Slots (R90) -/

def State.qpEn (s : State) (q : Nat) : Bool := s.fldOf (A.hqQpCtl q) 0 1 == 1
def State.quota (s : State) (q : Nat) : Nat := s.fldOf (A.hqQpQuota q) 0 17
def State.weight (s : State) (q : Nat) : Nat := s.fldOf (A.hqQpArb q) 0 8
def State.burst (s : State) (q : Nat) : Nat := s.fldOf (A.hqQpArb q) 8 6 + 1

/-- Slots that queue pair `q` holds. -/
def State.slotsOf (s : State) (q : Nat) : Nat := (s.slots.filter fun x => x.qid == q).length

/-- A slot is free for a queue pair: 64 are kept for QP 0, which may use the others too. -/
def State.slotFree (s : State) (q : Nat) : Bool :=
  let q0 := s.slotsOf 0
  let io := s.slots.length - q0
  decide (s.slotsOf q < s.quota q) &&
  (if q = 0 then decide (s.slots.length < Config.slotCount)
   else decide (io + (q0 - Config.slotsReserved) < Config.slotCount - Config.slotsReserved))

/-- The lowest slot number not in use. -/
def lowestFree : List Slot → Nat → Nat
  | [], k => k
  | x :: xs, k => if x.id = k then lowestFree xs (k + 1) else k

/-! ## Fetch (R86 to R89) -/

/-- Entries recorded as pending: (D − H) mod size. -/
def QP.todo (q : QP) : Nat := (q.bell + q.sqSize - q.head) % q.sqSize

/-- A completion of the queue pair is held for want of space (R91). -/
def State.cqHolds (s : State) (q : Nat) : Bool := s.slots.any fun x => x.qid == q && x.phase == .fullHeld

/-- A queue pair is eligible for a turn (R89). -/
def State.fetchable (s : State) (q : QP) : Bool :=
  s.qpEn q.qid && !q.fault && !q.stall && q.todo != 0 && !s.cqHolds q.qid && s.slotFree q.qid

/-- A request of a purpose is outstanding or waits to be transferred. -/
def State.anyReq (s : State) (p : Purpose → Bool) : Bool :=
  s.ports.any fun x => x.out.any (fun r => p r.purpose) || x.wait.any (fun r => p r.purpose)

/-- An SQ read of the queue pair is outstanding. -/
def State.sqReading (s : State) (q : Nat) : Bool :=
  s.anyReq fun p => match p with | .sqRead i _ _ => i == q | _ => false

/-- The queue pair whose turn it is (R88): the one in its turn while it stays eligible and has entries of the turn left, otherwise the
next eligible one in number order after it. None while an SQ read of that queue pair is outstanding: at most one is (log entry 15). -/
def State.turnOf (s : State) : Option QP :=
  match (s.qp s.lastQp).filter fun q => s.turnOn && s.fetchable q && decide (q.turn < s.weight q.qid * s.burst q.qid) with
  | some q => if s.sqReading q.qid then none else some q
  | none =>
    let after := s.qps.filter fun q => decide (s.lastQp < q.qid)
    let before := s.qps.filter fun q => decide (q.qid ≤ s.lastQp)
    (((after ++ before).find? s.fetchable).map fun q => { q with turn := 0 }).filter fun q => !s.sqReading q.qid

/-- The turn of a queue pair that is no longer eligible has ended (R88). -/
def turnCheck (s : State) : State :=
  match s.qp s.lastQp with
  | some q => if s.fetchable q then s else { s with turnOn := false }
  | none => { s with turnOn := false }

/-- Entries the next read of a queue pair asks for: never across a 4 KiB boundary or the ring's end. -/
def State.readLen (s : State) (q : QP) : Nat :=
  min (min (s.burst q.qid) q.todo)
    (min (s.weight q.qid * s.burst q.qid - q.turn) (min (q.sqSize - q.head) (64 - q.head % 64)))

/-- The SQ half and the CQ half of a queue context hold stored poison (R387). -/
def State.sqHalfBad (s : State) (q : Nat) : Bool := s.poisoned 6 0 (256 * q) 128
def State.cqHalfBad (s : State) (q : Nat) : Bool := s.poisoned 6 0 (256 * q + 128) 128
/-- The block writes a whole queue context. -/
def cleanCtx (s : State) (q : Nat) : State := clearPoison s 6 0 (256 * q) 256

/-- The fetch arbiter issues the next SQ read (R86, R88); nothing is fetched during smoke, an abort or a lower power
state. -/
def sqRead (s : State) : State :=
  if s.smoking || s.stopped || s.power.st != .p0 || !s.init.done then s
  else match s.turnOf with
    | none => s
    | some q =>
      if s.sqHalfBad q.qid then s.setQp { q with fault := true } else
      let n := s.readLen q
      let s1 := { s.setQp q with lastQp := q.qid, turnOn := true }
      issue s1 q.port (mkRead (q.sqBase + 64 * q.head) (64 * n) false (.sqRead q.qid q.head n))

/-- SQ_READ. -/
def execSqRead (s : State) : Host.Outcome State Fault Refusal := run true s sqRead

/-- H passes one entry; at the last index it wraps and E inverts (R82). -/
def QP.pass (q : QP) : QP :=
  if q.head + 1 = q.sqSize then { q with head := 0, expect := !q.expect, turn := q.turn + 1 }
  else { q with head := q.head + 1, turn := q.turn + 1 }

/-- Queue fault (R98, R107). `kind` 0 is an SQ read, 1 a CQ write; `resp` 0 ERR, 1 POISON, 2 timeout. -/
def queueFault (s : State) (q : QP) (kind resp addr : Nat) : State :=
  let s1 := s.updQp q.qid fun x => { x with fault := true, cqFault := x.cqFault || kind == 1 }
  turnCheck (s1.raise 10 q.qid (kind + resp * 2 + q.port * 8) addr (if kind = 0 then q.head else q.tail))

/-! ## Sampled settings and deadlines (R34, R170, R177) -/

def Samp.word (m : Samp) (c : Nat) : Word := m.cls.getD c 0
def Samp.a (m : Samp) (c : Nat) : Nat := fld (m.word c) 0 8
def Samp.k (m : Samp) (c : Nat) : Nat := fld (m.word c) 8 4
def Samp.suspOn (m : Samp) (c : Nat) : Bool := fld (m.word c) 12 1 == 1
def Samp.share (m : Samp) (c : Nat) : Nat := fld (m.word c) 16 8
def Samp.suspMax (m : Samp) : Nat := fld m.susp 0 5
def Samp.suspReads (m : Samp) : Nat := fld m.susp 8 5
def Samp.kclk (m : Samp) : Nat := fld m.clks 0 12
def Samp.fclk (m : Samp) : Nat := fld m.clks 16 12

/-- T_F in µs. -/
def Slot.tF (x : Slot) : Rat := (x.samp.turns : Rat) * 8 / (x.samp.kclk : Rat) + (x.samp.trb : Rat)

/-- T_dl (R177), in µs of the ACLK count. -/
def Slot.deadline (x : Slot) : Rat := (x.released : Rat) + (x.samp.bound : Rat) - x.tF

/-! ## Completions (R83, R91, R99) -/

/-- The CQ is full: (T + 1) mod size equals the recorded head (R85). -/
def QP.cqFull (q : QP) : Bool := (q.tail + 1) % q.cqSize == q.cqHead

/-- A bounded command's CQ entry write is issued after T_dl − T_WR (R179): commands that the checks refused have no deadline. -/
def State.isLate (s : State) (x : Slot) : Bool :=
  x.entry.bounded && x.reject.isNone && decide (x.deadline - (x.samp.twr : Rat) < (s.aclk : Rat))

/-- The CQ entry of a ready completion is written (R51 step 4, R83). -/
def writeCq (s : State) (x : Slot) (q : QP) (held : Bool) : State :=
  let y := { x with phase := .posting, cqIdx := q.tail, cqHeld := x.cqHeld || held }
  let s1 := s.setSlot y
  let s2 := s1.setQp (if q.tail + 1 = q.cqSize then { q with tail := 0, wphase := !q.wphase } else { q with tail := q.tail + 1 })
  issue (if s.isLate x then s2.bump (A.admLateCnt x.entry.lcls) else s2) q.port (mkWrite (q.cqBase + 32 * q.tail) (cqBytes y q.head q.wphase) false false (.cqWrite q.qid q.tail x.id))

/-- A completion is ready: it is written, or held behind a full CQ (R91) or a CQ fault (R99). -/
def postReady (s : State) (n : Nat) : State :=
  match s.slot n with
  | none => s
  | some x =>
    match s.qp x.qid with
    | none => s.delSlot n
    | some q =>
      let x1 := { x with ready := s.readyNo }
      let s1 := { s with readyNo := s.readyNo + 1 }
      if s.cqHalfBad q.qid then
        (s1.setSlot { x1 with phase := .faultHeld }).updQp q.qid fun y => { y with fault := true, cqFault := true }
      else if q.cqFault then s1.setSlot { x1 with phase := .faultHeld }
      else if s.cqHolds x.qid then s1.setSlot { x1 with phase := .fullHeld, cqHeld := true }
      else if q.cqFull then turnCheck ((s1.setSlot { x1 with phase := .fullHeld, cqHeld := true }).bump (A.hqQpCqfullCnt x.qid))
      else writeCq s1 x1 q false

/-- The held completion of a queue pair that became ready first. -/
def State.firstHeld (s : State) (q : Nat) : Option Slot :=
  (s.slots.filter fun x => x.qid == q && x.phase == .fullHeld).foldl (fun acc x => match acc with
    | none => some x
    | some y => if x.ready < y.ready then some x else some y) none

/-- Held completions are posted in the order in which they became ready while there is space (R91). -/
def postHeld : Nat → State → Nat → State
  | 0, s, _ => s
  | f + 1, s, q =>
    match s.qp q, s.firstHeld q with
    | some x, some y =>
      if x.cqFull then s
      else if s.cqHalfBad q then
        { s.setQp { x with fault := true, cqFault := true } with
          slots := updBy (fun (z : Slot) => z.qid == q && z.phase == Phase.fullHeld) (fun z => { z with phase := .faultHeld }) s.slots }
      else postHeld f (writeCq s y x true) q
    | _, _ => s

/-- Posted entries leave their slots: each is an event of the queue pair's source (R83, R90, R391). R90 releases a slot at the OK of
its entry's write, and R99 holds the slot where an earlier write then fails: a slot is kept until its entry is posted (DESIGN CHOICE,
log entry 111). -/
def advance : Nat → State → Nat → State
  | 0, s, _ => s
  | f + 1, s, qid =>
    match s.qp qid with
    | none => s
    | some q =>
      if q.posted ∈ q.okIdx then
        let s1 := s.setQp { q with posted := (q.posted + 1) % q.cqSize, okIdx := q.okIdx.filter (· != q.posted) }
        let s2 := { s1 with slots := s1.slots.filter fun (x : Slot) => !(x.qid == qid && x.phase == Phase.posting && x.cqIdx == q.posted) }
        advance f (s2.event (64 + qid)) qid
      else s

/-- The write of a CQ entry received OK. -/
def cqWriteOk (s : State) (qid idx n : Nat) : State :=
  match s.qp qid, s.slot n with
  | some q, some x =>
    if x.phase == Phase.posting && x.qid == qid then
      let s1 := s.setQp { q with okIdx := q.okIdx ++ [idx], irqNow := q.irqNow || x.entry.irqNow }
      advance (s1.slots.length + 1) s1 qid
    else s
  | _, _ => s

/-- The write of a CQ entry failed (R99): that entry and every later one of the queue pair count as not posted, and
their completions are held. -/
def cqWriteFail (s : State) (qid idx n resp addr : Nat) : State :=
  match s.qp qid, s.slot n with
  | some q, some x =>
    if x.phase == Phase.posting && x.qid == qid then
      let span := (q.tail + q.cqSize - idx) % q.cqSize
      let later := fun (i : Nat) => decide ((i + q.cqSize - idx) % q.cqSize < span)
      let q1 := { q with tail := idx, wphase := if idx < q.tail then q.wphase else !q.wphase,
                         okIdx := q.okIdx.filter fun i => !later i }
      let s1 := { s with slots := updBy (fun (y : Slot) => y.qid == qid && y.phase == Phase.posting && later y.cqIdx)
                                    (fun y => { y with phase := .faultHeld }) s.slots }
      let s2 := s1.setQp q1
      let s3 := { s2 with slots := updBy (fun (y : Slot) => y.qid == qid && y.phase == Phase.fullHeld)
                                    (fun y => { y with phase := .faultHeld }) s2.slots }
      if q.cqFault then s3 else queueFault s3 q1 1 resp addr
    else s
  | _, _ => s

/-! ## Doorbells (R84, R85) -/

/-- The SQ tail doorbell (R84, R86): recorded when below the ring size; recording restarts a stalled fetch. -/
def sqDoorbell (s : State) (q : QP) (v : Word) : State :=
  let t := fld v 0 16
  if q.sqSize ≤ t then s.bump A.hqDbErrCnt
  else clearPoison (s.setQp { q with bell := t, stall := false }) 6 0 (256 * q.qid + Config.ctxByte 0 % 127) 2

/-- The CQ head doorbell (R85): accepted from the recorded head forward to T. -/
def cqDoorbell (s : State) (q : QP) (v : Word) : State :=
  let h := fld v 0 16
  if q.cqSize ≤ h ∨ (q.tail + q.cqSize - q.cqHead) % q.cqSize < (h + q.cqSize - q.cqHead) % q.cqSize then s.bump A.hqDbErrCnt
  else
    let s1 := clearPoison (s.setQp { q with cqHead := h }) 6 0 (256 * q.qid + 128 + Config.ctxByte 1 % 127) 2
    postHeld (s1.slots.length + 1) s1 q.qid

/-- A doorbell write of a queue pair's page: one that does not exist answers ERR (R57). -/
def doorbell (tail : Bool) (qid : Nat) (v : Word) (s : State) : State :=
  match s.qp qid with
  | none => tpErr s true
  | some q => tpRespond (if tail then sqDoorbell s q v else cqDoorbell s q v) true false 0

/-- SQ_TAIL_DOORBELL. -/
def execSqTailDoorbell (qid : Nat) (v : Word) (s : State) : Host.Outcome State Fault Refusal :=
  run (qid < 1024) s fun s => tpServe s (qid * 0x1000) true v (doorbell true qid v)

/-- CQ_HEAD_DOORBELL. -/
def execCqHeadDoorbell (qid : Nat) (v : Word) (s : State) : Host.Outcome State Fault Refusal :=
  run (qid < 1024) s fun s => tpServe s (qid * 0x1000 + 8) true v (doorbell false qid v)

/-! ## Enabling, disabling, setting up (R93 to R97) -/

/-- QP_IDLE (R94). The slots of completions held under R99 are the exception, a later entry whose own write still awaits its response
among them: R99 holds it from the failure on (DESIGN CHOICE, log entry 110). -/
def State.qpIdle (s : State) (q : QP) : Bool :=
  !s.qpEn q.qid && !s.sqReading q.qid &&
  s.slots.all fun x => x.qid != q.qid || (x.phase == Phase.faultHeld && q.fault)

/-- QP_EN written: no effect on a queue pair that does not exist (R93). -/
def setQpEn (s0 : State) (qid : Nat) (on : Bool) : State :=
  let s := passFetch s0
  let drop := fun (r : Req) => match r.purpose with
    | .sqRead q i _ => if q = qid then { r with purpose := .sqRead q i 0 } else r
    | _ => r
  match s.qp qid with
  | none => s
  | some _ =>
    let s1 := s.setRegN (A.hqQpCtl qid) (if on then 1 else 0)
    if on then s1
    else turnCheck { s1 with ports := s1.ports.map fun (x : Port) => { x with out := x.out.map drop, wait := x.wait.map drop } }

/-- The rings of a queue pair go out of use: a response to a CQ write of theirs means nothing to what comes after (R99). -/
def orphan (s : State) (qid : Nat) : State :=
  let drop := fun (r : Req) => match r.purpose with
    | .cqWrite q _ _ => if q = qid then { r with purpose := .dead } else r
    | _ => r
  { s with ports := s.ports.map fun (x : Port) => { x with out := x.out.map drop, wait := x.wait.map drop } }

/-- The rings of a queue pair come into use (R82, R83, R95). -/
def QP.setup (q : QP) (sqBase cqBase sqCode cqCode port : Nat) : QP :=
  { q with sqBase := sqBase, cqBase := cqBase, sqSize := 16 * 2 ^ sqCode, cqSize := 16 * 2 ^ cqCode, port := port,
           head := 0, expect := true, bell := 0, tail := 0, wphase := true, posted := 0, cqHead := 0, fault := false,
           cqFault := false, stall := false, turn := 0, irqNow := false, okIdx := [] }

/-- The admin registers may be written: QP 0 is disabled and idle (R95). -/
def State.aqFree (s : State) : Bool := match s.qp 0 with | some q => s.qpIdle q | none => false

/-- A write of HQ_AQ_CFG (R95). -/
def aqCfg (s0 : State) (v : Word) : State :=
  let s := passFetch s0
  if !s.aqFree then s
  else
    let nv := Reg.merge [Reg.fr 0 4 0 12, Reg.fr 4 4 0 12, Reg.f 8 2] (s.applied A.hqAqCfg) v
    let s1 := s.setReg A.hqAqCfg nv
    let s2 := { s1 with slots := s1.slots.filter fun (x : Slot) => !(x.qid == 0 && x.phase == Phase.faultHeld) }
    match s2.qp 0 with
    | none => s2
    | some q => (cleanCtx (orphan s2 0) 0).setQp (q.setup (s2.pair A.hqAqSqbLo) (s2.pair A.hqAqCqbLo) (fld nv 0 4) (fld nv 4 4) (fld nv 8 2))

/-! ## The alert ring (R103, R104) -/

/-- A write of HQ_AR_CFG (R103): while EN is 1 only EN may change; a rise of EN resets the ring. -/
def arCfg (s : State) (v : Word) : State :=
  let nv := Reg.merge [Reg.fr 0 4 0 12, Reg.f 4 2, Reg.f 8 1] (s.reg A.hqArCfg) v
  if s.arEn then s.setFldOf A.hqArCfg 8 1 (fld v 8 1)
  else
    let s1 := s.setReg A.hqArCfg nv
    if fld nv 8 1 = 1 then
      { s1.setReg A.hqArHead 0 with alert := { s1.alert with tail := 0, wphase := true } }
    else s1

/-- A write of HQ_AR_HEAD (R103): accepted from HEAD forward to TAIL. -/
def arHeadWrite (s : State) (v : Word) : State :=
  let h := fld v 0 16
  let n := s.arSize
  if n ≤ h ∨ (s.alert.tail + n - s.arHead) % n < (h + n - s.arHead) % n then s.bump A.hqDbErrCnt
  else s.setRegN A.hqArHead h

/-- A CALIBRATION_DONE record has been written or dropped: the producer CALDONE fires (R408). -/
def calDone (s : State) (r : Record) : State := if r.typ = 7 && s.power.st != .p2 then produce s 53 else s

/-- The next record is written, or dropped when the ring is disabled or full (R104). -/
def alertWrite (s : State) : State :=
  if s.alert.out.isSome || s.stopped || s.power.st == .p2 then s
  else match s.alert.queue with
    | [] => s
    | r :: rest =>
      let s1 := { s with alert := { s.alert with queue := rest } }
      if !s.arEn || (s.alert.tail + 1) % s.arSize == s.arHead then calDone (s1.dropRecord r.owner) r
      else
        let s2 := { s1 with alert := { s1.alert with out := some r, lost := false } }
        issue s2 (s.fldOf A.hqArCfg 4 2)
          (mkWrite (s.pair A.hqArBaseLo + 32 * s.alert.tail) (recordBytes r s.alert.lost s.alert.wphase) false false .alert)

/-- The write of a record received OK: TAIL moves, and the record is an event of source 4. So it is where EN has fallen and risen since
the write was issued: R103 gives that response no other meaning (DESIGN CHOICE, log entry 112). -/
def alertOk (s : State) : State :=
  match s.alert.out with
  | none => s
  | some r =>
    let t := s.alert.tail + 1
    let a := if t = s.arSize then { s.alert with out := none, tail := 0, wphase := !s.alert.wphase }
             else { s.alert with out := none, tail := t }
    calDone (({ s with alert := a }.event 4).recordEnd r.owner true) r

/-- The write of a record failed: the record is dropped. -/
def alertFail (s : State) : State :=
  match s.alert.out with
  | none => s
  | some r => calDone ({ s with alert := { s.alert with out := none } }.dropRecord r.owner) r

/-- ALERT_RECORD_WRITE. -/
def execAlertRecordWrite (s : State) : Host.Outcome State Fault Refusal := run true s alertWrite

/-! ## Notification messages (R46, R398) -/

/-- A due message leaves on port 0: one beat with NOTIFY, the value in the four bytes that the address selects. -/
def sendMessage (s : State) (t : Nat) : State :=
  let x := s.tgt t
  if !x.due || x.out || x.msgErr || s.stopped || s.power.st == .p2 then s
  else
    let a := s.pair (A.ntfTgtAddrLo t)
    let s1 := (s.setTgt { x with due := false, out := true }).bump A.ntfMsgCnt
    issue s1 0 { tag := 0, write := true, addr := a / 64 * 64, beats := 1, start := a % 64 / 4 * 4,
                 bytes := leBytes 4 (s.regN (A.ntfTgtData t)), psn := [], dur := false, notify := true, purpose := .message t }

/-- The response of a message: an error stops further messages until MSG_ERR is cleared. -/
def messageEnd (s : State) (t : Nat) (ok : Bool) : State :=
  let s1 := s.setTgt { s.tgt t with out := false, msgErr := (s.tgt t).msgErr || !ok }
  if ok then s1 else s1.bump A.ntfMsgErrCnt

/-- NOTIFICATION_MESSAGE. -/
def execNotificationMessage (target : Nat) (s : State) : Host.Outcome State Fault Refusal :=
  run (target < 64) s fun s => sendMessage s target

/-- MODERATION_TIMER: the source's running timer reaches TIME. -/
def execModerationTimer (source : Nat) (s : State) : Host.Outcome State Fault Refusal :=
  run (1 ≤ source && source < 1088) s fun s =>
    let x := s.src source
    if s.timerMet x && s.power.st != .p2 then s.setSrc { x with fired := true } else s

end Sys2Proof.Machine
end

