-- ==== Sys2Proof/Machine/Crypto.lean ====
section
/-!
DEFINITION. The codes and ciphers the spec names: CRC-32C (R252), SHA-256 and HMAC for the KEK (R430), AES-256 with XTS
(R262) and key wrap (R431), the LDPC code (R254), the scrambler (R260, R261) and the Class L line code (R267). All of
it is arithmetic on natural numbers and byte lists.
-/

namespace Sys2Proof.Machine

/-! ## CRC-32C (R252) -/

/-- One bit of the reflected division by 0x1EDC_6F41. -/
def crcBit (c : Nat) : Nat := if c % 2 = 1 then (c / 2) ^^^ 0x82F63B78 else c / 2

def crcByte (c : Nat) (x : Byte) : Nat :=
  crcBit (crcBit (crcBit (crcBit (crcBit (crcBit (crcBit (crcBit (c ^^^ x.toNat))))))))

/-- CRC-32C of bytes: initial value and final XOR all ones. -/
def crc32c (l : List Byte) : Nat := (l.foldl crcByte 0xFFFFFFFF) ^^^ 0xFFFFFFFF

/-! ## SHA-256 -/

namespace Sha
def m32 (x : Nat) : Nat := x % 2 ^ 32
def rotr (n x : Nat) : Nat := (x >>> n) ||| m32 (x <<< (32 - n))
def bsig0 (x : Nat) : Nat := rotr 2 x ^^^ rotr 13 x ^^^ rotr 22 x
def bsig1 (x : Nat) : Nat := rotr 6 x ^^^ rotr 11 x ^^^ rotr 25 x
def ssig0 (x : Nat) : Nat := rotr 7 x ^^^ rotr 18 x ^^^ (x >>> 3)
def ssig1 (x : Nat) : Nat := rotr 17 x ^^^ rotr 19 x ^^^ (x >>> 10)

def k : List Nat :=
  [0x428a2f98, 0x71374491, 0xb5c0fbcf, 0xe9b5dba5, 0x3956c25b, 0x59f111f1, 0x923f82a4, 0xab1c5ed5] ++
  [0xd807aa98, 0x12835b01, 0x243185be, 0x550c7dc3, 0x72be5d74, 0x80deb1fe, 0x9bdc06a7, 0xc19bf174] ++
  [0xe49b69c1, 0xefbe4786, 0x0fc19dc6, 0x240ca1cc, 0x2de92c6f, 0x4a7484aa, 0x5cb0a9dc, 0x76f988da] ++
  [0x983e5152, 0xa831c66d, 0xb00327c8, 0xbf597fc7, 0xc6e00bf3, 0xd5a79147, 0x06ca6351, 0x14292967] ++
  [0x27b70a85, 0x2e1b2138, 0x4d2c6dfc, 0x53380d13, 0x650a7354, 0x766a0abb, 0x81c2c92e, 0x92722c85] ++
  [0xa2bfe8a1, 0xa81a664b, 0xc24b8b70, 0xc76c51a3, 0xd192e819, 0xd6990624, 0xf40e3585, 0x106aa070] ++
  [0x19a4c116, 0x1e376c08, 0x2748774c, 0x34b0bcb5, 0x391c0cb3, 0x4ed8aa4a, 0x5b9cca4f, 0x682e6ff3] ++
  [0x748f82ee, 0x78a5636f, 0x84c87814, 0x8cc70208, 0x90befffa, 0xa4506ceb, 0xbef9a3f7, 0xc67178f2]

def h0 : List Nat :=
  [0x6a09e667, 0xbb67ae85, 0x3c6ef372, 0xa54ff53a, 0x510e527f, 0x9b05688c, 0x1f83d9ab, 0x5be0cd19]

/-- Big-endian number of bytes. -/
def beNat (l : List Byte) : Nat := l.foldl (fun acc x => acc * 256 + x.toNat) 0
/-- `n` big-endian bytes. -/
def beBytes (n v : Nat) : List Byte := (leBytes n v).reverse

/-- The message schedule, newest word first: `n` more words. -/
def schedule : Nat → List Nat → List Nat
  | 0, w => w
  | n + 1, w =>
    schedule n (m32 (ssig1 (w.getD 1 0) + w.getD 6 0 + ssig0 (w.getD 14 0) + w.getD 15 0) :: w)

def round (v : List Nat) (kw : Nat × Nat) : List Nat :=
  match v with
  | [a, b, c, d, e, f, g, h] =>
    let t1 := h + bsig1 e + ((e &&& f) ^^^ ((e ^^^ 0xFFFFFFFF) &&& g)) + kw.1 + kw.2
    let t2 := bsig0 a + ((a &&& b) ^^^ (a &&& c) ^^^ (b &&& c))
    [m32 (t1 + t2), a, b, c, m32 (d + t1), e, f, g]
  | v => v

def block (h : List Nat) (x : List Byte) : List Nat :=
  let w := (List.range 16).map fun i => beNat ((x.drop (4 * i)).take 4)
  let ws := (schedule 48 w.reverse).reverse
  let v := (k.zip ws).foldl round h
  (h.zip v).map fun p => m32 (p.1 + p.2)

def pad (l : List Byte) : List Byte :=
  l ++ [0x80] ++ zeros ((119 - l.length % 64) % 64) ++ beBytes 8 (8 * l.length)

def blocks : Nat → List Nat → List Byte → List Nat
  | 0, h, _ => h
  | n + 1, h, x => blocks n (block h (x.take 64)) (x.drop 64)

/-- SHA-256. -/
def hash (l : List Byte) : List Byte :=
  let p := pad l
  (blocks (p.length / 64) h0 p).flatMap (beBytes 4)

/-- HMAC-SHA-256 with a key of at most 64 bytes. -/
def hmac (key msg : List Byte) : List Byte :=
  let k0 := key ++ zeros (64 - key.length)
  hash (k0.map (· ^^^ 0x5C) ++ hash (k0.map (· ^^^ 0x36) ++ msg))
end Sha

/-- The ASCII bytes of the label "GHESO KEK" (R430). -/
def kekLabel : List Byte := [0x47, 0x48, 0x45, 0x53, 0x4F, 0x20, 0x4B, 0x45, 0x4B]

/-- The key-encryption key of an ID row (R430): one block of the counter-mode KDF of SP 800-108. -/
def deriveKek (idRow : List Byte) : List Byte :=
  Sha.hmac ((idRow.drop 0x40).take 32)
    (Sha.beBytes 4 1 ++ kekLabel ++ [0] ++ (idRow.drop 8).take 16 ++ Sha.beBytes 4 0x100)

/-! ## AES-256 -/

namespace Aes
def xtime (x : Nat) : Nat := if x < 128 then 2 * x else (2 * x) ^^^ 0x11B

/-- The product in GF(2^8), over the bits of the first factor from the lowest. -/
def mulBits : Nat → Nat → Nat → Nat
  | 0, _, _ => 0
  | n + 1, a, b => (if a % 2 = 1 then b else 0) ^^^ mulBits n (a / 2) (xtime b)
def mul (a b : Nat) : Nat := mulBits 8 a b

/-- x^254, the inverse of x, and 0 for 0. -/
def inv (x : Nat) : Nat :=
  let x2 := mul x x
  let x4 := mul x2 x2
  let x8 := mul x4 x4
  let x16 := mul x8 x8
  let x32 := mul x16 x16
  let x64 := mul x32 x32
  let x128 := mul x64 x64
  mul x2 (mul x4 (mul x8 (mul x16 (mul x32 (mul x64 x128)))))

def rotl8 (n x : Nat) : Nat := (x <<< n) % 256 ||| (x >>> (8 - n))
def sbox (x : Nat) : Nat := let y := inv x; y ^^^ rotl8 1 y ^^^ rotl8 2 y ^^^ rotl8 3 y ^^^ rotl8 4 y ^^^ 0x63
def invSbox (x : Nat) : Nat := inv (rotl8 1 x ^^^ rotl8 3 x ^^^ rotl8 6 x ^^^ 0x05)

def xorL (a b : List Nat) : List Nat := (a.zip b).map fun p => p.1 ^^^ p.2

/-- Key expansion: words of four bytes, newest first; `i` is the number of the next word. -/
def expand : Nat → Nat → Nat → List (List Nat) → List (List Nat)
  | 0, _, _, ws => ws
  | n + 1, i, rcon, ws =>
    let prev := ws.getD 0 []
    let t :=
      if i % 8 = 0 then
        match prev with
        | [a, b, c, d] => [sbox b ^^^ rcon, sbox c, sbox d, sbox a]
        | _ => prev
      else if i % 8 = 4 then prev.map sbox
      else prev
    expand n (i + 1) (if i % 8 = 0 then xtime rcon else rcon) (xorL (ws.getD 7 []) t :: ws)

/-- The 15 round keys of a 32-byte key, first to last. -/
def roundKeys (key : List Nat) : List (List Nat) :=
  let ws := (expand 52 8 1 ((List.range 8).map fun i => (key.drop (4 * i)).take 4).reverse).reverse
  (List.range 15).map fun r => ws.getD (4 * r) [] ++ ws.getD (4 * r + 1) [] ++ ws.getD (4 * r + 2) [] ++ ws.getD (4 * r + 3) []

def shiftRows (s : List Nat) : List Nat := (List.range 16).map fun i => s.getD ((i + 4 * (i % 4)) % 16) 0
def invShiftRows (s : List Nat) : List Nat := (List.range 16).map fun i => s.getD ((i + 12 * (i % 4)) % 16) 0

def mixWith (c0 c1 c2 c3 : Nat) (s : List Nat) : List Nat :=
  (List.range 16).map fun i =>
    let b := i / 4 * 4
    let at_ := fun (k : Nat) => s.getD (b + (i + k) % 4) 0
    mul c0 (at_ 0) ^^^ mul c1 (at_ 1) ^^^ mul c2 (at_ 2) ^^^ mul c3 (at_ 3)
def mixColumns (s : List Nat) : List Nat := mixWith 2 3 1 1 s
def invMixColumns (s : List Nat) : List Nat := mixWith 14 11 13 9 s

/-- Encrypt 16 bytes. -/
def enc (key x : List Nat) : List Nat :=
  let rk := roundKeys key
  let s := (List.range 13).foldl (fun st r => xorL (mixColumns (shiftRows (st.map sbox))) (rk.getD (r + 1) [])) (xorL x (rk.getD 0 []))
  xorL (shiftRows (s.map sbox)) (rk.getD 14 [])

/-- Decrypt 16 bytes. -/
def dec (key x : List Nat) : List Nat :=
  let rk := roundKeys key
  let s := (List.range 13).foldl
    (fun st r => invMixColumns (xorL ((invShiftRows st).map invSbox) (rk.getD (13 - r) []))) (xorL x (rk.getD 14 []))
  xorL ((invShiftRows s).map invSbox) (rk.getD 0 [])

def nats (l : List Byte) : List Nat := l.map BitVec.toNat
def bytes (l : List Nat) : List Byte := l.map (BitVec.ofNat 8)

/-- The next tweak of XTS: the product with α in GF(2^128), little-endian. -/
def nextTweak (t : Nat) : Nat := if t < 2 ^ 127 then 2 * t else (2 * t - 2 ^ 128) ^^^ 0x87

/-- XTS over whole blocks with the cipher direction `f`. -/
def xtsBlocks (f : List Nat → List Nat) : Nat → Nat → List Byte → List Byte
  | 0, _, _ => []
  | n + 1, t, l =>
    let tb := nats (leBytes 16 t)
    bytes (xorL (f (xorL (nats (l.take 16)) tb)) tb) ++ xtsBlocks f n (nextTweak t) (l.drop 16)

/-- The first tweak of a data unit: its number encrypted under the tweak key. -/
def firstTweak (slot : List Byte) (tweak : Nat) : Nat :=
  leNat (bytes (enc (nats (slot.drop 32)) (nats (leBytes 16 tweak))))
end Aes

/-- AES-256-XTS of one data unit under a key slot (R262, R431). -/
def xtsEnc (slot : List Byte) (tweak : Nat) (l : List Byte) : List Byte :=
  Aes.xtsBlocks (Aes.enc (Aes.nats (slot.take 32))) (l.length / 16) (Aes.firstTweak slot tweak) l
def xtsDec (slot : List Byte) (tweak : Nat) (l : List Byte) : List Byte :=
  Aes.xtsBlocks (Aes.dec (Aes.nats (slot.take 32))) (l.length / 16) (Aes.firstTweak slot tweak) l

/-- One step of key unwrap: register `i` of `n` in pass `j`. -/
def unwrapStep (kek : List Nat) (n : Nat) (st : List Nat × List (List Nat)) (ji : Nat × Nat) : List Nat × List (List Nat) :=
  let t := n * ji.1 + ji.2
  let a := Aes.xorL st.1 (Aes.nats (Sha.beBytes 8 t))
  let b := Aes.dec kek (a ++ st.2.getD (ji.2 - 1) [])
  (b.take 8, st.2.set (ji.2 - 1) (b.drop 8))

/-- AES key unwrap of SP 800-38F with the default initial value: the plaintext, or none when integrity fails. -/
def keyUnwrap (kek wrapped : List Byte) : Option (List Byte) :=
  let n := wrapped.length / 8 - 1
  let regs := (List.range n).map fun i => Aes.nats ((wrapped.drop (8 * (i + 1))).take 8)
  let steps := (List.range 6).flatMap fun j => (List.range n).map fun i => (5 - j, n - i)
  let r := steps.foldl (unwrapStep (Aes.nats kek) n) (Aes.nats (wrapped.take 8), regs)
  if r.1 = List.replicate 8 0xA6 then some (Aes.bytes r.2.flatten) else none

/-! ## The LDPC code (R254) -/

namespace Ldpc
/-- C(s) applied to a block: bit t of the result is bit (t + s) mod 128. -/
def rot (s v : Nat) : Nat := (v >>> s) ||| ((v <<< (128 - s)) % 2 ^ 128)

def row (m j k : Nat) : Nat := (j + k * (m / 4)) % m
def shift (j k : Nat) : Nat := (37 * j + 61 * k + 11 * j * k) % 128

/-- The 128-bit blocks of a codeword's bytes. -/
def split : Nat → List Byte → List Nat
  | 0, _ => []
  | n + 1, l => leNat (l.take 16) :: split n (l.drop 16)

/-- The sums of the information entries of every row. -/
def infoSums (m : Nat) : Nat → List Nat → List Nat → List Nat
  | _, [], acc => acc
  | j, v :: vs, acc =>
    let add := fun (a : List Nat) (k : Nat) => a.set (row m j k) (a.getD (row m j k) 0 ^^^ rot (shift j k) v)
    infoSums m (j + 1) vs (add (add (add (add acc 0) 1) 2) 3)

/-- The parity blocks: each is its row's sum added to the one before. -/
def accumulate : Nat → List Nat → List Nat
  | _, [] => []
  | p, s :: ss => (s ^^^ p) :: accumulate (s ^^^ p) ss

def parity (m : Nat) (info : List Nat) : List Nat := accumulate 0 (infoSums m 0 info (List.replicate m 0))
end Ldpc

/-- m of a parity size of P bytes. -/
def ldpcM (p : Nat) : Nat := p / 16

/-- The codeword of 4,128 stored bytes with P bytes of parity. -/
def ldpcEncode (p : Nat) (l : List Byte) : List Byte :=
  l ++ (Ldpc.parity (ldpcM p) (Ldpc.split 258 l)).flatMap (leBytes 16)

/-- H × c = 0, for a codeword of 4,128 + P bytes. -/
def ldpcValid (p : Nat) (c : List Byte) : Bool :=
  c.length == 4128 + p && Ldpc.split (ldpcM p) (c.drop 4128) == Ldpc.parity (ldpcM p) (Ldpc.split 258 c)

/-! ## The scrambler (R260, R261) -/

/-- The seed of a codeword: CRC-32C of its PADDR and salt, 1 in place of 0. -/
def scrambleSeed (paddr salt : Nat) : Nat :=
  let c := crc32c (leBytes 8 (paddr % 2 ^ 43) ++ leBytes 4 salt)
  if c = 0 then 1 else c

def scrambleNext (s : Nat) : Nat :=
  let fb := bits s 31 1 ^^^ bits s 21 1 ^^^ bits s 1 1 ^^^ bits s 0 1
  (2 * s + fb) % 2 ^ 32

/-- The next `n` bits of the sequence as a number, lowest first, and the register after them. -/
def scrambleBits : Nat → Nat → Nat × Nat
  | 0, s => (0, s)
  | n + 1, s => let r := scrambleBits n (scrambleNext s); (bits s 31 1 + 2 * r.1, r.2)

def scrambleFrom : Nat → List Byte → List Byte
  | _, [] => []
  | s, x :: xs => let r := scrambleBits 8 s; (x ^^^ BitVec.ofNat 8 r.1) :: scrambleFrom r.2 xs

/-- Scrambling, which is its own inverse. -/
def scramble (seed : Nat) (l : List Byte) : List Byte := scrambleFrom seed l

/-! ## Bits of byte lists -/

def byteOnes (x : Byte) : Nat := ((List.range 8).filter fun i => x.getLsbD i).length
/-- Bits that are 1. -/
def ones (l : List Byte) : Nat := (l.map byteOnes).sum
/-- Bits in which two reads differ. -/
def diffBits (a b : List Byte) : Nat := ones ((a.zip b).map fun p => p.1 ^^^ p.2)
/-- Bits that are 0. -/
def zeroBits (l : List Byte) : Nat := 8 * l.length - ones l

/-! ## The Class L line code (R267) -/

namespace Bch
/-- The product in GF(2^12) over x^12 + x^6 + x^4 + x + 1. -/
def mulBits : Nat → Nat → Nat → Nat
  | 0, _, _ => 0
  | n + 1, a, b => (if a % 2 = 1 then b else 0) ^^^ mulBits n (a / 2) (if b < 2048 then 2 * b else (2 * b) ^^^ 0x1053)
def mul (a b : Nat) : Nat := mulBits 12 a b

/-- α^i. -/
def alpha : Nat → Nat
  | 0 => 1
  | n + 1 => mul 2 (alpha n)

/-- A polynomial over GF(2^12), lowest coefficient first, times (x + r). -/
def timesRoot (p : List Nat) (r : Nat) : List Nat :=
  ((0 :: p).zip (p ++ [0])).map fun c => c.1 ^^^ mul r c.2

/-- The powers r, r^2, r^4, ..., twelve of them. -/
def conj : Nat → Nat → List Nat
  | 0, _ => []
  | n + 1, r => r :: conj n (mul r r)

/-- The minimal polynomial of α^i for an odd i up to 31, whose conjugates are twelve, as the bits of a number. -/
def minPoly (i : Nat) : Nat :=
  (((conj 12 (alpha i)).foldl timesRoot [1]).zipIdx).foldl (fun acc c => acc + c.1 * 2 ^ c.2) 0

/-- The product of polynomials over GF(2), as numbers. -/
def polyMul : Nat → Nat → Nat → Nat
  | 0, _, _ => 0
  | n + 1, a, b => (if a % 2 = 1 then b else 0) ^^^ polyMul n (a / 2) (2 * b)

/-- g(x), of degree 192: the product of the minimal polynomials of α, α^3, ..., α^31. -/
def gen : Nat := (List.range 16).foldl (fun g k => polyMul 200 g (minPoly (2 * k + 1))) 1

/-- The remainder of a polynomial given by its bits, highest coefficient first, divided by g. -/
def rem (g : Nat) (l : List Bool) (acc : Nat) : Nat :=
  l.foldl (fun a b => let v := 2 * a + (if b then 1 else 0); if v < 2 ^ 192 then v else v ^^^ g) acc

/-- The stream bits of bytes, bit 0 of each byte first (R250). -/
def stream (l : List Byte) : List Bool := l.flatMap fun x => (List.range 8).map fun i => x.getLsbD i

/-- Bytes of a number of 192 bits whose highest coefficient comes first in the stream. -/
def unstream (v : Nat) : List Byte :=
  (List.range 24).map fun k => BitVec.ofNat 8 ((List.range 8).foldl (fun acc i => acc + bits v (191 - (8 * k + i)) 1 * 2 ^ i) 0)
end Bch

/-- The line of 264 bytes with its BCH parity. -/
def bchEncode (l : List Byte) : List Byte :=
  l ++ Bch.unstream (Bch.rem Bch.gen (Bch.stream l ++ List.replicate 192 false) 0)

/-- The whole line is a multiple of g(x). -/
def bchValid (l : List Byte) : Bool := l.length == 288 && Bch.rem Bch.gen (Bch.stream l) 0 == 0

namespace Bch
/-- The inverse of an element other than 0: a^4094, as the product of a^2, a^4, ..., a^2048. -/
def inv (a : Nat) : Nat := ((conj 12 a).drop 1).foldl mul 1

/-- The value at `x` of a word given by its bits, highest coefficient first. -/
def evalWord (x : Nat) (l : List Bool) : Nat := l.foldl (fun acc b => mul acc x ^^^ (if b then 1 else 0)) 0

/-- The value at `x` of a polynomial, lowest coefficient first. -/
def evalPoly (x : Nat) (p : List Nat) : Nat := p.foldr (fun c acc => mul acc x ^^^ c) 0

/-- The sum of two polynomials. -/
def addPoly (p q : List Nat) : List Nat := (List.range (max p.length q.length)).map fun i => p.getD i 0 ^^^ q.getD i 0

/-- Berlekamp and Massey's error locator of the syndromes `syn` from the `n`-th on: `c` is the locator so far, of length `len`,
`b` the one before its last change of length, `m` the steps since, `db` the discrepancy there. -/
def locator (syn : List Nat) : Nat → Nat → List Nat → List Nat → Nat → Nat → Nat → List Nat
  | 0, _, c, _, _, _, _ => c
  | fuel + 1, n, c, b, len, m, db =>
    let d := (List.range (len + 1)).foldl (fun acc i => acc ^^^ mul (c.getD i 0) (syn.getD (n - i) 0)) 0
    if d = 0 then locator syn fuel (n + 1) c b len (m + 1) db
    else
      let k := mul d (inv db)
      let c1 := addPoly c (List.replicate m 0 ++ b.map (mul k))
      if 2 * len ≤ n then locator syn fuel (n + 1) c1 c (n + 1 - len) 1 d
      else locator syn fuel (n + 1) c1 b len (m + 1) db

/-- Bytes of stream bits. -/
def unbits : Nat → List Bool → List Byte
  | 0, _ => []
  | n + 1, l => BitVec.ofNat 8 ((l.take 8).foldr (fun b acc => 2 * acc + (if b then 1 else 0)) 0) :: unbits n (l.drop 8)

/-- The bits with each one flipped whose coefficient x^i the locator names as wrong. `x` is the inverse of α^i of the last bit. -/
def flip (loc : List Nat) : List Bool → List Bool × Nat
  | [] => ([], 1)
  | b :: l => let r := flip loc l; ((b != (evalPoly r.2 loc == 0)) :: r.1, mul (inv 2) r.2)
end Bch

/-- The line of the code within 16 bit errors of the raw one, where there is one (R267). -/
def bchDecode (raw : List Byte) : List Byte :=
  if bchValid raw then raw
  else
    let l := Bch.stream raw
    let syn := (List.range 32).map fun j => Bch.evalWord (Bch.alpha (j + 1)) l
    Bch.unbits raw.length (Bch.flip (Bch.locator syn 32 0 [1] [1] 0 1 1) l).1

/-- The 264 bytes of a line before its parity (R266). -/
def lineBody (data : List Byte) (stream seq : Nat) : List Byte :=
  let b := data.take 256 ++ zeros (256 - data.length) ++ leBytes 4 (stream % 64 + seq % 2 ^ 24 * 256)
  b ++ leBytes 4 (crc32c b)

/-- A line as stored. -/
def mkLine (data : List Byte) (stream seq : Nat) : List Byte := bchEncode (lineBody data stream seq)

end Sys2Proof.Machine
end

