-- ==== Sys2Proof/Machine/ScanFmt.lean ====
section
/-!
DEFINITION. The Gheso column page (chapter 11) and the scan program (chapter 12) as data: segment headers and their
checks, decoding, scan contexts and their load-time checks, predicates, emits and aggregates over one row group.
-/

namespace Sys2Proof.Machine

/-! ## The segment (R315 to R319). A segment is its 4,096 bytes; `seg` is their little-endian number. -/

namespace Seg
def magic (g : Nat) : Nat := bits g 0 32
def colid (g : Nat) : Nat := bits g 32 16
def enc (g : Nat) : Nat := bits g 48 4
def vwc (g : Nat) : Nat := bits g 52 2
def signed (g : Nat) : Bool := bit g 54
def nulls (g : Nat) : Bool := bit g 55
def bw (g : Nat) : Nat := bits g 56 7
def rows (g : Nat) : Nat := bits g 64 16
def nulloff (g : Nat) : Nat := bits g 80 16
def datalen (g : Nat) : Nat := bits g 96 16
def lw (g : Nat) : Nat := bits g 112 5
def mmv (g : Nat) : Bool := bit g 117
def baserow (g : Nat) : Nat := bits g 128 64
def min (g : Nat) : Nat := bits g 192 64
def max (g : Nat) : Nat := bits g 256 64
def ref (g : Nat) : Nat := bits g 320 64
def nruns (g : Nat) : Nat := bits g 384 16
def nnull (g : Nat) : Nat := bits g 400 16
/-- Reserved fields: bit 63, bits [127:118] and bytes 0x34 to 0x3F. -/
def rsv (g : Nat) : Nat := bits g 63 1 + bits g 118 10 + bits g 416 96
/-- Value width VW in bits. -/
def vw (g : Nat) : Nat := 8 * 2 ^ vwc g
/-- Non-null rows. -/
def nv (g : Nat) : Nat := rows g - nnull g
/-- A field of `w` bits at stream bit `b` (R318). -/
def field (g b w : Nat) : Nat := bits g (512 + b) w
/-- Row `i` is null. -/
def null (g i : Nat) : Bool := nulls g && bit g (8 * nulloff g + i)
/-- Null rows that the bitmap marks. -/
def marked (g : Nat) : Nat := if nulls g then ((List.range (rows g)).filter (null g)).length else 0
/-- Bytes for a number of bits. -/
def bytesFor (n : Nat) : Nat := (n + 7) / 8

/-- DATALEN of R317. -/
def wantLen (g : Nat) : Nat :=
  if enc g = 0 then nv g * vw g / 8
  else if enc g = 2 then (if nv g ≤ 1 then 0 else bytesFor ((nv g - 1) * bw g))
  else if enc g = 4 then bytesFor (nruns g * (bw g + lw g))
  else bytesFor (nv g * bw g)

/-- The restrictions of R317 on BW, VWC, SIGNED, REF, LW and NRUNS. -/
def encOk (g : Nat) : Bool :=
  let b := bw g
  let plainRuns := lw g == 0 && nruns g == 0
  if enc g = 0 then b == vw g && ref g == 0 && plainRuns
  else if enc g = 1 then decide (1 ≤ b) && decide (b ≤ vw g) && plainRuns
  else if enc g = 2 then decide (1 ≤ b) && decide (b ≤ 64) && plainRuns
  else if enc g = 3 then decide (1 ≤ b) && decide (b ≤ 16) && vwc g == 1 && !signed g && ref g == 0 && plainRuns
  else if enc g = 4 then decide (1 ≤ b) && decide (b ≤ vw g) && decide (1 ≤ lw g) && decide (lw g ≤ 16) &&
    (if nv g = 0 then nruns g == 0 else decide (1 ≤ nruns g) && decide (nruns g ≤ 32768))
  else false

/-- fit(x) of R319. -/
def fit (g x : Nat) : Nat :=
  let m := x % 2 ^ vw g
  if signed g && decide (2 ^ (vw g - 1) ≤ m) then m + 2 ^ 64 - 2 ^ vw g else m

/-- zz(z) of R319, in 64-bit arithmetic. -/
def zz (z : Nat) : Nat := if z % 2 = 1 then 2 ^ 64 - 1 - z / 2 else z / 2

/-- The runs of an RLE segment: value and length. -/
def runs (g : Nat) : List (Nat × Nat) :=
  (List.range (nruns g)).map fun e =>
    (fit g (ref g + field g (e * (bw g + lw g)) (bw g)), field g (e * (bw g + lw g) + bw g) (lw g) + 1)

/-- The values of the differences after `v`. -/
def deltas (g : Nat) : Nat → Nat → Nat → List Nat
  | 0, _, _ => []
  | n + 1, j, v => let w := fit g (v + zz (field g (j * bw g) (bw g))); w :: deltas g n (j + 1) w

/-- The values of the non-null rows (R319). -/
def vals (g : Nat) : List Nat :=
  if enc g ≤ 1 then (List.range (nv g)).map fun j => fit g (ref g + field g (j * bw g) (bw g))
  else if enc g = 2 then (if nv g = 0 then [] else fit g (ref g) :: deltas g (nv g - 1) 0 (fit g (ref g)))
  else if enc g = 3 then (List.range (nv g)).map fun j => field g (j * bw g) (bw g)
  else (runs g).flatMap fun r => List.replicate r.2 r.1

/-- Values and nulls in row order. -/
def lay (g : Nat) : Nat → Nat → List Nat → List (Option Nat)
  | 0, _, _ => []
  | n + 1, i, l =>
    if null g i then none :: lay g n (i + 1) l
    else match l with
      | v :: vs => some v :: lay g n (i + 1) vs
      | [] => some 0 :: lay g n (i + 1) []

/-- The rows of a segment. -/
def rowsOf (g : Nat) : List (Option Nat) := lay g (rows g) 0 (vals g)

/-- A 64-bit value as the integer that comparisons use. -/
def asInt (sg : Bool) (v : Nat) : Int := if sg && decide (2 ^ 63 ≤ v) then (v : Int) - 2 ^ 64 else (v : Int)

/-- Reason 8 of R325: the run lengths sum to N_v. -/
def runsOk (g : Nat) : Bool := enc g != 4 || ((runs g).map Prod.snd).sum == nv g

/-- The first condition of R325 that fails, of those checked before evaluation; 0 when none does. -/
def reason (g : Nat) (rg : RowGroup) (k : Nat) : Nat :=
  if magic g ≠ 0x31504347 then 1
  else if colid g ≠ rg.colids.getD k 0 then 2
  else if rows g ≠ rg.rows ∨ baserow g ≠ rg.baseRow then 3
  else if !encOk g then 4
  else if datalen g ≠ wantLen g ∨ 4032 < datalen g then 5
  else if (!nulls g && (nulloff g != 0 || nnull g != 0)) ||
    (nulls g && (nulloff g % 8 != 0 || decide (nulloff g < 64 + datalen g) || decide (4096 < nulloff g + bytesFor (rows g)))) then 6
  else if nnull g ≠ marked g then 7
  else if mmv g != decide (1 ≤ nv g) || (!mmv g && (min g != 0 || max g != 0)) ||
    (mmv g && decide (asInt (signed g) (max g) < asInt (signed g) (min g))) then 9
  else if rsv g ≠ 0 then 10
  else 0
end Seg

/-! ## Row-group descriptors (R322) -/

/-- A descriptor from its 128 bytes. -/
def parseGroup (l : List Byte) : RowGroup :=
  let n := bits (leAt l 2 2) 0 4
  { rows := leAt l 0 2, nseg := n, baseRow := leAt l 8 8,
    segs := (List.range (min n 8)).map fun k => leAt l (16 + 8 * k) 8,
    colids := (List.range (min n 8)).map fun k => leAt l (0x50 + 2 * k) 2,
    rsv := bits (leAt l 2 2) 4 12 + leAt l 4 4 + leAt l 0x60 32 +
      ((List.range 8).filter fun k => decide (n ≤ k)).foldl (fun a k => a + leAt l (16 + 8 * k) 8 + leAt l (0x50 + 2 * k) 2) 0 }

/-- The field checks of R323. -/
def RowGroup.fieldsOk (g : RowGroup) : Bool :=
  decide (1 ≤ g.rows) && decide (g.rows ≤ 32768) && decide (1 ≤ g.nseg) && decide (g.nseg ≤ 8) && g.rsv == 0 &&
  g.colids.eraseDups.length == g.colids.length

/-! ## Scan contexts (R329 to R334) -/

namespace Scx
def ni (c : List Byte) : Nat := bits (leAt c 4 1) 0 7
def cmode (c : List Byte) : Bool := bit (leAt c 5 1) 0
/-- Program word `i`. -/
def word (c : List Byte) (i : Nat) : Nat := leAt c (0x400 + 16 * i) 16
/-- Constant j. -/
def const (c : List Byte) (j : Nat) : Nat := leAt c (0x200 + 8 * j) 8
/-- Bit v of the dictionary-code bitmap. -/
def dict (c : List Byte) (v : Nat) : Bool := bit (leAt c (0x200 + v / 8) 1) (v % 8)
def ring (c : List Byte) (s : Nat) : Nat := leAt c (0x40 + 16 * s) 1
def bound (c : List Byte) (s : Nat) : Bool := bit (leAt c (0x41 + 16 * s) 1) 0
def skipEmpty (c : List Byte) (s : Nat) : Bool := bit (leAt c (0x41 + 16 * s) 1) 1
def stag (c : List Byte) (s : Nat) : Nat := leAt c (0x44 + 16 * s) 4
/-- The bound streams, ascending. -/
def streams (c : List Byte) : List Nat := (List.range 16).filter (bound c)
/-- The words of the program. -/
def prog (c : List Byte) : List Nat := (List.range (ni c)).map (word c)
end Scx

namespace W
def op (w : Nat) : Nat := bits w 0 8
def d (w : Nat) : Nat := bits w 8 3
def sa (w : Nat) : Nat := bits w 11 3
def sb (w : Nat) : Nat := bits w 14 3
def k (w : Nat) : Nat := bits w 17 3
def fn (w : Nat) : Nat := bits w 20 3
def ow (w : Nat) : Nat := bits w 23 2
def st (w : Nat) : Nat := bits w 25 4
def pb (w : Nat) : Nat := bits w 29 3
def kv (w : Nat) : Nat := bits w 32 3
def prune (w : Nat) : Bool := bit w 35
def wc (w : Nat) : Bool := bit w 36
def pv (w : Nat) : Bool := bit w 37
def cntr (w : Nat) : Bool := bit w 38
def sg (w : Nat) : Bool := bit w 39
def cidx (w : Nat) : Nat := bits w 40 6
def ccnt (w : Nat) : Nat := bits w 46 7
def imm (w : Nat) : Nat := bits w 64 64

/-- The mask of the bits an opcode uses (R335). -/
def mask (op : Nat) : Option Nat :=
  let m := fun (lo n : Nat) => (2 ^ n - 1) * 2 ^ lo
  let D := m 8 3; let SA := m 11 3; let SB := m 14 3; let K := m 17 3; let FN := m 20 3; let OW := m 23 2; let ST := m 25 4
  let O := m 0 8; let PR := m 35 1; let CI := m 40 6; let CC := m 46 7; let IMM := m 64 64
  match op with
  | 0x00 => some O
  | 0x01 => some (O + K)
  | 0x08 => some (O + D + K + FN + PR + IMM)
  | 0x09 => some (O + D + K + m 36 1 + PR + CI + IMM)
  | 0x0A => some (O + D + K + CI + CC)
  | 0x0B => some (O + D + K)
  | 0x10 => some (O + D + SA + SB)
  | 0x11 => some (O + D + SA + SB)
  | 0x12 => some (O + D + SA)
  | 0x13 => some (O + D + SA + SB)
  | 0x20 => some (O + SA + ST)
  | 0x21 => some (O + SA + K + OW + ST)
  | 0x22 => some (O + SA + ST)
  | 0x23 => some (O + SA + K + m 32 3 + OW + ST + m 29 3 + m 37 1)
  | 0x30 => some (O + D + SA + K + FN + m 38 1 + m 39 1)
  | _ => none

/-- The slots whose LOADCOL a word must follow: those it reads, and slot KV of every PARTITION (R340). -/
def reads (w : Nat) : List Nat :=
  let o := op w
  if o = 0x08 ∨ o = 0x09 ∨ o = 0x0A ∨ o = 0x0B ∨ o = 0x21 then [k w]
  else if o = 0x23 then [k w, kv w]
  else if o = 0x30 then (if fn w = 0 ∧ cntr w then [] else [k w])
  else []

/-- The streams a word feeds. -/
def feeds (w : Nat) : List Nat :=
  let o := op w
  if o = 0x20 ∨ o = 0x21 ∨ o = 0x22 then [st w]
  else if o = 0x23 then (List.range (2 ^ pb w)).map fun i => st w + i
  else []

/-- The checks of R340 on one word of a context with constant mode `cm`. -/
def ok (cm : Bool) (w : Nat) : Bool :=
  (match mask (op w) with | some m => w &&& m == w | none => false) &&
  (if op w = 0x0A then
     (if cm then cidx w == 0 && ccnt w == 0 else decide (1 ≤ ccnt w) && decide (ccnt w ≤ 64) && decide (cidx w + ccnt w ≤ 64))
   else true) &&
  (if op w = 0x09 then !(wc w && (cm || decide (62 < cidx w))) else true) &&
  (if op w = 0x08 then decide (fn w ≤ 5) else true) &&
  (if op w = 0x23 then decide (pb w ≤ 4) && decide (st w + 2 ^ pb w ≤ 16) && (!pv w || (ow w == 2 && kv w == 0)) else true) &&
  (if op w = 0x30 then decide (fn w ≤ 3) && !(fn w == 0 && sg w) && !(fn w == 0 && cntr w && k w != 0) else true)
end W

/-- Each word that reads a slot follows a LOADCOL of that slot. -/
def loadedFirst : List Nat → List Nat → Bool
  | _, [] => true
  | seen, w :: ws => (W.reads w).all (fun k => k ∈ seen) && loadedFirst (if W.op w = 1 then W.k w :: seen else seen) ws

/-- No element occurs twice. -/
def noRepeat (l : List Nat) : Bool := l.eraseDups.length == l.length

/-- Bits of a context image that are reserved and nonzero, NI and words apart. -/
def ctxReserved (c : List Byte) : Bool :=
  bit (leAt c 4 1) 7 || bits (leAt c 4 4) 9 23 != 0 || leAt c 8 56 != 0 || leAt c 0x140 192 != 0 ||
  (List.range 16).any fun s => bits (leAt c (0x40 + 16 * s) 4) 10 22 != 0 || leAt c (0x48 + 16 * s) 8 != 0

/-- The load-time checks of R340, for NI from 1 to 64. -/
def ctxOk (c : List Byte) : Bool :=
  let ws := Scx.prog c
  let n := Scx.ni c
  leAt c 0 4 == 0x31584347 && !ctxReserved c && decide (1 ≤ n) && decide (n ≤ 64) &&
  Scx.word c (n - 1) == 0 && (ws.take (n - 1)).all (fun w => W.op w != 0) &&
  ((List.range 64).all fun i => decide (i < n) || Scx.word c i == 0) &&
  ws.all (W.ok (Scx.cmode c)) && loadedFirst [] ws && noRepeat (ws.flatMap W.feeds) &&
  ((List.range 16).all fun s => Scx.bound c s == (ws.flatMap W.feeds).contains s) &&
  noRepeat ((ws.filter fun w => W.op w == 0x30).map W.d)

/-! ## Evaluation over one row group. A bitmap is a number whose bit i is row i (R336). -/

/-- The bitmap of the rows that satisfy a test. -/
def bitmap (f : Nat → Bool) : Nat → Nat
  | 0 => 0
  | n + 1 => bitmap f n + if f n then 2 ^ n else 0

/-- Rows set in a bitmap, ascending. -/
def rowsIn (m n : Nat) : List Nat := (List.range n).filter (bit m)

/-- CMP (R337). -/
def cmpTest (fn : Nat) (sg : Bool) (v imm : Nat) : Bool :=
  let a := Seg.asInt sg v
  let b := Seg.asInt sg imm
  if fn = 0 then v == imm else if fn = 1 then v != imm else if fn = 2 then decide (a < b) else if fn = 3 then decide (a ≤ b)
  else if fn = 4 then decide (b < a) else decide (b ≤ a)

/-- The bounds of a RANGE, as 64-bit values. -/
def rangeBounds (c : List Byte) (w : Nat) (sg : Bool) : Nat × Nat :=
  let ext := fun (x : Nat) => if sg && decide (2 ^ 31 ≤ x) then x + 2 ^ 64 - 2 ^ 32 else x
  if W.wc w then (Scx.const c (W.cidx w), Scx.const c (W.cidx w + 1))
  else (ext (bits (W.imm w) 0 32), ext (bits (W.imm w) 32 32))

/-- RANGE (R337). -/
def rangeTest (c : List Byte) (w : Nat) (sg : Bool) (v : Nat) : Bool :=
  let b := rangeBounds c w sg
  decide (Seg.asInt sg b.1 ≤ Seg.asInt sg v) && decide (Seg.asInt sg v ≤ Seg.asInt sg b.2)

/-- INSET (R337). -/
def insetTest (c : List Byte) (w v : Nat) : Bool :=
  if Scx.cmode c then decide (v < 4096) && Scx.dict c v
  else (List.range (W.ccnt w)).any fun j => Scx.const c (W.cidx w + j) == v

/-- The prune test of a word against a segment (R339): true when the word cannot hold over MIN to MAX. -/
def pruneFails (c : List Byte) (w g : Nat) : Bool :=
  let sg := Seg.signed g
  let lo := Seg.asInt sg (Seg.min g)
  let hi := Seg.asInt sg (Seg.max g)
  let x := Seg.asInt sg (W.imm w)
  if !Seg.mmv g then true
  else if W.op w = 0x08 then
    (match W.fn w with
     | 0 => decide (x < lo) || decide (hi < x)
     | 1 => lo == x && hi == x
     | 2 => decide (x ≤ lo)
     | 3 => decide (x < lo)
     | 4 => decide (hi ≤ x)
     | _ => decide (hi < x))
  else
    let b := rangeBounds c w sg
    let l := Seg.asInt sg b.1
    let h := Seg.asInt sg b.2
    decide (hi < l) || decide (h < lo) || decide (h < l)

/-- Items of `w` bits packed without gaps, padded to whole bytes (R341). -/
def packItems (w : Nat) (l : List Nat) : List Byte := l.flatMap fun v => leBytes (w / 8) v

/-- Bytes padded with zeros to a multiple of 64 (R345). -/
def pad64 (l : List Byte) : List Byte := l ++ zeros ((64 - l.length % 64) % 64)

/-- A chunk header (R345). -/
def chunkHeader (x : Slot) (stream stag rgidx seq : Nat) (g : RowGroup) (excl pruned last : Bool)
    (owc kind nitems nskip plen : Nat) : List Byte :=
  let b := fun (c : Bool) (n : Nat) => if c then n else 0
  leBytes 4 0x314B4347 ++
  leBytes 4 (stream + b excl 256 + b pruned 512 + b last 1024 + owc * 2 ^ 16 + kind * 2 ^ 18) ++
  leBytes 4 (x.seq % 2 ^ 32) ++ leBytes 4 (x.entry.cid + x.qid * 2 ^ 16) ++ leBytes 4 rgidx ++ leBytes 4 nitems ++
  leBytes 8 g.baseRow ++ leBytes 4 (g.rows + nskip * 2 ^ 16) ++ leBytes 4 plen ++ leBytes 4 stag ++ leBytes 4 seq ++ zeros 16

/-- An accumulator to which no row has contributed. -/
def Accum.fresh (used : Bool) (fn : Nat) (sg : Bool) : Accum := { used := used, fn := fn, sg := sg, value := 0, nrows := 0, empty := true }

/-- AGG over the values of the applied rows (R343). -/
def aggregate (fn : Nat) (sg : Bool) (vals : List Nat) : Accum :=
  let ints := vals.map (Seg.asInt sg)
  let v : Int :=
    if fn = 0 then vals.length
    else if fn = 1 then ints.foldl (· + ·) 0
    else if fn = 2 then ints.foldl (fun m x => if x < m then x else m) (ints.headD 0)
    else ints.foldl (fun m x => if m < x then x else m) (ints.headD 0)
  { used := true, fn := fn, sg := sg, value := v, nrows := vals.length, empty := vals.isEmpty }

/-- A partial result merged into the command's accumulator (R344). -/
def Accum.merge (a b : Accum) : Accum :=
  if b.empty then a
  else if a.empty then { a with value := b.value, nrows := b.nrows, empty := false }
  else
    { a with
      nrows := a.nrows + b.nrows,
      value := if a.fn ≤ 1 then a.value + b.value
               else if a.fn = 2 then (if b.value < a.value then b.value else a.value)
               else (if a.value < b.value then b.value else a.value) }

/-- The 32 bytes of an accumulator's result (R349). -/
def accBytes (a : Accum) (incomplete : Bool) : List Byte :=
  if !a.used then zeros 32
  else leBytes 16 ((if a.empty then 0 else a.value) % 2 ^ 128).toNat ++ leBytes 8 a.nrows ++
    leBytes 4 (1 + (if a.empty then 2 else 0) + (if incomplete then 4 else 0) + (if a.sg then 8 else 0) + a.fn * 16) ++ zeros 4

/-- The accumulators of a context: each with the function of its AGG. -/
def ctxAccs (c : List Byte) : List Accum :=
  (List.range 8).map fun d =>
    match (Scx.prog c).find? fun w => W.op w == 0x30 && W.d w == d with
    | some w => Accum.fresh true (W.fn w) (W.sg w)
    | none => Accum.fresh false 0 false

/-- The program holds an AGG. -/
def ctxHasAgg (c : List Byte) : Bool := (Scx.prog c).any fun w => W.op w == 0x30

/-- Emit bytes per row group of a bounded SCAN's bound (R175). -/
def ctxEmitBytes (c : List Byte) : Nat :=
  ((Scx.prog c).map fun w =>
    if W.op w = 0x20 then 4096 else if W.op w = 0x22 then 131072
    else if W.op w = 0x21 ∨ W.op w = 0x23 then 32768 * 2 ^ W.ow w else 0).sum

end Sys2Proof.Machine
end

