-- ==== Sys2Proof/Machine/Work.lean ====
section
/-!
DEFINITION. Commands at work: the settings a command sampled (R34, R150), the conditions it meets and the status they
give (R138), operations and the die queues (R151 to R156), power tokens (R165 to R167).
-/

namespace Sys2Proof.Machine

/-! ## Sampled settings -/

/-- K of a command: K_c, or 0 under NO_RETRY (R170). -/
def Slot.kMax (x : Slot) : Nat := if x.entry.noRetry then 0 else x.samp.k x.entry.lcls

/-- A read of the command has suspension rights (R158). -/
def Slot.suspRight (x : Slot) : Bool := x.entry.suspendOk && decide (x.entry.lcls < 7) && x.samp.suspOn x.entry.lcls

/-! ## Conditions and status (R138). Items are numbered as in the rule. -/

namespace St
def ok := 0x00
def okWarn := 0x01
def okRetried := 0x02
def okPartialGather := 0x03
def okErased := 0x04
def invalidOpcode := 0x10
def invalidField := 0x11
def invalidAddress := 0x12
def invalidState := 0x13
def queueDisabled := 0x14
def blockEraseSuspended := 0x15
def writeProtected := 0x16
def admissionRefused := 0x20
def boundReached := 0x21
def abortedByHost := 0x22
def mediaUncorrectable := 0x30
def programFail := 0x31
def eraseFail := 0x32
def lineVerifyFail := 0x33
def dieTimeout := 0x34
def scanPartial := 0x35
def dieNotResponding := 0x36
def powerLossAborted := 0x38
def hostReadError := 0x40
def hostReadTimeout := 0x41
def hostWriteError := 0x42
def readbackError := 0x43
def chainLimit := 0x44
def outputRingFault := 0x45
def internalPoison := 0x50
def machineCheck := 0x51
def keySlotEmpty := 0x60
def securityLocked := 0x61
end St

/-- The item of R138 that a status found during execution belongs to. -/
def itemOf (st : Status) : Nat :=
  if st = 0x51 then 1 else if st = 0x38 then 2 else if st = 0x22 then 3 else if st = 0x50 then 4
  else if (0x40 ≤ st ∧ st ≤ 0x45) ∨ st = 0x60 ∨ st = 0x11 then 5 else 6

/-- A condition of items 1 to 6 has been met. -/
def Slot.failed (x : Slot) : Bool := x.reject.isSome || !x.conds.isEmpty

/-- A condition of items 1 to 5 has been met: no further host write. -/
def Slot.mute (x : Slot) : Bool := x.conds.any fun c => decide (itemOf c ≤ 5)

/-- The first found of the highest item met. -/
def firstCond (l : List Status) : Option Status :=
  ([1, 2, 3, 4, 5, 6].flatMap fun i => l.filter fun c => itemOf c == i).head?

/-- The status of items 7 to 12, with the replacements of R121 and R326. RES0 of a gather holds the masks of failed
elements; `x.entry.count` elements in all. -/
def softStatus (x : Slot) : Status :=
  if x.entry.opc == Opc.gather && (x.outc.contains 0x30 || x.outc.contains 0x21) then
    (if ((List.range x.entry.count).all fun i => bit x.res0 i) then
       (if x.outc.contains 0x30 then St.mediaUncorrectable else St.boundReached)
     else St.okPartialGather)
  else if x.entry.opc == Opc.scan && (x.outc.contains 0x30 || x.outc.contains 0x21) then St.scanPartial
  else if x.outc.contains 0x30 then St.mediaUncorrectable
  else if x.outc.contains 0x21 then St.boundReached
  else if x.outc.contains 0x04 then St.okErased
  else if x.outc.contains 0x02 then St.okRetried
  else if x.outc.contains 0x01 then St.okWarn
  else St.ok

/-- The status of a finished command (R138). -/
def Slot.finalStatus (x : Slot) : Status :=
  match x.reject with
  | some st => st
  | none => (firstCond x.conds).getD (softStatus x)

/-- One of the outcomes of items 7 to 11 applies. -/
def outcome (s : State) (n : Nat) (c : Nat) : State :=
  s.updSlot n fun x => if x.outc.contains c then x else { x with outc := x.outc ++ [c] }

/-- Operation `o` belongs to command `n`. -/
def Op.ofSlot (o : Op) (n : Nat) : Bool := o.owner == .cmd n
def Cw.ofSlot (c : Cw) (n : Nat) : Bool := c.owner == .cmd n

/-- The command issues no further operation: queued ones go, recovery ends; a SCAN's
units discard what they hold (R138, R352). -/
def stopOps (s : State) (n : Nat) : State :=
  { s with
    ops := s.ops.filter fun (o : Op) => !(o.ofSlot n && o.stage == OpStage.queued),
    recov := s.recov.filter fun (r : Recov) => r.owner != .cmd n,
    cws := s.cws.filter fun (c : Cw) => !(c.ofSlot n && (c.stage == CwStage.failed || c.stage == CwStage.softWait)),
    units := s.units.filter fun (u : CombUnit) => !(u.slot == some n),
    slots := updBy (fun (x : Slot) => x.id == n) (fun x => { x with todo := [] }) s.slots }

/-- A purpose is a write of command `n`'s data. -/
def Purpose.writesData (p : Purpose) (n : Nat) : Bool :=
  match p with
  | .dataWrite k => k == n | .metaWrite k => k == n | .unitData _ k => k == n
  | _ => false

/-- Writes of a command's data that have not left a port are not issued any more (R138), and BYTES does not count them (R367). -/
def unsend (s : State) (n : Nat) : State :=
  let gone := s.ports.flatMap fun x => x.wait.filter fun r => r.purpose.writesData n
  if gone.isEmpty then s
  else
    let host := gone.filter fun r => r.purpose != .metaWrite n
    let s1 : State := { s with ports := s.ports.map fun x => { x with wait := x.wait.filter fun r => !r.purpose.writesData n } }
    s1.updSlot n fun y => { y with bytesOut := y.bytesOut - (host.map fun (r : Req) => r.bytes.length).sum }

/-- A condition of items 1 to 6 is met (R138). -/
def hit (s : State) (n : Nat) (st : Status) : State :=
  match s.slot n with
  | none => s
  | some x =>
    if x.phase == Phase.posting || x.phase == Phase.fullHeld || x.phase == Phase.faultHeld || x.reject.isSome then s
    else
      -- after items 1 to 5 nothing more is written to host memory
      let f := fun (y : Slot) => { y with conds := if y.conds.contains st then y.conds else y.conds ++ [st],
                                          outq := if itemOf st ≤ 5 then [] else y.outq }
      let s1 := stopOps (s.updSlot n f) n
      if itemOf st ≤ 5 then unsend s1 n else s1

/-- A host-side failure with its STAGE, RING and REASON (R367): those of the first. -/
def hostFail (s : State) (n : Nat) (st : Status) (stage ring reason : Nat) : State :=
  let s1 := s.updSlot n fun x =>
    if x.conds.any fun c => itemOf c == 5 then x else { x with stageNo := stage, ringNo := ring, reason := reason }
  hit s1 n st

/-- A check of R111 failed: the command completes with its status (R111). -/
def rejectCmd (s : State) (n : Nat) (st : Status) (res0 : Nat := 0) : State :=
  let s1 := s.updSlot n fun x => { x with reject := some st, res0 := res0, phase := .running, tblDone := true }
  stopOps s1 n

/-! ## Operations -/

/-- An operation with nothing applied yet. -/
def mkOp (owner : Owner) (kind : OpKind) (cls seq paddr fmt planes : Nat) (cws : List (Nat × Nat)) : Op :=
  { id := 0, owner := owner, kind := kind, die := pDie paddr, cls := cls, seq := seq, paddr := paddr, fmt := fmt,
    planes := planes, cws := cws, step := .first, stage := .queued, placed := 0, aged := false, susp := 0, expl := false,
    resume := false, wantSusp := none, wantRes := none, suspReads := 0, suspSeq := 0, stgWait := false, tokens := 0, rsv := false, waited := false, ran := 0,
    failed := false, offs := [], image := [], ready := false, bad := false }

/-- An operation that runs in the array or whose transfer goes on. -/
def Op.active (o : Op) : Bool := o.stage == .dispatched || o.stage == .confirmed || o.stage == .suspended
def Op.isRead (o : Op) : Bool := o.kind == .read || o.kind == .lineRead || o.kind == .calRead
def Op.bounded (o : Op) : Bool := decide (o.cls < 7)
/-- The slot of an operation's command. -/
def Op.slotOf (o : Op) : Option Nat := match o.owner with | .cmd n => some n | _ => none

/-- Queue order (R152): class first, then the admission sequence. -/
def Op.before (a b : Op) : Bool := decide (a.cls < b.cls) || (a.cls == b.cls && decide (a.seq < b.seq))

/-! ## Costs (R157, R170, R171), in µs -/

/-- A parameter of a die's timing set in µs. -/
def State.tus (s : State) (d i : Nat) : Rat := (s.tps (dieCh d) i : Rat) / 1000000
def State.tR (s : State) (d : Nat) : Rat := s.tus d (if s.classL d then 25 else 20)
def State.tPg (s : State) (d : Nat) : Rat := s.tus d (if s.classL d then 26 else 21)
/-- The transfer of `b` bytes (R170). -/
def State.tX (s : State) (d b : Nat) : Rat := (b : Rat) / (s.rateB (dieCh d) : Rat) + 2 / 5
/-- t_XP for a format's page of `b` bytes. -/
def State.tXP (s : State) (d b : Nat) : Rat := s.tX d (s.planes d * b)
def State.tXL (s : State) (d : Nat) : Rat := s.tX d 288
/-- t_SD: 21,600 KCLK. -/
def Samp.tSD (m : Samp) : Rat := 21600 / (m.kclk : Rat)
/-- u of R170. -/
def State.uStep (s : State) (m : Samp) (d b : Nat) : Rat := s.tR d + s.tX d b + m.tSD

/-- The stretch S of R171. -/
def State.stretch (s : State) (m : Samp) (d b : Nat) : Rat :=
  let us := s.uStep m d b
  let q := (List.range 7).foldl (fun acc c => acc + m.a c * (1 + m.k c)) 0
  if (List.range 7).any m.suspOn then
    ((m.suspMax - 1 : Nat) : Rat) * (s.tus d 23 + (m.suspReads : Rat) * us + 2 / 5) + s.tus d 23 + (q : Rat) * us + 2 / 5
  else 0

/-- B_max: the largest page among the layouts that formats with LAYOUT_OK name (R170). -/
def State.bMax (s : State) : Nat :=
  (List.range 16).foldl (fun m f => if (s.fmtNow f).layoutOk then max m (s.fmtNow f).pageBytes else m) 0

/-- t_L7; for a Class L die t_PROG,max is that of a line write with verify. -/
def State.tL7 (s : State) (m : Samp) (d : Nat) : Rat :=
  let st := s.stretch m d s.bMax
  max (s.tXP d s.bMax + s.tPg d + st) (2 / 5 + s.tus d 22 + st)

/-- The bytes an operation transfers, for the cost of R157. -/
def State.opBytes (s : State) (o : Op) : Nat :=
  match o.kind with
  | .lineRead => (match o.slotOf.bind s.slot with | some x => x.entry.count | none => 288)
  | .lineWrite => 288
  | _ => (s.fmtNow o.fmt).pageBytes

/-- The transfer of an operation. -/
def State.xferOf (s : State) (o : Op) : Rat := if o.kind == .program then s.tXP o.die (s.opBytes o) else s.tX o.die (s.opBytes o)

/-- cost(o) of R157. -/
def State.cost (s : State) (m : Samp) (o : Op) : Rat :=
  let st := if o.cls = 7 then s.stretch m o.die (s.opBytes o) else 0
  match o.kind with
  | .program => s.tXP o.die (s.opBytes o) + s.tus o.die 21 + st
  | .erase => 2 / 5 + s.tus o.die 22 + st
  | .lineWrite => s.tPg o.die + s.tXL o.die
  | .exclusive => 0
  | _ => s.tR o.die + s.xferOf o

/-- The cost of a transfer for another die (R157). -/
def State.xferCost (s : State) (o : Op) : Rat := if o.kind == .lineRead || o.kind == .lineWrite then s.tXL o.die else s.tX o.die (s.opBytes o)

/-- The weight of a cost against a newcomer's: the ceiling of the quotient. -/
def costWeight (a b : Rat) : Nat := (Rat.ceil (a / b)).toNat

/-! ## The die queues (R152 to R154): `State.ops` keeps the queued operations of each die in its queue order -/

/-- The settings against which an operation's weight is judged: those its command sampled. -/
def State.sampOf (s : State) (o : Op) : Samp :=
  match o.slotOf.bind s.slot with
  | some x => x.samp
  | none => { cls := (List.range 8).map fun c => s.reg (A.admCls c), bound := 0, susp := s.reg A.admSuspCfg, age := 0,
              twr := 0, trb := 0, clks := s.reg A.admClks, turns := 0 }

/-- Operation `o` was admitted later than `e`. What belongs to no command counts as later than every command. -/
def State.laterThan (s : State) (o e : Op) : Bool :=
  match o.slotOf.bind s.slot, e.slotOf.bind s.slot with
  | some x, some y => decide (y.adm < x.adm)
  | none, _ => true
  | some _, none => false

/-- `o` is to be placed ahead of `e`: it has the higher priority, or is a recovery step of a command that was ahead of `e` (R153). -/
def Op.outranks (o e : Op) : Bool :=
  o.before e || (o.step != .first && (match o.slotOf with | some n => e.front.contains n | none => false))

/-- What being placed ahead of entry `e`, at a weight `w`, takes: none when `o` may not pass `e`, otherwise the credit used
(R153, R154). -/
def State.passCost (s : State) (o e : Op) (w : Nat) : Option Nat :=
  if !o.outranks e || (e.aged && s.laterThan o e) then none
  else if e.slotOf.isNone || !e.bounded then some 0
  else if w ≤ e.credit then some w else none

/-- The weight of `o` at the die of `e`, and that of its transfer for another die. An erase transfers nothing. -/
def State.ownWeight (s : State) (o e : Op) : Nat := costWeight (s.cost (s.sampOf o) o) (s.cost (s.sampOf e) e)
def State.xferWeight (s : State) (o e : Op) : Nat :=
  if o.kind == .erase then 0 else costWeight (s.xferCost o) (s.cost (s.sampOf e) e)

/-- Credit is used. -/
def Op.spend (e : Op) (w : Nat) : Op := { e with credit := e.credit - w }

/-- Walk from the end of the die's queue towards its front, past the entries that `o` may pass; operations of other dies
are no obstacle. -/
def insertRev (s : State) (o : Op) : List Op → List Op → List Op
  | [], acc => o :: acc
  | e :: rest, acc =>
    if e.stage != .queued || e.die != o.die then insertRev s o rest (e :: acc)
    else match s.passCost o e (s.ownWeight o e) with
      | some w => insertRev s o rest (e.spend w :: acc)
      | none => rest.reverse ++ e :: o :: acc

/-- An entry for another die of the channel. -/
def Op.otherDie (o e : Op) : Bool := e.stage == .queued && e.die != o.die && dieCh e.die == dieCh o.die

/-- The entries of other dies whose transfers stay ahead of that of `o`, though it has the higher rank. -/
def State.notPassed (s : State) (o : Op) : List Op :=
  s.ops.filter fun e => o.otherDie e && o.outranks e && (s.passCost o e (s.xferWeight o e)).isNone

/-- The transfer of `o` passes those of other dies, at their credit (R153, R157). -/
def State.passXfers (s : State) (o : Op) : List Op :=
  s.ops.map fun e => if o.otherDie e then (match s.passCost o e (s.xferWeight o e) with | some w => e.spend w | none => e) else e

/-- Place an operation in its die's queue (R152, R153). -/
def placeOp (s : State) (o : Op) : State :=
  let o1 := { o with id := s.opNo, placed := s.aclk, behind := (s.notPassed o).map Op.id,
                     credit := match o.slotOf.bind s.slot with | some x => (assoc x.credits o.die).getD 0 | none => 0 }
  let s1 := { s with ops := s.passXfers o, opNo := s.opNo + 1 }
  let l := insertRev s1 o1 s1.ops.reverse []
  let ahead := (l.takeWhile fun e => e.id != o1.id).filter fun e => e.die == o.die
  { s1 with ops := updBy (fun e => e.id == o1.id) (fun e => { e with front := ahead.filterMap Op.slotOf }) l }

/-- The queue order of two operations, across the dies of a channel (R152, R156). -/
def State.queueBefore (s : State) (a b : Op) : Bool :=
  if a.die = b.die then (match s.ops.find? fun e => e.id == a.id || e.id == b.id with | some e => e.id == a.id | none => false)
  else if a.behind.contains b.id then false
  else if b.behind.contains a.id then true
  else a.outranks b

/-! ## Power tokens (R165 to R168) -/

def State.railBudget (s : State) (g : Nat) : Nat := s.fldOf (A.admRailBudget g) 0 16
def State.railReserve (s : State) (g : Nat) : Nat := s.fldOf (A.admRailBudget g) 16 16
/-- The costs of a rail group: 0 program, 1 erase, 2 read, 3 transfer. -/
def State.railCost (s : State) (g i : Nat) : Nat := s.fldOf (A.admRailCost g) (8 * i) 8

/-- The array cost of an operation. R236 gives DIE_RAW the program cost plus the transfer cost; the spec names no cost for the other
exclusive operations, which take the same (DESIGN CHOICE, log entry 97). -/
def State.arrayCost (s : State) (o : Op) : Nat :=
  let g := s.rail o.die
  match o.kind with
  | .program => s.railCost g 0
  | .erase => s.railCost g 1
  | .exclusive => s.railCost g 0 + s.railCost g 3
  | _ => s.railCost g 2

/-- The reserve serves bounded reads, line reads and line writes (R166). -/
def Op.fromReserve (o : Op) : Bool := o.bounded && (o.kind == .read || o.kind == .lineRead || o.kind == .lineWrite)

/-- Tokens held from a pool of a rail group. -/
def State.heldTokens (s : State) (g : Nat) (rsv : Bool) : Nat :=
  (s.ops.filter fun (o : Op) => s.rail o.die == g && o.rsv == rsv).foldl (fun acc o => acc + o.tokens) 0

/-- A pool. -/
def State.poolOf (s : State) (g : Nat) (rsv : Bool) : Nat := if rsv then s.railReserve g else s.railBudget g - s.railReserve g

/-- A pool can supply a cost. -/
def State.canDraw (s : State) (g : Nat) (rsv : Bool) (n : Nat) : Bool := decide (s.heldTokens g rsv + n ≤ s.poolOf g rsv)

/-- The operation waits for tokens (R167): counted once, and THROTTLED is set. -/
def throttle (s : State) (o : Op) : State :=
  if o.waited then s
  else
    let s1 := (s.updOp o.id fun x => { x with waited := true }).bump (A.admThrottleCnt (s.rail o.die))
    match o.slotOf with
    | some n => s1.updSlot n fun x => { x with throttled := true }
    | none => s1

/-! ## A die's state -/

/-- The operations in the array of a die or in transfer for it. -/
def State.activeAt (s : State) (d : Nat) : List Op := s.ops.filter fun o => o.die == d && o.active
def State.queuedAt (s : State) (d : Nat) : List Op := s.ops.filter fun o => o.die == d && o.stage == .queued

/-- The unfinished erase of a block admitted before sequence `n` (R126), among queued and active erases. -/
def State.eraseBefore (s : State) (p n : Nat) : Option Op :=
  s.ops.find? fun o => o.kind == .erase && decide (o.seq < n) && o.die == pDie p && pBlock o.paddr == pBlock p &&
    decide (pPlane o.paddr ≤ pPlane p) && decide (pPlane p < pPlane o.paddr + o.planes) && o.stage != .done

/-- The explicitly suspended erase of a LUN (R127, R163). -/
def State.explErase (s : State) (d : Nat) : Option Op := s.ops.find? fun o => o.kind == .erase && o.die == d && o.expl

/-- A block is that of the LUN's explicitly suspended erase. -/
def State.explBlock (s : State) (p : Nat) : Bool :=
  match s.explErase (pDie p) with
  | some o => pBlock o.paddr == pBlock p && decide (pPlane o.paddr ≤ pPlane p) && decide (pPlane p < pPlane o.paddr + o.planes)
  | none => false

/-! ## Requests of a command -/

/-- A purpose belongs to command `n`. -/
def Purpose.ofSlot (p : Purpose) (n : Nat) : Bool :=
  match p with
  | .dataRead k _ => k == n | .metaRead k _ => k == n | .dataWrite k => k == n | .metaWrite k => k == n
  | .table k => k == n | .readback k => k == n | .unitData _ k => k == n | .descBack _ k _ => k == n
  | _ => false

/-- A request of command `n` waits or is outstanding. -/
def State.hasReq (s : State) (n : Nat) : Bool := s.anyReq fun p => p.ofSlot n

/-- The initiator port of a command's queue pair. -/
def State.portOf (s : State) (x : Slot) : Nat := match s.qp x.qid with | some q => q.port | none => 0

end Sys2Proof.Machine
end

