-- ==== Sys2Proof/Machine/Admit.lean ====
section
/-!
DEFINITION. Admission (chapter 05): the operations a command places (R118, R122, R126, R309, R324), the tests of R157 and
R158, the bounds (R170 to R175), the deadline (R177, R178), and admitting a command.
-/

namespace Sys2Proof.Machine

/-! ## What a command reads and places -/

/-- The codewords of a list of gather elements, in list order. -/
def elemCws (l : List Elem) : List Nat := l.flatMap fun e => (List.range e.cnt).map fun i => e.paddr + i

/-- The codewords a reading command names: (index in the command, PADDR). -/
def State.items (s : State) (x : Slot) : List (Nat × Nat) :=
  let o := x.entry.opc
  let l := if o == Opc.read then s.readCws x.entry
    else if o == Opc.gather then elemCws x.elems
    else if o == Opc.scan then (match x.scan with | some r => r.groups.flatMap RowGroup.segs | none => [])
    else []
  l.zipIdx.map fun y => (y.2, y.1)

/-- Group codewords by page, in the order in which the pages first occur. -/
def byPage : List (Nat × Nat) → List (Nat × List (Nat × Nat)) → List (Nat × List (Nat × Nat))
  | [], acc => acc
  | y :: l, acc =>
    byPage l (if acc.any fun g => g.1 == pageOf y.2 then acc.map fun g => if g.1 == pageOf y.2 then (g.1, g.2 ++ [y]) else g
              else acc ++ [(pageOf y.2, [y])])

/-- Codewords that an earlier unfinished erase of their block takes (R126). -/
def State.underErase (s : State) (x : Slot) : List (Nat × Nat) := (s.items x).filter fun y => (s.eraseBefore y.2 x.seq).isSome

/-- Codewords grouped for reading: by page, and in a SCAN within each row group (R324). -/
def State.pageGroups (s : State) (x : Slot) : List (Nat × List (Nat × Nat)) :=
  let live := (s.items x).filter fun y => (s.eraseBefore y.2 x.seq).isNone
  match x.scan with
  | none => byPage live []
  | some r =>
    ((r.groups.foldl (fun (acc : Nat × List (Nat × List (Nat × Nat))) g =>
        (acc.1 + g.nseg, acc.2 ++ byPage (live.filter fun y => decide (acc.1 ≤ y.1) && decide (y.1 < acc.1 + g.nseg)) [])) (0, []))).2

/-- The slots of an append that starts at `row` and `col` on the dies `dies`, in order: (line index, die, line of the LUN). `skips`
are the offsets skipped (R305, R306). -/
def State.slotLines (s : State) (st row col total : Nat) (dies skips : List Nat) : List (Nat × Nat × Nat) :=
  let n := max 1 dies.length
  (((List.range total).filter fun o => !(o ∈ skips)).zipIdx.map fun y =>
    let k := col + y.1
    (y.2, dies.getD (k % n) 0, s.lsFirst st * 4096 + (row + k / n) % s.lsRows st))

/-- The PADDR of line `n` of a Class L die: its data offset. -/
def linePaddr (d n : Nat) : Nat := d * 2 ^ 32 + 256 * n

/-- The lines a LOG_READ touches: (index, PADDR of the line). -/
def readLines (e : Entry) : List (Nat × Nat) :=
  let off := e.paddr % 2 ^ 32
  (List.range ((off % 256 + e.count + 255) / 256)).map fun i => (i, pDie e.paddr * 2 ^ 32 + (off / 256 + i) * 256)

/-- The operations a command places when it is admitted. Which pages a multi-plane page-set read combines R118 and R151 leave to the
block: the model never forms one, so each read is of one page (DESIGN CHOICE, log entry 98). -/
def State.planOps (s : State) (x : Slot) : List Op :=
  let o := x.entry.opc
  let e := x.entry
  let mk := fun (k : OpKind) (p n : Nat) (cws : List (Nat × Nat)) => mkOp (.cmd x.id) k e.lcls x.seq p e.fmt n cws
  if o == Opc.read || o == Opc.gather || o == Opc.scan then
    (s.pageGroups x).map fun g => mk .read g.1 1 g.2
  else if o == Opc.program then [mk .program e.paddr e.count ((planePages e).zipIdx.map fun y => (y.2, y.1))]
  else if o == Opc.erase then [mk .erase e.paddr e.count ((planePages e).zipIdx.map fun y => (y.2, y.1))]
  else if o == Opc.logRead then [mk .lineRead e.paddr 1 (readLines e)]
  else if o == Opc.logAppend then x.lines.map fun l => mk .lineWrite (linePaddr l.2.1 l.2.2) 1 [(l.1, linePaddr l.2.1 l.2.2)]
  else if opExclusive o then [mk .exclusive e.paddr 1 []]
  else []

/-- The dies of a command in the order it names them. -/
def State.dieOrder (s : State) (x : Slot) (plan : List Op) : List Nat :=
  (((s.items x).map fun y => pDie y.2) ++ plan.map Op.die).eraseDups

/-! ## The bound (R170 to R175) -/

/-- B of the command's own format, or COUNT for LOG_READ. -/
def State.ownB (s : State) (x : Slot) : Nat := if x.entry.opc == Opc.logRead then x.entry.count else (s.fmtNow x.entry.fmt).pageBytes

/-- share, in bytes per µs. -/
def Slot.shareRate (x : Slot) : Rat := 64 * (x.samp.fclk : Rat) * (x.samp.share x.entry.lcls : Rat) / 256
def Slot.tP (x : Slot) : Rat := 1 + (x.samp.twr : Rat)

/-- The scan context a SCAN names. -/
def State.ctxOf (s : State) (x : Slot) : List Byte := (assoc s.scanCtx (bits x.entry.aux0 0 10)).getD []

/-- Host bytes a command moves (R170, R175). -/
def State.hostBytes (s : State) (x : Slot) : Nat :=
  let e := x.entry
  let o := e.opc
  let m := if e.hasMeta then 16 else 0
  if o == Opc.read then e.count * (4096 + m)
  else if o == Opc.gather then (elemCws x.elems).length * (4096 + m)
  else if o == Opc.program then e.count * (s.fmtNow e.fmt).ncw * (4096 + m)
  else if o == Opc.scan then
    e.count * (ctxEmitBytes (s.ctxOf x) + 64 * (Scx.streams (s.ctxOf x)).length) + 256
  else if o == Opc.logAppend || o == Opc.logRead then e.count
  else 0

/-- What a fragment table adds. -/
def Slot.tblTime (x : Slot) : Rat := if x.entry.indirect then (x.samp.trb : Rat) else 0
/-- t_D. A SCAN's fragment table holds its row-group list, so its T_RB belongs to T_L (R175). -/
def State.tD (s : State) (x : Slot) : Rat :=
  (s.hostBytes x : Rat) / x.shareRate + (x.samp.twr : Rat) + (if x.entry.durable then (x.samp.trb : Rat) else 0) +
    (if x.entry.opc == Opc.scan then 0 else x.tblTime)
def State.tH (s : State) (x : Slot) : Rat := (s.hostBytes x : Rat) / x.shareRate + (x.samp.trb : Rat) + x.tblTime

/-- T_S at a die. -/
def State.tS (s : State) (x : Slot) (d : Nat) : Rat :=
  if x.entry.opc == Opc.logRead then s.tPg d + s.tXL d
  else if x.suspRight then s.tXP d s.bMax + s.tus d 24 + s.tus d 23
  else s.tL7 x.samp d

/-- T_K: the largest t_L7 over the dies of the rail group. -/
def State.tK (s : State) (x : Slot) (g : Nat) : Rat :=
  (s.dies.filter fun d => s.diePresent d && s.rail d == g).foldl (fun m d => max m (s.tL7 x.samp d)) 0

/-- The largest of a list of times. -/
def maxRat (l : List Rat) : Rat := l.foldl max 0

/-- T_bound (R172 to R175). -/
def State.bound (s : State) (x : Slot) (plan : List Op) : Rat :=
  let e := x.entry
  let a : Rat := ((x.samp.a e.lcls + 1 : Nat) : Rat)
  let k : Rat := (x.kMax : Rat)
  let dies := s.dieOrder x plan
  let b := s.ownB x
  let reads := maxRat (dies.map fun d => s.tS x d + a * (s.tR d + s.tX d b) + k * s.uStep x.samp d b)
  if e.opc == Opc.program then
    x.tF + s.tH x + maxRat (dies.map fun d => s.tK x (s.rail d) + s.tL7 x.samp d + a * (s.tXP d b + s.tus d 21)) + x.tP
  else if e.opc == Opc.erase then
    x.tF + maxRat (dies.map fun d => s.tK x (s.rail d) + s.tL7 x.samp d + a * (2 / 5 + s.tus d 22)) + x.tP
  else if e.opc == Opc.logAppend then
    x.tF + s.tH x + maxRat ((s.lsDies (e.x 0 6)).map fun d => (s.tPg d + s.tXL d) + (a + k) * (s.tPg d + s.tXL d)) + x.tP
  else if e.opc == Opc.scan then
    x.tF + ((128 * e.count : Nat) : Rat) / x.shareRate + (x.samp.trb : Rat) + x.tblTime + reads +
      (e.count : Rat) * (4096 * (Scx.ni (s.ctxOf x) : Rat)) / (x.samp.kclk : Rat) + s.tD x + x.tP
  else x.tF + reads + s.tD x + x.tP


/-- A recovery step at die `d` that takes `u` may start (R178). LC7 commands have no deadline. -/
def State.stepInTime (s : State) (x : Slot) (us : Rat) : Bool :=
  !x.entry.bounded || decide ((s.aclk : Rat) + us + s.tD x + x.tP ≤ x.deadline)

/-! ## The tests (R157, R158, R166, R169) -/

/-- The newcomer's cost at die `d`: that of its operations there. -/
def State.newCost (s : State) (x : Slot) (plan : List Op) (d : Nat) : Rat :=
  match plan.find? fun o => o.die == d with
  | some o => s.cost x.samp o
  | none => s.cost x.samp { mkOp (.cmd x.id) .read x.entry.lcls x.seq 0 x.entry.fmt 1 [] with die := d }

/-- The transfer of an operation is complete, or it has none: that of a program or line write is complete at its confirm cycle. -/
def Op.sent (o : Op) : Bool :=
  o.kind == .erase || ((o.kind == .program || o.kind == .lineWrite) && (o.stage == .confirmed || o.stage == .suspended))

/-- ahead(n, d) of R157. -/
def State.ahead (s : State) (x : Slot) (plan : List Op) (d : Nat) : Nat :=
  let cn := s.newCost x plan d
  let c := x.entry.lcls
  let counts := fun (o : Op) =>
    if o.kind == .exclusive || o.ofSlot x.id || o.stage == .done then 0
    else if o.die == d then
      (if o.active then
         (if o.isRead || (o.bounded && (o.kind == .program || o.kind == .erase)) then costWeight (s.cost x.samp o) cn else 0)
       else if decide (o.cls ≤ c) || o.aged ||
           (o.slotOf.isSome && o.bounded && decide (o.credit < costWeight cn (s.cost (s.sampOf o) o)))
         then costWeight (s.cost x.samp o) cn else 0)
    else if dieCh o.die == dieCh d && decide (o.cls ≤ c) && !o.sent then costWeight (s.xferCost o) cn
    else 0
  s.ops.foldl (fun acc o => acc + counts o) 0

/-- n_own(d). -/
def nOwn (plan : List Op) (d : Nat) : Nat := (plan.filter fun o => o.die == d).length

/-- A bounded operation of the kinds the reserve serves that is admitted and not finished (R166). -/
def State.reserveDies (s : State) (g : Nat) : List Nat :=
  ((s.ops.filter fun (o : Op) => o.fromReserve && o.stage != .done && s.rail o.die == g).map Op.die).eraseDups

/-- The read-reserve test of a rail group over the dies that would hold such operations. -/
def reserveTest (dies : List Nat) (budget cost : Word) : Bool :=
  let chans := (dies.map dieCh).eraseDups
  decide (fld cost 16 8 * dies.length + fld cost 24 8 * chans.length ≤ fld budget 16 16)

/-- Array and transfer costs of the bounded programs and erases of a rail group. -/
def State.boundedWrites (s : State) (g : Nat) : List Op :=
  s.ops.filter fun (o : Op) => o.bounded && (o.kind == .program || o.kind == .erase) && o.stage != .done && s.rail o.die == g

def writeCost (l : List Op) (cost : Word) : Nat :=
  l.foldl (fun acc o => acc + fld cost (if o.kind == .program then 0 else 8) 8 + fld cost 24 8) 0

def writeTest (l : List Op) (budget cost : Word) : Bool :=
  decide (writeCost l cost ≤ fld budget 0 16 - fld budget 16 16)

/-- Commands of one direction on a port reserve a share (R169). -/
def toBlock (o : Nat) : Bool := o == Opc.program || o == Opc.logAppend
def movesData (o : Nat) : Bool := opBounded o && o != Opc.erase
def State.shareUsed (s : State) (port : Nat) (dir : Bool) : Nat :=
  (s.slots.filter fun (y : Slot) => y.charged && y.entry.bounded && movesData y.entry.opc && toBlock y.entry.opc == dir &&
    s.portOf y == port).foldl (fun acc y => acc + y.samp.share y.entry.lcls) 0

/-- A unit of the bounded partition that no bounded SCAN holds (R176). RSV is that of the newcomer's fetch (R150). -/
def State.freeBoundedUnit (s : State) (m : Samp) : Option Nat :=
  (List.range m.rsv).find? fun u =>
    !(s.slots.any fun y => match y.scan with | some r => r.unit == some u && y.unfinished | none => false)

/-- The first condition of R158 that fails, with its die. -/
def State.refusal (s : State) (x : Slot) (plan : List Op) : Option (Nat × Nat) :=
  let dies := s.dieOrder x plan
  let o := x.entry.opc
  let rsvKind := o == Opc.read || o == Opc.gather || o == Opc.scan || o == Opc.logRead || o == Opc.logAppend
  let first := fun (r : Nat) (p : Nat → Bool) => (dies.find? p).map fun d => (r, d)
  let t1 := first 1 fun d => decide (x.samp.a x.entry.lcls < s.ahead x plan d + nOwn plan d)
  let t2 := if (x.samp.bound : Rat) < s.bound x plan then some (2, 0) else none
  let t3 := if x.suspRight then
      first 3 fun d => (s.activeAt d).any fun p => p.cls == 7 && (p.kind == .program || p.kind == .erase) && decide (x.samp.suspMax ≤ p.susp)
    else none
  let t4 := if rsvKind then
      first 4 fun d =>
        let g := s.rail d
        !reserveTest ((s.reserveDies g ++ dies.filter fun y => s.rail y == g).eraseDups) (s.reg (A.admRailBudget g)) (s.reg (A.admRailCost g))
    else none
  let t5 := if o == Opc.program || o == Opc.erase then
      first 5 fun d =>
        let g := s.rail d
        !writeTest (s.boundedWrites g ++ plan.filter fun p => s.rail p.die == g) (s.reg (A.admRailBudget g)) (s.reg (A.admRailCost g))
    else none
  let t6 := if movesData o && decide (256 < s.shareUsed (s.portOf x) (toBlock o) + x.samp.share x.entry.lcls) then some (6, 0) else none
  let t7 := if o == Opc.scan && (s.freeBoundedUnit x.samp).isNone then some (7, 0) else none
  let t8 := if o == Opc.program || o == Opc.erase then first 8 fun d => (s.explErase d).isSome else none
  let t9 := first 9 fun d => (s.activeAt d).any fun p => p.kind == .exclusive
  ([t1, t2, t3, t4, t5, t6, t7, t8, t9].filterMap id).head?

/-- RES0 of a refusal (R160). -/
def refuseRes0 (s : State) (x : Slot) (plan : List Op) (r : Nat × Nat) : Nat :=
  r.1 + (if r.1 == 2 || r.1 == 6 || r.1 == 7 then 0 else r.2 * 256) +
    (if r.1 == 2 then (Rat.ceil (s.bound x plan)).toNat % 2 ^ 32 * 2 ^ 32 else 0)

/-! ## Admitting -/

/-- Outcomes of codewords that an unfinished erase takes (R126). For a READ they enter the erased mask; a gather's
enter the mask of its element. -/
def elemOf : List Elem → Nat → Nat → Nat
  | [], _, k => k
  | e :: l, i, k => if i < e.cnt then k else elemOf l (i - e.cnt) (k + 1)

/-- The mask bits of an erased codeword: RES0 as in R117. -/
def erasedBit (x : Slot) (idx : Nat) : Nat :=
  if x.entry.opc == Opc.read then 2 ^ (32 + idx) else if x.entry.opc == Opc.gather then 2 ^ (16 + elemOf x.elems idx 0) else 0
/-- The mask bits of a failed codeword or line. -/
def failedBit (x : Slot) (idx : Nat) : Nat :=
  if x.entry.opc == Opc.read || x.entry.opc == Opc.logRead then 2 ^ idx
  else if x.entry.opc == Opc.gather then 2 ^ elemOf x.elems idx 0 else 0

/-- A codeword of a command is erased. -/
def markErased (s : State) (n idx : Nat) : State :=
  outcome (s.updSlot n fun x => { x with res0 := x.res0 ||| erasedBit x idx }) n St.okErased

/-- The reads `l` of R126: ended by an explicitly suspended erase, or taken as erased without a bus cycle. -/
def takeErasedOf (s : State) (x : Slot) (l : List (Nat × Nat)) : State :=
  let s1 := s.each l fun st y => markErased st x.id y.1
  if l.any fun y => match s.eraseBefore y.2 x.seq with | some o => o.expl | none => false then hit s1 x.id St.blockEraseSuspended
  else s1
def takeErased (s : State) (x : Slot) : State := takeErasedOf s x (s.underErase x)

/-- A command whose tests passed places its operations, with its credits, share and unit (R157, R169, R176). Its deadline counts
from now, or from its release by a fence (R177). -/
def admitted (s : State) (x : Slot) (plan : List Op) : State :=
  let unit := if x.entry.opc == Opc.scan && x.entry.bounded then s.freeBoundedUnit x.samp else none
  let credits := if x.entry.bounded then
      (s.dieOrder x plan).map fun d => (d, x.samp.a x.entry.lcls + 1 - s.ahead x plan d - nOwn plan d) else []
  let y := { x with charged := true, credits := credits, released := if x.fenced then x.released else s.aclk, adm := s.adms + 1,
                    scan := x.scan.map fun r => { r with unit := unit } }
  let s1 := ({ s.setSlot y with adms := s.adms + 1 }).each plan placeOp
  takeErased s1 y

/-- Step 10 of R111 and what follows it: refused, or admitted into the phase `next`. -/
def admitCmd (s : State) (n : Nat) (next : Phase) : State :=
  match s.slot n with
  | none => s
  | some x =>
    let plan := s.planOps x
    match (if x.entry.bounded then s.refusal x plan else none) with
    | some r => rejectCmd (s.bump (A.admRefuseCnt x.entry.lcls)) n St.admissionRefused (refuseRes0 s x plan r)
    | none => admitted s { x with phase := next } plan

end Sys2Proof.Machine
end

