-- ==== Sys2Proof/Machine/LogMedia.lean ====
section
/-!
DEFINITION. Class L log media (chapter 10): placement of appends (R305 to R307), line writes and their verify (R309), the
wear ledger (R310 to R313), stream enables (R304) and the smoke region (R314).
-/

namespace Sys2Proof.Machine

/-! ## Ledger records (R310) -/

/-- The 64 bytes of a record. -/
def Ledger.bytes (x : Ledger) : List Byte :=
  let l := leBytes 4 x.count ++ leBytes 1 ((if x.alarm then 1 else 0) + (if x.full then 2 else 0)) ++ zeros 3 ++
    ((x.failed.flatMap fun n => leBytes 2 (n + 2 ^ 15)) ++ zeros 28).take 28 ++ zeros 24
  l ++ leBytes 4 (crc32c l)

/-- The ledger line as stored: one record, zeros, and a stamp of 0. -/
def Ledger.line (x : Ledger) : List Byte := mkLine x.bytes 0 0

/-- The record in a line's 256 data bytes, where its CRC holds. -/
def parseLedger (die seg stream : Nat) (l : List Byte) : Option Ledger :=
  if leAt l 60 4 == crc32c (l.take 60) then
    let e := (List.range 14).map fun i => leAt l (8 + 2 * i) 2
    some { die := die, seg := seg, loaded := true, count := leAt l 0 4, alarm := bit (leAt l 4 1) 0, full := bit (leAt l 4 1) 1,
           failed := (e.filter fun v => bit v 15).map fun v => bits v 0 12, dirty := false, stream := stream }
  else none

/-- A record taken as empty (R311). -/
def Ledger.fresh (die seg stream : Nat) : Ledger :=
  { die := die, seg := seg, loaded := false, count := 0, alarm := false, full := false, failed := [], dirty := false, stream := stream }

def State.ledger (s : State) (die seg : Nat) : Option Ledger := s.rlv.ledger.find? fun x => x.die == die && x.seg == seg
def State.setLedger (s : State) (x : Ledger) : State :=
  { s with rlv := { s.rlv with ledger := (s.rlv.ledger.filter fun y => !(y.die == x.die && y.seg == x.seg)) ++ [x] } }

/-- The PADDR of the ledger line of segment `seg` of a die. -/
def State.ledgerPaddr (s : State) (die seg : Nat) : Nat := linePaddr die ((s.segs die - 1) * 4096 + seg)

/-- A ledger operation: it ranks with the forager and belongs to no command (R311). -/
def ledgerOp (s : State) (kind : OpKind) (die seg : Nat) (image : List Byte) : State :=
  let p := s.ledgerPaddr die seg
  placeOp s { mkOp (.ledger die seg) kind 8 0 p 0 1 [(0, p)] with image := image }

/-- The record is written to its die. -/
def ledgerWrite (s : State) (x : Ledger) : State := ledgerOp (s.setLedger { x with dirty := true }) .lineWrite x.die x.seg x.line

/-- The die becomes read-only for appends. -/
def setReadOnly (s : State) (d : Nat) : State :=
  s.setReg (A.rlvLwRo (d / 32)) (s.reg (A.rlvLwRo (d / 32)) ||| BitVec.ofNat 32 (1 <<< (d % 32)))

/-- A WEAR_ALARM record (R312). -/
def wearAlarm (s : State) (x : Ledger) (kind line : Nat) : State :=
  s.raise 6 x.die (x.seg + kind * 4096) (x.count + line * 2 ^ 32) x.failed.length

/-- Rated endurance (R312): the first time COUNT exceeds RATE. -/
def wearCheck (s : State) (x : Ledger) : Ledger × State :=
  if !x.alarm && decide (s.fldAt (dieCh x.die) A.rlvLwRate 0 32 < x.count) then
    let y := { x with alarm := true }
    let s1 := wearAlarm s y 1 0
    (y, if s.fldAt (dieCh x.die) A.rlvLwCfg 2 1 = 1 then setReadOnly s1 x.die else s1)
  else (x, s)

/-- One line takes its entry (R312): the fourteenth sets FULL; one that finds the record full is only reported. -/
def markEntry (sx : Ledger × State) (line : Nat) : Ledger × State :=
  let x := sx.1
  if x.failed.contains line then sx
  else if x.full then (x, wearAlarm (setReadOnly sx.2 x.die) x 3 line)
  else
    let y := { x with failed := x.failed ++ [line] }
    if y.failed.length = 14 then
      let z := { y with full := true }
      (z, wearAlarm (setReadOnly sx.2 x.die) z 2 0)
    else (y, sx.2)

/-- The record is read when it is not cached (R311). -/
def ledgerRead (s : State) (stream die seg : Nat) : State :=
  match s.ledger die seg with
  | some x => s.setLedger { x with stream := stream }
  | none => ledgerOp (s.setLedger (Ledger.fresh die seg stream)) .lineRead die seg []

/-- The record is read when a stream becomes enabled (R311): a cached one whose write has not completed is newer than the media and
stays; any other is read again. -/
def ledgerReread (s : State) (stream die seg : Nat) : State :=
  match s.ledger die seg with
  | some x => if x.loaded && !x.dirty then ledgerOp (s.setLedger (Ledger.fresh die seg stream)) .lineRead die seg [] else s.setLedger { x with stream := stream }
  | none => ledgerRead s stream die seg

/-- Records of other segments that a stream no longer needs leave the cache. -/
def ledgerEvict (s : State) (stream die seg : Nat) : State :=
  { s with rlv := { s.rlv with ledger := s.rlv.ledger.filter fun x =>
      !(x.stream == stream && x.die == die && x.seg != seg && x.loaded && !x.dirty) } }

/-- A row of a stream enters a segment of an active die (R311): COUNT rises, and the record is written once it has been
read. While it is being read, `count` holds the entries to add and `failed` the lines to mark. -/
def ledgerEnter (s : State) (stream die seg : Nat) : State :=
  let s1 := ledgerRead (ledgerEvict s stream die seg) stream die seg
  match s1.ledger die seg with
  | none => s1
  | some x =>
    let y := { x with count := min (x.count + 1) (2 ^ 32 - 1) }
    if x.loaded then (let r := wearCheck s1 y; ledgerWrite r.2 r.1) else s1.setLedger y

/-- The read of a record ends (R311); `got` is none where its line is uncorrectable. -/
def ledgerLoaded (s : State) (die seg : Nat) (got : Option (List Byte)) : State :=
  match s.ledger die seg with
  | none => s
  | some x =>
    if x.loaded then s
    else
      let rec? := got.bind (parseLedger die seg x.stream)
      let s1 := if rec?.isSome then s else s.bump A.rlvLwLossCnt
      let base := rec?.getD { Ledger.fresh die seg x.stream with loaded := true }
      let r1 := if x.count = 0 then (base, s1) else wearCheck s1 { base with count := min (base.count + x.count) (2 ^ 32 - 1) }
      let r2 := x.failed.foldl markEntry r1
      if x.count = 0 && r2.1 == base then r2.2.setLedger r2.1 else ledgerWrite r2.2 r2.1

/-- A line that failed 1 + RETRY attempts is marked in its record (R309, R312). -/
def markLine (s : State) (stream die line : Nat) : State :=
  let seg := line / 4096
  let s1 := ledgerRead (s.bump A.rlvLwLfailCnt) stream die seg
  match s1.ledger die seg with
  | none => s1
  | some x =>
    if x.loaded then
      let r := markEntry (x, s1) (line % 4096)
      if r.1 = x then r.2 else ledgerWrite r.2 r.1
    else s1.setLedger { x with failed := if x.failed.contains (line % 4096) then x.failed else x.failed ++ [line % 4096] }

/-- A write of a ledger record has run out: it is not retried (R311). -/
def ledgerWritten (s : State) (die seg : Nat) : State :=
  if s.ops.any fun (o : Op) => o.owner == .ledger die seg && o.kind == .lineWrite && o.stage != .done then s
  else match s.ledger die seg with
    | some x => s.setLedger { x with dirty := false }
    | none => s

/-! ## Placement (R305 to R307) -/

/-- The active dies of a stream, in list order, and their mask. -/
def State.activeDies (s : State) (st : Nat) : List Nat := (s.lsDies st).filter fun d => !s.readOnly d
def State.activeMask (s : State) (st : Nat) : Nat :=
  (s.lsDies st).zipIdx.foldl (fun acc x => if s.readOnly x.1 then acc else acc + 2 ^ x.2) 0

/-- The line of a slot is marked failed in the cached record of its die. -/
def State.lineFailed (s : State) (d line : Nat) : Bool :=
  match s.ledger d (line / 4096) with
  | some x => x.failed.contains (line % 4096)
  | none => false

/-- Take slots from offset `o` until `need` lines are placed: the offsets skipped, and how many slots were used. The
first number bounds the walk. -/
def placeWalk (bad : Nat → Bool) : Nat → Nat → Nat → List Nat → List Nat × Nat
  | 0, _, o, skips => (skips, o)
  | f + 1, need, o, skips =>
    if need = 0 then (skips, o)
    else if bad o then placeWalk bad f need (o + 1) (skips ++ [o])
    else placeWalk bad f (need - 1) (o + 1) skips

/-- The tail before the first slot: the stream's tail, or column 0 of the next row (R306 step 1). -/
def State.appendStart (s : State) (st : Nat) : Nat × Nat :=
  let row := s.fldOf (A.hqLsTail st) 0 24
  let col := s.fldOf (A.hqLsTail st) 24 3
  let dies := s.activeDies st
  let moved : Bool := match assoc s.rlv.lsSet st with | some l => l != dies | none => false
  if decide (dies.length ≤ col) || moved then ((row + 1) % s.lsRows st, 0) else (row, col)

/-- The walk of an append from its start: the active dies, the first row and column, the offsets skipped, and the slots used
(R306 step 2). -/
def State.appendWalk (s : State) (x : Slot) : List Nat × Nat × Nat × List Nat × Nat :=
  let st := x.entry.x 0 6
  let dies := s.activeDies st
  let k := max 1 dies.length
  let start := s.appendStart st
  let need := x.entry.count / 256
  let bad := fun (o : Nat) => s.lineFailed (dies.getD ((start.2 + o) % k) 0)
    (s.lsFirst st * 4096 + (start.1 + (start.2 + o) / k) % s.lsRows st)
  (dies, start.1, start.2, placeWalk bad (need + 8) need 0 [])

/-- The line of the LUNs that is the row of offset `o` of a walk. -/
def State.walkRow (s : State) (st : Nat) (w : List Nat × Nat × Nat × List Nat × Nat) (o : Nat) : Nat :=
  s.lsFirst st * 4096 + (w.2.1 + (w.2.2.1 + o) / max 1 w.1.length) % s.lsRows st

/-- The ledger records that a walk touches and that have not been read: (die, segment). -/
def State.appendNeeds (s : State) (x : Slot) : List (Nat × Nat) :=
  let st := x.entry.x 0 6
  let w := s.appendWalk x
  let k := max 1 w.1.length
  if w.1.isEmpty then []
  else (((List.range w.2.2.2.2).map fun o => (w.1.getD ((w.2.2.1 + o) % k) 0, s.walkRow st w o / 4096)).eraseDups).filter fun y =>
    match s.ledger y.1 y.2 with | some r => !r.loaded | none => true

/-- A row enters a segment (R311): it follows a row of another segment, or a wrap. DESIGN CHOICE, log entry 121: where the stream has
placed no row yet, the first row of a segment enters it, at column 0. -/
def rowEnters (last : Option Nat) (row col : Nat) : Bool :=
  match last with
  | some p => p / 4096 != row / 4096 || decide (row < p)
  | none => row % 4096 == 0 && col == 0

/-- The rows of a walk that enter a segment. -/
def rowsEntering (last : Option Nat) (col : Nat) : List Nat → List Nat
  | [] => []
  | r :: l => (if rowEnters last r col then [r] else []) ++ rowsEntering (some r) 0 l

/-- Placement of an append: none where it needs more than 7 skips or no die is active (R141, R307). -/
def placeAppend (s : State) (x : Slot) : Option State :=
  let st := x.entry.x 0 6
  let w := s.appendWalk x
  let dies := w.1
  let k := dies.length
  let skips := w.2.2.2.1
  let used := w.2.2.2.2
  if k = 0 ∨ 7 < skips.length then none
  else
    let row := w.2.1
    let col := w.2.2.1
    let rows := ((List.range used).map (s.walkRow st w)).eraseDups
    let s1 := s.each ([0, used - 1].eraseDups) fun t o => t.each dies fun t2 d => ledgerRead t2 st d (s.walkRow st w o / 4096)
    let s2 := s1.each (rowsEntering (assoc s.rlv.lsLast st) col rows) fun t r => t.each dies fun t2 d => ledgerEnter t2 st d (r / 4096)
    let kEnd := col + used
    let s3 := s2.setRegN (A.hqLsTail st) ((row + kEnd / k) % s.lsRows st + kEnd % k * 2 ^ 24)
    let s4 := s3.setRegN (A.hqLsAseq st) (s.regN (A.hqLsAseq st) + 1)
    let s5 := { s4 with rlv := { s4.rlv with lsSet := putBy Prod.fst (st, dies) s4.rlv.lsSet,
                                             lsLast := putBy Prod.fst (st, s.walkRow st w (used - 1)) s4.rlv.lsLast } }
    some (s5.updSlot x.id fun y => { y with placed := some (row, col, s.activeMask st, skips), wseq := some (s.regN (A.hqLsAseq st)),
                                            adies := dies, lines := s.slotLines st row col used dies skips })

/-- RES0 of a placed append (R308). -/
def Slot.appendRes0 (x : Slot) : Nat :=
  match x.placed with
  | none => 0
  | some (row, col, active, skips) =>
    row + col * 2 ^ 24 + active * 2 ^ 27 + skips.length * 2 ^ 35 + x.done * 2 ^ 38

/-- The COMMAND_EXT record of an append with skips (R308). -/
def appendExt (s : State) (x : Slot) : State :=
  let skips := match x.placed with | some (_, _, _, l) => l | none => []
  let at_ := fun (i : Nat) => skips.getD i 0
  s.raise 0xB x.qid (x.entry.cid + x.seq % 2 ^ 32 * 2 ^ 16 + at_ 0 * 2 ^ 48)
    (at_ 1 + at_ 2 * 2 ^ 16 + at_ 3 * 2 ^ 32 + at_ 4 * 2 ^ 48) (at_ 5 + at_ 6 * 2 ^ 16) (some x.id)

/-- The 288 bytes of line `i` of an append (R266): its 256 data bytes with the stream and ASEQ. -/
def Slot.lineImage (x : Slot) (i : Nat) : List Byte :=
  let data := (x.data.foldl (fun acc y => splice acc y.1 y.2) (zeros x.entry.count))
  mkLine ((data.drop (256 * i)).take 256) (x.entry.x 0 6) (x.wseq.getD 0)

/-! ## Line writes (R309) -/

/-- Attempts an operation has made. -/
def Op.attempts (o : Op) : Nat := match o.step with | .again n => n + 1 | _ => 1

/-- A line write ends at the die; `fail` is its FAIL bit. -/
def lineDone (s : State) (o : Op) (fail : Bool) : State :=
  let s0 := s.delOp o.id
  let again := { mkOp o.owner .lineWrite o.cls o.seq o.paddr o.fmt 1 o.cws with step := .again o.attempts, image := o.image, bad := o.bad }
  match o.owner with
  | .ledger d seg => ledgerWritten s0 d seg
  -- a line of the smoke record is tried again like a line of an append (R443)
  | .smoke => if fail && decide (o.attempts ≤ s0.fldAt (dieCh o.die) A.rlvLwCfg 0 2) then placeOp (s0.bump A.rlvLwVretryCnt) again else s0
  | .cmd n =>
    (match s0.slot n with
     | none => s0
     | some x =>
       if !fail then s0.updSlot n fun y => { y with done := y.done + 1 }
       else
         let retry := s0.fldAt (dieCh o.die) A.rlvLwCfg 0 2
         if decide (o.attempts ≤ retry) && decide (x.rstep < x.kMax) && s0.stepInTime x (s0.tPg o.die + s0.tXL o.die) && !x.failed then
           placeOp ((s0.bump A.rlvLwVretryCnt).updSlot n fun y => { y with rstep := y.rstep + 1 }) again
         else
           let s1 := if retry < o.attempts then markLine s0 (x.entry.x 0 6) o.die (o.paddr % 2 ^ 32 / 256) else s0
           hit s1 n St.lineVerifyFail)
  | _ => s0

/-! ## Stream enables (R304) and the smoke region (R314) -/

def State.smokeOn (s : State) : Bool := s.fldOf A.rlvSmokeDie 16 1 == 1
def State.smokeDie (s : State) : Nat := s.fldOf A.rlvSmokeDie 0 11
/-- The region's first segment and its segments, as the channel of die `d` has them. -/
def State.smokeFirstAt (s : State) (d : Nat) : Nat := s.fldAt (dieCh d) A.rlvSmokeReg 0 12
def State.smokeNsegAt (s : State) (d : Nat) : Nat := s.fldAt (dieCh d) A.rlvSmokeReg 16 12 + 1
def State.smokeFirst (s : State) : Nat := s.smokeFirstAt s.smokeDie
def State.smokeNseg (s : State) : Nat := s.smokeNsegAt s.smokeDie

/-- The conditions for EN = 1 of a stream, with NDIE as the word has it. -/
def State.lsOk (s : State) (n : Nat) (v : Word) : Bool :=
  let dies := (List.range (fld v 1 3 + 1)).map fun j => s.fldOf (A.hqLsDie n (j / 2)) (16 * (j % 2)) 11
  let last := s.lsFirst n + s.lsNseg n
  decide dies.Nodup &&
  dies.all (fun d => s.classLOk d && decide (last ≤ s.segs d - 1) &&
    !(s.smokeOn && s.smokeDie == d && decide (s.lsFirst n < s.smokeFirst + s.smokeNseg) && decide (s.smokeFirst < last))) &&
  decide (s.fldOf (A.hqLsTail n) 0 24 < s.lsRows n) && decide (s.fldOf (A.hqLsTail n) 24 3 ≤ fld v 1 3)

/-- A write of HQ_LS_CTL (R304): a refused EN = 1 has no effect but BADCFG. -/
def lsCtlWrite (s0 : State) (n : Nat) (v : Word) : State :=
  let s := passFetch s0
  if fld v 0 1 = 0 then s.setRegN (A.hqLsCtl n) (bits v.toNat 0 4)
  else if s.lsOk n v then
    let s1 := s.setRegN (A.hqLsCtl n) (bits v.toNat 0 4)
    let s2 := { s1 with rlv := { s1.rlv with lsBad := delN n s1.rlv.lsBad } }
    s2.each (s2.activeDies n) fun t d => ledgerReread t n d (s2.lsFirst n + s2.fldOf (A.hqLsTail n) 0 24 / 4096)
  else { s with rlv := { s.rlv with lsBad := addN n s.rlv.lsBad } }

/-- IDLE of a stream (R304). -/
def State.lsIdle (s : State) (n : Nat) : Bool :=
  !s.lsEn n && !(s.slots.any fun x => x.unfinished && x.entry.opc == Opc.logAppend && x.entry.x 0 6 == n)

/-- A write of RLV_SMOKE_DIE takes effect (R314): EN = 1 only for a region that fits a Class L die. -/
def smokeDieWrite (s : State) (v : Word) : State :=
  let d := fld v 0 11
  if fld v 16 1 = 0 ∨ (s.classLOk d ∧ s.smokeFirstAt d + s.smokeNsegAt d ≤ s.segs d - 1) then
    s.setReg A.rlvSmokeDie (Reg.merge [Reg.f 0 11, Reg.f 16 1] 0 v)
  else s

end Sys2Proof.Machine
end

