-- ==== Sys2Proof/Machine/Mover.lean ====
section
/-!
DEFINITION. The data mover (chapter 13): host spans and fragment tables (R101, R354, R365), delivery of data, buffer rings
(R355 to R364), the durable read-back (R368), FLUSH (R372) and MOV_ABORT (R373).
-/

namespace Sys2Proof.Machine

/-! ## Host spans -/

/-- The pieces of a command's spans that hold bytes `off` to `off + n − 1` of its data: (address, offset, length). -/
def spanPieces : List (Nat × Nat) → Nat → Nat → Nat → List (Nat × Nat × Nat)
  | [], _, _, _ => []
  | (a, l) :: rest, base, off, n =>
    let lo := max base off
    let hi := min (base + l) (off + n)
    (if lo < hi then [(a + (lo - base), lo, hi - lo)] else []) ++ spanPieces rest (base + l) off n

/-- Bytes of the spans known so far. -/
def Slot.known (x : Slot) : Nat := (x.spans.map Prod.snd).sum

/-- Codewords per page of the command's format, for its transfer length. -/
def State.ncwOf (s : State) (x : Slot) : Nat := (s.fmtNow x.entry.fmt).ncw

/-- The transfer length of a command (R113, R118, R122). -/
def State.xferLen (s : State) (x : Slot) : Nat :=
  let e := x.entry
  let o := e.opc
  if o == Opc.read then e.count * 4096
  else if o == Opc.program then e.count * s.ncwOf x * 4096
  else if o == Opc.scan then e.count * 128
  else if o == Opc.gather then e.count * 16
  else if o == Opc.setPatrol then e.count * 16
  else if o == Opc.loadScan then 2048
  else if o == Opc.loadMicro then e.count * 16
  else e.count

/-- The data a command reads are a list, not host data (R365, R367). -/
def Entry.readsList (e : Entry) : Bool := e.opc == Opc.gather || e.opc == Opc.scan || e.opc == Opc.setPatrol

/-- A command may still write host data (R138, R366). -/
def State.mayWrite (s : State) (x : Slot) : Bool := !x.mute && !x.noWrite && !s.stopped

/-! ## Delivery to host memory -/

/-- One contiguous piece is written for a command. -/
def writePiece (s : State) (n a : Nat) (bytes : List Byte) (psn : Bool) (why : Purpose) (count : Bool) : State :=
  match s.slot n with
  | none => s
  | some x =>
    let p := s.portOf x
    let s1 := writeSpan s p a bytes x.entry.durable psn why
    s1.updSlot n fun y => { y with bytesOut := if count then y.bytesOut + bytes.length else y.bytesOut,
                                   lastLine := some ((a + bytes.length - 1) / 64 * 64, psn), lastPort := p,
                                   psnDel := y.psnDel || psn }

/-- Output whose host spans are known leaves. -/
def flushOut (s : State) (n : Nat) : State :=
  match s.slot n with
  | none => s
  | some x =>
    let known := x.known
    let go := x.outq.filter fun y => decide (y.1 + y.2.1.length ≤ known)
    let s1 := s.updSlot n fun y => { y with outq := y.outq.filter fun z => !decide (z.1 + z.2.1.length ≤ known) }
    s1.each go fun st y =>
      st.each (spanPieces x.spans 0 y.1 y.2.1.length) fun st2 p =>
        writePiece st2 n p.1 ((y.2.1.drop (p.2.1 - y.1)).take p.2.2) y.2.2 (.dataWrite n) true

/-- Bytes of a command's data go to host memory at offset `off`. -/
def deliver (s : State) (n off : Nat) (bytes : List Byte) (psn : Bool) : State :=
  match s.slot n with
  | none => s
  | some x =>
    if bytes = [] || !s.mayWrite x then s
    else flushOut (s.updSlot n fun y => { y with outq := y.outq ++ [(off, bytes, psn)] }) n

/-- Bytes with stored poison in one beat: that beat alone is written with poison (R369). -/
def deliverBad (s : State) (n off beat : Nat) (bytes : List Byte) : State :=
  let s1 := deliver s n off (bytes.take (64 * beat)) false
  let s2 := deliver s1 n (off + 64 * beat) ((bytes.drop (64 * beat)).take 64) true
  deliver s2 n (off + 64 * beat + 64) (bytes.drop (64 * beat + 64)) false

/-- The 16 bytes of host metadata of item `i` (R118, R120, R354). -/
def deliverMeta (s : State) (n i : Nat) (bytes : List Byte) : State :=
  match s.slot n with
  | none => s
  | some x =>
    if !x.entry.hasMeta || !s.mayWrite x then s
    else
      let base := if x.entry.opc == Opc.gather then x.entry.aux1 else x.entry.aux0
      writePiece s n (base + 16 * i) bytes false (.metaWrite n) false

/-! ## Reads of host memory -/

/-- Read a contiguous host span for a command. -/
def readSpan (s : State) (n a len : Nat) (why : Nat → Purpose) (off : Nat) : State :=
  match s.slot n with
  | none => s
  | some x => s.each (pieces a len) fun st y => issue st (s.portOf x) (mkRead y.1 y.2 false (why (off + (y.1 - a))))

/-- Read all of a command's host data or list. -/
def pullData (s : State) (n : Nat) : State :=
  match s.slot n with
  | none => s
  | some x =>
    s.each (spanPieces x.spans 0 0 (s.xferLen x)) fun st p => readSpan st n p.1 p.2.2 (.dataRead n) p.2.1

/-- Host data a command has read, in order. -/
def Slot.hostData (x : Slot) (len : Nat) : List Byte := (x.data.foldl (fun acc y => splice acc y.1 y.2) (zeros len)).take len
def Slot.hostMeta (x : Slot) (len : Nat) : List Byte := (x.mdata.foldl (fun acc y => splice acc y.1 y.2) (zeros len)).take len

/-- Every read of a command has been answered. -/
def State.pulled (s : State) (x : Slot) : Bool := x.tblDone && !s.anyReq fun p => match p with
  | .dataRead k _ => k == x.id | .metaRead k _ => k == x.id | .table k => k == x.id | _ => false

/-! ## Fragment tables (R100, R101) -/

/-- What a table says. -/
inductive TableEnd where
  | bad
  | last (spans : List (Nat × Nat))
  | chain (spans : List (Nat × Nat)) (next : Nat)
  deriving DecidableEq, Repr

/-- The entries of a table from its bytes, at most `f` of them. -/
def readTable : Nat → List Byte → List (Nat × Nat) → TableEnd
  | 0, _, _ => .bad
  | f + 1, l, acc =>
    let a := leAt l 0 8
    let len := leAt l 8 4
    let fl := leAt l 12 4
    if 4 ≤ fl ∨ 2 ^ 56 ≤ a ∨ fl = 3 then .bad
    else if bit fl 1 then (if len = 0 ∧ a % 16 = 0 then .chain acc a else .bad)
    else if len = 0 ∨ len % 64 ≠ 0 ∨ a % 64 ≠ 0 then .bad
    else if bit fl 0 then .last (acc ++ [(a, len)])
    else readTable f (l.drop 16) (acc ++ [(a, len)])

/-- The table at `a` is read: it lies within one 4 KiB page, so the read runs to the page's end. -/
def tableRead (s : State) (n a : Nat) : State :=
  let s1 := s.updSlot n fun x => { x with tblNext := a, tblSeen := (a :: x.tblSeen).take 8 }
  readSpan s1 n a (4096 - a % 4096) (fun _ => .table n) 0

/-- A table has arrived. Output and input go on; the entry with LAST settles the total length (R113). -/
def tableData (s : State) (n : Nat) (bytes : List Byte) : State :=
  match s.slot n with
  | none => s
  | some x =>
    if x.tblDone then s
    else match readTable ((4096 - x.tblNext % 4096) / 16) bytes [] with
      | .bad => hostFail (s.updSlot n fun y => { y with tblDone := true }) n St.invalidField 1 0 0
      | .last sp =>
        let s1 := s.updSlot n fun y => { y with spans := y.spans ++ sp, tblDone := true }
        (match s1.slot n with
         | none => s1
         | some y => if y.known = s1.xferLen y then flushOut s1 n else hostFail s1 n St.invalidField 1 0 0)
      | .chain sp next =>
        if x.entry.bounded then hostFail (s.updSlot n fun y => { y with tblDone := true }) n St.invalidField 1 0 0 else
        let s1 := s.updSlot n fun y => { y with spans := y.spans ++ sp, hops := y.hops + 1 }
        if 65 ≤ x.hops + 1 ∨ next ∈ x.tblSeen then
          hostFail (s1.updSlot n fun y => { y with tblDone := true }) n St.chainLimit 1 0 0
        else tableRead (flushOut s1 n) n next

/-- The host side of a command starts: its table is read, or its one span is known. -/
def hostStart (s : State) (n : Nat) (spans : List (Nat × Nat)) : State :=
  match s.slot n with
  | none => s
  | some x =>
    if x.entry.indirect then tableRead (s.updSlot n fun y => { y with tblDone := false }) n x.entry.haddr
    else s.updSlot n fun y => { y with spans := spans, tblDone := true }

/-! ## Buffer rings (R355 to R364) -/

def State.brEn (s : State) (r : Nat) : Bool := s.fldOf (A.hqBrCfg r) 7 1 == 1
def State.brSize (s : State) (r : Nat) : Nat := 16 * 2 ^ s.fldOf (A.hqBrCfg r) 0 4
def State.brAddr (s : State) (r i : Nat) : Nat := s.pair (A.hqBrBaseLo r) + 32 * i
/-- An enabled ring for step 4 of R111. -/
def State.brUsable (s : State) (r : Nat) : Bool := s.brEn r && !(s.ring r).fault
/-- IDLE of a ring. -/
def State.brIdle (s : State) (r : Nat) : Bool := !(s.ring r).active && (s.ring r).units.isEmpty

/-- Room in the output store comes free. -/
def freeStore (s : State) (u : BrUnit) : State :=
  { s with mover := { s.mover with ostGen := s.mover.ostGen - u.gen, ostBnd := s.mover.ostBnd - u.bnd } }

/-- A unit ends: the next one may start; a ring whose EN = 0 waited for this boundary becomes inactive. -/
def ringNext (s : State) (b : BufRing) (head : Nat) : State :=
  s.setRing { b with units := b.units.tail, taken := [], phase := 0, waited := false, starved := false, again := false,
                     head := head, active := b.active && !b.closing, closing := false }

/-- A unit fails for a reason concerning its ring (R364, R367). -/
def failUnit (s : State) (r reason : Nat) (u : BrUnit) : State :=
  hostFail (freeStore s u) u.slot St.outputRingFault (if reason = 5 then 0 else 2) r reason

/-- The unit being placed fails; HEAD does not move. -/
def failFirst (s : State) (r reason : Nat) : State :=
  let b := s.ring r
  match b.units with
  | [] => s
  | u :: _ => failUnit (ringNext s b b.head) r reason u

/-- A ring fault (R361): every unit of the ring fails. -/
def ringFault (s : State) (r reason : Nat) : State :=
  let b := s.ring r
  let s1 := s.setRing { b with fault := true, freason := reason, units := [], taken := [], phase := 0, waited := false, starved := false,
                               again := false, active := b.active && !b.closing, closing := false }
  s1.each b.units fun st u => failUnit st r reason u

/-- A unit is ready for a ring (R357, R360, R361). -/
def pushUnit (s : State) (r : Nat) (u : BrUnit) : State :=
  let b := s.ring r
  if b.fault then failUnit s r b.freason u
  else if !s.brEn r || !b.active || b.closing then failUnit s r 6 u
  else s.setRing { b with units := b.units ++ [u] }

/-- Units of commands that may write nothing more leave a ring, but one whose descriptors are being written back. -/
def ringPurge (s : State) (r : Nat) : State :=
  let b := s.ring r
  let dead := fun (u : BrUnit) => match s.slot u.slot with | some x => !s.mayWrite x | none => true
  let keep := decide (3 ≤ b.phase)
  let gone := b.units.zipIdx.filter fun y => dead y.1 && !(keep && y.2 == 0)
  if gone.isEmpty then s
  else
    let s1 := s.each gone fun st y => freeStore st y.1
    let left := (b.units.zipIdx.filter fun y => !(dead y.1 && !(keep && y.2 == 0))).map Prod.fst
    if gone.any fun y => y.2 == 0 then
      s1.setRing { b with units := left, taken := [], phase := 0, waited := false, starved := false, again := false,
                          active := b.active && !b.closing, closing := false }
    else s1.setRing { b with units := left }

/-- Units of commands that may write nothing more leave every ring. -/
def purgeRings (s : State) : State := s.each (s.rings.map BufRing.r) ringPurge

/-- A command has units in a ring. -/
def State.hasUnits (s : State) (n : Nat) : Bool := s.rings.any fun b => b.units.any fun u => u.slot == n

/-- A descriptor read of a ring is outstanding. -/
def State.descReading (s : State) (r : Nat) : Bool := s.anyReq fun p => match p with | .descRead q _ _ => q == r | _ => false

/-- The next descriptors of the unit are read: up to 8, to the end of the ring and of a 4 KiB page (R357). -/
def ringRead (s : State) (r : Nat) : State :=
  let b := s.ring r
  match b.units with
  | [] => s
  | u :: _ =>
    match s.slot u.slot with
    | none => s
    | some x =>
      let i := (b.head + b.taken.length) % s.brSize r
      let a := s.brAddr r i
      let k := min 8 (min (s.brSize r - i) ((4096 - a % 4096) / 32))
      issue (s.setRing { b with phase := 1, again := false, readAt := s.aclk }) (s.portOf x) (mkRead a (32 * k) false (.descRead r i k))

/-- BUFFER_RING_PLACE: the ring's next unit starts. -/
def ringPlace (s : State) (r : Nat) : State :=
  let s1 := ringPurge s r
  let b := s1.ring r
  if b.phase = 0 && !b.units.isEmpty && !s1.descReading r then ringRead s1 r else s1

/-- The bytes of the buffers taken: (descriptor, offset of its first byte in the unit, bytes in it). -/
def fills : List Descr → Nat → Nat → List (Descr × Nat × Nat)
  | [], _, _ => []
  | d :: l, off, total => (d, off, min d.len (total - off)) :: fills l (off + min d.len (total - off)) total

/-- A run of beats of a unit is written at an address: holes are left out, poisoned beats carry poison. -/
def ringWrite (s : State) (r : Nat) (u : BrUnit) (f : Descr × Nat × Nat) : State :=
  match s.slot u.slot with
  | none => s
  | some x =>
    let p := s.portOf x
    s.each (pieces f.1.addr f.2.2) fun st y =>
      let off := f.2.1 + (y.1 - f.1.addr)
      let beats := List.range (y.2 / 64)
      let psn := beats.filter fun i => u.psn.contains (off / 64 + i)
      let hole := beats.filter fun i => u.hole.contains (off / 64 + i)
      let bytes := (u.bytes.drop off).take y.2
      let put := fun (t : State) (a : Nat) (l : List Byte) (bad : Bool) =>
        let r0 := mkWrite a l x.entry.durable bad (.unitData r u.slot)
        (issue t p r0).updSlot u.slot fun z =>
          { z with bytesOut := z.bytesOut + l.length, lastLine := some ((a + l.length - 1) / 64 * 64, bad), lastPort := p, psnDel := z.psnDel || bad }
      if psn.isEmpty && hole.isEmpty then put st y.1 bytes false
      else st.each (beats.filter fun i => !hole.contains i) fun t i =>
        put t (y.1 + 64 * i) ((bytes.drop (64 * i)).take 64) (psn.contains i)

/-- The buffers of a unit are written (R357 step 2); a chunk with stored poison is not, and ends its command (R385). -/
def ringFill (s : State) (r : Nat) : State :=
  let b := s.ring r
  match b.units with
  | [] => s
  | u :: _ =>
    if u.bad then hit s u.slot St.internalPoison
    else
      (s.setRing { b with phase := 2, starved := false }).each (fills b.taken 0 u.bytes.length) fun st f => ringWrite st r u f

/-- A descriptor waits for the host (R358): counted once for each unit. -/
def ringStarve (s : State) (r : Nat) : State :=
  let b := s.ring r
  let s1 := s.setRing { b with starved := true, waited := true, since := if b.waited then b.since else s.aclk }
  let s2 := if b.waited then s1 else s1.bump (A.hqBrStarveCnt r)
  if b.again then ringRead s2 r else s2

/-- A descriptor with OWN = 1 is malformed (R359). -/
def descBad (l : List Byte) : Bool :=
  decide (leAt l 0 8 % 64 ≠ 0) || decide (2 ^ 56 ≤ leAt l 0 8) || decide (leAt l 8 4 = 0) || decide (1048576 < leAt l 8 4) ||
  decide (leAt l 8 4 % 64 ≠ 0) || decide (leAt l 12 4 ≠ 1)

/-- Take descriptors in order until the unit is covered. -/
def takeDescr : List (List Byte) → State → Nat → State
  | [], s, r => ringRead s r
  | l :: rest, s, r =>
    let b := s.ring r
    match b.units with
    | [] => s
    | u :: _ =>
      if leAt l 12 4 % 2 = 0 then ringStarve s r
      else if descBad l then ringFault s r 2
      else
        let i := (b.head + b.taken.length) % s.brSize r
        let b1 := { b with taken := b.taken ++ [{ idx := i, addr := leAt l 0 8, len := leAt l 8 4 }] }
        let s1 := s.setRing b1
        if u.bytes.length ≤ (b1.taken.map Descr.len).sum then ringFill s1 r
        else if s.brSize r - 1 ≤ b1.taken.length then failFirst s1 r 7
        else takeDescr rest s1 r

/-- Descriptors have arrived. -/
def descData (s : State) (r i k : Nat) (bytes : List Byte) : State :=
  let s0 := ringPurge s r
  let b := s0.ring r
  if b.phase = 1 && i == (b.head + b.taken.length) % s0.brSize r then
    takeDescr ((List.range k).map fun j => (bytes.drop (32 * j)).take 32) s0 r
  else s0

/-- Bytes 0x0C to 0x1F of a descriptor that is given back (R356). -/
def descBytes (u : BrUnit) (x : Slot) (first last psn : Bool) (fill : Nat) : List Byte :=
  leBytes 4 ((if first then 2 else 0) + (if last then 4 else 0) + (if psn then 8 else 0)) ++ leBytes 4 fill ++
  leBytes 4 (x.seq % 2 ^ 32) ++ leBytes 4 (x.entry.cid + x.qid * 65536) ++ leBytes 4 (u.stream + u.kind * 16)

/-- One descriptor of the unit being placed is written back. -/
def descBack (s : State) (r : Nat) (u : BrUnit) (x : Slot) (total : Nat) (f : Descr × Nat × Nat) (first : Bool) : State :=
  let psn := (List.range (f.2.2 / 64)).any fun i => u.psn.contains (f.2.1 / 64 + i) || u.hole.contains (f.2.1 / 64 + i)
  let a := s.brAddr r f.1.idx + 12
  let bytes := descBytes u x first (f.2.1 + f.2.2 == total) psn f.2.2
  (issue s (s.portOf x) (mkWrite a bytes x.entry.durable false (.descBack r x.id first))).updSlot x.id fun y =>
    { y with lastLine := some (a / 64 * 64, false), lastPort := s.portOf x }

/-- DESCRIPTOR_WRITE_BACK: after every data write is OK, the descriptors but the first go back, and the first once those
are OK; a unit of one descriptor has only a first (R357 step 3). -/
def ringBack (s : State) (r : Nat) : State :=
  let s0 := ringPurge s r
  let b := s0.ring r
  match b.units with
  | [] => s0
  | u :: _ =>
    match s0.slot u.slot with
    | none => s0
    | some x =>
      let busy := s0.anyReq fun p => match p with | .unitData q n => q == r && n == u.slot | .descBack q n _ => q == r && n == u.slot | _ => false
      let fs := fills b.taken 0 u.bytes.length
      if busy then s0
      else if b.phase = 2 && 2 ≤ fs.length then
        (s0.setRing { b with phase := 3 }).each fs.tail fun st f => descBack st r u x u.bytes.length f false
      else if b.phase = 2 || b.phase = 3 then
        match fs with
        | f :: _ => descBack (s0.setRing { b with phase := 4 }) r u x u.bytes.length f true
        | [] => s0
      else s0

/-- A descriptor write-back received OK: the last of the others lets the first go; the first ends the unit. -/
def descBackOk (s : State) (r n : Nat) (first : Bool) : State :=
  let b := s.ring r
  match b.units.head?.filter fun u => u.slot == n with
  | none => s
  | some u =>
    if first && b.phase = 4 then
      ringNext (freeStore s u) b ((b.head + b.taken.length) % s.brSize r)
    else if b.phase = 3 then ringBack s r
    else s

/-- A write-back of the unit being placed failed: a ring fault (R361). One of a unit that has ended changes nothing more. -/
def descBackFail (s : State) (r n : Nat) : State :=
  if ((s.ring r).units.head?.any fun u => u.slot == n) && decide (3 ≤ (s.ring r).phase) then ringFault s r 3 else s

/-- A data write into a buffer failed (R364): the unit's descriptors stay lent, and HEAD stays. -/
def unitDataFail (s : State) (r n : Nat) : State :=
  let b := s.ring r
  match b.units.head? with
  | none => s
  | some u =>
    if b.phase = 2 ∧ u.slot = n then
      hostFail (ringNext (freeStore s u) b b.head) u.slot St.hostWriteError 0 0 0
    else s

/-- KICK (R358): the descriptor is read again now, or once more after an outstanding read. -/
def kickRing (s : State) (r : Nat) : State :=
  let b := s.ring r
  if b.phase ≠ 1 then s
  else if s.descReading r then s.setRing { b with again := true }
  else ringRead s r

/-- A write of HQ_BR_CFG (R355, R360). -/
def brCfg (s : State) (r : Nat) (v : Word) : State :=
  let b := s.ring r
  let old := s.reg (A.hqBrCfg r)
  let fl := if fld old 7 1 = 1 then [Reg.f 7 1, Reg.f 16 16] else [Reg.fr 0 4 0 12, Reg.f 7 1, Reg.f 16 16]
  let nv := Reg.merge fl old v
  let s1 := s.setReg (A.hqBrCfg r) nv
  if fld old 7 1 = 0 ∧ fld nv 7 1 = 1 then
    s1.setRing { b with head := 0, fault := false, starved := false, freason := 0, active := true, closing := false }
  else if fld old 7 1 = 1 ∧ fld nv 7 1 = 0 then
    if b.phase = 0 ∨ (b.phase = 1 ∧ b.starved ∧ b.taken = []) then
      (s1.setRing { b with active := false, units := [], phase := 0, waited := false, starved := false, again := false }).each b.units fun st u => failUnit st r 6 u
    else
      (s1.setRing { b with closing := true, units := b.units.take 1 }).each b.units.tail fun st u => failUnit st r 6 u
  else s1

/-- BUFFER_RING_PLACE. -/
def execBufferRingPlace (ring : Nat) (s : State) : Host.Outcome State Fault Refusal := run (ring < 256) s fun s => ringPlace s ring
/-- DESCRIPTOR_WRITE_BACK. -/
def execDescriptorWriteBack (ring : Nat) (s : State) : Host.Outcome State Fault Refusal := run (ring < 256) s fun s => ringBack s ring
/-- BR_POLL: the descriptor a unit waits for is read again, HQ_BR_POLL µs after the previous read (R358). -/
def execBrPoll (ring : Nat) (s : State) : Host.Outcome State Fault Refusal :=
  run (ring < 256) s fun s =>
    let b := s.ring ring
    if b.phase = 1 && b.starved && !s.descReading ring && decide (b.readAt + s.fldOf A.hqBrPoll 0 16 ≤ s.aclk) then ringRead s ring
    else s
/-- BR_WAIT_EXPIRY: a waiting unit has waited WAIT ms, with WAIT not 0. -/
def execBrWaitExpiry (ring : Nat) (s : State) : Host.Outcome State Fault Refusal :=
  run (ring < 256) s fun s =>
    let b := s.ring ring
    let w := s.fldOf (A.hqBrCfg ring) 16 16
    if b.phase = 1 && b.starved && w != 0 && decide (b.since + 1000 * w ≤ s.aclk) then failFirst s ring 4 else s

/-! ## The size of the output store (R362) -/

/-- A value of MOV_OSTORE_CFG is taken when the store holds no chunk and no SCAN is unfinished; one whose reservations exceed SIZE
is a reserved encoding. -/
def ostTake (s : State) : State :=
  match s.mover.ostPend with
  | none => s
  | some v =>
    if s.mover.ostGen != 0 || s.mover.ostBnd != 0 || s.slots.any (fun x => x.unfinished && x.entry.opc == Opc.scan) then s
    else
      let s1 := { s with mover := { s.mover with ostPend := none } }
      if fld v 8 6 * s.fldOf A.admCombCfg 0 5 ≤ fld v 0 6 then s1.setReg A.movOstoreCfg v else s1

/-! ## Codewords that are lost -/

/-- A staged codeword or line of an owner is lost: its command is aborted (R372); a patrol page loses it. -/
def loseCw (s : State) (c : Cw) : State :=
  let s1 := (s.delCw c.id).bump (A.movSqFlushCnt c.ch)
  match c.owner with
  | .cmd n => hit s1 n St.abortedByHost
  | .forager => { s1 with rlv := { s1.rlv with fg := { s1.rlv.fg with pages := s1.rlv.fg.pages.filter fun p => p.page != pageOf c.paddr } } }
  | .ledger d seg => ledgerLoaded s1 d seg none
  | _ => s1

/-- A read still brings codewords to the channel's staging queue. -/
def State.arriving (s : State) (ch : Nat) : Bool :=
  s.ops.any fun (o : Op) => dieCh o.die == ch && (o.kind == .read || o.kind == .lineRead) && (o.stage == .dispatched || o.stage == .confirmed)

/-- A flush of a channel's staging queue takes effect (R372). A notice hands a codeword over at once, so every codeword still
listed is one that was not noticed before this boundary. -/
def flushQueue (s : State) (ch : Nat) : State :=
  let s1 := s.each (s.cws.filter fun (c : Cw) => c.ch == ch) loseCw
  s1.updChan ch fun c => { c with flushing := s1.arriving ch }

/-! ## The durable read-back (R368) -/

/-- The line of the command's last write is read back. -/
def readBack (s : State) (n : Nat) : State :=
  match s.slot n with
  | none => s
  | some x =>
    match x.lastLine with
    | none => s
    | some (a, _) =>
      issue (s.updSlot n fun y => { y with readback := 1 }) x.lastPort (mkRead a 64 true (.readback n))

/-- The read-back ends: OK, or POISON for a line written with poison. -/
def readbackEnd (s : State) (n : Nat) (beats : List RdBeat) : State :=
  match s.slot n with
  | none => s
  | some x =>
    let psn := match x.lastLine with | some (_, p) => p | none => false
    if beats.all fun b => b.resp == .ok || (b.resp == .poison && psn) then s.updSlot n fun y => { y with readback := 2 }
    else hostFail s n St.readbackError 3 0 0

/-! ## MOV_ABORT (R373) -/

/-- Requests outstanding keep their tags, and their responses are discarded; requests that wait are not issued. -/
def Port.kill (x : Port) : Port := { x with out := x.out.map fun r => { r with purpose := .dead }, wait := [] }

/-- The context that serves an operation. -/
def Ctx.serves (c : Ctx) (o : Op) : Bool := c.op == some o.id

/-- An abandoned transfer ends its routine: nothing is programmed. -/
def abandon (s : State) (o : Op) : State :=
  (s.delOp o.id).updChan (dieCh o.die) fun c =>
    { c with run := match c.ctxs.find? (fun x => x.serves o) with | some x => (if c.run == some x.id then none else c.run) | none => c.run,
             ceLow := if c.ctxs.any (fun x => x.serves o && x.id == c.ceBy) then none else c.ceLow,
             ctxs := c.ctxs.filter fun x => !x.serves o }

/-- A program or line write whose confirm cycle has not been sent. -/
def Op.unconfirmed (o : Op) : Bool := (o.kind == .program || o.kind == .lineWrite) && o.stage == .dispatched

/-- A ring after an abort of the mover: its units are lost, and a fault stays (R361). -/
def BufRing.aborted (b : BufRing) : BufRing := { BufRing.reset b.r with head := b.head, fault := b.fault, freason := b.freason }

/-- The write of MOV_CTL.ABORT. -/
def movAbort (s : State) : State :=
  if s.stopped then s
  else
    let s1 := s.each s.cws fun st c => st.bump (A.movSqFlushCnt c.ch)
    let s2 := s1.each (s1.ops.filter Op.unconfirmed) abandon
    let keepOp := fun (o : Op) => o.active || (o.slotOf.isNone && o.owner != .smoke)
    let qp0 := (s2.qps.filter fun q => q.qid == 0)
    let s3 := s2.each (s2.qps.map QP.qid) fun st q => st.setRegN (A.hqQpCtl q) 0
    let s4 := s3.each (s3.rings.map BufRing.r) fun st r => st.setFldOf (A.hqBrCfg r) 7 1 0
    let s5 := s4.setFldOf A.hqArCfg 8 1 0
    ostTake { s5 with
      ports := s5.ports.map Port.kill, qps := qp0, slots := [], ops := s5.ops.filter keepOp, cws := [], recov := [],
      units := [], rings := s5.rings.map BufRing.aborted, san := { s5.san with busy := false },
      alert := { s5.alert with out := none },
      ntf := { s5.ntf with tgts := s5.ntf.tgts.map fun t => { t with out := false } },
      mover := { s5.mover with aborting := true, ostGen := 0, ostBnd := 0 },
      rlv := { s5.rlv with cals := s5.rlv.cals.filter (fun c => c.slot.isNone), calWait := s5.rlv.calWait.filter (fun w => w.1.isNone),
                           fg := { s5.rlv.fg with pages := [] } } }

/-- ABORTED: no slot is in use and no dispatched array operation remains. -/
def execAborted (s : State) : Host.Outcome State Fault Refusal :=
  run true s fun s =>
    if s.mover.aborting && s.slots.isEmpty && !(s.ops.any Op.active) then
      { s with mover := { s.mover with aborting := false, aborted := true } }
    else s

end Sys2Proof.Machine
end

