-- ==== Sys2Proof/Machine/Boundary.lean ====
section
/-!
DEFINITION. When register writes take effect (R29 to R36): the actions that wait for a boundary, and the boundaries of
channels and stages.
-/

namespace Sys2Proof.Machine

/-- The die whose channel an RLV_LW_RO register belongs to. -/
def lwRoChan (a : Nat) : Nat := (a - A.rlvLwRo 0) / 4 / 2

/-- A write with an action takes effect. -/
def actNow (s : State) (p : PendWrite) : State :=
  if 0x100000 ≤ p.addr then chCtlTake s ((p.addr - 0x100000) / 0x2000) p.val
  else if p.addr = A.rlvTblLg then tblLgWrite s p.sel p.val
  else if A.rlvTblData 0 ≤ p.addr ∧ p.addr < A.rlvTblData 4 then tblDataWrite s p.sel ((p.addr - A.rlvTblData 0) / 4) p.val
  else if p.addr = A.rlvSmokeDie then smokeDieWrite s p.val
  else if A.rlvLwRo 0 ≤ p.addr ∧ p.addr < A.rlvLwRo 64 then s.setReg p.addr (s.reg p.addr &&& ~~~ p.val)
  else if A.movSqCtl 0 ≤ p.addr ∧ p.addr < A.movSqCtl 32 then flushQueue s ((p.addr - A.movSqCtl 0) / 32)
  else s

/-- One write takes effect. -/
def takeOne (s : State) (p : PendWrite) : State := if p.act then actNow s p else s.setReg p.addr p.val

/-- Of several writes of one register, or of one entry of a window, only the last is left (R31). -/
def lastOnly : List PendWrite → List PendWrite
  | [] => []
  | p :: l => if l.any fun q => q.addr == p.addr && q.sel == p.sel && q.act == p.act then lastOnly l else p :: lastOnly l

/-- Tracking is on at a channel. -/
def State.tracking (s : State) (ch : Nat) : Bool := s.fldAt ch A.rlvTrackCfg 0 1 == 1

/-- Place `k`, a channel or a stage, passes a boundary. A plain write is in effect everywhere once every place it governs has
passed; of the writes passed together the last one of each register acts. Switching tracking off at a channel clears the
tracking units of its dies (R286). -/
def passBound (s : State) (b : Boundary) (k : Nat) : State :=
  let l := s.pend.map fun (x : PendWrite) => if x.bnd == b then { x with left := x.left.filter (· != k) } else x
  let s1 := (lastOnly (l.filter fun x => x.left.isEmpty)).foldl takeOne { s with pend := l.filter fun x => !x.left.isEmpty }
  if s.tracking k && !s1.tracking k then
    { s1 with rlv := { s1.rlv with units := s1.rlv.units.filter fun (u : TrackUnit) => dieCh u.die != k } }
  else s1

/-- A channel's sequencer passes an instruction boundary. -/
def passInstr (s : State) (ch : Nat) : State := passBound s .instr ch

/-- A stage passes a codeword boundary. -/
def passCw (s : State) (stage : Nat) : State := passBound s .codeword stage

/-- A write with an action is applied: it waits for the boundary of place `k`, or acts now where that place stands at one. The
writes that wait for the same boundary act first (R35); an earlier one of the same entry does not act at all (R31). -/
def applyAct (s : State) (b : Boundary) (k a sel : Nat) (v : Word) (now : Bool) : State :=
  let rest := s.pend.filter fun (x : PendWrite) => !(x.addr == a && x.sel == sel && x.act)
  let s1 := { s with pend := rest ++ [{ bnd := b, addr := a, val := v, left := [k], sel := sel, act := true }] }
  if now then passBound s1 b k else s1

/-- A write of CH_CTL (R198 to R202). -/
def chCtlWrite (s : State) (ch : Nat) (v : Word) : State :=
  if !s.chPresent ch then s
  else chCtlNow (applyAct s .instr ch (A.chCtl ch) 0 (s.tselKept ch v) (s.chan ch).atBoundary) ch v

/-- A write through the read-level window (R271): the entry is used at its die's channel alone. -/
def tblWrite (s : State) (w : Nat) (v : Word) : State :=
  applyAct s .instr (dieCh s.selDie) (A.rlvTblData w) s.selKey v (s.chan (dieCh s.selDie)).atBoundary

/-- A write of RLV_TBL_LG (R280). -/
def lgWrite (s : State) (v : Word) : State :=
  applyAct s .instr (dieCh s.selDie) A.rlvTblLg (s.selKey / 4) v (s.chan (dieCh s.selDie)).atBoundary

/-- A write of RLV_SMOKE_DIE (R314), at the channel of the die it names. -/
def smokeWrite (s : State) (v : Word) : State :=
  let ch := dieCh (fld v 0 11)
  applyAct s .instr ch A.rlvSmokeDie 0 v (s.chan ch).atBoundary

/-- A write of 1s to RLV_LW_RO (R313): bits of writes that wait together are cleared together. -/
def lwRoWrite (s : State) (a : Nat) (v : Word) : State :=
  applyAct s .instr (lwRoChan a) a 0 (v ||| (s.pendAct a 0).getD 0) (s.chan (lwRoChan a)).atBoundary

/-- A write of MOV_SQ_CTL.FLUSH (R372). A queue with no complete codeword is idle. -/
def flushWrite (s : State) (ch : Nat) : State :=
  if s.live ch then s
  else applyAct s .codeword (stQueue ch) (A.movSqCtl ch) 0 1 (!s.cws.any fun (c : Cw) => c.ch == ch && c.stage == .decoded)

/-- A flush of a channel waits for its boundary. -/
def State.flushDue (s : State) (ch : Nat) : Bool := (s.pendAct (A.movSqCtl ch) 0).isSome

end Sys2Proof.Machine
end

