-- ==== Sys2Proof/Machine/Checks.lean ====
section
/-!
DEFINITION. How the block checks a command (R111 to R116), command fetch (R86), and what a fence holds (R128, R129).
-/

namespace Sys2Proof.Machine

/-! ## Addresses (R109, R110) -/

/-- A codeword of Class N media exists under `n` codewords per page. -/
def State.cwOk (s : State) (p n : Nat) : Bool :=
  let d := pDie p
  decide (p < 2 ^ 43) && s.diePresent d && !s.classL d && decide (pPlane p < s.planes d) && decide (pBlock p < s.blocks d) &&
  decide (pPage p < s.pages d) && decide (pCw p < n)

/-- A LUN of Class N media exists. -/
def State.lunOk (s : State) (p : Nat) : Bool := decide (p < 2 ^ 43) && s.diePresent (pDie p) && !s.classL (pDie p)

/-- Step 3 of R111. -/
def addressOk (s : State) (x : Slot) : Bool :=
  let e := x.entry
  let o := e.opc
  let n := (s.fmtNow e.fmt).ncw
  let p := e.paddr
  if o == Opc.read then
    s.cwOk p n && decide (pPage p + (pCw p + e.count - 1) / n < s.pages (pDie p))
  else if o == Opc.program then s.cwOk p n && pCw p == 0 && decide (pPlane p + e.count ≤ s.planes (pDie p))
  else if o == Opc.erase then s.cwOk p n && pCw p == 0 && pPage p == 0 && decide (pPlane p + e.count ≤ s.planes (pDie p))
  else if o == Opc.copy then
    let m := (s.fmtNow (e.x 0 4)).ncw
    s.cwOk p n && pCw p == 0 && decide (pPage p + e.count ≤ s.pages (pDie p)) &&
    s.cwOk e.aux0 m && pCw e.aux0 == 0 && decide (pPage e.aux0 + e.count ≤ s.pages (pDie e.aux0))
  else if o == Opc.logRead then
    let d := pDie p
    decide (p < 2 ^ 43) && s.classLOk d && p % 64 == 0 && decide (p % 2 ^ 32 + e.count ≤ s.segs d * 2 ^ 20)
  else if o == Opc.logAppend then
    !s.lsEn (e.x 0 6) || (s.lsDies (e.x 0 6)).all s.classLOk
  else if o == Opc.dieRaw then s.lunOk p
  else if o == Opc.getFeature || o == Opc.setFeature || o == Opc.readParam || o == Opc.eraseControl then
    s.lunOk p && p % 2 ^ 32 == 0
  else if o == Opc.calibrate then decide (p < 2 ^ 43) && s.chPresent (pChan p) && pCw p == 0
  else true

/-! ## Fields (step 2) -/

/-- The flags an opcode accepts (R116). -/
def flagsOf (o : Nat) : Nat :=
  if o == Opc.read then 0xFF
  else if o == Opc.gather then 0xEF
  else if o == Opc.scan then 0xFB
  else if o == Opc.program then 0xF0
  else if o == Opc.copy then 0xE2
  else if o == Opc.logAppend then 0xB0
  else if o == Opc.logRead then 0xBE
  else if o == Opc.deleteQp then 0
  else if o == Opc.readParam || o == Opc.calibrate || o == Opc.getLog || o == Opc.dieRaw then 0xA8
  else 0xA0

/-- Only bits of `mask` are set. -/
def only (v mask : Nat) : Bool := v &&& mask == v

/-- A host address with bits [63:56] zero on a boundary (R113). -/
def hostOk (a align : Nat) : Bool := decide (a < 2 ^ 56) && a % align == 0

/-- LCLS of an opcode (R115). -/
def lclsOk (e : Entry) : Bool :=
  if opBounded e.opc then true
  else if e.opc == Opc.sanitize || ((0x01 ≤ e.opc && e.opc ≤ 0x0F) && e.opc != Opc.fence) then e.lcls == 7
  else e.lcls == 0

/-- Encryption and format fields (R114, R257). -/
def formatOk (s : State) (e : Entry) : Bool :=
  if opFormat e.opc then
    let f := s.fmtNow e.fmt
    f.layoutOk && e.encrypt == f.enc && (e.encrypt || e.kslot == 0) &&
    (if e.opc == Opc.copy then
       let g := s.fmtNow (e.x 0 4)
       g.layoutOk && g.ncw == f.ncw && (g.enc || e.x 4 10 == 0)
     else true)
  else e.fmt == 0 && e.kslot == 0

/-- The customer entry a DIE_RAW names, where it is not empty (R235). -/
def State.custEntry (s : State) (e : Entry) : Option (List Byte) :=
  match assoc (s.store (pChan e.paddr / 8)).entries (e.x 0 6) with
  | some l => if bit (leAt l 0 4) 16 then some l else none
  | none => none

def custStart (l : List Byte) : Nat := bits (leAt l 0 4) 0 12
def custDir (l : List Byte) : Nat := bits (leAt l 0 4) 17 2
def custXlen (l : List Byte) : Nat := bits (leAt l 4 4) 0 17

/-- The length of a log of the directory (R137): the directory itself, and log 0x10 (R435). DESIGN CHOICE, log entry 118: the
directory's own length, 24, counts its closing all-zero entry, of which R137 does not say. -/
def State.logLen (s : State) (id : Nat) : Option Nat :=
  if id = 0 then some 24 else if id = 0x10 then some (8 * s.san.log.length) else none

/-- The bytes of a log. -/
def State.logBytes (s : State) (id : Nat) : List Byte :=
  if id = 0 then leBytes 8 (24 * 2 ^ 32) ++ leBytes 8 (0x10 + 8 * s.san.log.length * 2 ^ 32) ++ zeros 8
  else s.san.log.flatMap (leBytes 8)

/-- The words of an area of LOAD_MICROCODE (R242). -/
def areaLimit (a : Nat) : Nat := [4096, 64, 1024].getD a 0

/-- The values SET_BUDGET would load, as the two registers. -/
def newBudget (e : Entry) : Word := BitVec.ofNat 32 e.aux0
def newCosts (e : Entry) : Word := BitVec.ofNat 32 e.aux1

/-- The field checks of SET_BUDGET (R168). -/
def budgetOk (e : Entry) : Bool :=
  let b := fld (newBudget e) 0 16
  let r := fld (newBudget e) 16 16
  let c := fun (i : Nat) => fld (newCosts e) (8 * i) 8
  decide (1 ≤ c 0) && decide (1 ≤ c 1) && decide (1 ≤ c 2) && decide (r ≤ b) && decide (max (c 0) (c 1) + c 3 ≤ b - r) &&
  (r == 0 || decide (c 2 + c 3 ≤ r))

/-- No unused AUX field is set. -/
def auxZero (e : Entry) : Bool := e.aux0 == 0 && e.aux1 == 0 && e.aux2 == 0

/-- The buffer address of a command that may be INDIRECT: a table starts on a 16-B boundary (R101). -/
def bufOk (e : Entry) : Bool := hostOk e.haddr (if e.indirect then 16 else 64)

/-- The metadata address and tweak of READ and PROGRAM. -/
def metaTweakOk (e : Entry) : Bool :=
  (if e.hasMeta then hostOk e.aux0 64 else e.aux0 == 0) && e.aux1 == 0 && (e.ltweak || e.aux2 == 0)

/-- A load of the scan context that a SCAN names is executing (R333). -/
def State.ctxLoading (s : State) (x : Slot) : Bool :=
  s.slots.any fun y => y.unfinished && y.entry.opc == Opc.loadScan && decide (y.seq < x.seq) && !y.failed && y.reject.isNone &&
    y.entry.x 0 10 == bits x.entry.aux0 0 10

/-- The context that a SCAN names is not empty, and AUX1 is what its aggregates need (R333, R349). -/
def State.ctxFieldsOk (s : State) (x : Slot) : Bool :=
  let ctx := s.ctxOf x
  ctx != [] && (if ctxHasAgg ctx then hostOk x.entry.aux1 64 else x.entry.aux1 == 0)

/-- The rings that a SCAN's context binds are enabled (R360). -/
def State.ctxRingsOk (s : State) (x : Slot) : Bool :=
  (Scx.streams (s.ctxOf x)).all fun st => s.brUsable (Scx.ring (s.ctxOf x) st)

/-- The checks of a SCAN fetched during the load of its context, against the content it uses (R333). -/
def ctxChecks (s : State) (x : Slot) : Option Status :=
  if !s.ctxFieldsOk x then some St.invalidField
  else if !s.ctxRingsOk x then some St.queueDisabled
  else none

/-- The fields of an I/O opcode (R117, R120, R159, R236, R291, R302, R322). -/
def ioFieldsOk (s : State) (x : Slot) : Bool :=
  let e := x.entry
  let o := e.opc
  if o == Opc.read then
    decide (1 ≤ e.count) && decide (e.count ≤ 32) && only e.xctl 3 && bufOk e && metaTweakOk e
  else if o == Opc.gather then
    e.paddr == 0 && decide (1 ≤ e.count) && decide (e.count ≤ 16) && only e.xctl 3 && hostOk e.haddr 64 && hostOk e.aux0 64 &&
    decide (e.aux0 % 4096 + 16 * e.count ≤ 4096) && (if e.hasMeta then hostOk e.aux1 64 else e.aux1 == 0) && e.aux2 == 0
  else if o == Opc.scan then
    e.paddr == 0 && decide (1 ≤ e.count) && decide (e.count ≤ (if e.bounded then 64 else 65536)) && e.xctl == 0 && bufOk e &&
    only e.aux0 1023 && (x.ctxLate || s.ctxFieldsOk x) && e.aux2 == 0
  else if o == Opc.program then
    decide (1 ≤ e.count) && decide (e.count ≤ 8) && only e.xctl 3 && bufOk e && metaTweakOk e
  else if o == Opc.erase then decide (1 ≤ e.count) && decide (e.count ≤ 8) && e.xctl == 0 && e.haddr == 0 && auxZero e
  else if o == Opc.copy then
    decide (1 ≤ e.count) && decide (e.count ≤ 64) && only e.xctl 0x7FFF && e.haddr == 0 && e.aux1 == 0 && (e.ltweak || e.aux2 == 0)
  else if o == Opc.logAppend then
    e.paddr == 0 && decide (256 ≤ e.count) && decide (e.count ≤ 65536) && e.count % 256 == 0 && only e.xctl 63 && bufOk e && auxZero e
  else if o == Opc.logRead then
    let ring := bit e.xctl 8
    decide (64 ≤ e.count) && decide (e.count ≤ 4096) && e.count % 64 == 0 && only e.xctl 511 && auxZero e &&
    (if ring then e.haddr == 0 && !e.indirect else bufOk e) && decide (e.paddr % 256 + e.count ≤ 4096)
  else if o == Opc.dieRaw then
    (match s.custEntry e with
     | none => true
     | some l => (if custDir l = 0 then e.haddr == 0 else hostOk e.haddr 64) && (!e.durable || custDir l == 1))
  else if o == Opc.getFeature then e.count == 0 && only e.xctl 511 && e.haddr == 0 && auxZero e
  else if o == Opc.setFeature then
    e.count == 0 && only e.xctl 511 && e.haddr == 0 && decide (e.aux0 < 2 ^ 32) && e.aux1 == 0 && e.aux2 == 0
  else if o == Opc.readParam then
    decide (64 ≤ e.count) && decide (e.count ≤ 4096) && e.count % 64 == 0 && only e.xctl 255 && hostOk e.haddr 64 && auxZero e
  else if o == Opc.eraseControl then
    e.count == 0 && (e.xctl == 1 || e.xctl == 2) && e.haddr == 0 && auxZero e
  else if o == Opc.fence then e.paddr == 0 && e.count == 0 && only e.xctl 1 && e.haddr == 0 && auxZero e
  else if o == Opc.calibrate then
    decide (1 ≤ e.count) && decide (e.count ≤ 2048) && only e.xctl 0x7FFF && hostOk e.haddr 64 && auxZero e
  else
    e.paddr == 0 && e.count == 0 && only e.xctl 1023 && e.haddr == 0 && decide (e.aux0 < 65536) && e.aux1 == 0 && e.aux2 == 0 &&
    (x.qid == 0 || x.qid == e.x 0 10)

/-- The fields of an admin opcode (R96, R97, R136, R137, R168, R242, R294, R333, R431, R435). -/
def adminFieldsOk (s : State) (x : Slot) : Bool :=
  let e := x.entry
  let o := e.opc
  e.paddr == 0 &&
  (if o == Opc.createQp then
    e.haddr == 0 && only e.xctl 0xFFFFF && e.x 0 10 != 0 && decide (e.x 10 4 ≤ 12) && decide (e.x 14 4 ≤ 12) &&
    decide (1 ≤ e.count) && decide (e.count ≤ 131008) && hostOk e.aux0 4096 && hostOk e.aux1 4096 && only e.aux2 0x3FFF &&
    bits e.aux2 0 8 != 0
  else if o == Opc.deleteQp then e.haddr == 0 && only e.xctl 1023 && e.x 0 10 != 0 && e.count == 0 && auxZero e
  else if o == Opc.setKeySlot then
    only e.xctl 2047 && auxZero e && (if bit e.xctl 10 then e.count == 0 && e.haddr == 0 else e.count == 72 && hostOk e.haddr 64)
  else if o == Opc.loadScan then only e.xctl 1023 && e.count == 2048 && hostOk e.haddr 64 && auxZero e
  else if o == Opc.loadMicro then
    only e.xctl 31 && e.x 2 2 != 3 && decide (e.x 0 2 < Config.groups s.build) && (!bit e.xctl 4 || e.x 0 2 == 0) &&
    decide (1 ≤ e.count) && decide (e.count ≤ 4096) && hostOk e.haddr 64 && only e.aux0 0x3FFF && e.aux1 == 0 && e.aux2 == 0 &&
    decide (e.aux0 + e.count ≤ areaLimit (e.x 2 2))
  else if o == Opc.getLog then
    only e.xctl 255 && decide (64 ≤ e.count) && decide (e.count ≤ 65536) && e.count % 64 == 0 && hostOk e.haddr 64 && e.aux0 % 64 == 0 &&
    e.aux1 == 0 && e.aux2 == 0 && (match s.logLen (e.x 0 8) with | some n => decide (e.aux0 < n) | none => false)
  else if o == Opc.sanitize then
    only e.xctl 1 && e.count == 0 && e.haddr == 0 && e.aux1 == 0 && e.aux2 == 0 && decide (e.aux0 < 2 ^ 32) &&
    ((List.range 32).all fun c => !bit e.aux0 c || s.chPresent c)
  else if o == Opc.setPatrol then
    only e.xctl 0x3FFFF && decide (e.count ≤ 256) && auxZero e &&
    (if e.count == 0 then e.haddr == 0 else hostOk e.haddr 64 && decide (e.haddr % 4096 + 16 * e.count ≤ 4096))
  else
    only e.xctl 7 && e.count == 0 && e.haddr == 0 && decide (e.aux0 < 2 ^ 32) && decide (e.aux1 < 2 ^ 32) && e.aux2 == 0 && budgetOk e)

/-- Step 2 of R111. -/
def fieldsOk (s : State) (x : Slot) : Bool :=
  let e := x.entry
  e.rsv0 == 0 && e.rsv1 == 0 && only e.flags (flagsOf e.opc) && lclsOk e && formatOk s e &&
  (if opAdmin e.opc then adminFieldsOk s x else ioFieldsOk s x)

/-! ## Steps 4 to 9 -/

/-- Step 4: named queue pairs, rings and streams are enabled. -/
def queuesOk (s : State) (x : Slot) : Bool :=
  let e := x.entry
  if e.opc == Opc.abort then (s.qp (e.x 0 10)).isSome
  else if e.opc == Opc.logRead then !bit e.xctl 8 || s.brUsable (e.x 0 8)
  else if e.opc == Opc.logAppend then s.lsEn (e.x 0 6)
  else if e.opc == Opc.scan then x.ctxLate || s.ctxRingsOk x
  else true

/-- A command uses a key slot: for COPY, either side's. -/
def State.usesKey (s : State) (e : Entry) : Bool := e.encrypt || (e.opc == Opc.copy && (s.fmtNow (e.x 0 4)).enc)

/-- Step 5: resources locked by a protection change or SANITIZE (R139). -/
def lockedOk (s : State) (x : Slot) : Bool :=
  let o := x.entry.opc
  !((s.lowering || s.san.busy) &&
    (s.usesKey x.entry || o == Opc.scan || o == Opc.dieRaw || o == Opc.setKeySlot || o == Opc.loadScan || o == Opc.loadMicro))

/-- The channels a command writes. -/
def State.writeChans (s : State) (x : Slot) : List Nat :=
  let e := x.entry
  (if e.opc == Opc.copy then [dieCh (pDie e.aux0)]
   else if opWrites e.opc || e.opc == Opc.sanitize then (s.slotDies x).map dieCh else []).eraseDups

/-- Step 6: write protection released; a frozen channel is left to step 7 (R202). -/
def protectOk (s : State) (x : Slot) : Bool :=
  (s.writeChans x).all fun ch => (s.chan ch).frozen || ((s.chan ch).wp && s.wpRel ch)

/-- Step 7. -/
def frozenOk (s : State) (x : Slot) : Bool := (s.slotDies x).all fun d => !(s.chan (dieCh d)).frozen

/-- The erase that executes at a LUN (R127). -/
def State.runningErase (s : State) (d : Nat) : Option Op := s.ops.find? fun (o : Op) => o.die == d && o.kind == .erase && o.active

/-- ERASE_CONTROL is possible (R127). -/
def eraseControlOk (s : State) (x : Slot) : Bool :=
  let d := pDie x.entry.paddr
  if x.entry.xctl == 1 then
    (match s.runningErase d with
     | none => false
     | some o => !o.expl && ((o.stage == .suspended && !o.resume) || decide (o.susp < x.samp.suspMax)))
  else (s.explErase d).isSome

/-- A channel runs a routine from an area of its control store (R141, R242). -/
def Chan.runsArea (c : Chan) (area : Nat) : Bool :=
  if area = 0 then c.ctxs.any fun x => x.cust.isSome
  else if area = 2 then !c.ctxs.isEmpty || c.run.isSome || c.op.isSome
  else false

/-- The groups LOAD_MICROCODE loads. -/
def State.microGroups (s : State) (e : Entry) : List Nat :=
  if bit e.xctl 4 then List.range (Config.groups s.build) else [e.x 0 2]

/-- A block has an explicitly suspended erase, for any plane of a PROGRAM or page of a COPY (R141). -/
def programOk (s : State) (x : Slot) : Bool :=
  let e := x.entry
  if e.opc == Opc.program then (planePages e).all fun p => !s.explBlock p
  else if e.opc == Opc.copy then !s.explBlock e.aux0
  else if e.opc == Opc.erase then (s.explErase (pDie e.paddr)).isNone
  else true

/-- Step 8 (R141). -/
def stateOk (s : State) (x : Slot) : Bool :=
  let e := x.entry
  let o := e.opc
  let earlier := fun (y : Slot) => decide (y.seq < x.seq) && y.unfinished
  programOk s x &&
  ((s.slotDies x).all fun d => s.live (dieCh d) && s.grpOn (dieCh d)) &&
  (if o == Opc.eraseControl then eraseControlOk s x
   else if o == Opc.setFeature then
     e.x 0 8 != 1 || !(s.slots.any fun y => y.id != x.id && y.unfinished &&
       (s.slotDies y).any fun d => dieCh d == pChan e.paddr && dieTgt d == pTarget e.paddr)
   else if o == Opc.logAppend then !(s.activeDies (e.x 0 6)).isEmpty
   else if o == Opc.dieRaw then (s.custEntry e).isSome
   else if o == Opc.calibrate then
     !((s.slotDies x).any fun d => s.rlv.cals.any fun c => c.die == d && !c.ended)
   else if o == Opc.loadScan then
     !(s.slots.any fun y => earlier y && y.entry.opc == Opc.scan && bits y.entry.aux0 0 10 == e.x 0 10)
   else if o == Opc.loadMicro then
     (s.microGroups e).all fun g => (List.range 8).all fun i => !(s.chan (8 * g + i)).runsArea (e.x 2 2)
   else if o == Opc.sanitize then
     !s.san.busy && !(s.slots.any fun y => y.id != x.id && y.unfinished && y.entry.opc == Opc.sanitize && decide (y.seq < x.seq)) &&
     (List.range 32).all fun c => !bit e.aux0 c || s.live c
   else if o == Opc.createQp then (s.qp (e.x 0 10)).isNone
   else if o == Opc.deleteQp then (match s.qp (e.x 0 10) with | some q => s.qpIdle q | none => false)
   else if o == Opc.setBudget then
     reserveTest (s.reserveDies (e.x 0 3)) (newBudget e) (newCosts e) &&
     writeTest (s.boundedWrites (e.x 0 3)) (newBudget e) (newCosts e)
   else true)

/-- A key slot is loaded. -/
def State.keyLoaded (s : State) (k : Nat) : Bool := (assoc s.keys k).isSome

/-- Step 9. -/
def keysOk (s : State) (x : Slot) : Bool :=
  let e := x.entry
  (!e.encrypt || s.keyLoaded e.kslot) &&
  (!(e.opc == Opc.copy && (s.fmtNow (e.x 0 4)).enc) || s.keyLoaded (e.x 4 10))

/-- Steps 4 to 9, in order: the status of the first that fails. -/
def lateChecks (s : State) (x : Slot) : Option Status :=
  if !queuesOk s x then some St.queueDisabled
  else if !lockedOk s x then some St.securityLocked
  else if !protectOk s x then some St.writeProtected
  else if !frozenOk s x then some St.machineCheck
  else if !stateOk s x then some St.invalidState
  else if !keysOk s x then some St.keySlotEmpty
  else none

/-- Steps 1 to 9, in order. -/
def firstChecks (s : State) (x : Slot) : Option Status :=
  if !opDefined x.entry.opc || (opAdmin x.entry.opc && x.qid != 0) then some St.invalidOpcode
  else if !fieldsOk s x then some St.invalidField
  else if !addressOk s x then some St.invalidAddress
  else lateChecks s x

/-- The checks of steps 7 and 8 on the dies that a list names (DEDUCED, log entry 50). -/
def State.listDies (s : State) (x : Slot) : Option Status :=
  if !frozenOk s x then some St.machineCheck
  else if !((s.slotDies x).all fun d => s.live (dieCh d) && s.grpOn (dieCh d)) then some St.invalidState
  else none

/-! ## Fences (R128, R129) -/

/-- Command `y` is one that holds `x`: an earlier FENCE whose scope covers it, or any earlier one of its queue pair under its
own flag. -/
def holds (x y : Slot) : Bool :=
  decide (y.seq < x.seq) && y.unfinished &&
  ((y.entry.opc == Opc.fence && y.reject.isNone && (y.entry.xctl == 1 || y.qid == x.qid)) || (x.entry.fence && y.qid == x.qid))

def State.isHeld (s : State) (x : Slot) : Bool := s.slots.any (holds x)

/-- Commands in the scope of a FENCE that were fetched before it and have not finished. -/
def State.fenceWaits (s : State) (x : Slot) : List Slot :=
  s.slots.filter fun y => decide (y.seq < x.seq) && y.unfinished && (x.entry.xctl == 1 || y.qid == x.qid)

/-! ## Fetch (R86) -/

/-- The settings a command samples at its fetch (R34, R150). -/
def State.sample (s : State) (q : Nat) (lcls : Nat) : Samp :=
  let others := (s.qps.filter fun y => y.qid != q && s.qpEn y.qid).foldl (fun acc y => acc + s.weight y.qid * s.burst y.qid) 0
  { cls := (List.range 8).map fun c => s.reg (A.admCls c), bound := s.fldOf (A.admBound lcls) 0 20, susp := s.reg A.admSuspCfg,
    age := s.fldOf A.admBulkAge 0 20, twr := s.fldOf A.admTwr 0 20, trb := s.fldOf A.admTrb 0 20, clks := s.reg A.admClks,
    turns := others + s.burst q, rsv := s.fldOf A.admCombCfg 0 5 }

/-- A slot with its command just fetched. -/
def newSlot (id qid seq now : Nat) (e : Entry) (m : Samp) : Slot :=
  { id := id, qid := qid, seq := seq, entry := e, fetched := now, released := now, samp := m, phase := .admitted,
    reject := none, conds := [], outc := [], res0 := 0, maxBe := 0, rstep := 0, warn := false, retried := false,
    psnDel := false, suspOth := false, throttled := false, cqHeld := false, alert := false, charged := false, credits := [],
    waitsOn := 0, spans := [], tblDone := true, tblNext := 0, tblSeen := [], hops := 0, bytesIn := 0, bytesOut := 0, data := [],
    mdata := [], outq := [], stageNo := 0, ringNo := 0, reason := 0, noWrite := false, lastLine := none, lastPort := 0,
    readback := 0, report := false, reported := false, enc := [], wseq := none, elems := [], scan := none, done := 0, placed := none, todo := [], calFirst := 0, calNoVal := 0,
    ready := 0, latu := 0, cqIdx := 0, status := 0 }

/-- A command that has been placed, or needs no placement, goes on: a held command waits, the rest meet the admission test; gathers
and scans meet it once their list has been read (R159). -/
def admitNext (s : State) (n : Nat) (held : Bool) : State :=
  match s.slot n with
  | none => s
  | some x =>
    if held then s.updSlot n fun y => { y with phase := .held }
    else if x.entry.opc == Opc.gather || x.entry.opc == Opc.scan then s.updSlot n fun y => { y with phase := .admitted, released := s.aclk }
    else admitCmd s n .admitted

/-- An append is placed once the records of the slots it takes have been read, after every earlier one of its stream (R306, R311);
until then it waits. DESIGN CHOICE, log entry 26. -/
def placeStart (s : State) (x : Slot) (held : Bool) : State :=
  let st := x.entry.x 0 6
  let needs := s.appendNeeds x
  if !needs.isEmpty || (s.slots.any fun y => y.waitsPlace && decide (y.seq < x.seq) && y.entry.x 0 6 == st) then
    (s.each needs fun t d => ledgerRead t st d.1 d.2).updSlot x.id fun y => { y with phase := .placing held }
  else match placeAppend s x with
    | some t => admitNext t x.id held
    | none => rejectCmd s x.id St.invalidState

/-- A checked command goes on: an append is placed first (R306). -/
def admitStart (s : State) (n : Nat) (held : Bool) : State :=
  match s.slot n with
  | none => s
  | some x => if x.entry.opc == Opc.logAppend && x.placed.isNone then placeStart s x held else admitNext s n held

/-- An append that waits for its placement is tried again, and meets the checks of steps 7 and 8 on its dies as they are now. -/
def placeAgain (s : State) (n : Nat) : State :=
  match s.slot n with
  | none => s
  | some x =>
    match x.phase with
    | .placing held =>
      if x.failed || s.smoking || s.stopped then s
      else match s.listDies x with
        | some st => rejectCmd s n st
        | none => placeStart s x held
    | _ => s

/-- The slots of appends that wait for their placement, in ADMSEQ order. -/
def State.placingSlots (s : State) : List Nat :=
  ((s.slots.filter Slot.waitsPlace).foldl (fun (acc : List Slot) x =>
    acc.filter (fun y => decide (y.seq < x.seq)) ++ [x] ++ acc.filter fun y => !decide (y.seq < x.seq)) []).map Slot.id

/-- The appends that wait for their placement are tried again. -/
def placeWaiting (s : State) : State := s.each s.placingSlots placeAgain

/-- The read of a ledger record ends: appends that waited for it are placed. -/
def ledgerBack (s : State) (die seg : Nat) (got : Option (List Byte)) : State := placeWaiting (ledgerLoaded s die seg got)

/-- COMMAND_FETCH: the front entry of a queue pair's returned entries is fetched: slot, ADMSEQ, H, checks (R86, R111). -/
def fetchEntry (s0 : State) (q0 : QP) (e : Entry) : State :=
  let s := passFetch s0
  let q := (s.qp q0.qid).getD q0
  let n := lowestFree s.slots 0
  let x0 := newSlot n q.qid s.admSeq s.aclk e (s.sample q.qid e.lcls)
  let x := { x0 with waitsOn := if e.opc == Opc.fence then (s.fenceWaits x0).length else 0,
                     ctxLate := e.opc == Opc.scan && s.ctxLoading x0 }
  let s1 := clearPoison { (s.setSlot x).setQp q.pass with admSeq := s.admSeq + 1 } 2 0 (64 * n) 64
  match firstChecks s1 x with
  | some st => rejectCmd s1 n st
  | none => admitStart s1 n (s1.isHeld x)

/-- The returned entries are checked in index order (R84, R86). -/
def fetchLoop : List (List Byte) → State → Nat → State
  | [], s, _ => s
  | l :: rest, s, qid =>
    match s.qp qid with
    | none => s
    | some q =>
      if q.todo = 0 then s
      else
        let e := parseEntry l
        if e.phase != q.expect then (s.setQp { q with stall := true }).bump (A.hqQpPhstallCnt qid)
        else if !s.slotFree qid then s
        else fetchLoop rest (fetchEntry s q e) qid

/-- An SQ read returns (R86, R93, R439): with QP_EN at 0, or once fetch has stopped, its data are discarded. -/
def sqArrive (s : State) (qid idx count : Nat) (bytes : List Byte) : State :=
  match s.qp qid with
  | none => s
  | some q =>
    if !s.qpEn qid || q.fault || idx != q.head || s.smoking || s.stopped then s
    else if s.sqHalfBad qid then s.setQp { q with fault := true }
    else turnCheck (fetchLoop ((List.range count).map fun i => (bytes.drop (64 * i)).take 64) s qid)

/-- FENCE_RELEASE (R129): checks 4 to 10 again, against the state at release. -/
def fenceRelease (s : State) (n : Nat) : State :=
  match s.slot n with
  | none => s
  | some x =>
    if x.phase != Phase.held || s.isHeld x then s
    else
      let s1 := s.updSlot n fun y => { y with released := s.aclk, fenced := true }
      let y := { x with released := s.aclk, fenced := true, phase := .admitted }
      match lateChecks s1 y with
      | some st => rejectCmd s1 n st
      | none => admitStart s1 n false

/-- FENCE_RELEASE. -/
def execFenceRelease (slot : Nat) (s : State) : Host.Outcome State Fault Refusal :=
  run (slot < Config.slotCount) s fun s => fenceRelease s slot

end Sys2Proof.Machine
end

