-- ==== Sys2Proof/Machine/WritePath.lean ====
section
/-!
DEFINITION. The write path of Class N media (R19, chapter 08): metadata and stamp (R251, R253), tweaks (R262), page images
(R259), encryption, and the page-by-page course of COPY (R124).
-/

namespace Sys2Proof.Machine

/-! ## Codewords (R250, R251) -/

/-- Metadata bytes 0 to 27. -/
def metaBytes (hmeta : List Byte) (fmt key wseq : Nat) : List Byte :=
  (hmeta ++ zeros 16).take 16 ++ leBytes 1 (fmt % 16 + 16) ++ leBytes 2 (key % 1024) ++ leBytes 5 wseq ++ zeros 4

/-- A codeword of 4,096 stored user bytes: metadata, CRC and parity. -/
def encodeCw (f : CwFmt) (key wseq : Nat) (user hmeta : List Byte) : List Byte :=
  let body := user ++ metaBytes hmeta f.fmt key wseq
  ldpcEncode f.p (body ++ leBytes 4 (crc32c body))

/-- The bytes of a page as they are sent: each codeword scrambled at its place under its own sampled settings, 0xFF elsewhere
(R32, R259, R261). -/
def pageImage (page : Nat) (cws : List (CwFmt × List Byte)) : List Byte :=
  cws.zipIdx.foldl (fun img c => splice img (c.1.1.col c.2) (scramble (scrambleSeed (page + c.2) c.1.1.salt.toNat) c.1.2))
    (List.replicate (match cws with | c :: _ => c.1.pageBytes | [] => 0) 0xFF)

/-- The tweak of codeword `idx` of a command at PADDR `p` (R262). -/
def Entry.tweak (e : Entry) (idx p : Nat) : Nat := if e.ltweak then (e.aux2 + idx) % 2 ^ 64 else p % 2 ^ 43

/-! ## What a PROGRAM or COPY writes -/

def Entry.dstFmt (e : Entry) : Nat := if e.opc == Opc.copy then e.x 0 4 else e.fmt
def Entry.dstKey (e : Entry) : Nat := if e.opc == Opc.copy then e.x 4 10 else e.kslot

/-- Codewords per page at the destination. -/
def State.dstNcw (s : State) (x : Slot) : Nat := (s.fmtNow x.entry.dstFmt).ncw

/-- The destination page of codeword `idx`: a plane of a PROGRAM, a page of a COPY. -/
def Entry.dstPage (e : Entry) (n idx : Nat) : Nat :=
  if e.opc == Opc.copy then e.aux0 + idx / n * 8 else e.paddr + idx / n * 2 ^ 15

/-- The PADDR of codeword `idx` at the destination. -/
def Entry.dstPaddr (e : Entry) (n idx : Nat) : Nat := e.dstPage n idx + idx % n

/-- The format at the destination, as its channel samples it (R32). -/
def State.dstCfg (s : State) (x : Slot) : CwFmt := s.fmtAt (stWrite (pChan (x.entry.dstPage 1 0))) x.entry.dstFmt

/-- User bytes and host metadata of codeword `idx` before encryption. -/
def State.clearOf (s : State) (x : Slot) (idx : Nat) : List Byte × List Byte :=
  if x.entry.opc == Opc.copy then
    (let l := (assoc x.data idx).getD []
     (l.take 4096, l.drop 4096))
  else
    let n := x.entry.count * s.dstNcw x
    (((x.hostData (4096 * n)).drop (4096 * idx)).take 4096,
     if x.entry.hasMeta then ((x.hostMeta (16 * n)).drop (16 * idx)).take 16 else zeros 16)

/-- The operation takes the write sequence when its first codeword reaches write step 4 (R253). The write sequence stands at a
codeword boundary between two operations (R29). -/
def takeWseq (s0 : State) (n : Nat) : State :=
  match s0.slot n with
  | none => s0
  | some x =>
    if x.wseq.isSome then s0
    else
      let s := passCw s0 stWseq
      let w := s.pair A.eccWseqLo % 2 ^ 40
      let v := (w + 1) % 2 ^ 40
      ((s.setRegN A.eccWseqLo (v % 2 ^ 32)).setRegN (A.eccWseqLo + 4) (v / 2 ^ 32)).updSlot n fun y => { y with wseq := some w }

/-- The codewords of the operation that `x` now programs: all of a PROGRAM, one page of a COPY. -/
def State.pageItems (s : State) (x : Slot) : List Nat :=
  let n := s.dstNcw x
  if x.entry.opc == Opc.copy then (List.range n).map fun j => x.done * n + j else List.range (x.entry.count * n)

/-- The program operation of a command that waits for its image. -/
def State.imageOp (s : State) (n : Nat) : Option Op :=
  s.ops.find? fun o => o.ofSlot n && o.kind == .program && o.stage == .queued && o.image.isEmpty

/-- Every codeword is encoded: the operation's image is complete (write step 6). -/
def buildImage (s : State) (n : Nat) : State :=
  match s.slot n, s.imageOp n with
  | some x, some o =>
    let items := s.pageItems x
    let k := s.dstNcw x
    if items.all fun i => (assoc x.enc i).isSome then
      let pages := (items.map fun i => x.entry.dstPage k i).eraseDups
      let img := pages.flatMap fun p =>
        pageImage p ((items.filter fun i => x.entry.dstPage k i == p).map fun i =>
          ((assoc x.cfgs i).getD (s.dstCfg x), (assoc x.enc i).getD []))
      (s.updOp o.id fun y => { y with image := img, cfgs := x.cfgs.map Prod.snd }).updSlot n fun y =>
        { y with enc := [], cfgs := [], data := [], mdata := [] }
    else s
  | _, _ => s

/-- Codeword `idx` with its stored user bytes reaches write steps 4 and 5. The write path's entry stands at a codeword boundary
between two codewords; the settings were sampled there and go with the codeword (R29, R32). -/
def encodeItem (s : State) (n idx : Nat) (user : List Byte) : State :=
  let s1 := takeWseq (match s.slot n with | some x => passCw s (stWrite (pChan (x.entry.dstPage 1 0))) | none => s) n
  match s1.slot n with
  | none => s1
  | some x =>
    let cfg := s1.dstCfg x
    let cw := encodeCw cfg (if cfg.enc then x.entry.dstKey else 0) (x.wseq.getD 0) user (s1.clearOf x idx).2
    s1.updSlot n fun y => { y with enc := putBy Prod.fst (idx, cw) y.enc, cfgs := putBy Prod.fst (idx, cfg) y.cfgs }

/-- The destination of a command encrypts. -/
def State.dstEnc (s : State) (x : Slot) : Bool := if x.entry.opc == Opc.copy then (s.fmtNow x.entry.dstFmt).enc else x.entry.encrypt

/-- A PROGRAM has all its data, or a COPY the whole page. -/
def State.pageClear (s : State) (x : Slot) : Bool :=
  if x.entry.opc == Opc.copy then (s.pageItems x).all fun i => (assoc x.data i).isSome
  else x.entry.opc == Opc.program && s.pulled x

/-- The codewords of a command that wait for an XTS engine to encrypt them. -/
def State.encWaits (s : State) (x : Slot) : List Nat :=
  if x.phase == .running && !x.failed && s.dstEnc x && (s.imageOp x.id).isSome && s.pageClear x then
    (s.pageItems x).filter fun i => (assoc x.enc i).isNone
  else []

/-- A page or a PROGRAM has its data in the clear: without encryption it is encoded at once. -/
def encodePage (s : State) (n : Nat) : State :=
  match s.slot n with
  | none => s
  | some x =>
    if x.failed || s.dstEnc x || (s.imageOp n).isNone || !s.pageClear x then s
    else buildImage (s.each (s.pageItems x) fun st i => encodeItem st n i (s.clearOf x i).1) n

/-! ## Keys -/

/-- Key slot `k` holds stored poison. -/
def State.keyBad (s : State) (k : Nat) : Bool := s.poisoned 7 0 (64 * k) 64

/-- One codeword of a command is encrypted (write step 3); the key is read now (R32). -/
def encryptItem (s : State) (x : Slot) (idx : Nat) : State :=
  let k := x.entry.dstKey
  if s.keyBad k then hit s x.id St.internalPoison
  else match assoc s.keys k with
    | none => hit s x.id St.keySlotEmpty
    | some key =>
      let p := x.entry.dstPaddr (s.dstNcw x) idx
      buildImage (encodeItem s x.id idx (xtsEnc key (x.entry.tweak idx p) (s.clearOf x idx).1)) x.id

/-! ## COPY (R124) -/

/-- The source codewords of page `i` of a COPY. -/
def State.copyCws (s : State) (x : Slot) (i : Nat) : List (Nat × Nat) :=
  let n := (s.fmtNow x.entry.fmt).ncw
  (List.range n).map fun j => (i * n + j, x.entry.paddr + 8 * i + j)

/-- The next source page is read; one under an unfinished erase is taken as erased, or ends the COPY (R126). -/
def copyNext (s : State) (n : Nat) : State :=
  match s.slot n with
  | none => s
  | some x =>
    if x.done = x.entry.count || x.failed then s
    else
      let page := x.entry.paddr + 8 * x.done
      match s.eraseBefore page x.seq with
      | some o => if o.expl then hit s n St.blockEraseSuspended else outcome s n St.okErased
      | none => placeOp s (mkOp (.cmd n) .read x.entry.lcls x.seq page x.entry.fmt 1 (s.copyCws x x.done))

/-- A COPY has met a failed or erased codeword: no page is programmed from here. -/
def Slot.copyEnded (x : Slot) : Bool := x.failed || x.outc.any fun c => c == 0x30 || c == 0x21 || c == 0x04

/-- A decoded source codeword joins the write path (R20, R371); a whole page is programmed. -/
def copyTake (s : State) (n idx : Nat) (data : List Byte) : State :=
  let s1 := s.updSlot n fun y => if y.copyEnded then { y with data := [] } else { y with data := putBy Prod.fst (idx, data.take 4112) y.data }
  match s1.slot n with
  | none => s1
  | some x =>
    if x.copyEnded || !s1.pageClear x then s1
    else
      let p := x.entry.aux0 + 8 * x.done
      encodePage (placeOp (s1.updSlot n fun y => { y with wseq := none })
        (mkOp (.cmd n) .program x.entry.lcls x.seq p x.entry.dstFmt 1 [(x.done, p)])) n

end Sys2Proof.Machine
end

