-- ==== Sys2Proof/Machine/Comb.lean ====
section
/-!
DEFINITION. Comb units (chapters 11 and 12): the row groups of a SCAN, what excludes one (R326), the grant of units (R22,
R176), evaluation (R335 to R343), commits and chunks (R344 to R346) and the output store (R362, R363).
-/

namespace Sys2Proof.Machine

/-! ## Row groups -/

/-- Row group and slot of codeword `idx` of a SCAN. -/
def rgOf : List RowGroup → Nat → Nat → Nat × Nat
  | [], _, r => (r, 0)
  | g :: l, i, r => if i < g.nseg then (r, i) else rgOf l (i - g.nseg) (r + 1)

def Slot.groups (x : Slot) : List RowGroup := match x.scan with | some r => r.groups | none => []
def Slot.group (x : Slot) (rg : Nat) : RowGroup := x.groups.getD rg (parseGroup (zeros 128))
def Slot.rgOfCw (x : Slot) (idx : Nat) : Nat × Nat := rgOf x.groups idx 0

/-- The row group has been excluded. -/
def Slot.rgOut (x : Slot) (rg : Nat) : Bool := match x.scan with | some r => r.exclIdx.contains rg | none => false

def updScan (s : State) (n : Nat) (f : ScanRun → ScanRun) : State := s.updSlot n fun x => { x with scan := x.scan.map f }

/-- Row groups of a SCAN that have committed or been excluded. -/
def Slot.rgDone (x : Slot) : Nat := match x.scan with | some r => r.eval + r.excl | none => 0

/-! ## The output store (R362, R363) -/

def State.ostSize (s : State) : Nat := s.fldOf A.movOstoreCfg 0 6
def State.ostBrsv (s : State) : Nat := s.fldOf A.movOstoreCfg 8 6
def State.rsv (s : State) : Nat := s.fldOf A.admCombCfg 0 5

/-- 64-B lines of the part of the store for LC7 chunks, and of each bounded unit's part. -/
def State.ostGenSize (s : State) : Nat := (s.ostSize - s.ostBrsv * s.rsv) * 1024
def State.ostBndSize (s : State) : Nat := s.ostBrsv * 1024

/-- Lines of the store that chunks of command `n` hold. -/
def State.ostOf (s : State) (n : Nat) : Nat :=
  (s.rings.flatMap fun b => (b.units.filter fun u => u.slot == n).map fun u => u.bnd + u.gen).sum

def Chunk.bytes (c : Chunk) : List Byte := c.header ++ c.body
def chunkLines (l : List Chunk) : Nat := ((l.filter fun c => !c.skip).map fun c => c.bytes.length / 64).sum

/-- Chunks that the store has accepted go to their rings in ascending stream number (R344, R357). -/
def handChunks (s : State) (x : Slot) (l : List Chunk) : State :=
  s.each (l.filter fun c => !c.skip) fun st c =>
    match st.slot x.id with
    | none => st
    | some y =>
      if !st.mayWrite y then st
      else
        let n := c.bytes.length / 64
        let gen := if x.entry.bounded then 0 else n
        let bnd := if x.entry.bounded then n else 0
        let u : BrUnit := { slot := x.id, stream := c.stream, kind := 0, bytes := c.bytes, psn := [], hole := [], gen := gen,
                            bnd := bnd, bad := false }
        let st1 := { st with mover := { st.mover with ostGen := st.mover.ostGen + gen, ostBnd := st.mover.ostBnd + bnd } }
        pushUnit (st1.bump A.cmbChunkCnt) c.ring u

/-! ## Chunks (R344 to R346) -/

/-- What a context's program puts on a stream: OWC and KIND. EMITROW's items are 32 bits wide (DEDUCED, log entry 21). -/
def streamKind (ctx : List Byte) (st : Nat) : Nat × Nat :=
  match (Scx.prog ctx).find? fun w => (W.feeds w).contains st with
  | none => (0, 0)
  | some w =>
    if W.op w = 0x20 then (0, 0)
    else if W.op w = 0x21 then (W.ow w, 1)
    else if W.op w = 0x22 then (2, 2)
    else (W.ow w, if W.pv w then 2 else 1)

/-- The chunks of a row group of command `x`, one for each bound stream. `emits` holds (stream, items, nskip, payload). -/
def makeChunks (x : Slot) (ctx : List Byte) (rg : Nat) (excl pruned : Bool) (emits : List (Nat × Nat × Nat × List Byte)) : List Chunk :=
  let last := x.rgDone + 1 == x.entry.count
  (Scx.streams ctx).map fun st =>
    let seq := match x.scan with | some r => (assoc r.seqs st).getD 0 | none => 0
    let k := streamKind ctx st
    let e := (emits.find? fun y => y.1 == st).getD (st, 0, 0, [])
    let body := pad64 e.2.2.2
    { slot := x.id, ring := Scx.ring ctx st, stream := st,
      header := chunkHeader x st (Scx.stag ctx st) rg seq (x.group rg) excl pruned last k.1 k.2 e.2.1 e.2.2.1 body.length,
      body := body, skip := Scx.skipEmpty ctx st && body.isEmpty && !excl && !last }

/-- SEQ counts the chunks a stream has had. -/
def countSeqs (s : State) (n : Nat) (l : List Chunk) : State :=
  let bump := fun (acc : List (Nat × Nat)) (c : Chunk) => putBy Prod.fst (c.stream, (assoc acc c.stream).getD 0 + 1) acc
  updScan s n fun r => { r with seqs := (l.filter fun c => !c.skip).foldl bump r.seqs }

/-! ## Exclusion (R326) -/

/-- The store takes the chunks of a row group (R363): none where they wait for room; those that exceed the part of a bounded unit
end the SCAN. -/
def takeChunks (s : State) (x : Slot) (l : List Chunk) : Option State :=
  if x.entry.bounded then
    if s.ostBndSize < s.ostOf x.id + chunkLines l then
      some (hostFail s x.id St.outputRingFault 0 (match l with | c :: _ => c.ring | [] => 0) 5)
    else some (handChunks s x l)
  else if s.ostGenSize < s.mover.ostGen + chunkLines l then none
  else some (handChunks s x l)

/-- A row group of SCAN `n` that committed before place `k` of the order still waits for the store. -/
def State.ordBefore (s : State) (n k : Nat) : Bool :=
  s.units.any fun (u : CombUnit) => u.slot == some n && u.commit.isSome && decide (u.ord < k)

/-- Chunks of excluded row groups go to the store in their turn (R344). -/
def flushList (n : Nat) : List (Nat × List Chunk) → State → State
  | [], s => updScan s n fun r => { r with late := [] }
  | (k, l) :: rest, s =>
    match s.slot n with
    | none => s
    | some x =>
      match (if s.ordBefore n k then none else takeChunks s x l) with
      | none => updScan s n fun r => { r with late := (k, l) :: rest }
      | some t => flushList n rest t
def flushLate (s : State) (n : Nat) : State :=
  match (s.slot n).bind Slot.scan with
  | some r => if r.late.isEmpty then s else flushList n r.late s
  | none => s

/-- The recovery reads of an excluded row group that are not dispatched go, and with them its codewords that no read will bring
again (R326). -/
def dropRecovery (s : State) (x : Slot) (rg : Nat) : State :=
  let mine := fun (idx : Nat) => (x.rgOfCw idx).1 == rg
  let ops := s.ops.filterMap fun (o : Op) =>
    if o.ofSlot x.id && o.stage == .queued && o.step != .first then
      (let l := o.cws.filter fun y => !mine y.1
       if l.isEmpty then none else some { o with cws := l })
    else some o
  let comes := fun (c : Cw) => ops.any fun (o : Op) => o.ofSlot x.id && o.cws.any fun y => y.1 == c.idx && y.2 == c.paddr
  let cws := s.cws.filter fun (c : Cw) => !(c.ofSlot x.id && mine c.idx && c.stage == CwStage.failed && !comes c)
  let used := fun (r : Recov) => cws.any fun (c : Cw) => c.owner == r.owner && pageOf c.paddr == r.page
  { s with ops := ops, cws := cws, recov := s.recov.filter fun (r : Recov) => r.owner != Owner.cmd x.id || used r }

/-- A row group is excluded: once, whatever happens to its other segments. Its unit and its staging space come free, and
a chunk without payload goes out on every bound stream, after those of the row groups that committed before. -/
def excludeGroup (s : State) (n rg : Nat) : State :=
  match s.slot n with
  | none => s
  | some x =>
    if x.rgOut rg || x.failed then s
    else
      let chunks := makeChunks x (s.ctxOf x) rg true false []
      let keep := fun (c : Cw) =>
        !(c.ofSlot n && (x.rgOfCw c.idx).1 == rg && (c.stage == CwStage.decoded || c.stage == CwStage.xtsWait))
      let s1 := { s with units := s.units.filter (fun (u : CombUnit) => !(u.slot == some n && u.rg == rg)), cws := s.cws.filter keep }
      let s2 := (updScan (dropRecovery s1 x rg) n fun r =>
        { r with excl := r.excl + 1, exclIdx := addN rg r.exclIdx, ord := r.ord + 1, late := r.late ++ [(r.ord, chunks)] }).bump A.cmbRgExclCnt
      flushLate (countSeqs s2 n chunks) n

/-- Segments taken as erased under R126 exclude their row groups. -/
def excludeErased (s : State) (n : Nat) (idxs : List Nat) : State :=
  match s.slot n with
  | none => s
  | some x => s.each ((idxs.map fun i => (x.rgOfCw i).1).eraseDups) fun st rg => excludeGroup st n rg

/-- A segment is malformed (R325, R328). -/
def malformed (s : State) (n rg k reason die : Nat) : State :=
  let s1 := (s.bump A.cmbSegBadCnt).setRegN A.cmbSegLast (reason + k * 16 + die * 256)
  excludeGroup (outcome s1 n St.mediaUncorrectable) n rg

/-! ## Grants (R22, R176) -/

/-- Codewords of a SCAN that wait, complete, for a unit or its window. -/
def State.segsReady (s : State) : List Cw :=
  s.cws.filter fun (c : Cw) => c.stage == CwStage.decoded && (match c.owner with
    | .cmd n => (match s.slot n with | some x => x.entry.opc == Opc.scan && !x.failed | none => false)
    | _ => false)

/-- A unit holds the row group. -/
def State.rgUnit (s : State) (n rg : Nat) : Option CombUnit := s.units.find? fun (u : CombUnit) => u.slot == some n && u.rg == rg

/-- The order in which row group `rg` of command `x` became complete: none while a segment is missing. -/
def State.rgPassed (s : State) (x : Slot) (rg : Nat) : Option Nat :=
  let l := s.segsReady.filter fun (c : Cw) => c.ofSlot x.id && (x.rgOfCw c.idx).1 == rg
  if l.length = (x.group rg).nseg then some (l.foldl (fun m c => max m c.passed) 0) else none

/-- The grant order of two waiting row groups: class, sequence, and completion of the last segment (R22). DESIGN CHOICE, log entry
119: of one command, between row groups that these leave equal, the lowest row group goes first; R22 is silent. -/
def rgBefore (a b : Nat × Nat × Option Nat × Nat × Nat) : Bool :=
  decide (a.1 < b.1) || (a.1 == b.1 && (decide (a.2.1 < b.2.1) || (a.2.1 == b.2.1 &&
    (match a.2.2.1, b.2.2.1 with
     | some p, some q => decide (p < q) || (p == q && decide (a.2.2.2.2 < b.2.2.2.2))
     | some _, none => true
     | none, some _ => false
     | none, none => decide (a.2.2.2.2 < b.2.2.2.2)))))

/-- A bounded SCAN that has not finished holds unit `u` (R176). -/
def State.unitHeld (s : State) (u : Nat) : Bool :=
  s.slots.any fun y => match y.scan with | some r => r.unit == some u && y.unfinished | none => false

/-- The unit that row group `rg` of command `x` may take: its reserved one, or the lowest free one of the general partition. The
partition is that of its fetch (R150, R176). -/
def State.unitFor (s : State) (x : Slot) : Option Nat :=
  let free := fun (u : Nat) => !(s.units.any fun (v : CombUnit) => v.u == u && v.slot.isSome)
  if x.entry.bounded then (match x.scan with | some r => r.unit.filter free | none => none)
  else (List.range (Config.combUnits s.build)).find? fun u => decide (x.samp.rsv ≤ u) && free u && !s.unitHeld u

/-- The row groups that wait for a unit and could have one: (class, sequence, passed, slot, row group). -/
def State.rgWaiting (s : State) : List (Nat × Nat × Option Nat × Nat × Nat) :=
  s.segsReady.filterMap fun c =>
    match c.owner with
    | .cmd n =>
      (match s.slot n with
       | some x =>
         let rg := (x.rgOfCw c.idx).1
         if (s.rgUnit n rg).isSome || (s.unitFor x).isNone then none
         else some (x.entry.lcls, x.seq, if x.entry.bounded then s.rgPassed x rg else none, n, rg)
       | none => none)
    | _ => none

/-- A free unit goes to the waiting row group that ranks first. -/
def unitGrant (s : State) : State :=
  match s.rgWaiting.foldl (fun acc y => match acc with
      | none => some y
      | some z => if rgBefore y z then some y else some z) none with
  | none => s
  | some (_, _, _, n, rg) =>
    match (s.slot n).bind s.unitFor with
    | some u => s.setUnit { CombUnit.reset u with slot := some n, rg := rg }
    | none => s

/-- COMB_UNIT_GRANT. -/
def execCombUnitGrant (s : State) : Host.Outcome State Fault Refusal := run true s unitGrant

/-- A segment reaches its unit's window (R344 step 2): its header is checked (R325). The answer says whether a unit took it. -/
def takeSegment (s : State) (n idx die : Nat) (data : List Byte) : Option State :=
  match s.slot n with
  | none => some s
  | some x =>
    let r := x.rgOfCw idx
    if x.rgOut r.1 then some s
    else match s.rgUnit n r.1 with
      | none => none
      | some u =>
        let reason := Seg.reason (leNat data) (x.group r.1) r.2
        if reason ≠ 0 then some (malformed s n r.1 r.2 reason die)
        else some (s.setUnit { u with segs := u.segs ++ [(r.2, data)] })

/-! ## Evaluation (R339 to R343) -/

/-- The context that a unit's command names holds stored poison (R352). -/
def State.ctxBad (s : State) (x : Slot) : Bool := s.poisoned 4 0 (2048 * bits x.entry.aux0 0 10) 2048

def CombUnit.seg (u : CombUnit) (k : Nat) : Nat := leNat ((assoc u.segs k).getD [])

/-- The row group commits: chunks wait for the store, accumulators merge (R344 step 4). -/
def commitGroup (s : State) (u : CombUnit) (x : Slot) (pruned : Bool) : State :=
  let emits := if pruned then [] else u.emits.map fun e => (e.1, e.2.2.1, e.2.2.2.1, e.2.2.2.2)
  let chunks := makeChunks x (s.ctxOf x) u.rg false pruned emits
  let s1 := updScan s x.id fun r =>
    { r with eval := r.eval + 1, pruned := if pruned then r.pruned + 1 else r.pruned,
             accs := r.accs.zipIdx.map fun a => match assoc u.accs a.2 with | some p => a.1.merge p | none => a.1 }
  let s2 := s1.bump A.cmbRgEvalCnt
  let s3 := if pruned then s2.bump A.cmbRgPruneCnt else s2
  (countSeqs (updScan s3 x.id fun r => { r with ord := r.ord + 1 }) x.id chunks).setUnit
    { u with running := false, commit := some chunks, ord := match x.scan with | some r => r.ord | none => 0 }

/-- A segment of a unit whose runs do not sum to N_v (R325, REASON 8): the lowest slot. -/
def CombUnit.badRuns (u : CombUnit) : Option Nat := ((u.segs.filter fun y => !Seg.runsOk (leNat y.2)).map Prod.fst).min?

/-- A row group commits once every segment has passed REASON 8 too, those that no LOADCOL names included (R325, R326). Accumulators
with stored poison end the SCAN (R352). -/
def commitCheck (s : State) (u : CombUnit) (x : Slot) (pruned : Bool) : State :=
  match u.badRuns with
  | some k => malformed s x.id u.rg k 8 (pDie ((x.group u.rg).segs.getD k 0))
  | none =>
    if (match x.scan with | some r => r.accBad | none => false) then hit s x.id St.internalPoison
    else commitGroup s u x pruned

/-- ROW_GROUP_READY: every segment has passed; the prune tests, then the program's word 0 (R344 step 3). -/
def groupReady (s : State) (n : Nat) : State :=
  let u := s.unit n
  match u.slot.bind s.slot with
  | none => s
  | some x =>
    if u.running || u.commit.isSome || u.segs.length != (x.group u.rg).nseg then s
    else if s.ctxBad x then hit s x.id St.internalPoison
    else
      let ctx := s.ctxOf x
      if (Scx.prog ctx).any fun w => W.prune w && pruneFails ctx w (u.seg (W.k w)) then commitCheck s u x true
      else s.setUnit { u with running := true, pc := 0, bits := List.replicate 8 0 }

/-- One instruction of a unit: it acts when the word at the unit's pc has opcode `op`. `f` gives its effect on the unit. -/
def combStep (s : State) (n op : Nat) (f : State → CombUnit → Slot → List Byte → Nat → State) : State :=
  let u := s.unit n
  match u.slot.bind s.slot with
  | none => s
  | some x =>
    let ctx := s.ctxOf x
    let w := Scx.word ctx u.pc
    if !u.running || W.op w != op then s
    else if s.ctxBad x then hit s x.id St.internalPoison
    else f s { u with pc := u.pc + 1 } x ctx w

/-- The selected rows of bitmap SA. -/
def CombUnit.sel (u : CombUnit) (i : Nat) : Nat := u.bits.getD i 0
def CombUnit.setSel (u : CombUnit) (i v : Nat) : CombUnit := { u with bits := u.bits.set i v }
def CombUnit.col (u : CombUnit) (k : Nat) : Column := (u.cols.find? fun c => c.k == k).getD { k := k, signed := false, nulls := false, rows := [] }
def Column.at_ (c : Column) (i : Nat) : Option Nat := c.rows.getD i none

/-- A predicate over slot K (R337): null rows are not selected. -/
def predicate (s : State) (u : CombUnit) (x : Slot) (w : Nat) (test : Bool → Nat → Bool) : State :=
  let c := u.col (W.k w)
  s.setUnit (u.setSel (W.d w) (bitmap (fun i => match c.at_ i with | some v => test c.signed v | none => false) (x.group u.rg).rows))

/-- LOADCOL (R319, R335); an RLE segment whose runs do not sum to N_v is malformed (R325 reason 8). -/
def loadcol (s : State) (u : CombUnit) (x : Slot) (w : Nat) : State :=
  let k := W.k w
  let g := u.seg k
  if !Seg.runsOk g then malformed s x.id u.rg k 8 (pDie ((x.group u.rg).segs.getD k 0))
  else
    let c : Column := { k := k, signed := Seg.signed g, nulls := Seg.nulls g, rows := Seg.rowsOf g }
    s.setUnit { u with cols := (u.cols.filter fun y => y.k != k) ++ [c] }

/-- A payload for a stream. -/
def emit (u : CombUnit) (st items nskip : Nat) (payload : List Byte) : CombUnit :=
  { u with emits := u.emits ++ [(st, 0, items, nskip, payload)] }

/-- The bytes of a bitmap of `n` rows, row 0 first (R318). -/
def bitmapBytes (v n : Nat) : List Byte := leBytes ((n + 7) / 8) v

/-- EMITVAL: the values of the selected rows that are not null (R341). -/
def emitval (s : State) (u : CombUnit) (x : Slot) (w : Nat) : State :=
  let rows := rowsIn (u.sel (W.sa w)) (x.group u.rg).rows
  let vals := rows.filterMap (u.col (W.k w)).at_
  s.setUnit (emit u (W.st w) vals.length (rows.length - vals.length) (packItems (8 * 2 ^ W.ow w) vals))

/-- The row number of row `i`, as EMITROW writes it. -/
def rowNumber (g : RowGroup) (i : Nat) : Nat := (g.baseRow + i) % 2 ^ 32

def emitrow (s : State) (u : CombUnit) (x : Slot) (w : Nat) : State :=
  let g := x.group u.rg
  let rows := rowsIn (u.sel (W.sa w)) g.rows
  s.setUnit (emit u (W.st w) rows.length 0 (packItems 32 (rows.map (rowNumber g))))

/-- PARTITION (R342): each taken row with its stream. Rows not taken for a null count in every chunk of the instruction
(DEDUCED, log entry 22). -/
def partition (s : State) (u : CombUnit) (x : Slot) (w : Nat) : State :=
  let g := x.group u.rg
  let rows := rowsIn (u.sel (W.sa w)) g.rows
  let taken := rows.filterMap fun i =>
    match (u.col (W.k w)).at_ i, (if W.pv w then some (rowNumber g i) else (u.col (W.kv w)).at_ i) with
    | some key, some v => some (crc32c (leBytes 8 key) % 2 ^ W.pb w, v)
    | _, _ => none
  let u1 := (List.range (2 ^ W.pb w)).foldl (fun acc j =>
    let items := (taken.filter fun y => y.1 == j).map Prod.snd
    emit acc (W.st w + j) items.length (rows.length - taken.length) (packItems (8 * 2 ^ W.ow w) items)) u
  s.setUnit u1

/-- AGG (R343). -/
def agg (s : State) (u : CombUnit) (x : Slot) (w : Nat) : State :=
  let rows := rowsIn (u.sel (W.sa w)) (x.group u.rg).rows
  let vals := if W.fn w = 0 ∧ W.cntr w then rows else rows.filterMap (u.col (W.k w)).at_
  s.setUnit { u with accs := putBy Prod.fst (W.d w, aggregate (W.fn w) (W.sg w) vals) u.accs }

/-- ROW_GROUP_READY. -/
def execRowGroupReady (unit : Nat) (s : State) : Host.Outcome State Fault Refusal :=
  run (unit < 32) s fun s => groupReady s unit

/-- LOADCOL. -/
def execLoadcol (unit : Nat) (s : State) : Host.Outcome State Fault Refusal :=
  run (unit < 32) s fun s => combStep s unit 0x01 fun st u x _ w => loadcol st u x w

/-- CMP. -/
def execCmp (unit : Nat) (s : State) : Host.Outcome State Fault Refusal :=
  run (unit < 32) s fun s => combStep s unit 0x08 fun st u x _ w => predicate st u x w fun sg v => cmpTest (W.fn w) sg v (W.imm w)

/-- RANGE. -/
def execRange (unit : Nat) (s : State) : Host.Outcome State Fault Refusal :=
  run (unit < 32) s fun s => combStep s unit 0x09 fun st u x c w => predicate st u x w fun sg v => rangeTest c w sg v

/-- INSET. -/
def execInset (unit : Nat) (s : State) : Host.Outcome State Fault Refusal :=
  run (unit < 32) s fun s => combStep s unit 0x0A fun st u x c w => predicate st u x w fun _ v => insetTest c w v

/-- ISNULL (R338). -/
def execIsnull (unit : Nat) (s : State) : Host.Outcome State Fault Refusal :=
  run (unit < 32) s fun s => combStep s unit 0x0B fun st u x _ w =>
    let c := u.col (W.k w)
    st.setUnit (u.setSel (W.d w) (bitmap (fun i => c.nulls && (c.at_ i).isNone) (x.group u.rg).rows))

/-- AND. -/
def execCombAnd (unit : Nat) (s : State) : Host.Outcome State Fault Refusal :=
  run (unit < 32) s fun s => combStep s unit 0x10 fun st u _ _ w => st.setUnit (u.setSel (W.d w) (u.sel (W.sa w) &&& u.sel (W.sb w)))

/-- OR. -/
def execCombOr (unit : Nat) (s : State) : Host.Outcome State Fault Refusal :=
  run (unit < 32) s fun s => combStep s unit 0x11 fun st u _ _ w => st.setUnit (u.setSel (W.d w) (u.sel (W.sa w) ||| u.sel (W.sb w)))

/-- NOT: rows below ROWS only (R336). -/
def execCombNot (unit : Nat) (s : State) : Host.Outcome State Fault Refusal :=
  run (unit < 32) s fun s => combStep s unit 0x12 fun st u x _ w =>
    st.setUnit (u.setSel (W.d w) (bitmap (fun i => !bit (u.sel (W.sa w)) i) (x.group u.rg).rows))

/-- ANDN. -/
def execCombAndn (unit : Nat) (s : State) : Host.Outcome State Fault Refusal :=
  run (unit < 32) s fun s => combStep s unit 0x13 fun st u x _ w =>
    st.setUnit (u.setSel (W.d w) (bitmap (fun i => bit (u.sel (W.sa w)) i && !bit (u.sel (W.sb w)) i) (x.group u.rg).rows))

/-- EMITSEL. -/
def execEmitsel (unit : Nat) (s : State) : Host.Outcome State Fault Refusal :=
  run (unit < 32) s fun s => combStep s unit 0x20 fun st u x _ w =>
    let n := (x.group u.rg).rows
    st.setUnit (emit u (W.st w) n 0 (bitmapBytes (u.sel (W.sa w)) n))

/-- EMITVAL. -/
def execEmitval (unit : Nat) (s : State) : Host.Outcome State Fault Refusal :=
  run (unit < 32) s fun s => combStep s unit 0x21 fun st u x _ w => emitval st u x w

/-- EMITROW. -/
def execEmitrow (unit : Nat) (s : State) : Host.Outcome State Fault Refusal :=
  run (unit < 32) s fun s => combStep s unit 0x22 fun st u x _ w => emitrow st u x w

/-- PARTITION. -/
def execPartition (unit : Nat) (s : State) : Host.Outcome State Fault Refusal :=
  run (unit < 32) s fun s => combStep s unit 0x23 fun st u x _ w => partition st u x w

/-- AGG. -/
def execAgg (unit : Nat) (s : State) : Host.Outcome State Fault Refusal :=
  run (unit < 32) s fun s => combStep s unit 0x30 fun st u x _ w => agg st u x w

/-- COMB_END: the row group commits (R344). -/
def execCombEnd (unit : Nat) (s : State) : Host.Outcome State Fault Refusal :=
  run (unit < 32) s fun s => combStep s unit 0x00 fun st u x _ _ => commitCheck st u x false

/-! ## The store accepts (R363) -/

/-- CHUNK_ACCEPT: the chunks of a unit's row group enter the store when there is room, in the order of the commits, and the unit
is free. -/
def chunkAccept (s : State) (n : Nat) : State :=
  let u := s.unit n
  match u.commit, u.slot.bind s.slot with
  | some l, some x =>
    if s.ordBefore x.id u.ord then s
    else (takeChunks { s with units := delBy CombUnit.u n s.units } x l).getD s
  | _, _ => s

/-- CHUNK_ACCEPT: then the chunks of excluded row groups whose turn has come. -/
def execChunkAccept (unit : Nat) (s : State) : Host.Outcome State Fault Refusal :=
  run (unit < 32) s fun s => let s1 := chunkAccept s unit; s1.each (s1.slots.map Slot.id) flushLate

/-! ## Staging space (R348) -/

def State.bcwEff (s : State) : Nat :=
  let b := s.fldOf A.cmbStage 0 6
  if s.rsv = 0 then b else min b (64 / s.rsv)
def State.holdEff (s : State) : Nat := 72 - s.rsv * s.bcwEff

/-- Codewords held for LC7 SCANs on a channel. -/
def State.heldCws (s : State) (ch : Nat) : Nat :=
  (s.segsReady.filter fun (c : Cw) => c.ch == ch && (match c.owner with
    | .cmd n => (match s.slot n with | some x => !x.entry.bounded | none => false)
    | _ => false)).length

/-- A list of a bounded SCAN names too many segments of one channel. -/
def State.bcwBad (s : State) (groups : List RowGroup) : Bool :=
  let segs := (groups.flatMap RowGroup.segs).eraseDups
  (segs.map pChan).eraseDups.any fun ch => decide (s.bcwEff < (segs.filter fun p => pChan p == ch).length)

/-! ## The row-group list (R323) and results (R349 to R351) -/

/-- The descriptors of a SCAN from the list it has read. -/
def Slot.parseGroups (x : Slot) : List RowGroup :=
  let l := x.hostData (128 * x.entry.count)
  (List.range x.entry.count).map fun i => parseGroup ((l.drop (128 * i)).take 128)

/-- The status of the first check of R323 or R348 that a list fails. -/
def groupsBad (s : State) (x : Slot) (l : List RowGroup) : Option Status :=
  let n := (s.fmtNow x.entry.fmt).ncw
  let one := fun (g : RowGroup) =>
    if !g.fieldsOk then some St.invalidField
    else if g.segs.all fun p => s.cwOk p n then none else some St.invalidAddress
  match l.findSome? one with
  | some st => some st
  | none => if x.entry.bounded && s.bcwBad l then some St.invalidField else none

/-- A fresh run over a list. -/
def freshRun (ctx : List Byte) (l : List RowGroup) : ScanRun :=
  { groups := l, next := 0, eval := 0, excl := 0, pruned := 0, exclIdx := [], accs := ctxAccs ctx, seqs := [], unit := none,
    ord := 0, late := [], accBad := false }

/-- The 128 bytes of descriptor `i` have been read. -/
def Slot.groupRead (x : Slot) (i : Nat) : Bool :=
  [128 * i, 128 * i + 64].all fun b => x.data.any fun y => decide (y.1 ≤ b) && decide (b + 64 ≤ y.1 + y.2.length)

/-- A row group's reads are placed; those of its segments that an erase covers exclude it (R126). -/
def placeGroup (s : State) (x : Slot) (base : Nat) : State :=
  let new := fun (idx : Nat) => decide (base ≤ idx)
  let gone := (s.underErase x).filter fun y => new y.1
  let plan := (s.planOps x).filter fun (o : Op) => o.cws.any fun y => new y.1
  excludeErased (takeErasedOf (s.each plan placeOp) x gone) x.id (gone.map Prod.fst)

/-- The second reading of the list of an LC7 SCAN: each descriptor is checked again as it arrives, in order, and its reads are
placed (R323). -/
def scanMore : Nat → State → Nat → State
  | 0, s, _ => s
  | f + 1, s, n =>
    match s.slot n with
    | none => s
    | some x =>
      match x.scan with
      | none => s
      | some r =>
        if x.failed || decide (x.entry.count ≤ r.next) || !x.groupRead r.next then s
        else
          let g := parseGroup (((x.hostData (128 * x.entry.count)).drop (128 * r.next)).take 128)
          let y := { x with scan := some { r with groups := r.groups ++ [g], next := r.next + 1 } }
          match groupsBad s x [g], s.listDies { x with scan := some { r with groups := [g] } } with
          | some _, _ => hit s n St.invalidField
          | none, some st => hit s n st
          | none, none => scanMore f (placeGroup (s.setSlot y) y ((r.groups.map RowGroup.nseg).sum)) n

/-- The list has been read. A bounded SCAN holds it and meets its admission test (R159). An LC7 SCAN reads the list a second time as
it works through the row groups (R323). -/
def scanListed (s : State) (n : Nat) : State :=
  match s.slot n with
  | none => s
  | some x =>
    let l := x.parseGroups
    let y := { x with scan := some { freshRun (s.ctxOf x) l with next := l.length } }
    match (match groupsBad s x l with | some st => some st | none => s.listDies y) with
    | some st => hit (s.updSlot n fun z => { z with phase := .running }) n st
    | none =>
      if x.entry.bounded then
        let gone := (s.underErase y).map Prod.fst
        let t := admitCmd (s.setSlot { y with data := [] }) n .running
        (match t.slot n with
         | some z => if z.reject.isSome then t else excludeErased t n gone
         | none => t)
      else pullData (admitCmd (s.setSlot { x with scan := some (freshRun (s.ctxOf x) []), data := [] }) n .running) n

/-- Data of a SCAN's list have arrived: the whole list of the first reading, or some of the second. -/
def scanArrive (s : State) (n : Nat) : State :=
  match s.slot n with
  | none => s
  | some x =>
    if x.phase == Phase.listing then (if s.pulled x then scanListed s n else s)
    else if x.entry.bounded then s
    else scanMore x.entry.count s n

/-- RES0 of a SCAN (R350). -/
def ScanRun.res0 (r : ScanRun) : Nat := r.eval + r.excl * 2 ^ 17 + r.pruned * 2 ^ 34

/-- The aggregate results of a SCAN (R349). -/
def aggBytes (r : ScanRun) : List Byte := r.accs.flatMap fun a => accBytes a (r.excl != 0)

/-- The COMMAND_EXT record of a SCAN with excluded row groups (R351). -/
def scanExt (s : State) (x : Slot) (r : ScanRun) : State :=
  let at_ := fun (i : Nat) => r.exclIdx.getD i 0
  s.raise 0xB x.qid (x.entry.cid + x.seq % 2 ^ 32 * 2 ^ 16 + at_ 0 * 2 ^ 48)
    (at_ 1 + at_ 2 * 2 ^ 16 + at_ 3 * 2 ^ 32 + at_ 4 * 2 ^ 48) (at_ 5 + at_ 6 * 2 ^ 16) (some x.id)

end Sys2Proof.Machine
end

