-- ==== Sys2Proof/Machine/Forager.lean ====
section
/-!
DEFINITION. The forager, the patrol reader (R294 to R299): its list, its walk, and what it reports.
-/

namespace Sys2Proof.Machine

def State.fg (s : State) : Forager := s.rlv.fg
def State.setFg (s : State) (f : Forager) : State := { s with rlv := { s.rlv with fg := f } }

/-! ## The range list (R295) -/

/-- An entry of the list from its 16 bytes, and whether a reserved field of it is nonzero. -/
def parseRange (l : List Byte) : FgRange × Bool :=
  let a := leAt l 8 4
  let b := leAt l 12 4
  ({ paddr := leAt l 0 8, nblk := bits a 0 14 + 1, npage := bits a 16 12, fmt := bits a 28 4, stride := bits b 0 8 },
   bits a 14 2 != 0 || bits b 8 24 != 0)

/-- The status of the first check that an entry fails. -/
def rangeBad (s : State) (r : FgRange × Bool) : Option Status :=
  let x := r.1
  let d := pDie x.paddr
  let f := s.fmtNow x.fmt
  if r.2 || x.stride == 0 || !f.layoutOk then some St.invalidField
  else if !(decide (x.paddr < 2 ^ 43) && pCw x.paddr == 0 && s.diePresent d && !s.classL d && decide (pPlane x.paddr < s.planes d) &&
      decide (pBlock x.paddr + x.nblk ≤ s.blocks d) && decide (pPage x.paddr + x.npage < s.pages d)) then some St.invalidAddress
  else none

/-- Pages of a range. -/
def FgRange.total (x : FgRange) : Nat := x.nblk * (x.npage / max 1 x.stride + 1)

/-! ## Passes (R294, R296) -/

/-- The reads of a pass that are not dispatched go, with its recoveries; operations dispatched run out, unreported. -/
def fgDrop (s : State) : State :=
  let s1 := { s with ops := s.ops.filter (fun (o : Op) => !(o.owner == Owner.forager && o.stage == OpStage.queued)),
                     recov := s.recov.filter (fun (r : Recov) => r.owner != Owner.forager),
                     cws := s.cws.filter (fun (c : Cw) => !(c.owner == Owner.forager && (c.stage == CwStage.failed || c.stage == CwStage.softWait))) }
  s1.setFg { s1.fg with pages := [] }

/-- STOP: the running pass ends. -/
def patrolStop (s : State) : State := let s1 := fgDrop s; s1.setFg { s1.fg with run := false, waiting := false }

/-- The list is replaced; a pass that runs ends as under STOP. -/
def patrolLoad (s : State) (l : List FgRange) : State :=
  let s1 := patrolStop s
  s1.setFg { s1.fg with ranges := l, listed := true, total := (l.map FgRange.total).sum, at_ := [] }

/-- The dies of the loaded list. -/
def Forager.dies (f : Forager) : List Nat := (f.ranges.map fun r => pDie r.paddr).eraseDups

/-- The first range of a die at or after index `i`. -/
def rangeFrom : List FgRange → Nat → Nat → Nat → Nat
  | [], _, k, _ => k
  | r :: l, i, k, d => if decide (i ≤ k) && pDie r.paddr == d then k else rangeFrom l i (k + 1) d

/-- A page of the list that lies on a LUN the forager skips (R297). -/
def State.fgChanBad (s : State) (d : Nat) : Bool := !s.live (dieCh d) || (s.chan (dieCh d)).frozen || !s.grpOn (dieCh d)

/-- A pass ends (R296): the count, the producer, and the next pass or rest. -/
def passEnd (s : State) : State :=
  let cont := s.fldOf A.rlvFgCfg 0 1 == 1
  produce ((s.bump A.rlvFgPassCnt).setFg { s.fg with run := cont, waiting := cont, waitAt := s.aclk, at_ := [], pages := [] }) 54

/-- The pass ends once every die has finished its ranges and no page is in progress. -/
def fgCheckEnd (s : State) : State :=
  let f := s.fg
  if f.run && !f.waiting && f.pages.isEmpty && f.dies.all (fun d => match assoc f.at_ d with | some p => p.1 == f.ranges.length | none => false)
  then passEnd s else s

/-- A new pass begins at the start of the loaded list; one without a page to read ends at once (R294). -/
def passStart (s : State) : State :=
  let f := s.fg
  let s1 := s.setFg { f with run := true, waiting := false, pos := 0, passes := min (f.passes + 1) (2 ^ 32 - 1),
                             at_ := (f.dies.foldl (fun acc d => putBy Prod.fst (d, rangeFrom f.ranges 0 0 d, 0, 0) acc) []), pages := [] }
  if f.dies.all s1.fgChanBad then
    let n := if f.listed then f.total else 0
    passEnd ((s1.setFg { s1.fg with pos := n }).bump A.rlvFgSkipCnt n)
  else s1

/-- START. -/
def patrolStart (s : State) : State := passStart (fgDrop s)

/-- PAUSE seconds have passed since the end of the last pass (R296). -/
def State.pauseOver (s : State) : Bool := decide (s.fg.waitAt + 1000000 * s.fldOf A.rlvFgCfg 16 16 ≤ s.aclk)

/-- FORAGER_PAUSE_END. -/
def execForagerPauseEnd (s : State) : Host.Outcome State Fault Refusal :=
  run true s fun s => if s.fg.run && s.fg.waiting && s.pauseOver && s.power.st == .p0 && !s.smoking then passStart s else s

/-! ## The walk (R296, R297) -/

/-- The page the forager stands at on a die, with its range. -/
def State.fgHere (s : State) (d : Nat) : Option (FgRange × Nat) :=
  match assoc s.fg.at_ d with
  | none => none
  | some (i, blk, pg) =>
    (s.fg.ranges[i]?).map fun r => (r, r.paddr + blk * 2 ^ 18 + pg * 8)

/-- The walk of a die moves on. -/
def fgAdvance (s : State) (d : Nat) : State :=
  match assoc s.fg.at_ d with
  | none => s
  | some (i, blk, pg) =>
    match s.fg.ranges[i]? with
    | none => s
    | some r =>
      let next :=
        if pg + r.stride ≤ r.npage then (d, i, blk, pg + r.stride)
        else if blk + 1 < r.nblk then (d, i, blk + 1, 0)
        else (d, rangeFrom s.fg.ranges (i + 1) 0 d, 0, 0)
      s.setFg { s.fg with at_ := putBy Prod.fst next s.fg.at_ }

/-- An unfinished PROGRAM, ERASE or COPY writes the block of PADDR `p` (R297). -/
def State.blockBusy (s : State) (p : Nat) : Bool :=
  s.slots.any fun x => x.unfinished && x.phase != Phase.held &&
    (if x.entry.opc == Opc.program || x.entry.opc == Opc.erase then (planePages x.entry).any fun q => pDie q == pDie p && pBlk q == pBlk p
     else x.entry.opc == Opc.copy && pDie x.entry.aux0 == pDie p && pBlk x.entry.aux0 == pBlk p)

/-- A page is counted in POS. -/
def fgCount (s : State) : State := s.setFg { s.fg with pos := s.fg.pos + 1 }

/-- A new page read of the forager. -/
def Op.fgFirst (o : Op) : Bool := o.owner == .forager && o.step == .first

/-- A die's next page read is due (R296): no earlier one waits, and 10^6 ÷ RLV_FG_RATE µs have passed since its last dispatch. -/
def State.paceDue (s : State) (d : Nat) : Bool :=
  !(s.ops.any fun (o : Op) => o.die == d && o.stage == .queued && o.fgFirst) &&
  (match assoc s.fg.lastAt d with
   | some t => decide (1000000 ≤ (s.aclk - t) * s.fldOf A.rlvFgRate 0 16)
   | none => true)

/-- The block of PADDR `p` bars a patrol read (R297). -/
def State.fgBlockBad (s : State) (p : Nat) : Bool := s.blockBusy p || s.explBlock p

/-- A patrol page is skipped: it counts toward POS. -/
def fgSkip (s : State) : State := fgCheckEnd ((fgCount s).bump A.rlvFgSkipCnt)

/-- The dispatch of a placed patrol read finds a ground to skip its page (R297). -/
def fgSkipOp (s : State) (o : Op) : State :=
  let s1 := { s with ops := s.ops.filter fun (y : Op) => y.id != o.id }
  fgSkip (s1.setFg { s1.fg with pages := s1.fg.pages.filter fun (q : FgPage) => q.page != pageOf o.paddr })

/-- A patrol read of a page is dispatched. -/
def fgMark (s : State) (o : Op) : State :=
  if o.fgFirst then s.setFg { s.fg with lastAt := putBy Prod.fst (o.die, s.aclk) s.fg.lastAt } else s

/-- The next patrol page of a die is placed, or skipped (R297). -/
def foragerPace (s : State) (d : Nat) : State :=
  let f := s.fg
  if !f.run || f.waiting || s.power.st != .p0 || s.smoking || s.stopped || !s.paceDue d then s
  else match s.fgHere d with
    | none => fgCheckEnd s
    | some (r, p) =>
      let s1 := fgAdvance s d
      if s.fgChanBad d || s.fgBlockBad p then fgSkip s1
      else
        let n := (s.fmtAt (dieCh d) r.fmt).ncw
        let page : FgPage := { page := p, fmt := r.fmt, left := n, refresh := 0, bad := 0, most := 0, steps := 0 }
        let s2 := s1.setFg { s1.fg with pages := s1.fg.pages.filter (fun (q : FgPage) => q.page != p) ++ [page] }
        placeOp s2 (mkOp .forager .read 8 0 p r.fmt 1 ((List.range n).map fun i => (i, p + i)))

/-- FORAGER_PACE. -/
def execForagerPace (die : Nat) (s : State) : Host.Outcome State Fault Refusal :=
  run (die < 2048) s fun s => foragerPace s die

/-! ## What a codeword of a page did (R298) -/

/-- How a codeword of a page the forager reads ended. -/
inductive FgEnd where
  | decoded (be : Nat) (refresh : Nat)
  | erased
  | failed
  deriving DecidableEq, Repr

/-- The MEDIA_ALERT record of a page. -/
def mediaAlert (s : State) (p : FgPage) : State :=
  let s1 := s.bump A.rlvFgAlertCnt
  s1.raise 1 (pDie p.page) p.page
    (p.refresh + p.bad * 2 ^ 8 + p.most * 2 ^ 16 + min p.steps 31 * 2 ^ 26 + p.fmt * 2 ^ 31) s1.fg.passes

/-- A codeword of a page is decided; with the last one the page ends. A codeword of a pass that was stopped is not reported. -/
def fgCwEnd (s : State) (paddr : Nat) (e : FgEnd) : State :=
  match s.fg.pages.find? (fun (q : FgPage) => q.page == pageOf paddr) with
  | none => s
  | some q =>
    let s0 := if e == .failed then s.bump (A.rlvFgUncCnt (pDie paddr)) else s
    let b := 2 ^ pCw paddr
    let q1 : FgPage := match e with
      | .decoded be r => { q with left := q.left - 1, refresh := if r != 0 && decide (r ≤ be) then q.refresh ||| b else q.refresh, most := max q.most be }
      | .erased => { q with left := q.left - 1 }
      | .failed => { q with left := q.left - 1, bad := q.bad ||| b }
    if q1.left != 0 then
      s0.setFg { s0.fg with pages := s0.fg.pages.map fun (y : FgPage) => if y.page == q.page then q1 else y }
    else
      let s1 := fgCount (s0.setFg { s0.fg with pages := s0.fg.pages.filter fun (y : FgPage) => y.page != q.page })
      fgCheckEnd (if q1.refresh != 0 || q1.bad != 0 then mediaAlert s1 q1 else s1)

/-- A recovery step is taken on a page of the forager. -/
def fgStep (s : State) (page : Nat) : State :=
  s.setFg { s.fg with pages := s.fg.pages.map fun (y : FgPage) => if y.page == page then { y with steps := y.steps + 1 } else y }

end Sys2Proof.Machine
end

