-- ==== Sys2Proof/Machine/Calibrate.lean ====
section
/-!
DEFINITION. CALIBRATE and CAL_START (R135, R288 to R292, R412), offsets under stored poison (R385), and temperature polls
(R273).
-/

namespace Sys2Proof.Machine

/-! ## Stored poison in the read-level table (R385) -/

/-- The temperature sets between which R274 interpolates at `t`. -/
def setsAt (t : Int) (p : Nat → Int) : List Nat :=
  if t ≤ p 0 then [0] else if p 3 ≤ t then [3] else if p 2 ≤ t then [2, 3] else if p 1 ≤ t then [1, 2] else [0, 1]

/-- The slot of set `k` holds stored poison. -/
def State.tblBad (s : State) (d g k slot : Nat) : Bool := s.poisoned 3 0 (tblKey d g k slot) 1

/-- A slot whose offset comes from a poisoned unit. -/
def State.slotBad (s : State) (d g slot : Nat) : Bool :=
  (setsAt (s.tempOf d) (setPoint (s.regAt (dieCh d) A.rlvTempPt))).any fun k => s.tblBad d g k slot

/-- The offsets of a read with those of poisoned units taken as 0, and how many were. -/
def State.cleanOffs (s : State) (d g : Nat) (l : List (Nat × Int)) : List (Nat × Int) × Nat :=
  (l.map fun o => if s.slotBad d g o.1 then (o.1, clampInt (s.offMin d) (s.offMax d) 0) else o,
   (l.filter fun o => s.slotBad d g o.1).length)

/-- The slots that tracking moves: those of the nearest set without stored poison. -/
def State.trackSlots (s : State) (d g : Nat) (l : List Nat) : List Nat :=
  let k := nearestSet (s.tempOf d) (setPoint (s.regAt (dieCh d) A.rlvTempPt))
  l.filter fun v => !s.tblBad d g k v

/-! ## The sweep (R289, R290) -/

def State.cal (s : State) (k : Nat) : Option CalSlot := getBy CalSlot.k k s.rlv.cals
def State.setCal (s : State) (x : CalSlot) : State := { s with rlv := { s.rlv with cals := putBy CalSlot.k x s.rlv.cals } }
def State.delCal (s : State) (k : Nat) : State := { s with rlv := { s.rlv with cals := delBy CalSlot.k k s.rlv.cals } }

def CalSlot.sweep (x : CalSlot) : Nat := fld x.cfg 0 7
def CalSlot.stepSize (x : CalSlot) : Nat := fld x.cfg 8 3 + 1
def CalSlot.valleyBits (x : CalSlot) : Nat := fld x.cfg 16 16
/-- N, the reads of a level. -/
def CalSlot.reads (x : CalSlot) : Nat := 2 * x.sweep / x.stepSize + 1
/-- o_i. -/
def CalSlot.offAt (x : CalSlot) (i : Nat) : Int := x.centre - (x.sweep : Int) + ((i * x.stepSize : Nat) : Int)

/-- The sample wordline of the LUN being swept. -/
def State.calWl (s : State) (x : CalSlot) : Nat := pPage x.page / s.cellBits x.die
/-- The sample page number of level `v`. -/
def State.calPageNo (s : State) (x : CalSlot) (v : Nat) : Nat := s.calWl x * s.cellBits x.die + s.lpt x.die v
/-- The PADDR of that page. -/
def State.calPage (s : State) (x : CalSlot) (v : Nat) : Nat := mkPaddr x.die (pBlock x.page) (pPlane x.page) (s.calPageNo x v) 0
def State.calGroup (s : State) (x : CalSlot) : Nat := s.blockGroup x.die (s.calWl x)

/-- The offset of a slot at temperature `t` (R274). -/
def State.offsetAt (s : State) (t : Int) (d g slot : Nat) : Int :=
  let pt := s.regAt (dieCh d) A.rlvTempPt
  clampInt (s.offMin d) (s.offMax d) (interp t (setPoint pt) fun k => s.tbl d g k slot)

/-- A selected level that can be swept. -/
def State.calLevelOk (s : State) (x : CalSlot) (v : Nat) : Bool :=
  bit x.mask (v - 1) && decide (v < 2 ^ s.cellBits x.die) && decide (s.calPageNo x v < s.pages x.die)

/-- The next level after the one in the slot. -/
def State.calNextLevel (s : State) (x : CalSlot) : Option Nat :=
  ((List.range 16).filter fun v => decide (x.level < v)).find? (s.calLevelOk x)

/-- Read the sample page at point `point`. -/
def calRead (s : State) (x : CalSlot) : State :=
  placeOp (s.setCal x) { mkOp (.cal x.k) .calRead 8 0 (s.calPage x x.level) 0 1 [] with die := x.die }

/-- The offsets of a calibration read: the level's own, and every other slot of the page class as R274 gives it. -/
def State.calOffs (s : State) (x : CalSlot) : List (Nat × Int) :=
  let d := x.die
  (s.slotsOfClass d (s.lpt d x.level)).map fun v =>
    (v, if v = x.level then clampInt (s.offMin d) (s.offMax d) (x.offAt x.point) else s.offsetOf d (s.calGroup x) v)

/-- The runs of points that count as valley: (first, last). -/
def valleys (bitsMax : Nat) (l : List Nat) : List (Nat × Nat) :=
  l.zipIdx.foldl (fun acc y =>
    if bitsMax < y.1 then acc
    else match acc.reverse with
      | (f, e) :: r => if e + 1 = y.2 then (r.reverse ++ [(f, y.2)]) else acc ++ [(y.2, y.2)]
      | [] => [(y.2, y.2)]) []

/-- The valley (R290): the longest run, then the midpoint closest to the centre, then the lower. `mid` is the distance of
twice the midpoint from twice the centre. -/
def bestValley (mid : Nat × Nat → Nat) (l : List (Nat × Nat)) : Option (Nat × Nat) :=
  l.foldl (fun acc y => match acc with
    | none => some y
    | some z => if (z.2 - z.1 < y.2 - y.1) ∨ (y.2 - y.1 = z.2 - z.1 ∧ mid y < mid z) then some y else some z) none

/-- The difference enters slot `v` of all four sets; a poisoned unit takes the new offset itself (R290, R385). -/
def calApply (s : State) (d g v : Nat) (diff new : Int) : State :=
  let s1 := s.each (List.range 4) fun st k =>
    let val := if st.tblBad d g k v then new else st.tbl d g k v + diff
    clearPoison (st.setTbl d g k v (clampInt (st.offMin d) (st.offMax d) val)) 3 0 (tblKey d g k v) 1
  clearTrack (s1.setLastGood d g (s1.lpt d v) 0) d g

/-- The result of a level. -/
def calLevelEnd (s : State) (x : CalSlot) : State :=
  let v := x.level
  let d := x.die
  let g := s.calGroup x
  let mid := fun (y : Nat × Nat) => (x.offAt y.1 + x.offAt (y.2 + 1) - 2 * x.centre).natAbs
  match bestValley mid (valleys x.valleyBits x.diffs) with
  | none => s.setCal { x with widths := x.widths ++ [(v, 0)], novl := x.novl ||| 2 ^ (v - 1) }
  | some (f, l) =>
    let new := clampInt (s.offMin d) (s.offMax d) ((x.offAt f + x.offAt (l + 1)) / 2)
    let y := { x with widths := x.widths ++ [(v, min ((l - f + 1) * x.stepSize) 254)], newoff := x.newoff ++ [(v, new)],
                      edge := if f = 0 ∨ l + 2 = x.reads then x.edge ||| 2 ^ (v - 1) else x.edge }
    (calApply s d g v (new - x.centre) new).setCal y

/-! ## Visits (R288, R291) -/

/-- The 64 bytes of a visit's record. -/
def calRecord (x : CalSlot) (group : Nat) (skipped : Bool) : List Byte :=
  leBytes 2 x.die ++ leBytes 1 group ++ leBytes 1 (ubyte x.temp) ++ leBytes 1 (if skipped then 1 else 0) ++ zeros 3 ++
  ((List.range 15).flatMap fun i => leBytes 1 ((assoc x.widths (i + 1)).getD 0xFF)) ++ zeros 1 ++
  ((List.range 15).flatMap fun i => leBytes 1 (ubyte ((assoc x.newoff (i + 1)).getD 0))) ++ zeros 1 ++
  leBytes 2 x.novl ++ leBytes 2 x.edge ++ zeros 20

/-- A visit's record goes to host memory (R291). -/
def calReport (s : State) (x : CalSlot) (skipped : Bool) : State :=
  match x.slot with
  | none => s
  | some n => deliver s n (64 * x.visit) (calRecord x (if skipped then 0 else s.calGroup x) skipped) false

/-- The CALIBRATION_DONE record (R292, R412); its CALDONE producer fires at once when the record is dropped at once. -/
def calDoneRecord (s : State) (x : CalSlot) : State :=
  let s1 := match x.slot.bind s.slot with
    | some c =>
      s.raise 7 c.qid (c.entry.cid + c.seq % 2 ^ 32 * 2 ^ 16 + x.first * 2 ^ 48) (x.swept + x.noVal * 2 ^ 32)
        (min ((s.aclk - c.fetched) / 1000) (2 ^ 32 - 1)) x.slot
    | none => s.raise 7 0xFFFF (x.first * 2 ^ 48) (x.swept + x.noVal * 2 ^ 32) (min ((s.aclk - x.start) / 1000) (2 ^ 32 - 1))
  if s.arEn then s1 else produce s1 53

/-- A sweep ends. A template calibration raises its record here and its slot is free; a CALIBRATE does so when it finishes
(R288). -/
def calEnd (s : State) (x : CalSlot) : State :=
  match x.slot with
  | none => (let s1 := s.delCal x.k; calDoneRecord { s1 with wgl := { s1.wgl with calBusy := false } } x)
  | some n =>
    (s.setCal { x with ended := true }).updSlot n fun y => { y with done := x.swept, calFirst := x.first, calNoVal := x.noVal }

/-- A CALIBRATE has finished: its slot is free (R288). -/
def calFree (s : State) (n : Nat) : State :=
  { s with rlv := { s.rlv with cals := s.rlv.cals.filter fun (x : CalSlot) => x.slot != some n } }

/-- A sweep is in progress at a LUN (R285). -/
def State.sweeping (s : State) (d : Nat) : Bool := s.rlv.cals.any fun (x : CalSlot) => x.die == d && !x.ended

/-- A LUN is skipped: Class L, or a sample beyond its die-map entry. -/
def State.calSkip (s : State) (x : CalSlot) : Bool :=
  s.classL x.die || decide (s.planes x.die ≤ pPlane x.page) || decide (s.blocks x.die ≤ pBlock x.page) || decide (s.pages x.die ≤ pPage x.page)

/-- The slot of a visit that begins at a die. -/
def State.calBegin (s : State) (x : CalSlot) (d : Nat) : CalSlot :=
  { x with die := d, level := 0, point := 0, cfg := s.regAt (dieCh d) A.rlvCalCfg, centre := 0, temp := s.tempOf d, prev := [], diffs := [],
           widths := [], newoff := [], novl := 0, edge := 0, first := if x.visit = 0 then d else x.first }

/-- A visit has ended. -/
def calVisited (s : State) (x : CalSlot) (skipped : Bool) : CalSlot × State :=
  ({ x with visit := x.visit + 1, left := x.left - 1, swept := if skipped then x.swept else x.swept + 1,
            noVal := if x.novl != 0 then x.noVal + 1 else x.noVal }, calReport s x skipped)

/-- Begin a level of a LUN, or end the LUN's visit; the answer says which. -/
def calLevelStart (s : State) (x : CalSlot) : Option State :=
  match s.calNextLevel x with
  | none => none
  | some v =>
    let c := s.offsetAt x.temp x.die (s.calGroup x) v
    some (calRead s { x with level := v, point := 0, centre := c, prev := [], diffs := [] })

/-- Visit the dies of a list in turn until one takes time. -/
def calVisits : List Nat → CalSlot → State → State
  | [], x, s => calEnd s x
  | d :: rest, x, s =>
    if x.left = 0 then calEnd s x
    else
      let y := s.calBegin x d
      if s.calSkip y then (let r := calVisited s y true; calVisits rest r.1 r.2)
      else match calLevelStart s y with
        | some t => t
        | none => (let r := calVisited s y false; calVisits rest r.1 r.2)

/-- The present LUNs from die `d` on. -/
def State.lunsFrom (s : State) (d : Nat) : List Nat := s.dies.filter fun e => decide (d ≤ e) && s.diePresent e

/-- The command of a calibration has met a condition that ends it. -/
def State.calFailed (s : State) (x : CalSlot) : Bool :=
  match x.slot with
  | none => false
  | some n => match s.slot n with | some c => c.failed | none => true

/-- A calibration read has arrived: 4,096 raw bytes (R289). -/
def calData (s : State) (k : Nat) (raw : List Byte) : State :=
  match s.cal k with
  | none => s
  | some x =>
    if x.ended then s
    else if s.calFailed x then calEnd s x
    else
      let diffs := if x.point = 0 then [] else x.diffs ++ [diffBits x.prev raw]
      let y := { x with prev := raw, diffs := diffs, point := x.point + 1 }
      if y.point < y.reads then calRead s y
      else
        let s1 := calLevelEnd s y
        match s1.cal k with
        | none => s1
        | some z =>
          match calLevelStart s1 z with
          | some t => t
          | none => (let r := calVisited s1 z false; calVisits (s1.lunsFrom (z.die + 1)) r.1 r.2)

/-- A calibration without a visit yet. -/
def calFresh (k : Nat) (slot : Option Nat) (page left mask now : Nat) : CalSlot :=
  { k := k, slot := slot, die := 0, level := 0, point := 0, page := page, mask := mask, left := left, cfg := 0, centre := 0, temp := 0,
    prev := [], diffs := [], visit := 0, swept := 0, noVal := 0, first := pDie page, widths := [], newoff := [], novl := 0, edge := 0,
    start := now, ended := false }

/-- The first waiting calibration takes the lowest free slot and begins (R288). -/
def calStart (s : State) : State :=
  match s.rlv.calWait, (List.range 8).find? fun k => (s.cal k).isNone with
  | w :: rest, some k =>
    let s1 := { s with rlv := { s.rlv with calWait := rest } }
    (match w.1 with
     | none =>
       let x := calFresh k none w.2.1 w.2.2.1 w.2.2.2 s.aclk
       calVisits (s.lunsFrom (pDie x.page)) x s1
     | some n =>
       match s.slot n with
       | none => s1
       | some c =>
         if c.failed then s1
         else
           let x := calFresh k (some n) c.entry.paddr c.entry.count (c.entry.x 0 15) s.aclk
           calVisits (s.lunsFrom (pDie x.page)) x s1)
  | _, _ => s

/-- CALIBRATION_START. -/
def execCalibrationStart (s : State) : Host.Outcome State Fault Refusal :=
  run true s fun s => if s.smoking || s.stopped then s else calStart s

/-- A command calibrates or waits to. -/
def State.calibrating (s : State) (n : Nat) : Bool :=
  (s.rlv.cals.any fun (x : CalSlot) => x.slot == some n && !x.ended) || s.rlv.calWait.any fun w => w.1 == some n

/-- The calibration of a command that has ended early: its reads that are not dispatched go, and its sweep ends once none runs. -/
def calReap (s : State) (n : Nat) : State :=
  match s.rlv.cals.find? fun (x : CalSlot) => x.slot == some n with
  | none => { s with rlv := { s.rlv with calWait := s.rlv.calWait.filter fun w => w.1 != some n } }
  | some x =>
    let s1 := { s with ops := s.ops.filter fun (o : Op) => !(o.owner == Owner.cal x.k && o.stage == OpStage.queued) }
    if s1.ops.any fun (o : Op) => o.owner == Owner.cal x.k && o.active then s1
    else calEnd s1 x

/-- A calibration read ends without its data with status `st`: its CALIBRATE has that condition (R191). DESIGN CHOICE, log entry 120:
a template's sweep goes on at the next LUN, and counts this one as a visit without a sweep. -/
def calLost (s : State) (k : Nat) (st : Status) : State :=
  match s.cal k with
  | none => s
  | some x =>
    match x.slot with
    | some n => hit s n st
    | none => (let r := calVisited s x true; calVisits (s.lunsFrom (x.die + 1)) r.1 r.2)

/-- The command of an operation: its own, or the CALIBRATE whose sweep reads. -/
def State.opCmd (s : State) (o : Op) : Option Nat :=
  match o.owner with | .cmd n => some n | .cal k => (s.cal k).bind CalSlot.slot | _ => none

/-! ## Temperature polls (R273) -/

/-- A poll of a target may be dispatched. -/
def State.pollFree (s : State) (ch t : Nat) : Bool :=
  let d := ch * 64 + t * 4
  s.diePresent d && s.faTemp d != 0 && s.fldAt ch A.rlvTpoll 0 16 != 0 && s.live ch && !(s.chan ch).frozen && !s.smoking &&
  s.power.st == .p0 &&
  !(s.ops.any fun (o : Op) => o.die / 4 == d / 4 && (o.active || (o.bounded && o.stage == OpStage.queued))) &&
  decide ((assoc s.rlv.polled (tempIdx d)).getD 0 + 1000 * s.fldAt ch A.rlvTpoll 0 16 ≤ s.aclk)

/-- TEMP_POLL, once every MS milliseconds: an invalid status is retried at the next interval. -/
def execTempPoll (ch target : Nat) (answer : Option Byte) (s : State) : Host.Outcome State Fault Refusal :=
  run (ch < 32 && target < 16) s fun s =>
    if s.pollFree ch target then
      let d := ch * 64 + target * 4
      let s1 := { s with rlv := { s.rlv with polled := putBy Prod.fst (tempIdx d, s.aclk) s.rlv.polled } }
      match answer with | some v => pollOk s1 d v | none => s1
    else s

/-- TEMP_POLL_STALE: T of the target is the accepted TEMP_IN value again. -/
def execTempPollStale (ch target : Nat) (s : State) : Host.Outcome State Fault Refusal :=
  run (ch < 32 && target < 16) s fun s =>
    let i := ch * 16 + target
    if (s.rlv.temps.any fun x => x.1 == i) &&
        decide ((assoc s.rlv.pollGood i).getD 0 + 4000 * s.fldAt ch A.rlvTpoll 0 16 ≤ s.aclk) then
      let t := BitVec.ofInt 8 (s.tempIn (ch / 8))
      { s with rlv := { s.rlv with temps := s.rlv.temps.filter (fun x => x.1 != i) ++ [(i, t, true)] } }
    else s

end Sys2Proof.Machine
end

