-- ==== Sys2Proof/Machine/MemProt.lean ====
section
/-!
DEFINITION. Internal memory protection (chapter 14): the byte and word codes, the correctable-error log, stored poison,
repair, the fill and the scrubber's walk.
-/

namespace Sys2Proof.Machine

/-! ## The codes (R375 to R377). Bit p − 1 of a unit is position p; the overall parity is the last bit. -/

/-- Positions that are set, combined by exclusive or: the syndrome. -/
def synOf (npos u : Nat) : Nat := (List.range npos).foldl (fun s i => if bit u i then s ^^^ (i + 1) else s) 0

/-- The parity of `n` bits. -/
def parityOf (n u : Nat) : Nat := ((List.range n).filter (bit u)).length % 2

/-- What a read of a unit finds. -/
inductive Finding where
  | clean | fixed | poison | bad
  deriving DecidableEq, Repr

/-- The result of R376 for syndrome `s` and parity `p`. -/
def judge (npos s p : Nat) : Finding :=
  if s = 0 ∧ p = 0 then .clean
  else if p = 1 then (if s ≤ npos then .fixed else .bad)
  else if s = 3 then .poison
  else .bad

/-- The number of code positions: 12 for the byte code, 71 for the word code. -/
def codeLen (mem : Nat) : Nat := if mem ≤ 1 then 71 else 12

/-- SYN of a unit: s with p above it. -/
def synField (mem s p : Nat) : Nat := if mem ≤ 1 then s + p * 128 else s + p * 16

/-- The syndrome and parity of a unit as read. -/
def unitSyn (mem u : Nat) : Nat × Nat := (synOf (codeLen mem) u, parityOf (codeLen mem + 1) u)

/-! ## The memories (R374) -/

/-- Instances of a memory. -/
def memInsts (b : Build) (mem : Nat) : Nat :=
  if mem = 0 then Config.channels b else if mem = 5 then Config.groups b else if mem < 8 then 1 else 0

/-- Bank groups of an instance. -/
def memBgs (mem : Nat) : Nat := [1, 8, 16, 4, 4, 1, 1, 1].getD mem 0

/-- Bytes, or control-store words, of a bank group. -/
def bgSize (mem : Nat) : Nat := if mem = 0 then 393216 else if mem = 5 then 16384 else if mem = 6 then 262144
  else if mem = 7 then 65536 else 524288

/-- Rows of a bank group: 512 B each, or 32 control-store words. -/
def bgRows (mem : Nat) : Nat := if mem = 5 then 512 else bgSize mem / 512

/-- The row of an address within its bank group. -/
def rowOf (mem addr : Nat) : Nat := if mem = 5 then addr / 32 else addr % 524288 / 512

/-- The bank group of an address. -/
def bgOf (mem addr : Nat) : Nat := if mem = 5 then 0 else addr / 524288

/-- A bank group by number. -/
def bgKey (mem inst bg : Nat) : Nat := (mem * 32 + inst) * 16 + bg

/-- Every bank group of the build. -/
def allBgs (b : Build) : List Nat :=
  (List.range 8).flatMap fun m => (List.range (memInsts b m)).flatMap fun i => (List.range (memBgs m)).map (bgKey m i)

/-! ## Repair (R380, R381) -/

def setMemSts (s : State) (i : Nat) : State := s.setFldOf A.memSts i 1 1

/-- A runtime repair of a row is queued in the lowest free entry of its bank group; the answer says whether. -/
def queueRepair (s : State) (mem inst addr : Nat) : Bool × State :=
  let key := bgKey mem inst (bgOf mem addr) * 8
  match (List.range 8).find? fun e => !bit ((assoc s.mem.rrep (key + e)).getD 0).toNat 31 with
  | some e =>
    let w := BitVec.ofNat 32 (2 ^ 31 + bgOf mem addr * 2 ^ 25 + inst * 2 ^ 20 + mem * 2 ^ 16 + rowOf mem addr)
    (true, { s with mem := { s.mem with rrep := putBy Prod.fst (key + e, w) s.mem.rrep } })
  | none => (false, setMemSts s 2)

/-- One repair entry at a fill (R380). -/
def applyRepair (s : State) (w : Word) : State :=
  let n := w.toNat
  let mem := bits n 16 4
  let inst := bits n 20 5
  let bg := bits n 25 4
  let row := bits n 0 10
  if !bit n 31 then s
  else if memInsts s.build mem ≤ inst ∨ memBgs mem ≤ bg ∨ bgRows mem ≤ row then s
  else if (mem, inst, bg, row) ∈ s.mem.spares then s
  else if 16 ≤ (s.mem.spares.filter fun x => x.1 == mem && x.2.1 == inst && x.2.2.1 == bg).length then
    setMemSts (s.bump A.memRepOvfCnt) 2
  else { s with mem := { s.mem with spares := s.mem.spares ++ [(mem, inst, bg, row)] } }

/-- The repair load of a fill: the fuse entries in list order, then the runtime entries of each bank group. -/
def repairLoad (s : State) : State :=
  let fuse := match s.init.area with | some a => a.repair | none => []
  let s0 := { s with mem := { s.mem with spares := [] } }
  (s0.each fuse applyRepair).each (s.mem.rrep.map Prod.snd) applyRepair

/-! ## Correctable errors (R382 to R384) -/

/-- The owner of a unit for a MEM_UNCORRECTABLE record (R389): a slot in use owns its bytes. Which staging bytes a
command's data occupy the spec does not say, so for memories 0 and 1 the owner is a free value. -/
def ownerOf (s : State) (mem addr : Nat) : Nat × State :=
  let code := fun (x : Slot) => x.seq % 2 ^ 32 + x.qid * 2 ^ 32 + 2 ^ 42
  if mem = 2 then (match s.slot (addr / 64) with | some x => code x | none => 0, s)
  else if mem ≤ 1 then
    match s.slots[s.freeVal.toNat]? with
    | some x => (code x, s.useFree)
    | none => (0, s.useFree)
  else (0, s)

def ceRecord (s : State) (x : CeEntry) (sticky queued full : Bool) (scrub : Bool) : State :=
  let b := fun (c : Bool) (i : Nat) => if c then 2 ^ i else 0
  s.raise 2 (x.mem + x.inst * 16)
    (x.addr + x.syn * 2 ^ 32 + b sticky 40 + b scrub 41 + b queued 42 + b full 43 + x.i * 2 ^ 44) x.hits (s.regN A.memCeCnt)

/-- The entry of the log for a unit. -/
def State.ceFind (s : State) (mem inst addr : Nat) : Option CeEntry :=
  s.mem.log.find? fun x => x.mem == mem && x.inst == inst && x.addr == addr

def setCe (s : State) (x : CeEntry) : State := { s with mem := { s.mem with log := putBy CeEntry.i x s.mem.log } }

/-- The place of a new entry (R383): the lowest free one, else the oldest neither sticky nor hit twice. -/
def State.cePlace (s : State) : Option Nat :=
  match (List.range 16).find? fun i => !(s.mem.log.any fun x => x.i == i) with
  | some i => some i
  | none =>
    ((s.mem.log.filter fun x => !x.sticky && decide (x.hits ≤ 1)).foldl (fun (acc : Option CeEntry) x => match acc with
      | none => some x
      | some y => if x.born < y.born then some x else some y) none).map CeEntry.i

/-- A correctable read (R382): counted, and logged. `born sticky` marks the check read of a fill (R378). -/
def correctable (s0 : State) (mem inst addr syn : Nat) (scrub fill : Bool) : State :=
  let s := s0.bump A.memCeCnt
  match s.ceFind mem inst addr with
  | some x =>
    let y := { x with hits := min (x.hits + 1) 65535 }
    if y.wb && !y.sticky then
      let r := queueRepair (setCe s { y with sticky := true }) mem inst addr
      ceRecord r.2 { y with sticky := true } true r.1 (!r.1) scrub
    else setCe s y
  | none =>
    match s.cePlace with
    | none =>
      let s1 := setMemSts (s.bump A.memCeLostCnt) 3
      if fill then (queueRepair s1 mem inst addr).2 else s1
    | some i =>
      let x : CeEntry := { i := i, mem := mem, inst := inst, addr := addr, syn := syn, hits := 1, sticky := fill, wb := false,
                           scrub := scrub, born := s.mem.births }
      let s1 := setMemSts (setCe { s with mem := { s.mem with births := s.mem.births + 1 } } x) 0
      if fill then (queueRepair s1 mem inst addr).2 else ceRecord s1 x false false false scrub

/-- A unit holds stored poison from now on (R377). -/
def storePoison (s : State) (mem inst addr : Nat) : State :=
  if s.poisoned mem inst addr 1 then s else { s with mem := { s.mem with poison := s.mem.poison ++ [(mem, inst, addr)] } }

/-- An uncorrectable unit is found (R385). -/
def uncorrectable (s : State) (mem inst addr syn : Nat) (scrub : Bool) : State :=
  let s1 := setMemSts (s.bump A.memUeCnt) 1
  let s3 := (storePoison s1 mem inst addr).event 3
  let o := ownerOf s3 mem addr
  o.2.raise 3 (mem + inst * 16) (addr + syn * 2 ^ 32 + (if scrub then 2 ^ 41 else 0)) o.1 (o.2.regN A.memUeCnt)

/-- A finding of the check read of a fill (R378). -/
def fillFinding (s : State) (x : FillFinding) : State :=
  let sp := unitSyn x.mem x.bits
  match judge (codeLen x.mem) sp.1 sp.2 with
  | .clean => s
  | .fixed => correctable s x.mem x.inst x.addr (synField x.mem sp.1 sp.2) false true
  | .poison => storePoison s x.mem x.inst x.addr
  | .bad => (storePoison s x.mem x.inst x.addr).bump A.memFillErrCnt

/-- The fill (R378): the log and MEM_STS clear, spares are assigned, every SRAM is written, and the check read's
findings are handled. The SRAMs themselves have been lost by whatever led to the fill. -/
def sramFill (s : State) (found : List FillFinding) : State :=
  let s0 := { s.setReg A.memSts 0 with mem := { s.mem with log := [], births := 0, poison := [], scrubAt := [], passed := [], passAt := [], fillAt := s.aclk } }
  (repairLoad s0).each found fillFinding

/-! ## The scrubber (R384) -/

/-- The scrubber writes a corrected unit back, unless its log entry is sticky (R384). -/
def writeBack (s : State) (mem inst addr : Nat) : State :=
  match s.ceFind mem inst addr with
  | some x => if x.sticky then s else setCe s { x with wb := true }
  | none => s

/-- Words or bytes the scrubber passes in a step. -/
def scrubStride (mem : Nat) : Nat := if mem = 5 then 1 else 8

/-- Where the scrubber stands in a bank group. -/
def State.scrubPos (s : State) (mem inst bg : Nat) : Nat :=
  (assoc s.mem.scrubAt (bgKey mem inst bg)).getD (if mem = 5 then 0 else bg * 524288)

/-- The first address of a bank group. -/
def bgBase (mem bg : Nat) : Nat := if mem = 5 then 0 else bg * 524288

/-- ACLK count at which the scrubber's pass over a bank group started. -/
def State.passStart (s : State) (mem inst bg : Nat) : Nat := (assoc s.mem.passAt (bgKey mem inst bg)).getD s.mem.fillAt

/-- PASS_MS in microseconds. -/
def State.passTime (s : State) : Nat := 1000 * s.fldOf A.memScrubCfg 16 16

/-- The scrubber's next step is due: the steps of a pass are spaced evenly over PASS_MS (R384). -/
def State.scrubDue (s : State) (mem inst bg : Nat) : Bool :=
  decide ((s.scrubPos mem inst bg - bgBase mem bg) * s.passTime ≤ (s.aclk - s.passStart mem inst bg) * bgSize mem)

/-- The walk moves on; a pass that ends counts, and is late where it ends more than PASS_MS ÷ 8 after PASS_MS. -/
def scrubMove (s : State) (mem inst bg : Nat) : State :=
  let base := bgBase mem bg
  let late := decide (s.passTime + s.passTime / 8 < s.aclk - s.passStart mem inst bg)
  let next := s.scrubPos mem inst bg + scrubStride mem
  if next < base + bgSize mem then
    { s with mem := { s.mem with scrubAt := putBy Prod.fst (bgKey mem inst bg, next) s.mem.scrubAt } }
  else
    let s1 := { s with mem := { s.mem with scrubAt := putBy Prod.fst (bgKey mem inst bg, base) s.mem.scrubAt,
                                           passed := addN (bgKey mem inst bg) s.mem.passed,
                                           passAt := putBy Prod.fst (bgKey mem inst bg, s.aclk) s.mem.passAt } }
    let s2 := if late then s1.bump A.memScrubLateCnt else s1
    if (allBgs s.build).all fun k => k ∈ s2.mem.passed then
      { s2 with mem := { s2.mem with passed := [] } }.bump A.memScrubPassCnt
    else s2

end Sys2Proof.Machine
end

