-- ==== Sys2Proof/Machine/ReadPath.lean ====
section
/-!
DEFINITION. The read path (R18): codewords and lines as they arrive, the checks of R263 and R268, recovery (R277 to R282), the
pooled decoders and XTS engines (R21, R23) and the staging queues (R371).
-/

namespace Sys2Proof.Machine

/-- A Class L line, by its stored length (R266). -/
def Cw.isLine (c : Cw) : Bool := c.raw.length == 288

/-- The seed of a codeword's scrambler (R260). -/
def Cw.seed (c : Cw) : Nat := scrambleSeed (c.paddr % 2 ^ 43) c.cfg.salt.toNat

/-- The command that owns a codeword. -/
def State.cwSlot (s : State) (c : Cw) : Option Slot := match c.owner with | .cmd n => s.slot n | _ => none

/-! ## Recovery (R278 to R282) -/

def State.recovOf (s : State) (ow : Owner) (page : Nat) : Option Recov := s.recov.find? fun r => r.owner == ow && r.page == page
def State.setRecov (s : State) (r : Recov) : State :=
  { s with recov := (s.recov.filter fun (y : Recov) => !(y.owner == r.owner && y.page == r.page)) ++ [r] }
def State.delRecov (s : State) (ow : Owner) (page : Nat) : State :=
  { s with recov := s.recov.filter fun (y : Recov) => !(y.owner == ow && y.page == page) }

/-- L_max of a page under format `f` for a read of class `cls`; the forager takes LEN (R278). -/
def State.ladMax (s : State) (p f cls : Nat) : Nat :=
  let ch := pChan p
  let len := s.ladLen ch (s.ladderOf (pDie p) (s.pageInfo p f).2.1)
  if cls < 8 then min len (s.fldAt ch (A.rlvEsc cls) 0 5) else len

/-- The ladder step that comes after `taken` steps from `start` (R280). -/
def State.ladStep (s : State) (p f : Nat) (r : Recov) : Nat :=
  (r.start + r.taken) % max 1 (s.ladLen (pChan p) (s.ladderOf (pDie p) (s.pageInfo p f).2.1))

/-- NO_RETRY allows the command a single attempt (R282). -/
def State.single (s : State) (ow : Owner) : Bool :=
  match ow with | .cmd n => (match s.slot n with | some x => x.entry.noRetry | none => false) | _ => false

/-- The next step of a page's sequence, where one remains untaken; the single attempt of NO_RETRY leaves none (R282). -/
def State.nextStep (s : State) (r : Recov) (f cls : Nat) : Option StepKind :=
  if s.single r.owner then none
  else if r.taken < s.ladMax r.page f cls then some (.ladder (s.ladStep r.page f r))
  else if r.soft < 4 then some (.soft (r.soft + 1))
  else none

/-- The codewords of a page that belong to an owner. -/
def State.pageCws (s : State) (ow : Owner) (page : Nat) : List Cw := s.cws.filter fun (c : Cw) => c.owner == ow && pageOf c.paddr == page

/-- The centre read among those of the codewords that still fail: the least summed syndrome weight, then the earliest (R281). -/
def centreOf (l : List Cw) : Option Nat :=
  match l with
  | [] => none
  | c :: _ =>
    let sum := fun (op : Nat) => (l.map fun y => match y.reads.find? fun r => r.1 == op with | some r => r.2.1 | none => 0).sum
    (c.reads.map Prod.fst).foldl (fun acc op => match acc with
      | none => some op
      | some best => if sum op < sum best then some op else some best) none

/-- A read of the page for its owner that still brings codewords. -/
def State.pageReading (s : State) (ow : Owner) (page : Nat) : Bool :=
  s.ops.any fun (o : Op) => o.owner == ow && o.kind == .read && pageOf o.paddr == page && !o.cws.isEmpty

/-- The destination offset of codeword `idx` of a READ or READ_GATHER (R118, R120). -/
def destOff (x : Slot) (idx : Nat) : Nat :=
  if x.entry.opc == Opc.gather && !bit x.entry.xctl 0 then
    (let j := elemOf x.elems idx 0
     (x.elems.getD j { paddr := 0, cnt := 0, doff := 0 }).doff + 4096 * (idx - ((x.elems.take j).map Elem.cnt).sum))
  else 4096 * idx

/-- A codeword has failed: its outcome is bound-limited or uncorrectable (R119); `again` says that it took a step (R140). Its data
go out only with poison. -/
def cwFail (s : State) (c : Cw) (st : Status) (again : Bool) : State :=
  let s0 := s.delCw c.id
  match c.owner with
  | .forager => fgCwEnd s0 c.paddr .failed
  | .cmd n =>
    let s1 := (outcome (s0.bump A.rlvFailCnt) n st).updSlot n fun y => { y with retried := y.retried || again }
    (match s1.slot n with
     | none => s1
     | some x =>
       if x.entry.opc == Opc.scan then excludeGroup s1 n (x.rgOfCw c.idx).1
       else
         let s2 := s1.updSlot n fun y => { y with res0 := y.res0 ||| failedBit y c.idx }
         if x.entry.deliverPoison then (deliver s2 n (destOff x c.idx) (s2.freeBytes 4096) true).useFree 4096 else s2)
  | _ => s0

/-- A codeword of a SCAN whose row group is excluded: its results are discarded (R326). -/
def State.discarded (s : State) (c : Cw) : Bool :=
  match s.cwSlot c with
  | some x => x.entry.opc == Opc.scan && x.rgOut (x.rgOfCw c.idx).1
  | none => false

/-- A step of recovery may be taken for a command (R170, R178, R282); the forager applies neither K nor a deadline. -/
def State.stepAllowed (s : State) (ow : Owner) (page : Nat) (f : CwFmt) : Bool :=
  match ow with
  | .cmd n =>
    (match s.slot n with
     | some x => !x.failed && decide (x.rstep < x.kMax) && s.stepInTime x (s.uStep x.samp (pDie page) f.pageBytes)
     | none => false)
  | .forager => s.fg.pages.any fun (q : FgPage) => q.page == page
  | _ => false

/-- The next step of a page is placed: one array read for all codewords that still fail. -/
def placeStep (s : State) (r : Recov) (k : StepKind) (l : List Cw) (f : Nat) : State :=
  let r1 : Recov := match k with
    | .ladder _ => { r with taken := r.taken + 1, steps := r.steps + 1 }
    | _ => { r with soft := r.soft + 1, steps := r.steps + 1, centre := if r.centre.isSome then r.centre else centreOf l }
  let s1 := s.setRecov r1
  let cws := l.map fun c => (c.idx, c.paddr)
  match r.owner with
  | .cmd n =>
    (match s1.slot n with
     | none => s1
     | some x =>
       placeOp (s1.updSlot n fun y => { y with rstep := y.rstep + 1 })
         { mkOp r.owner .read x.entry.lcls x.seq r.page f 1 cws with step := k })
  | _ => placeOp (fgStep s1 r.page) { mkOp r.owner .read 8 0 r.page f 1 cws with step := k }

/-- A page of an owner whose reads have all been decoded: the codewords that still fail take the next step together, or end
(R278, R282). -/
def recoverPage (s : State) (ow : Owner) (page : Nat) : State :=
  let here := s.pageCws ow page
  if (here.any fun c => c.stage == .raw || c.stage == .softWait || c.stage == .softRun) || s.pageReading ow page then s
  else
    match here.filter fun c => c.stage == .failed with
    | [] => s.delRecov ow page
    | c :: l =>
      let f := c.cfg.fmt
      let cls := match ow with | .cmd n => (match s.slot n with | some x => x.entry.lcls | none => 8) | _ => 8
      let i := s.pageInfo page f
      let r := (s.recovOf ow page).getD
        { owner := ow, page := page, taken := 0, start := s.lastGood (pDie page) i.1 i.2.1, soft := 0, steps := 0, centre := none }
      let fail := fun (st : Status) => (s.each (c :: l) fun t y => cwFail t y st (decide (0 < r.steps))).delRecov ow page
      match s.nextStep r f cls with
      | none => fail St.mediaUncorrectable
      | some k =>
        if !s.stepAllowed ow page c.cfg then fail St.boundReached
        else
          -- a codeword of an excluded row group takes no further step, and has no outcome of its own (R326)
          let s1 := s.each ((c :: l).filter s.discarded) fun st y => st.delCw y.id
          match (c :: l).filter fun y => !s.discarded y with
          | [] => s1.delRecov ow page
          | rest => placeStep s1 r k rest f

/-! ## Arrival (R18 steps 1 to 3) -/

/-- A codeword or line arrives for an operation. The first read makes it, under the settings that hold as it enters: between two
codewords the entry stands at a codeword boundary (R29, R32). A recovery read brings it again. -/
def arrive (s : State) (o : Op) (idx p : Nat) (raw : List Byte) : State :=
  let ch := pChan p
  match s.cws.find? fun (c : Cw) => c.owner == o.owner && c.idx == idx && c.paddr == p && c.stage == .failed with
  | some c =>
    (match o.step with
     | .soft _ => s.setCw { c with stage := .softWait }
     | .ladder k =>
       s.setCw { c with stage := .raw, first := false, raw := raw, hard := scramble c.seed raw, lad := some k, bad := none,
                        reads := c.reads ++ [(o.id, 0, raw, o.offs)] }
     | _ => s)
  | none =>
    if o.step != .first then s
    else
      let s := passCw s ch
      let cfg := s.fmtAt ch o.fmt
      let c : Cw := { id := s.cwNo, owner := o.owner, ch := ch, paddr := p, idx := idx, cfg := cfg, stage := .raw, first := true,
                      hard := [], raw := raw, reads := [(o.id, 0, raw, o.offs)], data := [], be := 0, lad := none, passed := 0,
                      bad := none, bcw := fld (s.regAt stComb A.cmbStage) 0 6 }
      let c1 := { c with hard := if o.kind == .lineRead then raw else scramble c.seed raw }
      let s1 := { s.setCw c1 with cwNo := s.cwNo + 1 }
      if (s1.chan ch).flushing then loseCw s1 c1 else s1

/-! ## The checks of R263 -/

/-- A codeword enters the staging queue, complete. -/
def stage (s : State) (c : Cw) (data : List Byte) : State :=
  { s.setCw { c with stage := .decoded, data := data, passed := s.cwNo } with cwNo := s.cwNo + 1 }

/-- Step 4 of R263: the stamp of a decoded codeword. -/
def stampOk (c : Cw) (x : Slot) (cw : List Byte) : Bool :=
  !c.cfg.stampchk || (leAt cw 4112 1 == c.cfg.fmt + 16 && leAt cw 4113 2 == if c.cfg.enc then x.entry.kslot else 0)

/-- Corrected bits (R264). -/
def corrected (hard cw : List Byte) : Nat := min (diffBits hard cw) 1023

/-- A codeword of a command passed step 3: stamp, outcome, and on to XTS or the staging queue. `be` is its corrected bits,
`again` that it took a step. -/
def cwGood (s : State) (c : Cw) (cw : List Byte) (be : Nat) (again : Bool) : State :=
  match c.owner with
  | .forager => fgCwEnd (s.delCw c.id) c.paddr (.decoded be c.cfg.refreshBe)
  | .cmd n =>
    (match s.slot n with
     | none => s.delCw c.id
     | some x =>
       if !stampOk c x cw then cwFail (s.bump A.eccStampCnt) c St.mediaUncorrectable again
       else if s.discarded c then s.delCw c.id
       else
         let warn := c.cfg.warnBe != 0 && decide (c.cfg.warnBe ≤ be)
         let s1 := s.updSlot n fun y => { y with maxBe := max y.maxBe be, warn := y.warn || warn, retried := y.retried || again }
         let s2 := if warn then outcome s1 n St.okWarn else if again then outcome s1 n St.okRetried else s1
         if x.mute then s2.delCw c.id
         else
           let c1 := { c with be := be, data := cw.take 4112 }
           if c.cfg.enc then s2.setCw { c1 with stage := .xtsWait } else stage s2 c1 c1.data)
  | _ => s.delCw c.id

/-- A codeword is erased (R263 step 1, R119). -/
def cwErased (s : State) (c : Cw) : State :=
  let s0 := (s.delCw c.id).bump A.eccErasedCnt
  match c.owner with
  | .forager => fgCwEnd s0 c.paddr .erased
  | .cmd n =>
    (match s0.slot n with
     | none => s0
     | some x => if x.entry.opc == Opc.scan then excludeGroup (markErased s0 n c.idx) n (x.rgOfCw c.idx).1 else markErased s0 n c.idx)
  | _ => s0

/-- What a decoder found is a valid codeword whose CRC holds; the flag says that the code held. -/
def crcOk (cw : List Byte) : Bool := leAt cw 4124 4 == crc32c (cw.take 4124)
def isCodeword (c : Cw) (cw : List Byte) : Bool := cw.length == c.cfg.len && ldpcValid c.cfg.p cw

/-- A qualifying codeword feeds its tracking unit (R285). UP bits were sensed as 1 and are 0 when scrambled again (R277). -/
def trackCw (s : State) (c : Cw) (cw : List Byte) : State :=
  let d := pDie c.paddr
  if !c.first || s.sweeping d then s
  else
    let i := s.pageInfo c.paddr c.cfg.fmt
    let again := scramble c.seed cw
    let up := ones ((c.raw.zip again).map fun y => y.1 &&& ~~~ y.2)
    let dn := ones ((c.raw.zip again).map fun y => ~~~ y.1 &&& y.2)
    trackFeed s d i.1 i.2.1 (s.trackSlots d i.1 i.2.2) up dn

/-- The weight the hard decoder reports enters the record of the codeword's last read. -/
def weigh (l : List (Nat × Nat × List Byte × List (Nat × Int))) (w : Nat) : List (Nat × Nat × List Byte × List (Nat × Int)) :=
  match l.reverse with
  | r :: rest => (rest.reverse) ++ [(r.1, w, r.2.2)]
  | [] => []

/-- The hard decode of a Class N codeword ends (R263, R277). -/
def hardCodeword (s : State) (c : Cw) (found : Option (List Byte)) (w : Nat) : State :=
  let page := pageOf c.paddr
  let fail := fun (st : State) => recoverPage (st.setCw { c with stage := .failed, reads := weigh c.reads w }) c.owner page
  if c.first && c.bad.isNone && decide (zeroBits c.raw ≤ s.fldAt (stHard c.ch) A.eccCtl 0 10) then recoverPage (cwErased s c) c.owner page
  else
    match (if c.bad.isSome then none else found.filter (isCodeword c)) with
    | none => fail s
    | some cw =>
      if !crcOk cw then fail (s.bump A.eccMiscorCnt)
      else
        let i := s.pageInfo c.paddr c.cfg.fmt
        let s1 := match c.lad with
          | some k => s.setLastGood (pDie c.paddr) i.1 i.2.1 k
          | none => trackCw s c cw
        recoverPage (cwGood s1 c cw (corrected c.hard cw) (!c.first)) c.owner page

/-! ## Class L lines (R268, R302) -/

/-- The span of line `i` of a LOG_READ in the delivered data: (first byte of the line, offset, length). -/
def lineSpan (e : Entry) (i : Nat) : Nat × Nat × Nat :=
  let r := e.paddr % 256
  let lo := max (256 * i) r
  let hi := min (256 * i + 256) (r + e.count)
  (lo - 256 * i, lo - r, hi - lo)

/-- The beats of a LOG_READ's data that failed lines hold. -/
def failedBeats (x : Slot) : List Nat :=
  (List.range (x.entry.count / 64)).filter fun b => bit x.res0 ((x.entry.paddr % 256 + 64 * b) / 256)

/-- A LOG_READ through a ring has all its lines: its data go to the ring as one unit (R302, R369). -/
def logRing (s : State) (n : Nat) : State :=
  match s.slot n with
  | none => s
  | some x =>
    let l := readLines x.entry
    if !bit x.entry.xctl 8 || x.mute || !(l.all fun y => (assoc x.enc y.1).isSome) then s
    else
      let all := l.flatMap fun y => (assoc x.enc y.1).getD []
      let bad := failedBeats x
      pushUnit (s.updSlot n fun y => { y with enc := [] }) (x.entry.x 0 8)
        { slot := n, stream := 0, kind := 1, bytes := (all.drop (x.entry.paddr % 256)).take x.entry.count,
          psn := if x.entry.deliverPoison then bad else [], hole := if x.entry.deliverPoison then [] else bad, gen := 0, bnd := 0,
          bad := false }

/-- The bytes of line `i` of a LOG_READ join those that wait for the ring. -/
def logKeep (s : State) (n i : Nat) (l : List Byte) : State := logRing (s.updSlot n fun y => { y with enc := putBy Prod.fst (i, l) y.enc }) n

/-- A line has failed. -/
def lineFail (s : State) (c : Cw) : State :=
  let s0 := (s.delCw c.id).bump A.eccLineUncCnt
  match c.owner with
  | .ledger d seg => ledgerBack s0 d seg none
  | .cmd n =>
    let s1 := (outcome s0 n St.mediaUncorrectable).updSlot n fun y => { y with res0 := y.res0 ||| failedBit y c.idx }
    (match s1.slot n with
     | none => s1
     | some x =>
       let p := lineSpan x.entry c.idx
       if bit x.entry.xctl 8 then (logKeep s1 n c.idx (s1.freeBytes 256)).useFree 256
       else if x.entry.deliverPoison then (deliver s1 n p.2.1 (s1.freeBytes p.2.2) true).useFree 256
       else s1)
  | _ => s0

/-- What the line decoder found is a line within 16 errors whose CRC holds. -/
def lineOk (c : Cw) (l : List Byte) : Bool :=
  bchValid l && decide (diffBits c.raw l ≤ 16) && leAt l 260 4 == crc32c (l.take 260)

/-- The line that the raw bits give: no two lines of the code lie within 16 errors of the same bits, so what the decoder found
within them is what the code gives (R267). -/
def lineOf (c : Cw) (found : Option (List Byte)) : Option (List Byte) :=
  if c.bad.isSome then none
  else match found.filter (lineOk c) with
    | some l => some l
    | none => (some (bchDecode c.raw)).filter (lineOk c)

/-- The decode of a line ends (R268). -/
def hardLine (s : State) (c : Cw) (found : Option (List Byte)) : State :=
  match lineOf c found with
  | none => lineFail s c
  | some l =>
    let be := diffBits c.raw l
    let s1 := if be = 0 then s else s.bump A.eccLineFixCnt
    match c.owner with
    | .ledger d seg => ledgerBack (s1.delCw c.id) d seg (some (l.take 256))
    | .cmd n => stage (s1.updSlot n fun y => { y with maxBe := max y.maxBe be }) { c with be := be } (l.take 256)
    | _ => s1.delCw c.id

/-- HARD_DECODE_DONE. -/
def execHardDecodeDone (cw : Nat) (found : Option (List Byte)) (weight : Nat) (s : State) : Host.Outcome State Fault Refusal :=
  run true s fun s =>
    match s.cw cw with
    | none => s
    | some c =>
      if c.stage != .raw then s
      else passCw (if c.isLine then hardLine s c found else hardCodeword s c found weight) (stHard c.ch)

/-! ## Soft decoders (R21, R281) -/

/-- The rank of a codeword's owner (R21): class, then admission sequence. -/
def State.cwRank (s : State) (c : Cw) : Nat × Nat :=
  match s.cwSlot c with | some x => (x.entry.lcls, x.seq) | none => (8, 0)

/-- The codeword a free soft decoder takes next: by class, then by admission sequence (R21). DESIGN CHOICE, log entry 116: among
codewords of one command, and of the forager and calibration, which come last, the first in the list; R21 gives no order there, nor
among LC7 codewords, which follow ADMSEQ too. -/
def State.softNext (s : State) : Option Cw :=
  (s.cws.filter fun (c : Cw) => c.stage == .softWait).foldl (fun acc c => match acc with
    | none => some c
    | some b =>
      let rc := s.cwRank c
      let rb := s.cwRank b
      if decide (rc.1 < rb.1) || (rc.1 == rb.1 && decide (rc.2 < rb.2)) then some c else some b) none

/-- SOFT_DECODER_GRANT. -/
def execSoftDecoderGrant (s : State) : Host.Outcome State Fault Refusal :=
  run true s fun s =>
    if Config.softDecoders s.build ≤ (s.cws.filter fun (c : Cw) => c.stage == .softRun).length then s
    else match s.softNext with
      | none => s
      | some c => s.setCw { c with stage := .softRun }

/-- The hard read that a soft decode is counted against: the centre read. -/
def State.centreHard (s : State) (c : Cw) : List Byte :=
  match (s.recovOf c.owner (pageOf c.paddr)).bind Recov.centre with
  | none => c.hard
  | some op => match c.reads.find? fun r => r.1 == op with | some r => scramble c.seed r.2.2.1 | none => c.hard

/-- A soft decode ends. -/
def softDone (s : State) (c : Cw) (found : Option (List Byte)) : State :=
  let page := pageOf c.paddr
  let s0 := s.bump A.rlvSoftCnt
  let fail := fun (st : State) => recoverPage (st.setCw { c with stage := .failed }) c.owner page
  match (if c.bad.isSome then none else found.filter (isCodeword c)) with
  | none => fail s0
  | some cw =>
    if !crcOk cw then fail (s0.bump A.eccMiscorCnt)
    else recoverPage (cwGood (s0.bump A.rlvSoftOkCnt) c cw (corrected (s.centreHard c) cw) true) c.owner page

/-- SOFT_DECODE_DONE. -/
def execSoftDecodeDone (cw : Nat) (found : Option (List Byte)) (s : State) : Host.Outcome State Fault Refusal :=
  run true s fun s =>
    match s.cw cw with
    | none => s
    | some c => if c.stage == .softRun then passCw (softDone s c found) stSoft else s

/-! ## XTS engines (R23) -/

/-- The channels, by number, and the data mover, as 32, that wait for an engine. -/
def State.xtsWaiting (s : State) : List Nat :=
  let chans := (s.cws.filter fun (c : Cw) => c.stage == .xtsWait).map Cw.ch
  let mover := if s.slots.any fun x => !(s.encWaits x).isEmpty then [32] else []
  (chans ++ mover).foldl (fun acc c => addN c acc) []

/-- A codeword is decrypted; its key is read now (R32, R263 step 5). -/
def decrypt (s : State) (c : Cw) : State :=
  match s.cwSlot c with
  | none => s.delCw c.id
  | some x =>
    let k := x.entry.kslot
    if s.keyBad k then hit (s.delCw c.id) x.id St.internalPoison
    else match assoc s.keys k with
      | none => hit (s.delCw c.id) x.id St.keySlotEmpty
      | some key => stage s c (xtsDec key (x.entry.tweak c.idx c.paddr) (c.data.take 4096) ++ c.data.drop 4096)

/-- One engine is granted: to the next channel, or the mover, in turn (R23). DESIGN CHOICE, log entry 117: the mover's turn comes
after channel 31, and the first waiting codeword of the channel, or slot and item of the mover, takes the engine; R23 gives
neither. -/
def xtsGrant (s : State) : State :=
  let w := s.xtsWaiting
  match (match w.find? fun c => decide (s.xtsTurn < c) with | some c => some c | none => w.head?) with
  | none => s
  | some t =>
    let s1 := { s with xtsTurn := t }
    if t = 32 then
      match s.slots.find? fun x => !(s.encWaits x).isEmpty with
      | some x => (match s.encWaits x with | i :: _ => encryptItem s1 x i | [] => s1)
      | none => s1
    else match s.cws.find? fun (c : Cw) => c.stage == .xtsWait && c.ch == t with
      | some c => decrypt s1 c
      | none => s1

/-- XTS_GRANT. -/
def execXtsGrant (s : State) : Host.Outcome State Fault Refusal := run true s xtsGrant

/-! ## Staging notices (R371) -/

/-- A LOG_READ's line goes to the mover. -/
def logLine (s : State) (n : Nat) (x : Slot) (c : Cw) : State :=
  let p := lineSpan x.entry c.idx
  if bit x.entry.xctl 8 then (if c.bad.isSome then hit s n St.internalPoison else logKeep s n c.idx c.data)
  else match c.bad with
    | none => deliver s n p.2.1 ((c.data.drop p.1).take p.2.2) false
    | some b =>
      let at_ := 64 * b - p.1
      hit (if decide (p.1 ≤ 64 * b) && decide (at_ < p.2.2) then deliverBad s n p.2.1 (at_ / 64) ((c.data.drop p.1).take p.2.2)
           else deliver s n p.2.1 ((c.data.drop p.1).take p.2.2) false) n St.internalPoison

/-- The data of a codeword go to host memory, with stored poison on its beat alone (R369). -/
def mediaOut (s : State) (n : Nat) (x : Slot) (c : Cw) : State :=
  let off := destOff x c.idx
  let user := c.data.take 4096
  match c.bad with
  | none => deliverMeta (deliver s n off user false) n c.idx ((c.data.drop 4096).take 16)
  | some b => hit (deliverMeta (deliverBad s n off b user) n c.idx ((c.data.drop 4096).take 16)) n St.internalPoison

/-- A codeword complete in its staging queue goes to its consumer; one of a SCAN goes when a unit holds its row group. -/
def notice (s : State) (c : Cw) : State :=
  let out := fun (st : State) => (st.delCw c.id).bumpWrap (A.movSqCwCnt c.ch)
  match c.owner with
  | .cmd n =>
    (match s.slot n with
     | none => s.delCw c.id
     | some x =>
       if x.mute then s.delCw c.id
       else if x.entry.opc == Opc.scan then
         (if c.bad.isSome then hit (out s) n St.internalPoison
          else match takeSegment s n c.idx (pDie c.paddr) (c.data.take 4096) with
            | some t => out t
            | none => s)
       else if x.entry.opc == Opc.copy then
         (if c.bad.isSome then hit (out s) n St.internalPoison else copyTake (out s) n c.idx c.data)
       else if x.entry.opc == Opc.logRead then logLine (out s) n x c
       else mediaOut (out s) n x c)
  | _ => out s

/-- STAGING_NOTICE. -/
def execStagingNotice (cw : Nat) (s : State) : Host.Outcome State Fault Refusal :=
  run true s fun s =>
    match s.cw cw with
    | none => s
    | some c => if c.stage == .decoded then passCw (passCw (notice s c) (stQueue c.ch)) stMover else s

end Sys2Proof.Machine
end

