-- ==== Sys2Proof/Machine/Dies.lean ====
section
/-!
DEFINITION. Operations at the dies: how one is confirmed, reported ready, fails, times out or is lost (R124, R165, R190, R191,
R440), SANITIZE's erases (R435) and the freeze of a channel (R245).
-/

namespace Sys2Proof.Machine

/-! ## Contexts (R227) -/

def Chan.ctx (c : Chan) (k : Nat) : Option Ctx := getBy Ctx.id k c.ctxs

/-- A context that starts a routine at a control-store address, with all flags 0 and an empty stack. -/
def mkCtx (k pc : Nat) (op : Nat) : Ctx :=
  { id := k, pc := pc, g := List.replicate 12 0, c := [0, 0, 0, 0], sr := 0, srValid := false, zero := false, neg := false, part := false,
    wokeRb := false, stack := [], asleep := false, sidx := 0, ready := true, urgent := false, op := some op, cust := none, moved := 0,
    post := 0, got := [], badSt := 0, events := 0 }

/-- The number of the Mladob routine for an operation (log entry 4). -/
def routineOf (o : Op) (opc : Nat) : Nat :=
  match o.kind with
  | .read => 0 | .program => 1 | .erase => 2 | .lineRead => 3 | .lineWrite => 4 | .calRead => 9
  | .exclusive => if opc = 0x0A then 5 else if opc = 0x0B then 6 else 7

/-- A context leaves its channel. Where it holds CE_n low, its bus sequence has ended: CE_n is high again (R229; DEDUCED, log
entry 23). -/
def dropCtx (s : State) (ch k : Nat) : State :=
  s.updChan ch fun c =>
    { c with ctxs := delBy Ctx.id k c.ctxs, run := if c.run = some k then none else c.run,
             ceLow := if c.run = some k ∨ c.ceBy = k then none else c.ceLow }

/-- CE_n is deasserted. -/
def ceHigh (s : State) (ch : Nat) : State := s.updChan ch fun c => { c with ceLow := none }

/-- Reset LUN goes to a die, and its LUN is not used until it ends (R191): its read-level record is invalid (R275). -/
def resetLun (s : State) (d : Nat) : State :=
  forgetOffs (s.updChan (dieCh d) fun c => { c with resetDue := addN (dieCtx d) c.resetDue }) fun e => e == d

/-! ## The smoke record (R440) -/

/-- An operation that was in flight when the smoke sequence began has ended. -/
def smokeMark (s : State) (o : Op) (outcome : Nat) : State :=
  { s with smoke := { s.smoke with entries := s.smoke.entries.map fun (e : SmokeEntry) =>
      if e.op == o.id && e.outcome.isNone then { e with outcome := some outcome } else e } }

/-! ## The end of an operation -/

/-- A flush ends once nothing more arrives (R372). -/
def flushCheck (s : State) (ch : Nat) : State :=
  if (s.chan ch).flushing && !s.arriving ch then s.updChan ch fun c => { c with flushing := false } else s

/-- The mask of planes that a die reports as failed: which ones of a multi-plane operation is the die's to say (log entry 3). -/
def State.failMask (s : State) (planes : Nat) : Nat := if planes ≤ 1 then 1 else s.freeVal.toNat % (2 ^ planes - 1) + 1

/-- The next erase of a SANITIZE (R435). -/
def sanNext (s : State) (n : Nat) : State :=
  match s.slot n with
  | none => s
  | some x =>
    match x.todo with
    | [] => s
    | p :: rest =>
      if x.failed || s.smoking then s
      else placeOp (s.updSlot n fun y => { y with todo := rest })
        (mkOp (.cmd n) .erase 7 x.seq p 0 (s.planes (pDie p)) ((List.range (s.planes (pDie p))).map fun i => (i, p + i * 2 ^ 15)))

/-- Failed blocks enter log 0x10, up to 4,096 of them; all are counted. -/
def sanFail (s : State) (o : Op) (mask : Nat) : State :=
  let bad := ((List.range o.planes).filter (bit mask)).map fun i => o.paddr + i * 2 ^ 15
  ({ s with san := { s.san with log := (s.san.log ++ bad).take 4096 } }).bump A.secSanFailCnt bad.length

/-- A program or erase of a command ends at its die. -/
def writeDone (s : State) (o : Op) (fail : Bool) : State :=
  match o.slotOf.bind s.slot with
  | none => s
  | some x =>
    let n := x.id
    let s1 := smokeMark s o (if fail then 1 else 0)
    if x.entry.opc == Opc.sanitize then
      let s2 := if fail then (sanFail s1 o (s1.failMask o.planes)).useFree else s1
      sanNext { s2 with san := { s2.san with ended := s2.san.ended + o.planes } } n
    else if x.entry.opc == Opc.copy then
      (if fail then hit s1 n St.programFail
       else
         let s2 := s1.updSlot n fun y => { y with done := y.done + 1, res0 := y.done + 1 }
         if s.smoking then s2 else copyNext s2 n)
    else if fail then
      hit ((s1.updSlot n fun y => { y with res0 := s1.failMask o.planes }).useFree) n
        (if o.kind == .program then St.programFail else St.eraseFail)
    else s1

/-- The commands that wait for an erase: ERASE_SUSPENDs and the ERASE_RESUME. -/
def Op.waiters (o : Op) : List Nat := o.wantSusp.toList ++ o.wantAlso ++ o.wantRes.toList

/-- An erase has ended: a command that waited to suspend or resume it finds none executing (R127). -/
def controlFail (s : State) (o : Op) : State :=
  (s.each o.waiters fun st n => hit st n St.invalidState).updOp o.id fun y => { y with wantSusp := none, wantAlso := [], wantRes := none }

/-- A die reports its operation ready (R165, R189): its tokens are free, DRDY fires, and a program, erase or line write has
its result. -/
def opReady (s : State) (o : Op) (fail : Bool) : State :=
  let ch := dieCh o.die
  let s1 := s.updOp o.id fun y => { y with ready := true, tokens := 0, failed := fail }
  let s2 := if bit (s.fldOf (A.wglDrdyMask ch) 0 16) (dieTgt o.die) then produce s1 ch else s1
  let s3 := controlFail s2 o
  match o.kind with
  | .program => writeDone s3 o fail
  | .erase => writeDone s3 o fail
  | .lineWrite => lineDone s3 o fail
  | _ => s3

/-- An operation leaves the machine. -/
def opEnd (s : State) (o : Op) : State := flushCheck ((controlFail s ((s.op o.id).getD o)).delOp o.id) (dieCh o.die)

/-- An operation of no slot ends without its data with status `st`: a patrol page is dropped, a calibration loses its read, a
ledger record counts as lost. -/
def opLost (s : State) (o : Op) (st : Status) : State :=
  match o.owner with
  | .forager =>
    let page := pageOf o.paddr
    let s1 := s.setFg { s.fg with pages := s.fg.pages.filter fun (q : FgPage) => q.page != page }
    fgCheckEnd { s1 with cws := s1.cws.filter fun (c : Cw) => !(c.owner == Owner.forager && pageOf c.paddr == page) }
  | .cal k => calLost s k st
  | .ledger d seg => if o.kind == .lineRead then ledgerBack s d seg none else s.delOp o.id
  | _ => s

/-- An operation ends early with status `st` for its command (R190, R191, R239). -/
def opFail (s : State) (o : Op) (st : Status) : State :=
  let s1 := opEnd (dropCtx s (dieCh o.die) (dieCtx o.die)) o
  match o.owner with
  | .cmd n => hit s1 n st
  | _ => opLost s1 o st

/-- The operation whose routine runs at a die: confirmed and not suspended (R191). -/
def State.confirmedAt (s : State) (d : Nat) : Option Op :=
  s.ops.find? fun o => o.die == d && o.stage == .confirmed && !o.ready

/-- An operation of GET_FEATURE, SET_FEATURE or READ_PARAM has no confirm cycle: its limit counts from its last command cycle,
whose time `ran` holds. -/
def State.timedAt (s : State) (d : Nat) : Option Op :=
  match s.confirmedAt d with
  | some o => some o
  | none => s.ops.find? fun o => o.die == d && o.kind == .exclusive && o.stage == .dispatched && o.ran != 0 &&
      (match o.slotOf.bind s.slot with | some x => x.entry.opc != Opc.dieRaw | none => false)

/-- The limit of R191 in ns: the timing-set maximum of the operation plus DTO_EXTRA. -/
def State.dieLimit (s : State) (o : Op) : Nat :=
  let i := match o.kind with
    | .program => 21 | .erase => 22 | .lineRead => 25 | .lineWrite => 26
    | .exclusive => (match o.slotOf.bind s.slot with | some x => if x.entry.opc == Opc.readParam then 20 else 14 | none => 14)
    | _ => 20
  let t := match (s.chan (dieCh o.die)).ctx (dieCtx o.die) with | some x => x.tset | none => s.tsel (dieCh o.die)
  s.tparamIn (dieCh o.die) t i + 1000 * s.tparamIn (dieCh o.die) t 27

/-- The time an operation has run, in ns; suspended time is not counted. -/
def State.ranFor (s : State) (o : Op) : Nat := 1000 * (o.spent + (s.aclk - o.ran))

/-- DIE_TIMEOUT (R191): the limit has passed: Reset LUN, and the command ends. -/
def dieTimeout (s : State) (d : Nat) : State :=
  match (s.timedAt d).filter fun o => decide (s.dieLimit o < s.ranFor o) with
  | none => s
  | some o =>
    let s1 := smokeMark (resetLun s d) o 4
    opFail (if (s.opCmd o).isSome then s1.bump (A.chDtoCnt (dieCh d)) else s1) o St.dieTimeout

/-- DIE_TIMEOUT. -/
def execDieTimeout (die : Nat) (s : State) : Host.Outcome State Fault Refusal :=
  run (die < 2048) s fun s => dieTimeout s die

/-! ## The freeze of a channel (R244 to R246) -/

/-- The commands with operations at a channel. -/
def State.cmdsAt (s : State) (ch : Nat) : List Nat :=
  ((s.ops.filter fun (o : Op) => dieCh o.die == ch && o.stage != .done).filterMap s.opCmd).eraseDups

/-- The commands whose data wait in the channel's decode path. -/
def State.stagedAt (s : State) (ch : Nat) : List Nat :=
  ((s.cws.filter fun (c : Cw) => c.ch == ch).filterMap fun c => match c.owner with | .cmd n => some n | _ => none).eraseDups

/-- A codeword at a frozen channel is discarded. -/
def freezeCw (s : State) (c : Cw) : State :=
  let s1 := s.delCw c.id
  match c.owner with
  | .forager => s1.setFg { s1.fg with pages := s1.fg.pages.filter fun (q : FgPage) => q.page != pageOf c.paddr }
  | .ledger d seg => ledgerBack s1 d seg none
  | _ => s1

/-- An operation at a frozen channel: one whose array works keeps its tokens, any other goes. -/
def freezeOp (s : State) (o : Op) : State :=
  let s1 := smokeMark s o 5
  let s2 := if (o.stage == .confirmed || o.stage == .suspended) && !o.ready then s1.updOp o.id fun y => { y with stage := .done, expl := false, resume := false }
            else s1.delOp o.id
  if (s.opCmd o).isSome then s2 else opLost s2 o St.machineCheck

/-- A channel freezes. `info` is INFO0 of the record. -/
def freeze (s : State) (ch info : Nat) : State :=
  let cmds := s.cmdsAt ch
  let all := (cmds ++ s.stagedAt ch).eraseDups
  let here := s.ops.filter fun (o : Op) => dieCh o.die == ch && o.stage != .done
  let cws := s.cws.filter fun (c : Cw) => c.ch == ch
  let s1 := (s.setFldOf (A.chCtl ch) 5 1 0).updChan ch fun c =>
    { c with frozen := true, frozeAt := s.aclk, wp := false, ctxs := [], run := none, ceLow := none, op := none, mc := info % 2 ^ 20,
             opRes := if c.op.isSome then 1 else c.opRes, opBytes := if c.op.isSome then 0 else c.opBytes, cycles := [], resetDue := [] }
  let s2 := s1.each cws freezeCw
  let s3 := s2.each here freezeOp
  let s4 := s3.each (all ++ here.flatMap Op.waiters) fun st n => hit st n St.machineCheck
  let s5 := forgetOffs (s4.updChan ch fun c => { c with frozenTok := s4.ops.any fun (o : Op) => dieCh o.die == ch && o.tokens != 0 }) fun d => dieCh d == ch
  let s6 := flushCheck ((s5.event 1).raise 4 ch info cmds.length 0) ch
  fgCheckEnd (produce s6 55)

/-- The time for which a freeze keeps the tokens of confirmed operations, in ns (R245). -/
def State.frozenFor (s : State) (ch : Nat) : Nat := max (s.tparam ch 21) (s.tparam ch 22) + 1000 * s.tparam ch 27

/-- FROZEN_TOKEN_RELEASE (R245). -/
def execFrozenTokenRelease (ch : Nat) (s : State) : Host.Outcome State Fault Refusal :=
  run (ch < 32) s fun s =>
    if !(s.chan ch).frozenTok || decide (1000 * (s.aclk - (s.chan ch).frozeAt) < s.frozenFor ch) then s
    else ({ s with ops := s.ops.filter fun (o : Op) => !(dieCh o.die == ch && o.stage == OpStage.done) }).updChan ch fun c =>
      { c with frozenTok := false }

/-- A command that the freeze failed has not completed. -/
def State.freezeOpen (s : State) (ch : Nat) : Bool :=
  s.slots.any fun x => x.unfinished && x.conds.contains St.machineCheck && s.onChan ch x

/-- UNFREEZE: the write of SEQ_CHCTL (R248). -/
def unfreezeWrite (s : State) (ch : Nat) : State :=
  if (s.chan ch).frozen then s.updChan ch fun c => { c with unfrz := true } else s

/-- UNFREEZE_TAKES_EFFECT (R248). -/
def execUnfreezeTakesEffect (ch : Nat) (s : State) : Host.Outcome State Fault Refusal :=
  run (ch < 32) s fun s =>
    let c := s.chan ch
    if c.frozen && c.unfrz && !c.frozenTok && !s.freezeOpen ch then
      s.updChan ch fun c => { c with frozen := false, unfrz := false, cache := [], lastHit := false }
    else s

end Sys2Proof.Machine
end

