-- ==== Sys2Proof/Machine/Scheduler.lean ====
section
/-!
DEFINITION. The dispatcher (R125, R152 to R156, R163, R165 to R167), suspension and resume (R127, R161, R162) and ageing (R154).
-/

namespace Sys2Proof.Machine

def State.opSlot (s : State) (o : Op) : Option Slot := o.slotOf.bind s.slot

/-! ## Suspension (R127, R161) -/

/-- The read first in a die's queue order, where it has suspension rights. -/
def State.suspender (s : State) (d : Nat) : Option Slot :=
  match (s.queuedAt d).head? with
  | some o => if o.kind == .read then (s.opSlot o).filter Slot.suspRight else none
  | none => none

/-- The program or erase that executes at a die, confirmed and not suspended. -/
def State.victim (s : State) (d : Nat) : Option Op :=
  (s.confirmedAt d).filter fun o => o.kind == .program || o.kind == .erase

/-- The conditions of R161 for a read to suspend an operation. -/
def State.maySuspend (s : State) (o : Op) (x : Slot) : Bool :=
  o.cls == 7 && decide (o.susp < x.samp.suspMax) && decide (s.tus o.die 24 ≤ ((s.aclk - o.ran : Nat) : Rat))

/-- The stand-in for a command in a suspension that the task ERASE_SUSPEND_ALL asked for. -/
def taskSlot : Nat := Config.slotCount

/-- An ERASE_CONTROL completes: RES0 is the PADDR of the erase acted on (R127). -/
def controlDone (s : State) (n : Nat) (o : Op) : State :=
  let p := match s.opSlot o with | some y => (if y.entry.opc == Opc.erase then y.entry.paddr else o.paddr) | none => o.paddr
  s.updSlot n fun x => { x with res0 := p, done := 1 }

/-- The channel stands at a switch point: an instruction boundary at which CE_n is high (R229), with the bus usable. -/
def State.switchPoint (s : State) (ch : Nat) : Bool :=
  let c := s.chan ch
  c.ceLow.isNone && !c.frozen && c.pll && c.op.isNone && !(s.store (ch / 8)).restoring

/-- A ready segment of the channel ranks above an operation `o`: one that suspends or resumes, or one of an operation before
`o` in queue order (R229). -/
def State.outrankedAt (s : State) (ch : Nat) (o : Op) : Bool :=
  (s.chan ch).ctxs.any fun x => x.ready && (x.urgent || match x.op.bind s.op with | some e => s.queueBefore e o | none => false)

/-- An operation is suspended: its routine's segment ends, and it keeps its tokens. -/
def suspendOp (s : State) (o : Op) (expl : Bool) : State :=
  (dropCtx s (dieCh o.die) (dieCtx o.die)).updOp o.id fun y =>
    { y with stage := .suspended, susp := y.susp + 1, suspReads := 0, suspSeq := s.adms, expl := expl, wantSusp := none, wantAlso := [],
             spent := y.spent + (s.aclk - y.ran) }

/-- SUSPENSION: the executing program or erase of a die is suspended, for an ERASE_CONTROL or for the read that is first. The
suspend command is issued at a switch point; a suspension for a read ranks as that read, one for an ERASE_CONTROL above every other
segment (R229, R230). -/
def suspension (s : State) (d : Nat) : State :=
  match s.victim d with
  | none => s
  | some o =>
    if s.smoking || !s.switchPoint (dieCh d) then s
    else match o.wantSusp with
      | some n => (suspendOp s o true).each (n :: o.wantAlso) fun st k => controlDone st k o
      | none =>
        match s.suspender d, (s.queuedAt d).head? with
        | some x, some r =>
          if s.maySuspend o x && !s.outrankedAt (dieCh d) r then
            (suspendOp s o false).updSlot x.id fun y => { y with suspOth := true }
          else s
        | _, _ => s

/-- SUSPENSION. -/
def execSuspension (die : Nat) (s : State) : Host.Outcome State Fault Refusal :=
  run (die < 2048) s fun s => suspension s die

/-! ## Resume (R162) -/

/-- A read runs at a die. -/
def State.readsAt (s : State) (d : Nat) : Bool := s.ops.any fun (o : Op) => o.die == d && o.isRead && o.active

/-- A codeword that is not yet decided (R162). -/
def Cw.undecided (c : Cw) : Bool := c.stage == .raw || c.stage == .failed || c.stage == .softWait || c.stage == .softRun

/-- Every bounded read admitted at the die among the first `n` admissions has been decided. A read of LC7 cannot run before the
resume, so the rule's wait is not for it (DEDUCED, log entry 99). -/
def State.decidedBefore (s : State) (d n : Nat) : Bool :=
  let early := fun (x : Slot) => x.entry.bounded && decide (x.adm ≤ n)
  !(s.ops.any fun (o : Op) => o.die == d && o.isRead && o.stage != .done && (match s.opSlot o with | some x => early x | none => false)) &&
  !(s.cws.any fun (c : Cw) => pDie c.paddr == d && c.undecided && match s.cwSlot c with | some x => early x | none => false)

/-- A read with suspension rights is queued at a die. -/
def State.rightQueued (s : State) (d : Nat) : Bool :=
  (s.queuedAt d).any fun o => o.kind == .read && match s.opSlot o with | some x => x.suspRight | none => false

/-- The suspended operation of a die. -/
def State.suspendedAt (s : State) (d : Nat) : Option Op := s.ops.find? fun o => o.die == d && o.stage == .suspended

/-- The resume of a suspended operation is due. -/
def State.resumeDue (s : State) (o : Op) : Bool :=
  let m := s.sampOf o
  !s.readsAt o.die &&
  (o.resume || (!o.expl &&
    (if o.susp < m.suspMax then !s.rightQueued o.die || decide (m.suspReads ≤ o.suspReads) else s.decidedBefore o.die o.suspSeq)))

/-- The resume is sent: the operation runs again, in a segment that ranks first. -/
def resumeOp (s : State) (o : Op) : State :=
  let ch := dieCh o.die
  let x := { mkCtx (dieCtx o.die) (Config.romStart 8) o.id with urgent := true }
  let s1 := (s.updOp o.id fun y => { y with stage := .confirmed, ran := s.aclk, expl := false, resume := false, wantRes := none }).updChan ch fun c =>
    { c with ctxs := putBy Ctx.id x c.ctxs }
  match o.wantRes with
  | some n => controlDone s1 n o
  | none => s1

/-- SUSPENSION_RESUME. -/
def execSuspensionResume (die : Nat) (s : State) : Host.Outcome State Fault Refusal :=
  run (die < 2048) s fun s =>
    match s.suspendedAt die with
    | some o =>
      if s.resumeDue o && ((s.chan (dieCh die)).ctx (dieCtx die)).isNone && s.switchPoint (dieCh die) then resumeOp s o else s
    | none => s

/-! ## Ageing (R154) -/

/-- BULK_AGEING: an operation of LC7 has waited AGE µs in its die queue; AGE 0 never ages. Exclusive operations do not age (R155). -/
def execBulkAgeing (op : Nat) (s : State) : Host.Outcome State Fault Refusal :=
  run true s fun s =>
    match s.op op with
    | none => s
    | some o =>
      match s.opSlot o with
      | none => s
      | some x =>
        if o.stage == .queued && o.cls == 7 && o.kind != .exclusive && x.samp.age != 0 && decide (x.samp.age ≤ s.aclk - o.placed) then
          s.updOp op fun y => { y with aged := true }
        else s

/-! ## Dispatch -/

/-- Two operations touch one block. -/
def Op.sameBlock (a b : Op) : Bool :=
  a.die == b.die && pBlock a.paddr == pBlock b.paddr &&
  decide (pPlane a.paddr < pPlane b.paddr + b.planes) && decide (pPlane b.paddr < pPlane a.paddr + a.planes)

/-- The block of an erase holds page `p`. -/
def Op.covers (o : Op) (p : Nat) : Bool :=
  o.die == pDie p && pBlock o.paddr == pBlock p && decide (pPlane o.paddr ≤ pPlane p) && decide (pPlane p < pPlane o.paddr + o.planes)

/-- Work of an earlier command in the block of an erase that has no operation yet: codewords that may still take a recovery
step, and the pages of a COPY not yet placed (R125). -/
def State.blockPending (s : State) (o : Op) : Bool :=
  (s.cws.any fun (c : Cw) => c.undecided && o.covers c.paddr && match s.cwSlot c with | some y => decide (y.seq < o.seq) | none => false) ||
  s.slots.any fun (y : Slot) => y.entry.opc == Opc.copy && decide (y.seq < o.seq) && y.unfinished && y.phase != .held && !y.failed &&
    ((List.range y.entry.count).any fun i => decide (y.done ≤ i) && (o.covers (y.entry.paddr + 8 * i) || o.covers (y.entry.aux0 + 8 * i)))

/-- R125: an earlier operation of the block comes first. -/
def State.blockOrder (s : State) (o : Op) : Bool :=
  !(o.kind == .erase && s.blockPending o) &&
  !(s.ops.any fun (e : Op) => e.id != o.id && e.slotOf.isSome && decide (e.seq < o.seq) && e.stage != .done && !e.ready && e.sameBlock o &&
    (if o.kind == .erase then e.kind == .read || e.kind == .program else o.kind == .program && e.kind == .erase))

/-- An LC7 SCAN's read would bring more codewords than its channel may hold (R348). -/
def State.stageFull (s : State) (o : Op) : Bool :=
  match s.opSlot o with
  | some x => x.entry.opc == Opc.scan && !x.entry.bounded && o.kind == .read && decide (s.holdEff < s.heldCws (dieCh o.die) + o.cws.length)
  | none => false

/-- What an operation sends is ready: the image of a program or line write, the data of a customer routine (R123, R236). -/
def State.sendReady (s : State) (o : Op) : Bool :=
  match o.kind with
  | .program => !o.image.isEmpty
  | .lineWrite => !o.image.isEmpty
  | .exclusive => (match s.opSlot o with | some x => s.pulled x | none => false)
  | _ => true

/-- The command of an operation has started. The fragment tables of a READ or LOG_READ are checked before the media is touched (R14). -/
def State.started (s : State) (o : Op) : Bool :=
  match o.owner with
  | .cmd n =>
    (match s.slot n with
     | some x => x.phase == .running && (x.tblDone || !(x.entry.opc == Opc.read || x.entry.opc == Opc.logRead))
     | none => false)
  | _ => true

/-- The state of the die lets an operation run: it is free, or its operation is suspended and this is a read (R152, R162, R163). -/
def State.dieFree (s : State) (o : Op) : Bool :=
  match s.activeAt o.die with
  | [] => true
  | [v] =>
    v.stage == .suspended && o.isRead && !v.resume &&
    (v.expl || (o.bounded && (decide (v.suspReads < (s.sampOf v).suspReads) || decide ((s.sampOf v).suspMax ≤ v.susp))))
  | _ => false

/-- The die can run a queued operation now. -/
def State.canRun (s : State) (o : Op) : Bool :=
  s.started o && s.dieFree o && s.sendReady o && s.blockOrder o && !s.stageFull o &&
  ((s.chan (dieCh o.die)).ctx (dieCtx o.die)).isNone && !(s.chan (dieCh o.die)).resetDue.contains (dieCtx o.die) &&
  (o.kind != .exclusive || !((s.queuedAt o.die).any Op.bounded))

/-- A check of R141 at dispatch fails: the block or the LUN has an explicitly suspended erase. -/
def State.dispatchBad (s : State) (o : Op) : Bool :=
  o.slotOf.isSome && (match s.explErase o.die with
    | some e => (o.kind == .program && o.sameBlock e) || o.kind == .erase
    | none => false)

/-- An operation of higher rank, or a burst of one, waits for the same unreserved pool (R166). -/
def State.tokenBehind (s : State) (o : Op) : Bool :=
  s.ops.any fun (e : Op) => e.id != o.id && ((e.stage == .queued && e.waited) || e.burst) && !e.fromReserve && s.rail e.die == s.rail o.die && e.before o

/-- The offsets a read applies, with how many slots were poisoned (R274, R275, R281, R289, R385). -/
def State.readOffs (s : State) (o : Op) : List (Nat × Int) × Nat :=
  match o.owner with
  | .cal k => (match s.cal k with | some x => (s.calOffs x, 0) | none => ([], 0))
  | _ =>
    let l := match o.step with
      | .ladder k => s.ladderOffs o.paddr o.fmt k
      | .soft n =>
        (let c := (s.recovOf o.owner (pageOf o.paddr)).bind Recov.centre
         let centre := (s.pageCws o.owner (pageOf o.paddr)).findSome? fun y => (y.reads.find? fun r => some r.1 == c).map fun r => r.2.2.2
         s.softOffs o.paddr o.fmt n (centre.getD []))
      | _ => s.firstOffs o.paddr o.fmt
    s.cleanOffs o.die (s.pageInfo o.paddr o.fmt).1 l

/-- A read of Class N media computes its offsets, and the Set Features that bring them to the LUN (R275). -/
def applyRead (s : State) (o : Op) : State :=
  if o.kind == .read || o.kind == .calRead then
    let r := s.readOffs o
    let s1 := (s.updOp o.id fun y => { y with offs := r.1, feat := s.featsDue o.die r.1 }).bump A.memRlvPsnCnt r.2
    match o.step with | .ladder _ => s1.bump A.rlvStepCnt | _ => s1
  else s

/-- The context of a customer routine (R236). -/
def custCtx (k : Nat) (o : Op) (e : Entry) (l : List Byte) : Ctx :=
  let w := fun (n : Nat) => BitVec.ofNat 32 n
  { mkCtx k (12288 + custStart l) o.id with
    g := [w e.paddr, w e.count, w (e.x 6 26), w e.aux0, w (e.aux0 / 2 ^ 32), w e.aux1, w (e.aux1 / 2 ^ 32), w e.aux2, w (e.aux2 / 2 ^ 32), 0, 0, 0],
    cust := some (e.x 0 6) }

/-- The context that starts an operation. -/
def State.startCtx (s : State) (o : Op) : Ctx :=
  match s.opSlot o with
  | some x =>
    (match (if x.entry.opc == Opc.dieRaw then s.custEntry x.entry else none) with
     | some l => custCtx (dieCtx o.die) o x.entry l
     | none => mkCtx (dieCtx o.die) (Config.romStart (routineOf o x.entry.opc)) o.id)
  | none => mkCtx (dieCtx o.die) (Config.romStart (routineOf o 0)) o.id

/-- An operation is dispatched: its tokens are drawn and its routine may start. -/
def dispatchOp (s : State) (o : Op) : State :=
  let s1 := s.updOp o.id fun y => { y with stage := .dispatched, tokens := s.arrayCost o, rsv := o.fromReserve }
  let s2 := match s.suspendedAt o.die with
    | some v => s1.updOp v.id fun y => { y with suspReads := y.suspReads + 1 }
    | none => s1
  let s3 := if o.kind == .exclusive then forgetOffs s2 fun d => d / 4 == o.die / 4 && (match s.opSlot o with
      | some x => x.entry.opc == Opc.dieRaw || x.entry.opc == Opc.setFeature | none => false) else s2
  let x := s.startCtx o
  (fgMark (applyRead s3 o) o).updChan (dieCh o.die) fun c => { c with ctxs := putBy Ctx.id x c.ctxs }

/-- Walk a die's queue: the first entry the die can run is dispatched, or waits for its tokens. Reads into a suspension may be
taken past one that waits (R152). -/
def dispatchWalk (s : State) (d : Nat) : List Op → State
  | [] => s
  | o :: l =>
    if s.dispatchBad o then (match o.slotOf with | some n => hit s n St.invalidState | none => s)
    else if o.fgFirst && (s.fgChanBad d || (s.canRun o && s.fgBlockBad o.paddr)) then fgSkipOp s o
    else if s.canRun o then
      let g := s.rail d
      if s.canDraw g o.fromReserve (s.arrayCost o) && (o.fromReserve || !s.tokenBehind o) then dispatchOp s o
      else if (s.suspendedAt d).isSome then dispatchWalk (throttle s o) d l
      else throttle s o
    else if s.stageFull o && s.dieFree o && !o.stgWait then
      dispatchWalk ((s.updOp o.id fun y => { y with stgWait := true }).bump A.cmbStageWaitCnt) d l
    else dispatchWalk s d l

/-- Nothing is dispatched: HOLD (R413), an abort of the mover, a frozen channel, or a lower power state. -/
def State.dispatchHeld (s : State) (d : Nat) : Bool :=
  (s.fldOf A.wglDisp 0 1 == 1 && !s.smoking) || s.stopped || (s.chan (dieCh d)).frozen || s.power.st != .p0 || !s.init.done

/-- DISPATCH. During the smoke sequence only line writes go (R439). -/
def dispatch (s : State) (d : Nat) : State :=
  if s.dispatchHeld d then s
  else dispatchWalk s d ((s.queuedAt d).filter fun o => !s.smoking || o.kind == .lineWrite)

/-- DISPATCH. -/
def execDispatch (die : Nat) (s : State) : Host.Outcome State Fault Refusal :=
  run (die < 2048) s fun s => dispatch s die

end Sys2Proof.Machine
end

