-- ==== Sys2Proof/Machine/Sequencer.lean ====
section
/-!
DEFINITION. Channel sequencers (chapter 07): the control store and its redirects, the instruction word, one instruction, segments
and sleeps, customer routines and their faults, machine checks.
-/

namespace Sys2Proof.Machine

/-! ## The control store (R214 to R218) -/

/-- The parity bit of a 32-bit slice (R218). -/
def sliceParity (v : Nat) : Nat := parityOf 32 v

/-- Functional bits with their parity. -/
def withParity (f : BitVec 128) : BitVec 132 :=
  let v := f.toNat
  BitVec.ofNat 132 (v + ((List.range 4).foldl (fun acc k => acc + sliceParity (bits v (32 * k) 32) * 2 ^ k) 0) * 2 ^ 128)

/-- Word `a` of a group's store. -/
def State.csWord (s : State) (g a : Nat) : BitVec 132 :=
  match assoc (s.store g).words a with
  | some w => w
  | none => if a < 11264 then withParity (Config.romWord a) else 0

/-- The slices whose parity is wrong. -/
def badSlices (w : BitVec 132) : Nat :=
  (List.range 4).foldl (fun acc k => if (sliceParity (bits w.toNat (32 * k) 32) + bits w.toNat (128 + k) 1) % 2 = 1 then acc + 2 ^ k else acc) 0

/-- The redirect entry for a word of the ROM image: the lowest valid one that names it (R216). -/
def State.redirect (s : State) (g a : Nat) : Option Nat :=
  if a < 11264 then
    (List.range 32).findSome? fun i =>
      let v := (s.csWord g (11264 + i)).toNat
      if bit v 31 && bits v 0 14 == a then some (bits v 16 14) else none
  else none

/-- The address of the word that executes in place of `a`; the flag says that a redirect names no word of the patch RAM. -/
def State.fetchAddr (s : State) (g a : Nat) : Nat × Bool :=
  match s.redirect g a with
  | some t => (t, !(decide (11296 ≤ t) && decide (t < 12288)))
  | none => (a, false)

/-! ## The instruction word (R217 to R225) -/

namespace Wd
def bop (w : Nat) : Nat := bits w 124 4
def byte (w : Nat) : Nat := bits w 116 8
def as_ (w : Nat) : Nat := bits w 112 4
def reg (w : Nat) : Nat := bits w 108 4
def len (w : Nat) : Nat := bits w 98 10 + 1
def conf (w : Nat) : Bool := bit w 97
def widx (w : Nat) : Nat := bits w 89 5
def sop (w : Nat) : Nat := bits w 76 4
def cond (w : Nat) : Nat := bits w 71 5
def cinv (w : Nat) : Bool := bit w 70
def csel (w : Nat) : Nat := bits w 68 2
def tgt (w : Nat) : Nat := bits w 54 14
def sidx (w : Nat) : Nat := bits w 49 5
def aop (w : Nat) : Nat := bits w 44 4
def dst (w : Nat) : Nat := bits w 40 4
def src (w : Nat) : Nat := bits w 36 4
def imm (w : Nat) : Nat := bits w 16 20
def rop (w : Nat) : Nat := bits w 12 4
def rval (w : Nat) : Nat := bits w 4 8

/-- A reserved encoding in some field (R219 to R225); a reserved bit that is 1 counts as one (DEDUCED, log entry 40). -/
def reserved (w : Nat) : Bool :=
  decide (11 ≤ bop w) || bit w 94 || decide (4 ≤ as_ w) ||
  (bop w == 2 && ((as_ w == 3 && (decide (12 ≤ reg w) || decide (4 < len w))) || (as_ w == 2 && decide (8 < len w)) ||
    (decide (as_ w ≤ 1) && len w != 1))) ||
  !(decide (widx w ≤ 13) || widx w == 16) || decide (8 ≤ sop w) || bit w 48 ||
  (sop w == 6 && !((decide (14 ≤ sidx w) && decide (sidx w ≤ 26)) || sidx w == 28 || sidx w == 29)) ||
  decide (11 ≤ aop w) || decide (7 ≤ rop w) || bits w 0 4 != 0

/-- A use that R238 forbids a customer routine. -/
def forbidden (w : Nat) : Bool :=
  (decide (8 ≤ bop w) && decide (bop w ≤ 10)) || (bop w == 2 && as_ w == 1) || (decide (2 ≤ rop w) && decide (rop w ≤ 6))

/-- A POST whose status R240 does not allow. -/
def badPost (w : Nat) : Bool := rop w == 1 && !([0x00, 0x31, 0x32, 0x34, 0x36].contains (rval w))
end Wd

/-! ## Registers, flags and conditions (R223, R224) -/

/-- A register by its number: G0 to G11, then C0 to C3. -/
def Ctx.get (x : Ctx) (n : Nat) : Nat := if n < 12 then (x.g.getD n 0).toNat else x.c.getD (n - 12) 0
/-- Write it; a counter keeps the low 16 bits. -/
def Ctx.put (x : Ctx) (n v : Nat) : Ctx :=
  if n < 12 then { x with g := x.g.set n (BitVec.ofNat 32 v) } else { x with c := x.c.set (n - 12) (v % 65536) }

/-- The condition of a word, from the values at the instruction's start. -/
def Ctx.holds (x : Ctx) (n : Nat) : Bool :=
  if n = 0 then true
  else if n = 1 then x.srValid
  else if n = 2 then x.srValid && x.sr.getLsbD 5
  else if n = 3 then x.srValid && x.sr.getLsbD 6
  else if n = 4 then x.srValid && x.sr.getLsbD 0
  else if n = 5 then x.srValid && x.sr.getLsbD 1
  else if n = 6 then x.zero
  else if n = 7 then x.neg
  else if n ≤ 11 then x.c.getD (n - 8) 0 == 0
  else if n = 12 then x.part
  else if n = 13 then x.wokeRb
  else if n ≤ 15 then false
  else if n ≤ 22 then bit x.events (n - 16)
  else false

/-- The ALU operation: sources from `x0`, the values at the start; the result into `x` (R224, R226). -/
def aluStep (w : Nat) (x0 x : Ctx) : Ctx :=
  let a := x0.get (Wd.dst w)
  let imm := Wd.imm w
  let op := Wd.aop w
  if op = 0 then x
  else
    let r := (if op = 1 then imm
      else if op = 2 then x0.get (Wd.src w)
      else if op = 3 then a + imm
      else if op = 4 ∨ op = 7 then a + 2 ^ 32 - imm
      else if op = 5 then a &&& imm
      else if op = 6 then a ||| imm
      else if op = 8 then a >>> (imm % 32)
      else if op = 9 then a <<< (imm % 32)
      else x0.sr.toNat) % 2 ^ 32
    let y := { x with zero := r == 0, neg := bit r 31 }
    if op = 7 then y else y.put (Wd.dst w) r

/-! ## Events (R230) -/

/-- R/B_n[RB_IDX] of a die's target reads high. -/
def State.rbHigh (s : State) (d : Nat) : Bool := bit ((assoc s.pins.rb (dieCh d)).getD 0) (fld (s.dmA d) 25 2)
def State.rbMode (s : State) (d : Nat) : Bool := fld (s.dmA d) 24 1 == 1

/-- The segment of `x` ranks above that of `y` (R229): suspensions and resumes first, then the queue order of the operations. -/
def State.segBefore (s : State) (x y : Ctx) : Bool :=
  if x.urgent != y.urgent then x.urgent
  else match x.op.bind s.op, y.op.bind s.op with
    | some a, some b => s.queueBefore a b
    | some _, none => true
    | none, _ => false

/-- The highest-ranked ready context of a channel. -/
def State.bestReady (s : State) (c : Chan) : Option Ctx :=
  (c.ctxs.filter fun x => x.ready).foldl (fun acc x => match acc with
    | none => some x
    | some y => if s.segBefore x y then some x else some y) none

/-- A transfer of higher priority than `x` is ready on the channel. -/
def State.preempted (s : State) (ch : Nat) (x : Ctx) : Bool :=
  match s.bestReady (s.chan ch) with | some y => s.segBefore y x | none => false

/-- The events a context latches at the start of an instruction. -/
def State.eventsOf (s : State) (ch : Nat) (x : Ctx) : Nat :=
  let d := 64 * ch + x.id
  let o := x.op.bind s.op
  let cmd := o.bind s.opSlot
  let susp := match s.victim d with
    | some v => v.wantSusp.isSome || (match s.suspender d with | some y => s.maySuspend v y | none => false)
    | none => false
  let resume := match s.suspendedAt d with | some v => s.resumeDue v | none => false
  let abort := match cmd with | some y => y.conds.contains St.abortedByHost | none => false
  let late := match cmd with
    | some y => !s.stepInTime y (s.uStep y.samp d (s.fmtNow y.entry.fmt).pageBytes)
    | none => false
  [susp, resume, abort, s.smoking, s.rbMode d && s.rbHigh d, s.preempted ch x, late].zipIdx.foldl (fun acc b => if b.1 then acc + 2 ^ b.2 else acc) 0

/-! ## Fetch (R232) -/

/-- A taken branch or a segment start reaches an address: the branch cache has its word, or takes it. -/
def enterAt (s : State) (ch a : Nat) : State :=
  let c := s.chan ch
  match c.cache.find? fun e => e.1 == a with
  | some e =>
    (s.updChan ch fun c => { c with cache := e :: c.cache.filter (fun y => y.1 != a), lastHit := true }).bump (A.seqBcHitCnt ch)
  | none =>
    let w := s.csWord (ch / 8) (s.fetchAddr (ch / 8) a).1
    (s.updChan ch fun c => { c with cache := ((a, w) :: c.cache).take 16, lastHit := false }).bump (A.seqBcMissCnt ch)

/-- The word a context is to execute. -/
def State.wordAt (s : State) (ch : Nat) (x : Ctx) : BitVec 132 :=
  let c := s.chan ch
  match (if c.lastHit then c.cache.find? (fun e => e.1 == x.pc) else none) with
  | some e => e.2
  | none => s.csWord (ch / 8) (s.fetchAddr (ch / 8) x.pc).1

/-! ## Machine checks and customer faults -/

/-- INFO0 of a MACHINE_CHECK record (R246). -/
def mcInfo (addr slices kind ctx : Nat) (cust : Bool) : Nat :=
  addr + slices * 2 ^ 14 + kind * 2 ^ 18 + (if cust then 2 ^ 20 else 0) + ctx * 2 ^ 21

/-- The word that `x` was to execute raises a machine check. -/
def machineCheck (s : State) (ch : Nat) (x : Ctx) (slices kind : Nat) : State :=
  let a := (s.fetchAddr (ch / 8) x.pc).1
  freeze s ch (mcInfo a slices kind x.id (decide (12288 ≤ a)))

/-- A fault of a customer routine (R239): CE_n is deasserted and the routine ends. Its command ends with the Reset LUN. -/
def custFault (s : State) (ch : Nat) (x : Ctx) (reason : Nat) : State :=
  let d := 64 * ch + x.id
  let f := fun (c : Chan) => { c with cfReason := reason, cfAddr := x.pc, cfEntry := x.cust.getD 0 }
  let s1 := dropCtx ((resetLun s d).updChan ch f) ch x.id
  match x.op.bind s.op with
  | none => s1
  | some o =>
    (if reason = 5 then s1.bump (A.chDtoCnt ch) else s1).updOp o.id fun y =>
      { y with endSt := some (if reason = 5 then St.dieTimeout else St.invalidField) }

/-- A Reset LUN has reported ready, or tRST has passed (R191, R239): the LUN may be used again, and a command whose customer
routine faulted completes. -/
def resetEnd (s : State) (d : Nat) : State :=
  let s1 := s.updChan (dieCh d) fun c => { c with resetDue := delN (dieCtx d) c.resetDue }
  match s.ops.find? fun o => o.die == d && o.endSt.isSome with
  | some o => opFail s1 o (o.endSt.getD 0)
  | none => s1

/-- A customer routine meets the smoke sequence (R241): it ends at this boundary, with a Reset LUN under policy CUT. -/
def custPloss (s : State) (ch : Nat) (x : Ctx) : State :=
  let d := 64 * ch + x.id
  let s1 := dropCtx (if s.fldOf A.glbSmokeCfg 0 1 == 1 then resetLun s d else s) ch x.id
  match x.op.bind s.op with
  | none => s1
  | some o => opFail s1 o St.powerLossAborted

/-! ## The bus operation -/

/-- How a bus operation ended: the instruction goes on, waits for tokens, is a customer fault, or has ended the routine. -/
inductive BusEnd where
  | go (s : State) (x : Ctx)
  | wait (s : State)
  | fault (s : State) (reason : Nat)
  | over (s : State)

/-- A context enters its channel's list. -/
def putCtx (s : State) (ch : Nat) (x : Ctx) : State := s.updChan ch fun c => { c with ctxs := putBy Ctx.id x c.ctxs }

/-- Bits that hold the values below `n`. -/
def widthOf (n : Nat) : Nat := if n ≤ 1 then 0 else Nat.log2 (n - 1) + 1

/-- The row address of a page: LUN, block, plane and page from the top, each as wide as the die map needs (PRESUMED from ONFI 5.1,
log entry 41). A Class L line's byte address takes the place of column and row. -/
def State.rowAddr (s : State) (p : Nat) : Nat :=
  let d := pDie p
  let wp := widthOf (s.pages d)
  let wl := widthOf (s.planes d)
  let wb := widthOf (s.blocks d)
  pPage p + pPlane p * 2 ^ wp + pBlock p * 2 ^ (wp + wl) + dieLun d * 2 ^ (wp + wl + wb)

def State.caBytes (s : State) (d : Nat) : Nat := fld (s.dmB d) 12 2 + 1
def State.raBytes (s : State) (d : Nat) : Nat := fld (s.dmB d) 14 2 + 1

/-- An operation reads a die's array. -/
def Op.senses (o : Op) : Bool := o.kind == .read || o.kind == .calRead || o.kind == .lineRead

/-- The PADDR of the item whose byte moves next: before the confirm cycle the plane being sent, after it the head of the transfer
record (R192, R220). -/
def Op.itemAddr (o : Op) (x : Ctx) : Nat :=
  if o.stage == .dispatched then o.paddr + x.plane * 2 ^ 15
  else match o.cws with | y :: _ => (if o.senses then y.2 else o.paddr) | [] => o.paddr

/-- The die byte address of the next byte of a Class L operation: line n is stored at 288n (R266). -/
def Op.lineAt (o : Op) (x : Ctx) : Nat :=
  (o.itemAddr x) % 2 ^ 32 / 256 * 288 + if o.kind == .lineWrite then x.sent else x.got.length

/-- The column of the next byte of an operation's transfer record. -/
def State.columnOf (s : State) (x : Ctx) (o : Op) : Nat :=
  match o.kind with
  | .read => (s.fmtAt (dieCh o.die) o.fmt).col (pCw (o.itemAddr x)) + x.got.length
  | .program => x.sent % max 1 (o.image.length / max 1 o.planes)
  | .lineRead => o.lineAt x % 2 ^ (8 * s.caBytes o.die)
  | .lineWrite => o.lineAt x % 2 ^ (8 * s.caBytes o.die)
  | .calRead => x.moved
  | .exclusive => x.moved
  | .erase => 0

/-- The row address a context sends. -/
def State.rowOf (s : State) (ch : Nat) (x : Ctx) (o : Option Op) : Nat :=
  match o with
  | none => s.rowAddr ((64 * ch + x.id) * 2 ^ 32)
  | some o =>
    if o.kind == .lineRead || o.kind == .lineWrite then o.lineAt x / 2 ^ (8 * s.caBytes o.die)
    else if o.kind == .exclusive then s.rowAddr (match s.opSlot o with | some y => y.entry.paddr | none => o.paddr)
    else s.rowAddr (o.itemAddr x)

/-- The address of a features or parameter-page command (R133, R134): XCTL[7:0], with the LUN before it where LUNSCOPE is 1
(PRESUMED, log entry 105). That of a Set Features before a read is the one due (R275). -/
def State.featAddr (s : State) (o : Op) : List Byte :=
  match o.kind with
  | .exclusive => (match s.opSlot o with
    | some y => (if y.entry.opc != Opc.readParam && bit y.entry.xctl 8 then [BitVec.ofNat 8 (dieLun o.die)] else []) ++
        [BitVec.ofNat 8 (y.entry.x 0 8)]
    | none => [])
  | _ => (match o.feat with | f :: _ => [BitVec.ofNat 8 f.1] | [] => [])

/-- The last command of a routine takes a feature or page address. -/
def Ctx.featCmd (x : Ctx) : Bool := x.last == 0xEF || x.last == 0xEE || x.last == 0xEC

/-- The bytes of address cycles (R220). A Mladob routine takes the address of a features command from the operation. -/
def State.addrBytes (s : State) (ch : Nat) (x : Ctx) (w : Nat) : List Byte :=
  let d := 64 * ch + x.id
  let o := x.op.bind s.op
  match (if x.cust.isNone && x.featCmd then o else none) with
  | some o => s.featAddr o
  | none =>
    if Wd.as_ w = 0 then leBytes (s.raBytes d) (s.rowOf ch x o)
    else if Wd.as_ w = 1 then leBytes (s.caBytes d) (match o with | some o => s.columnOf x o | none => 0)
    else if Wd.as_ w = 2 then List.replicate (Wd.len w) (BitVec.ofNat 8 (Wd.byte w))
    else leBytes (Wd.len w) (x.get (Wd.reg w))

/-! ### The sequences of Mladob routines (R182, R183, R192) -/

/-- The address cycles that complete the last command of a Mladob routine: column and row, the row of an erase, the column of a
resumed program burst, a feature address. -/
def State.addrOf (s : State) (ch : Nat) (x : Ctx) (o : Op) : List Byte :=
  let d := 64 * ch + x.id
  let col := leBytes (s.caBytes d) (s.columnOf x o)
  let row := leBytes (s.raBytes d) (s.rowOf ch x (some o))
  if x.last = 0x00 ∨ x.last = 0x80 ∨ x.last = 0x06 then col ++ row
  else if x.last = 0x85 then col
  else if x.last = 0x60 then row
  else if x.featCmd then s.featAddr o
  else []

/-- The command cycles that may come next in a Mladob routine, each with CONF (R182, R192). `full` says that the address of the last
command is complete. The multi-plane erase has 0xD1 between planes, and Class L media take the commands of pages (PRESUMED from
ONFI 5.1, log entry 124). -/
def State.nextCmds (s : State) (x : Ctx) (o : Op) (full : Bool) : List (Nat × Bool) :=
  let more := decide (x.plane + 1 < o.planes)
  let whole := decide (o.image.length / max 1 o.planes * (x.plane + 1) ≤ x.sent)
  if o.senses then
    if o.stage == .dispatched then
      (if x.last = 0x00 then (if !full then [] else if more then [(0x32, false)] else [(0x30, true)])
       else if o.feat.isEmpty then [(0x00, false)] else [(0xEF, false)])
    else if !o.ready then []
    else if x.last = 0x06 ∧ full then [(0xE0, false)] else [(0x06, false)]
  else if o.kind == .program || o.kind == .lineWrite then
    (if o.stage != .dispatched then []
     else if x.last = 0x80 ∨ x.last = 0x85 then (if !whole then [(0x85, false)] else if more then [(0x11, false)] else [(0x10, true)])
     else [(0x80, false)])
  else if o.kind == .erase then
    (if o.stage != .dispatched then []
     else if x.last = 0x60 ∧ full then (if more then [(0xD1, false)] else [(0xD0, true)]) else [(0x60, false)])
  else match s.opSlot o with
    | none => []
    | some y =>
      if y.entry.opc == Opc.setFeature then (if x.last = 256 then [(0xEF, false)] else [])
      else if y.entry.opc == Opc.getFeature then (if x.last = 256 then [(0xEE, false)] else [])
      else if x.last = 256 then [(0xEC, false)]
      else if x.last = 0x06 ∧ full then [(0xE0, false)] else [(0x06, false)]

/-- A segment that suspends or resumes issues commands whose bytes the spec does not give; cache program and copyback are not among
them (R183; their ONFI 5.1 bytes are PRESUMED, log entry 124). -/
def suspBytes (b : Nat) : Bool := b != 0x15 && b != 0x35

/-- The word's bus operation keeps R182, R183, R188 and R192. The ROM image is not printed, so a step whose word would break them is
not one of this machine (DEDUCED, log entry 106); R238 lets a customer routine issue any byte. -/
def State.mayIssue (s : State) (ch : Nat) (x : Ctx) (w : Nat) : Bool :=
  let onBus := s.volOk ch (x.id / 4) && (s.chan ch).ceLow == some (s.ceLine ch (x.id / 4))
  if x.cust.isSome || Wd.bop w = 0 || 6 ≤ Wd.bop w then true
  else if Wd.bop w = 5 then onBus
  else match x.op.bind s.op with
    | none => false
    | some o =>
      onBus &&
      (if Wd.bop w = 1 then (x.urgent && suspBytes (Wd.byte w)) || (s.nextCmds x o (x.addr == s.addrOf ch x o)).contains (Wd.byte w, Wd.conf w)
       else if Wd.bop w = 2 then x.urgent || (x.addr ++ s.addrBytes ch x w).isPrefixOf (s.addrOf ch x o)
       else if Wd.bop w = 3 then x.burst && (x.last == 0xE0 || x.last == 0xEE || x.last == 0xEC)
       else x.burst && (x.last == 0x80 || x.last == 0x85 || x.last == 0xEF))

/-! ### Bursts -/

/-- Bytes of decode staging in use at a channel: its codewords and lines, and what its transfer records have received (R24, R28). -/
def State.stagedBytes (s : State) (ch : Nat) : Nat :=
  ((s.cws.filter fun (c : Cw) => c.ch == ch).foldl (fun n c => n + c.cfg.len) 0) + (s.chan ch).ctxs.foldl (fun n x => n + x.got.length) 0

/-- A channel's decode staging: 384 KiB (R28). -/
def stagingBytes : Nat := 393216

/-- Decode staging has space for a burst of `n` bytes of an operation (R16, R24). A recovery read brings codewords that are there. -/
def State.stageRoom (s : State) (ch : Nat) (o : Op) (n : Nat) : Bool :=
  !(o.kind == .read || o.kind == .lineRead) || o.step != .first || decide (s.stagedBytes ch + n ≤ stagingBytes)

/-- A burst for an operation needs its transfer cost, and no waiter for the unreserved pool ranks above it (R165, R166). -/
def State.burstOk (s : State) (o : Op) : Bool :=
  let g := s.rail o.die
  o.kind == .exclusive || (s.canDraw g o.fromReserve (s.railCost g 3) && (o.fromReserve || !s.tokenBehind o))

/-- The burst waits for its tokens. -/
def burstWait (s : State) (o : Op) : State := throttle (s.updOp o.id fun y => { y with burst := true }) o

/-- The bytes a burst of `n` moves when a transfer became ready after `k` of them: all, or as far as the next 64-B boundary of the
record, where that transfer has the higher priority (R156, R229). `at_` is the record's position. -/
def State.burstLen (s : State) (ch : Nat) (x : Ctx) (at_ n k : Nat) : Nat :=
  if k < n && s.preempted ch x then min n ((at_ + k + 63) / 64 * 64 - at_) else n

/-- PART, C3 and the burst after `m` of `n` bytes (R229). -/
def Ctx.moves (x : Ctx) (m n : Nat) : Ctx :=
  { x with part := decide (m < n), c := if m < n then x.c.set 3 (n - m) else x.c, burst := x.burst && !decide (m < n) }

/-- The routine's record after a command byte. -/
def Ctx.afterCmd (x : Ctx) (b : Nat) : Ctx :=
  { x with last := b, addr := [], burst := b == 0xE0, plane := if b = 0x32 ∨ b = 0x11 ∨ b = 0xD1 then x.plane + 1 else x.plane }

/-- A CMD cycle; the confirm cycle of a Mladob routine starts the array (R19, R226). An operation without one is timed from its last
command cycle (R191). A target on a ready/busy input goes busy. -/
def busCmd (s : State) (ch : Nat) (x : Ctx) (w : Nat) : BusEnd :=
  let s1 := cycles s ch [(1, BitVec.ofNat 8 (Wd.byte w))]
  let x1 := x.afterCmd (Wd.byte w)
  match (if x.cust.isNone then x.op.bind s1.op else none) with
  | none => .go s1 x1
  | some o =>
    if o.kind == .exclusive then .go (s1.updOp o.id fun y => { y with ran := max 1 s.aclk }) x1
    else if !Wd.conf w || o.stage != .dispatched then .go s1 x1
    else
      let s2 := s1.updOp o.id fun y => { y with stage := .confirmed, ran := s.aclk, image := if y.kind == .lineWrite then y.image else [] }
      let mask := (assoc s.pins.rb ch).getD 0
      let b := fld (s.dmA o.die) 25 2
      .go (if s.rbMode o.die && bit mask b then { s2 with pins := { s2.pins with rb := putBy Prod.fst (ch, mask - 2 ^ b) s2.pins.rb } } else s2) x1

/-- ADDR cycles. Once they complete the address of a program, a resumed program burst or a features command, its data may move. -/
def busAddr (s : State) (ch : Nat) (x : Ctx) (w : Nat) : BusEnd :=
  let l := s.addrBytes ch x w
  let x1 := { x with addr := x.addr ++ l }
  let full := match (if x.cust.isNone then x.op.bind s.op else none) with | some o => x1.addr == s.addrOf ch x1 o | none => false
  .go (cycles s ch (l.map fun b => (2, b))) { x1 with burst := x.burst || (full && (x.last == 0x80 || x.last == 0x85 || x.featCmd)) }

/-- Whole codewords or lines leave a transfer record: `n` bytes each. -/
def takeItems : Nat → State → Ctx → Nat → State × Ctx
  | 0, s, x, _ => (s, x)
  | f + 1, s, x, n =>
    match x.op.bind s.op with
    | none => (s, x)
    | some o =>
      match o.cws with
      | [] => (s, { x with got := [] })
      | y :: rest =>
        if x.got.length < n then (s, x)
        else
          let s1 := s.updOp o.id fun z => { z with cws := rest }
          takeItems f (arrive s1 o y.1 y.2 (x.got.take n)) { x with got := x.got.drop n } n

/-- The bytes of an exclusive operation of a Mladob routine: parameter bytes or a parameter page (R133, R134). -/
def takeRaw (s : State) (x : Ctx) (y : Slot) (data : List Byte) : State :=
  if y.entry.opc == Opc.getFeature then
    s.updSlot y.id fun z => { z with res0 := leNat ((x.got ++ data).take 4) }
  else if y.entry.opc == Opc.readParam then deliver s y.id x.moved (data.take (y.entry.count - x.moved)) false
  else s

/-- The bytes of a customer DIN are written to the host in 64-B lines, from HADDR upward (R237). -/
def custLines (s : State) (n : Nat) (x : Ctx) (l : List Byte) : State × Ctx :=
  let all := x.got ++ l
  let k := all.length / 64 * 64
  (deliver s n (x.moved - x.got.length) (all.take k) false, { x with got := all.drop k, moved := x.moved + l.length })

/-- DIN (R219, R229, R237). `data` is what the die returned before a higher-priority transfer became ready, if one did. -/
def busDin (s : State) (ch : Nat) (x : Ctx) (w : Nat) (data : List Byte) : BusEnd :=
  let n := Wd.len w
  match x.op.bind s.op with
  | none => .go s x
  | some o =>
    if !s.burstOk o then .wait (burstWait s o)
    else if !s.stageRoom ch o n then .wait s
    else
      let s0 := s.updOp o.id fun y => { y with burst := false }
      match x.cust with
      | some _ =>
        let l := s.fitBytes n data
        let s1 := s0.useFree (n - data.length)
        (match s1.opSlot o with
         | none => .go s1 x
         | some y =>
           let lim := match s1.custEntry y.entry with | some e => custXlen e | none => 0
           if lim < x.moved + x.sent + n then .fault s1 3
           else
             let r := custLines s1 y.id x l
             .go r.1 r.2)
      | none =>
        let m := s.burstLen ch x x.moved n data.length
        let l := s.fitBytes m data
        let s1 := s0.useFree (m - data.length)
        let x1 := { x.moves m n with got := x.got ++ l, moved := x.moved + m }
        match o.kind with
        | .read =>
          let r := takeItems (x1.got.length / 288 + 1) s1 x1 (s.fmtAt ch o.fmt).len
          .go (flushCheck r.1 ch) r.2
        | .lineRead =>
          let r := takeItems (x1.got.length / 288 + 1) s1 x1 288
          .go (flushCheck r.1 ch) r.2
        | .calRead =>
          if x1.moved < 4096 || 4096 ≤ x.moved then .go s1 x1
          else (match o.owner with
            | .cal k => .go (calData s1 k (x1.got.take 4096)) { x1 with got := [] }
            | _ => .go s1 x1)
        | .exclusive =>
          (match s1.opSlot o with
           | some y => .go (takeRaw s1 x y l) { x1 with got := x1.got.take 64 }
           | none => .go s1 x1)
        | _ => .go s1 x1

/-- The bytes a Mladob routine sends for its operation. -/
def State.sendBytes (s : State) (o : Op) : List Byte :=
  match o.kind with
  | .exclusive => (match s.opSlot o with | some y => leBytes 4 y.entry.aux0 | none => [])
  | _ => o.image

/-- The LUN takes the offsets of a Set Features whose bytes have been sent (R275). -/
def featSent (s : State) (o : Op) : State :=
  match o.feat with
  | [] => s
  | f :: rest => applyOffs (s.updOp o.id fun y => { y with feat := rest }) o.die (o.offs.filter fun v => s.slotFa o.die v.1 == f.1)

/-- DOUT (R219, R229, R237). `stop` is how far the burst was when a higher-priority transfer became ready, if one did. Stored poison
in program staging ends the transfer before its confirm cycle (R369). -/
def busDout (s : State) (ch : Nat) (x : Ctx) (w : Nat) (stop : Option Nat) : BusEnd :=
  let n := Wd.len w
  match x.op.bind s.op with
  | none => .go s x
  | some o =>
    if !s.burstOk o then .wait (burstWait s o)
    else
      let s0 := s.updOp o.id fun y => { y with burst := false }
      match x.cust with
      | some _ =>
        (match s.opSlot o with
         | none => .go s0 x
         | some y =>
           let lim := match s.custEntry y.entry with | some e => custXlen e | none => 0
           if lim < x.moved + x.sent + n then .fault s0 3
           else .go (s0.updChan ch fun c => { c with opened := ((y.hostData lim).drop x.sent).take n }) { x with sent := x.sent + n })
      | none =>
        if o.bad then
          let s1 := opEnd (dropCtx s0 ch x.id) o
          .over (match o.owner with | .cmd k => hit s1 k St.internalPoison | _ => opLost s1 o St.internalPoison)
        else if o.senses then
          .go (featSent (s0.updChan ch fun c => { c with opened := ((o.feat.head?.map Prod.snd).getD []).take n }) o) { x.moves n n with burst := false }
        else
          let m := s.burstLen ch x x.sent n (stop.getD n)
          .go (s0.updChan ch fun c => { c with opened := ((s.sendBytes o).drop x.sent).take m }) { x.moves m n with sent := x.sent + m }

/-- STATUS (R190): a valid status that shows ARDY reports the die ready; the third invalid one in a row ends the operation. -/
def busStatus (s : State) (ch : Nat) (x : Ctx) (first second : Byte) (dqs : Bool) : BusEnd :=
  let d := 64 * ch + x.id
  let valid := dqs && first == second
  let s1 := cycles s ch ((1, 0x78) :: (leBytes (s.raBytes d) (s.rowOf ch x (x.op.bind s.op))).map fun b => (2, b))
  let quiet := match x.op.bind s.op with | some o => o.kind != .exclusive | none => true
  let x1 := { x with sr := first, srValid := valid, badSt := if valid then 0 else x.badSt + 1, burst := x.burst && !quiet }
  match (if x.cust.isNone then x.op.bind s.op else none) with
  | none => .go s1 x1
  | some o =>
    if valid then
      (if first.getLsbD 5 && o.stage == .confirmed && !o.ready then .go (opReady s1 o (first.getLsbD 0)) x1 else .go s1 x1)
    else if 3 ≤ x1.badSt then
      .over (opFail (if (s.opCmd o).isSome then s1.bump (A.chDnrCnt ch) else s1) o St.dieNotResponding)
    else .go s1 x1

/-- CELOW (R188, R238): for a customer routine the block selects the volume first where that is needed. -/
def busCelow (s : State) (ch : Nat) (x : Ctx) : BusEnd :=
  let t := x.id / 4
  let s1 := if x.cust.isSome then selectVolume s ch t else s
  .go (s1.updChan ch fun c => { c with ceLow := some (s.ceLine ch t), cycles := if x.cust.isSome then c.cycles.drop (s.chan ch).cycles.length else [],
                                       ceK := 0, ceAt := s.aclk, ceBy := x.id }) x

/-- WPSET (R202). -/
def busWpset (s : State) (ch : Nat) (x : Ctx) : BusEnd :=
  .go (if s.wpRel ch then s.updChan ch fun c => { c with wp := true }
       else if s.writesBefore ch ((s.chan ch).wpFall.getD s.admSeq) then s
       else s.updChan ch fun c => { c with wp := false }) x

/-! ## Sleeping and waking (R228) -/

/-- A sleeping context wakes. -/
def wakeCtx (rb : Bool) (x : Ctx) : Ctx := if x.asleep then { x with asleep := false, ready := true, wokeRb := rb } else x

/-- A cause other than time that wakes a context: its ready/busy input is high, a resume is due at its LUN, or PLOSS is latched. -/
def State.wakeDue (s : State) (ch : Nat) (x : Ctx) : Bool :=
  let d := 64 * ch + x.id
  (s.rbMode d && s.rbHigh d) || s.smoking || (match s.suspendedAt d with | some v => s.resumeDue v | none => false)

/-- The count of parameter SIDX has passed since the end of the SLEEP. -/
def State.sleepOver (s : State) (ch : Nat) (x : Ctx) : Bool := decide (s.tparamIn ch x.tset x.sidx ≤ 1000 * (s.aclk - x.sleptAt))

/-! ## One instruction (R226) -/

/-- The routine of a context ends: its operation with it (R240). -/
def routineEnd (s : State) (ch : Nat) (x : Ctx) : State :=
  let s1 := dropCtx s ch x.id
  match x.op.bind s1.op with
  | none => s1
  | some o =>
    if o.kind == .exclusive then
      let s2 := opEnd s1 o
      match o.slotOf with
      | none => s2
      | some n =>
        let s2 := if x.cust.isSome then deliver s2 n (x.moved - x.got.length) x.got false else s2
        let s3 := s2.updSlot n fun y =>
          { y with done := 1, res0 := if x.cust.isSome then (x.g.getD 9 0).toNat + (x.g.getD 10 0).toNat * 2 ^ 32 else y.res0 }
        let s4 := if x.cust.isSome then resetOffsAfter s3 o.die else s3
        if x.post != 0 && itemOf x.post == 6 then hit s4 n x.post else s4
    else
      let s2 := if o.stage == .confirmed && !o.ready then opReady s1 o false else s1
      match s2.op o.id with
      | some o2 => opEnd s2 o2
      | none => s2
where
  /-- After a DIE_RAW the target's read-level records hold nothing (R275). -/
  resetOffsAfter (s : State) (d : Nat) : State := forgetOffs s fun e => e / 4 == d / 4

/-- The address space of a routine: customer routines stay in the customer region (R238). -/
def Ctx.reaches (x : Ctx) (a : Nat) : Bool := x.cust.isNone || (decide (12288 ≤ a) && decide (a < 16384))

/-- Continue at an address; `taken` marks a taken branch (R232). -/
def continueAt (s : State) (ch : Nat) (x : Ctx) (a : Nat) (taken : Bool) : State :=
  if !x.reaches a then custFault (putCtx s ch x) ch x 1
  else
    let s1 := putCtx s ch { x with pc := a % 16384 }
    if taken then enterAt s1 ch a else s1.updChan ch fun c => { c with lastHit := false }

/-- The sequence operation (R222). `x0` holds the values at the instruction's start. -/
def seqOp (s : State) (ch : Nat) (x0 x : Ctx) (w : Nat) : State :=
  let t := Wd.tgt w
  let next := x.pc + 1
  let yes := x0.holds (Wd.cond w) != Wd.cinv w
  let stackFault := fun (_ : Unit) => if x.cust.isSome then custFault (putCtx s ch x) ch x 6 else machineCheck s ch x 0 2
  match Wd.sop w with
  | 0 => continueAt s ch x next false
  | 1 => continueAt s ch x t true
  | 2 => if yes then continueAt s ch x t true else continueAt s ch x next false
  | 3 => if 4 ≤ x.stack.length then stackFault () else continueAt s ch { x with stack := next :: x.stack } t true
  | 4 => (match x.stack with
     | a :: rest => continueAt s ch { x with stack := rest } a true
     | [] => stackFault ())
  | 5 =>
    let k := 12 + Wd.csel w
    let v := (x.get k + 65535) % 65536
    let y := x.put k v
    if v != 0 then continueAt s ch y t true else continueAt s ch y next false
  | 6 =>
    if !yes then continueAt s ch x next false
    else if !x.reaches t then custFault (putCtx s ch x) ch x 1
    else
      let y := { x with pc := t, asleep := true, sidx := Wd.sidx w, wokeRb := false, urgent := false, sleptAt := s.aclk }
      let rb := s.rbMode (64 * ch + x.id) && s.rbHigh (64 * ch + x.id)
      (putCtx s ch (if s.wakeDue ch y then wakeCtx rb y else y)).updChan ch fun c => { c with run := none }
  | _ => routineEnd (putCtx s ch x) ch x

/-- The report field (R225). POST sets the routine's status. A report 2 to 6 of a Mladob routine is noted at its operation, and
report 3 gives the outcome that SR shows. The rest of the accounting hangs on the events the reports tell of (DESIGN CHOICE, log
entry 107). -/
def report (s : State) (w : Nat) (x : Ctx) : State × Ctx :=
  if Wd.rop w = 1 then (s, { x with post := Wd.rval w })
  else if Wd.rop w = 0 then (s, x)
  else match x.op.bind s.op with
    | none => (s, x)
    | some o =>
      let s1 := s.updOp o.id fun y => { y with reports := y.reports ++ [Wd.rop w] }
      (if Wd.rop w = 3 && o.stage == .confirmed && !o.ready && x.srValid && x.sr.getLsbD 5 then opReady s1 o (x.sr.getLsbD 0) else s1, x)

/-! ### Length (R219, R221, R233) -/

/-- The bus time of a word in KCLK cycles, under the timing set the routine was entered with. -/
def State.busK (s : State) (ch : Nat) (x : Ctx) (w : Nat) : Nat :=
  let k := s.kcount ch x.tset
  let edge := fun (b i : Nat) => if bit w b then k i else 0
  match Wd.bop w with
  | 1 => k 1
  | 2 => (s.addrBytes ch x w).length * k 1
  | 3 => edge 96 10 + s.kxfer ch x.tset (Wd.len w) + edge 95 11
  | 4 => edge 96 12 + s.kxfer ch x.tset (Wd.len w) + edge 95 13
  | 5 => (s.raBytes (64 * ch + x.id) + 1) * k 1 + k 5 + k 10 + s.kxfer ch x.tset 2 + k 11
  | 6 => k 2
  | 7 => k 3
  | 8 => k 16
  | 9 => 2 * k 1
  | _ => 0

/-- The larger of 1 and the bus time, and the wait: the length of an instruction without its fetch wait. -/
def State.instrK (s : State) (ch : Nat) (x : Ctx) (w : Nat) : Nat :=
  max 1 (s.busK ch x w) + s.kcount ch x.tset (Wd.widx w) + bits w 80 9

/-- CE_n has been low for that much longer. -/
def ceTime (s : State) (ch k : Nat) : State := s.updChan ch fun c => if c.ceLow.isSome then { c with ceK := c.ceK + k } else c

/-- The instruction of a channel whose word has bus operation `bop`: the word is checked (R239, R244), then executes. -/
def seqStep (s : State) (ch bop : Nat) (bus : State → Ctx → Nat → BusEnd) : State :=
  let c := s.chan ch
  match c.run.bind c.ctx with
  | none => s
  | some x =>
    if c.frozen || !c.pll || (c.op.isSome && c.ceLow.isNone) || (s.store (ch / 8)).restoring then s
    else if x.cust.isSome && s.smoking then custPloss s ch x
    else
      let word := s.wordAt ch x
      let w := word.toNat
      let slices := badSlices word
      if slices != 0 then machineCheck s ch x slices (if c.lastHit then 1 else 0)
      else if x.cust.isNone && ((s.fetchAddr (ch / 8) x.pc).2 || Wd.reserved w) then machineCheck s ch x 0 2
      else if x.cust.isSome && (Wd.reserved w || Wd.forbidden w) then custFault s ch x 2
      else if x.cust.isSome && Wd.badPost w then custFault s ch x 7
      else if Wd.bop w != bop || !s.mayIssue ch x w then s
      else
        let x0 := { x with events := s.eventsOf ch x }
        match bus s x0 w with
        | .wait t => t
        | .fault t r => passInstr (custFault t ch x0 r) ch
        | .over t => passInstr t ch
        | .go t x1 =>
          let r := report (ceTime t ch (s.instrK ch x w)) w x1
          -- an effect of the bus operation may have ended the routine
          passInstr (if ((r.1.chan ch).run.bind (r.1.chan ch).ctx).isNone then r.1 else seqOp r.1 ch x0 (aluStep w x0 r.2) w) ch

/-- BUS_NONE. -/
def execBusNone (ch : Nat) (s : State) : Host.Outcome State Fault Refusal :=
  run (ch < 32) s fun s => seqStep s ch 0 fun st x _ => .go st x

/-- BUS_CMD. -/
def execBusCmd (ch : Nat) (s : State) : Host.Outcome State Fault Refusal :=
  run (ch < 32) s fun s => seqStep s ch 1 fun st x w => busCmd st ch x w

/-- BUS_ADDR. -/
def execBusAddr (ch : Nat) (s : State) : Host.Outcome State Fault Refusal :=
  run (ch < 32) s fun s => seqStep s ch 2 fun st x w => busAddr st ch x w

/-- BUS_DIN. -/
def execBusDin (ch : Nat) (data : List Byte) (s : State) : Host.Outcome State Fault Refusal :=
  run (ch < 32) s fun s => seqStep s ch 3 fun st x w => busDin st ch x w data

/-- BUS_DOUT. -/
def execBusDout (ch : Nat) (stop : Option Nat) (s : State) : Host.Outcome State Fault Refusal :=
  run (ch < 32) s fun s => seqStep s ch 4 fun st x w => busDout st ch x w stop

/-- BUS_STATUS. -/
def execBusStatus (ch : Nat) (first second : Byte) (dqs : Bool) (s : State) : Host.Outcome State Fault Refusal :=
  run (ch < 32) s fun s => seqStep s ch 5 fun st x _ => busStatus st ch x first second dqs

/-- BUS_CELOW. -/
def execBusCelow (ch : Nat) (s : State) : Host.Outcome State Fault Refusal :=
  run (ch < 32) s fun s => seqStep s ch 6 fun st x _ => busCelow st ch x

/-- BUS_CEHIGH. -/
def execBusCehigh (ch : Nat) (s : State) : Host.Outcome State Fault Refusal :=
  run (ch < 32) s fun s => seqStep s ch 7 fun st x _ => .go (ceHigh st ch) x

/-- BUS_WPSET. -/
def execBusWpset (ch : Nat) (s : State) : Host.Outcome State Fault Refusal :=
  run (ch < 32) s fun s => seqStep s ch 8 fun st x _ => busWpset st ch x

/-- BUS_VSEL. -/
def execBusVsel (ch : Nat) (s : State) : Host.Outcome State Fault Refusal :=
  run (ch < 32) s fun s => seqStep s ch 9 fun st x _ => .go (selectVolume st ch (x.id / 4)) x

/-- BUS_PHYOP: a step of impedance, DCC or DQ training. What it does to the PHY the spec gives with the channel operation whose routine
holds it (R206, R211), and the commands of those operations have that effect (log entry 108). -/
def execBusPhyop (ch : Nat) (s : State) : Host.Outcome State Fault Refusal :=
  run (ch < 32) s fun s => seqStep s ch 10 fun st x _ => .go st x

/-! ## Segments (R228, R229) -/

/-- SEGMENT_START: at a switch point the highest-ranked ready segment starts; a running one is saved. A routine that is entered samples
the timing-set selection (R33). -/
def segmentStart (s : State) (ch : Nat) : State :=
  let c := s.chan ch
  if c.frozen || !c.pll || c.ceLow.isSome || c.op.isSome || s.power.st != .p0 || (s.store (ch / 8)).restoring then s
  else match s.bestReady c with
    | none => s
    | some x =>
      let y := if x.fresh then { x with fresh := false, tset := s.tsel ch, start := s.aclk } else x
      let start := fun (t : State) =>
        enterAt ((putCtx t ch { y with ready := false, asleep := false }).updChan ch fun c => { c with run := some x.id }) ch x.pc
      match c.run.bind c.ctx with
      | none => start s
      | some z => if s.segBefore x z then start (putCtx s ch { z with ready := true }) else s

/-- SEGMENT_START. -/
def execSegmentStart (ch : Nat) (s : State) : Host.Outcome State Fault Refusal :=
  run (ch < 32) s fun s => segmentStart s ch

/-- CONTEXT_WAKE: a sleeping context wakes once its SIDX wait has passed or another cause of R228 holds. A LUN that waits for its
Reset LUN has no context: for it the event is the end of that wait (DEDUCED, log entry 109). -/
def execContextWake (ch ctx : Nat) (s : State) : Host.Outcome State Fault Refusal :=
  run (ch < 32 && ctx < 64) s fun s =>
    if (s.chan ch).resetDue.contains ctx then resetEnd s (64 * ch + ctx)
    else
      let due := fun (x : Ctx) => x.id == ctx && (s.sleepOver ch x || s.wakeDue ch x)
      s.updChan ch fun c => { c with ctxs := updBy due (wakeCtx false) c.ctxs }

/-- RB_N_HIGH: the sleeping contexts of the input's targets wake (R189). -/
def execRbNHigh (ch input : Nat) (s : State) : Host.Outcome State Fault Refusal :=
  run (ch < 32 && input < 4) s fun s =>
    let mask := (assoc s.pins.rb ch).getD 0
    let s1 := { s with pins := { s.pins with rb := putBy Prod.fst (ch, mask ||| 2 ^ input) s.pins.rb } }
    let mine := fun (x : Ctx) => s.rbMode (64 * ch + x.id) && fld (s.dmA (64 * ch + x.id)) 25 2 == input
    s1.updChan ch fun c => { c with ctxs := updBy mine (wakeCtx true) c.ctxs }

/-! ## Limits of customer routines, machine checks, and the control store -/

/-- CE_n of a channel has been low for more than 4,096 KCLK: by the bus times and waits of the instructions since it fell, the one that
runs included, or by the clock, where an instruction waits for its tokens. -/
def State.ceTooLong (s : State) (ch : Nat) (x : Ctx) : Bool :=
  let c := s.chan ch
  let now := if c.run = some x.id then s.instrK ch x (s.wordAt ch x).toNat else 0
  c.ceLow.isSome && (decide (4096 < c.ceK + now) || decide (4096 < (s.aclk - c.ceAt) * s.fldOf A.admClks 0 12))

/-- CE_LOW_LIMIT: a customer routine has held CE_n low for more than 4,096 KCLK. -/
def execCeLowLimit (ch : Nat) (s : State) : Host.Outcome State Fault Refusal :=
  run (ch < 32) s fun s =>
    match (s.chan ch).ctx (s.chan ch).ceBy with
    | some x => if x.cust.isSome && s.ceTooLong ch x then custFault s ch x 4 else s
    | none => s

/-- DIE_RAW_RUN_LIMIT: a customer routine has run longer than SEQ_DR_LIMIT, sleeps included. -/
def execDieRawRunLimit (die : Nat) (s : State) : Host.Outcome State Fault Refusal :=
  run (die < 2048) s fun s =>
    match (s.chan (dieCh die)).ctx (dieCtx die) with
    | some x => if x.cust.isSome && !x.fresh && decide (s.fldAt (dieCh die) (A.seqDrLimit (dieCh die / 8)) 0 20 < s.aclk - x.start) then custFault s (dieCh die) x 5 else s
    | none => s

/-- MACHINE_CHECK: the word about to execute is bad; no slice named means a sequencing fault. -/
def execMachineCheck (ch slices : Nat) (fromCache : Bool) (s : State) : Host.Outcome State Fault Refusal :=
  run (ch < 32 && slices < 16) s fun s =>
    let c := s.chan ch
    match c.run.bind c.ctx with
    | some x => if c.frozen then s else machineCheck s ch x slices (if slices = 0 then 2 else if fromCache then 1 else 0)
    | none => s

/-- The channels of a group. -/
def groupChans (g : Nat) : List Nat := (List.range 8).map fun i => 8 * g + i

/-- The branch caches of a group are invalidated (R232). -/
def clearCaches (s : State) (g : Nat) : State :=
  s.each (groupChans g) fun st ch => st.updChan ch fun c => { c with cache := [], lastHit := false }

/-- RESTORE: the ROM image is rewritten; the group's fetches wait until it ends (R248). -/
def restoreRom (s : State) (g : Nat) : State :=
  if g < Config.groups s.build then
    clearCaches (s.setStore g { s.store g with words := (s.store g).words.filter (fun e => decide (11264 ≤ e.1)), restoring := true }) g
  else s

/-- RESTORE_DONE. -/
def execRestoreDone (group : Nat) (s : State) : Host.Outcome State Fault Refusal :=
  run (group < 4) s fun s => s.setStore group { s.store group with restoring := false }

end Sys2Proof.Machine
end

