-- ==== Sys2Proof/Machine/Commands.lean ====
section
/-!
DEFINITION. The opcodes: how an admitted command starts, what it does with the host data or the list it has read, ABORT (R130,
R131) and the admin commands (R96, R97, R137, R168, R242, R294, R333, R431, R435).
-/

namespace Sys2Proof.Machine

/-! ## Starting -/

/-- A byte of command slot `n` holds stored poison: whoever reads the slot ends its command (R386). -/
def State.slotPoisoned (s : State) (n : Nat) : Bool := s.poisoned 2 0 (64 * n) 64

/-- The command admitted in slot `n` starts, where it has opcode `opc` and its entry satisfies `p`: it runs, and `f` acts. -/
def startCmd (s : State) (n opc : Nat) (p : Entry → Bool) (f : State → Slot → State) : State :=
  match s.slot n with
  | none => s
  | some x =>
    if x.phase != Phase.admitted || x.entry.opc != opc || !p x.entry || x.failed || s.smoking || s.stopped || s.power.st == .p2 then s
    else if s.slotPoisoned n then hit s n St.internalPoison
    else
      let y := { x with phase := .running }
      f (s.setSlot y) y

/-- The host data or list of a command are read: at once, or once its fragment table is known. -/
def startPull (s : State) (n : Nat) (spans : List (Nat × Nat)) : State :=
  let s1 := hostStart s n spans
  match s1.slot n with
  | some x => if x.entry.indirect then s1 else pullData s1 n
  | none => s1

/-- The one span of a command that is not INDIRECT. -/
def State.ownSpan (s : State) (x : Slot) : List (Nat × Nat) := [(x.entry.haddr, s.xferLen x)]

/-- READ (R118). -/
def execRead (slot : Nat) (s : State) : Host.Outcome State Fault Refusal :=
  run (slot < Config.slotCount) s fun s => startCmd s slot Opc.read (fun _ => true) fun st x => hostStart st slot (st.ownSpan x)

/-- READ_GATHER (R120): its element list is read before any media activity. -/
def execReadGather (slot : Nat) (s : State) : Host.Outcome State Fault Refusal :=
  run (slot < Config.slotCount) s fun s => startCmd s slot Opc.gather (fun _ => true) fun st x =>
    startPull (st.setSlot { x with phase := .listing }) slot [(x.entry.aux0, 16 * x.entry.count)]

/-- SCAN (R323, R344): its row-group list is read before any media activity. One fetched during a load of its context waits for it
and is checked against the new content (R333). -/
def execScan (slot : Nat) (s : State) : Host.Outcome State Fault Refusal :=
  run (slot < Config.slotCount) s fun s =>
    match s.slot slot with
    | none => s
    | some x =>
      if s.ctxLoading x then s
      else startCmd s slot Opc.scan (fun _ => true) fun st y =>
        match (if y.ctxLate then ctxChecks st y else none) with
        | some e => rejectCmd st slot e
        | none => startPull (st.setSlot { y with phase := .listing }) slot (st.ownSpan y)

/-- Bytes of program staging that a command needs at once: the pages of a PROGRAM, one page of a COPY, the lines of a LOG_APPEND. -/
def State.stagingNeed (s : State) (x : Slot) : Nat :=
  let e := x.entry
  if e.opc == Opc.program then e.count * (s.fmtNow e.fmt).pageBytes
  else if e.opc == Opc.copy then (s.fmtNow (e.x 0 4)).pageBytes
  else if e.opc == Opc.logAppend then 288 * (e.count / 256)
  else 0

/-- Bytes of program staging that a command that has started holds: a PROGRAM until the confirm cycle (R19), each line of a LOG_APPEND
until its write has ended (R268), a COPY its page throughout. -/
def State.stagingHeld (s : State) (x : Slot) : Nat :=
  if x.phase != Phase.running then 0
  else if x.entry.opc == Opc.program then
    (if s.ops.any fun (o : Op) => o.ofSlot x.id && o.kind == .program && (o.stage == .queued || o.stage == .dispatched) then s.stagingNeed x else 0)
  else if x.entry.opc == Opc.logAppend then
    288 * (s.ops.filter fun (o : Op) => o.ofSlot x.id && o.kind == .lineWrite && o.stage != .done).length
  else s.stagingNeed x

/-- Program staging: 4 MiB less the output store (R28, R362). -/
def State.stagingSize (s : State) : Nat := 4194304 - 65536 * s.ostSize

/-- Program staging has room for what a command needs. DESIGN CHOICE, log entry 122: a command takes its room when it starts, and waits
for it until then; the spec says how large program staging is and when a page leaves it, not when it takes its room. Ledger lines and
the smoke record take none. -/
def State.stagingRoom (s : State) (n : Nat) : Bool :=
  match s.slot n with
  | none => true
  | some x => decide ((s.slots.map s.stagingHeld).sum + s.stagingNeed x ≤ s.stagingSize)

/-- PROGRAM (R122, R123): data and metadata are fetched into program staging. -/
def execProgram (slot : Nat) (s : State) : Host.Outcome State Fault Refusal :=
  run (slot < Config.slotCount) s fun s => if !s.stagingRoom slot then s else startCmd s slot Opc.program (fun _ => true) fun st x =>
    let s1 := startPull st slot (st.ownSpan x)
    if x.entry.hasMeta then readSpan s1 slot x.entry.aux0 (16 * x.entry.count * st.ncwOf x) (.metaRead slot) 0 else s1

/-- ERASE (R122). -/
def execErase (slot : Nat) (s : State) : Host.Outcome State Fault Refusal :=
  run (slot < Config.slotCount) s fun s => startCmd s slot Opc.erase (fun _ => true) fun st _ => st

/-- COPY (R124). -/
def execCopy (slot : Nat) (s : State) : Host.Outcome State Fault Refusal :=
  run (slot < Config.slotCount) s fun s => if !s.stagingRoom slot then s else startCmd s slot Opc.copy (fun _ => true) fun st _ => copyNext st slot

/-- LOG_APPEND (R306, R309): it was placed at its fetch; its data are fetched. -/
def execLogAppend (slot : Nat) (s : State) : Host.Outcome State Fault Refusal :=
  run (slot < Config.slotCount) s fun s => if !s.stagingRoom slot then s else startCmd s slot Opc.logAppend (fun _ => true) fun st x => startPull st slot (st.ownSpan x)

/-- LOG_READ (R302): through a ring it has no host span of its own. -/
def execLogRead (slot : Nat) (s : State) : Host.Outcome State Fault Refusal :=
  run (slot < Config.slotCount) s fun s => startCmd s slot Opc.logRead (fun _ => true) fun st x =>
    if bit x.entry.xctl 8 then st else hostStart st slot (st.ownSpan x)

/-- DIE_RAW (R236): with DIR = 2 its XLEN bytes are fetched first. -/
def execDieRaw (slot : Nat) (s : State) : Host.Outcome State Fault Refusal :=
  run (slot < Config.slotCount) s fun s => startCmd s slot Opc.dieRaw (fun _ => true) fun st x =>
    match st.custEntry x.entry with
    | none => st
    | some l =>
      let s1 := hostStart st slot [(x.entry.haddr, custXlen l)]
      if custDir l = 2 then readSpan s1 slot x.entry.haddr (custXlen l) (.dataRead slot) 0 else s1

/-- GET_FEATURE (R133). -/
def execGetFeature (slot : Nat) (s : State) : Host.Outcome State Fault Refusal :=
  run (slot < Config.slotCount) s fun s => startCmd s slot Opc.getFeature (fun _ => true) fun st _ => st

/-- SET_FEATURE (R133). -/
def execSetFeature (slot : Nat) (s : State) : Host.Outcome State Fault Refusal :=
  run (slot < Config.slotCount) s fun s => startCmd s slot Opc.setFeature (fun _ => true) fun st _ => st

/-- READ_PARAM (R134). -/
def execReadParam (slot : Nat) (s : State) : Host.Outcome State Fault Refusal :=
  run (slot < Config.slotCount) s fun s => startCmd s slot Opc.readParam (fun _ => true) fun st x => hostStart st slot (st.ownSpan x)

/-! ## ERASE_CONTROL (R127) -/

/-- SUSPEND: an erase suspended by reads becomes explicitly suspended at once; a running one at its next boundary, and one whose
accepted RESUME is still to be sent after that resume. -/
def eraseSuspend (s : State) (x : Slot) : State :=
  match (if eraseControlOk s x then s.runningErase (pDie x.entry.paddr) else none) with
  | none => hit s x.id St.invalidState
  | some o =>
    if o.stage == .suspended && !o.resume then controlDone (s.updOp o.id fun y => { y with expl := true }) x.id o
    else s.updOp o.id fun y =>
      if y.wantSusp.isSome then { y with wantAlso := y.wantAlso ++ [x.id] } else { y with wantSusp := some x.id }

/-- RESUME: the erase no longer counts as explicitly suspended; the command completes once the resume is sent. -/
def eraseResume (s : State) (x : Slot) : State :=
  match s.explErase (pDie x.entry.paddr) with
  | none => hit s x.id St.invalidState
  | some o => s.updOp o.id fun y => { y with expl := false, resume := true, wantRes := some x.id }

/-- ERASE_SUSPEND. -/
def execEraseSuspend (slot : Nat) (s : State) : Host.Outcome State Fault Refusal :=
  run (slot < Config.slotCount) s fun s => startCmd s slot Opc.eraseControl (fun e => e.xctl == 1) fun st x => eraseSuspend st x

/-- ERASE_RESUME. -/
def execEraseResume (slot : Nat) (s : State) : Host.Outcome State Fault Refusal :=
  run (slot < Config.slotCount) s fun s => startCmd s slot Opc.eraseControl (fun e => e.xctl == 2) fun st x => eraseResume st x

/-! ## FENCE, CALIBRATE -/

/-- FENCE (R128): it waits for the commands before it; RES0 counts those unfinished at its fetch. -/
def execFence (slot : Nat) (s : State) : Host.Outcome State Fault Refusal :=
  run (slot < Config.slotCount) s fun s => startCmd s slot Opc.fence (fun _ => true) fun st x => st.setSlot { x with res0 := x.waitsOn }

/-- CALIBRATE (R135, R288): it takes its turn for a calibration slot. -/
def execCalibrate (slot : Nat) (s : State) : Host.Outcome State Fault Refusal :=
  run (slot < Config.slotCount) s fun s => startCmd s slot Opc.calibrate (fun _ => true) fun st x =>
    let s1 := hostStart st slot [(x.entry.haddr, 64 * x.entry.count)]
    { s1 with rlv := { s1.rlv with calWait := s1.rlv.calWait ++ [(some slot, 0, 0, 0)] } }

/-! ## ABORT (R130, R131) -/

/-- Every operation of a command waits in a queue, and none has been dispatched before. -/
def State.allQueued (s : State) (y : Slot) : Bool :=
  let l := s.ops.filter fun (o : Op) => o.ofSlot y.id
  !l.isEmpty && l.all (fun o => o.stage == .queued && o.step == .first) && y.done == 0

/-- The program of a command that has been dispatched and not confirmed. -/
def State.transferOf (s : State) (n : Nat) : Option Op := s.ops.find? fun o => o.ofSlot n && o.unconfirmed

/-- A command can be aborted where it stands. -/
def State.abortable (s : State) (y : Slot) : Bool :=
  let o := y.entry.opc
  y.phase == Phase.held || y.waitsPlace || y.phase == Phase.admitted || y.phase == Phase.listing || opReadType o || o == Opc.copy ||
  (if o == Opc.program then s.allQueued y || (s.transferOf y.id).isSome
   else if o == Opc.logAppend then
     s.allQueued y && (s.ops.filter fun (q : Op) => q.ofSlot y.id).length == y.entry.count / 256
   else (o == Opc.erase || o == Opc.dieRaw || o == Opc.setFeature) && s.allQueued y)

/-- One command is aborted: its data transfer is abandoned before the confirm cycle, but that of a COPY with pages confirmed. -/
def abortCmd (s : State) (y : Slot) : State :=
  let s1 := match s.transferOf y.id with
    | some o => if y.entry.opc == Opc.program || (y.entry.opc == Opc.copy && y.done == 0) then abandon s o else s
    | none => s
  hit s1 y.id St.abortedByHost

/-- ABORT: every matching command that has not finished is aborted, or counted as not abortable. From QP 0 it
reads the queue context it names (R387). -/
def abortAll (s : State) (x : Slot) : State :=
  if x.qid == 0 && (s.sqHalfBad (x.entry.x 0 10) || s.cqHalfBad (x.entry.x 0 10)) then hit s x.id St.internalPoison else
  let hits := s.slots.filter fun (y : Slot) => y.qid == x.entry.x 0 10 && y.entry.cid == x.entry.aux0 % 65536 && decide (y.seq < x.seq) &&
    y.unfinished && y.reject.isNone
  let go := hits.filter s.abortable
  (s.each go abortCmd).updSlot x.id fun z => { z with res0 := go.length + (hits.length - go.length) * 2 ^ 32 }

/-- ABORT. -/
def execAbort (slot : Nat) (s : State) : Host.Outcome State Fault Refusal :=
  run (slot < Config.slotCount) s fun s => startCmd s slot Opc.abort (fun _ => true) fun st x => abortAll st x

/-! ## Queue pairs (R96, R97) -/

/-- CREATE_QP: the queue pair comes into existence, enabled. -/
def createQp (s : State) (x : Slot) : State :=
  let e := x.entry
  let q := e.x 0 10
  if (s.qp q).isSome then hit s x.id St.invalidState
  else
    let s1 := ((s.setRegN (A.hqQpCtl q) 1).setRegN (A.hqQpArb q) (bits e.aux2 0 14)).setRegN (A.hqQpQuota q) e.count
    let s2 := (s1.setRegN (A.hqQpCqfullCnt q) 0).setRegN (A.hqQpPhstallCnt q) 0
    (cleanCtx s2 q).setQp ((QP.fresh q).setup e.aux0 e.aux1 (e.x 10 4) (e.x 14 4) (e.x 18 2))

/-- DELETE_QP: completions it held are discarded; RES0 counts them. -/
def deleteQp (s : State) (x : Slot) : State :=
  let q := x.entry.x 0 10
  match s.qp q with
  | none => hit s x.id St.invalidState
  | some p =>
    if !s.qpIdle p then hit s x.id St.invalidState
    else
      let gone := s.slots.filter fun (y : Slot) => y.qid == q
      let s1 := { s with slots := s.slots.filter (fun (y : Slot) => y.qid != q), qps := delBy QP.qid q s.qps }
      ((orphan s1 q).setRegN (A.hqQpCtl q) 0).updSlot x.id fun y => { y with res0 := gone.length }

/-- CREATE_QP. -/
def execCreateQp (slot : Nat) (s : State) : Host.Outcome State Fault Refusal :=
  run (slot < Config.slotCount) s fun s => startCmd s slot Opc.createQp (fun _ => true) fun st x => createQp st x

/-- DELETE_QP. -/
def execDeleteQp (slot : Nat) (s : State) : Host.Outcome State Fault Refusal :=
  run (slot < Config.slotCount) s fun s => startCmd s slot Opc.deleteQp (fun _ => true) fun st x => deleteQp st x

/-! ## Keys, scan contexts, microcode -/

/-- SET_KEY_SLOT: the 72 B of wrapped key are fetched (R431). -/
def execSetKeySlot (slot : Nat) (s : State) : Host.Outcome State Fault Refusal :=
  run (slot < Config.slotCount) s fun s => startCmd s slot Opc.setKeySlot (fun e => !bit e.xctl 10) fun st x => startPull st slot (st.ownSpan x)

/-- KEY_SLOT_CLEAR (R431). -/
def execKeySlotClear (slot : Nat) (s : State) : Host.Outcome State Fault Refusal :=
  run (slot < Config.slotCount) s fun s => startCmd s slot Opc.setKeySlot (fun e => bit e.xctl 10) fun st x =>
    { st with keys := delBy Prod.fst (x.entry.x 0 10) st.keys }

/-- The wrapped key has arrived: an integrity failure, or equal keys, leave the slot unchanged. -/
def keyLoad (s : State) (x : Slot) : State :=
  match keyUnwrap s.init.kek (x.hostData 72) with
  | none => hit s x.id St.invalidField
  | some k =>
    if k.take 32 == k.drop 32 then hit s x.id St.invalidField
    else clearPoison { s with keys := putBy Prod.fst (x.entry.x 0 10, k) s.keys } 7 0 (64 * x.entry.x 0 10) 64

/-- LOAD_SCAN_CONTEXT (R333). -/
def execLoadScanContext (slot : Nat) (s : State) : Host.Outcome State Fault Refusal :=
  run (slot < Config.slotCount) s fun s => startCmd s slot Opc.loadScan (fun _ => true) fun st x => startPull st slot (st.ownSpan x)

/-- The image of a context has arrived: checked under R340, then written whole; NI = 0 empties the context. -/
def ctxLoad (s : State) (x : Slot) : State :=
  let c := x.hostData 2048
  let k := x.entry.x 0 10
  if Scx.ni c != 0 && !ctxOk c then hit s x.id St.invalidField
  else
    let l := if Scx.ni c = 0 then delBy Prod.fst k s.scanCtx else putBy Prod.fst (k, c) s.scanCtx
    clearPoison { s with scanCtx := l } 4 0 (2048 * k) 2048

/-- A LOAD_MICROCODE of area `a` starts: the image is fetched (R243). -/
def microStart (s : State) (n a : Nat) : State :=
  startCmd s n Opc.loadMicro (fun e => e.x 2 2 == a) fun st x => startPull st n (st.ownSpan x)

/-- LOAD_MICROCODE_CUSTOMER. -/
def execLoadMicrocodeCustomer (slot : Nat) (s : State) : Host.Outcome State Fault Refusal :=
  run (slot < Config.slotCount) s fun s => microStart s slot 0
/-- LOAD_MICROCODE_ENTRY. -/
def execLoadMicrocodeEntry (slot : Nat) (s : State) : Host.Outcome State Fault Refusal :=
  run (slot < Config.slotCount) s fun s => microStart s slot 1
/-- LOAD_MICROCODE_PATCH. -/
def execLoadMicrocodePatch (slot : Nat) (s : State) : Host.Outcome State Fault Refusal :=
  run (slot < Config.slotCount) s fun s => microStart s slot 2

/-- Words `first` onward of an area of a store take the 16-B pieces of an image (R214, R235, R243). -/
def Store.load (x : Store) (area first : Nat) (l : List (List Byte)) : Store :=
  if area = 1 then { x with entries := l.zipIdx.foldl (fun acc y => putBy Prod.fst (first + y.2, y.1) acc) x.entries }
  else
    let base := if area = 0 then 12288 else 11264
    let put := fun (acc : List (Nat × BitVec 132)) (y : List Byte × Nat) =>
      putBy Prod.fst (base + first + y.2, withParity (BitVec.ofNat 128 (leNat y.1))) acc
    { x with words := l.zipIdx.foldl put x.words }

/-- An entry-table entry keeps the rules of R235. -/
def entryOk (l : List Byte) : Bool :=
  let a := leAt l 0 4
  let b := leAt l 4 4
  bits a 12 4 == 0 && bits a 19 13 == 0 && bits b 17 15 == 0 && leAt l 8 8 == 0 && custDir l != 3 &&
  decide (custXlen l ≤ 65536) && custXlen l % 64 == 0 && (custDir l != 0 || custXlen l == 0)

/-- The image has arrived: it is written to every group named, and the branch caches are invalidated. -/
def microLoad (s : State) (x : Slot) : State :=
  let e := x.entry
  let img := x.hostData (16 * e.count)
  let l := (List.range e.count).map fun i => (img.drop (16 * i)).take 16
  let base := if e.x 2 2 = 0 then 12288 else 11264
  if e.x 2 2 = 1 && !l.all entryOk then hit s x.id St.invalidField
  else s.each (s.microGroups e) fun st g =>
    let s1 := clearCaches (st.setStore g ((st.store g).load (e.x 2 2) e.aux0 l)) g
    if e.x 2 2 = 1 then s1 else clearPoison s1 5 g (base + e.aux0) e.count

/-! ## GET_LOG, SANITIZE, SET_PATROL, SET_BUDGET -/

/-- GET_LOG (R137): bytes beyond the log's end are 0. -/
def execGetLog (slot : Nat) (s : State) : Host.Outcome State Fault Refusal :=
  run (slot < Config.slotCount) s fun s => startCmd s slot Opc.getLog (fun _ => true) fun st x =>
    let e := x.entry
    let s1 := (hostStart st slot (st.ownSpan x)).updSlot slot fun y => { y with res0 := (st.logLen (e.x 0 8)).getD 0 }
    deliver s1 slot 0 ((((st.logBytes (e.x 0 8)).drop e.aux0) ++ zeros e.count).take e.count) false

/-- The blocks a SANITIZE erases, in ascending die and block order: (PADDR of plane 0). -/
def State.sanBlocks (s : State) (mask : Nat) : List Nat :=
  (s.dies.filter fun d => bit mask (dieCh d) && s.diePresent d && !s.classL d).flatMap fun d =>
    (List.range (s.blocks d)).map fun b => mkPaddr d b 0 0 0

/-- SANITIZE starts (R435): every key slot is emptied at once; `todo` are the erases to come. -/
def sanStart (s : State) (x : Slot) (todo : List Nat) : State :=
  let total := (todo.map fun p => s.planes (pDie p)).sum
  let s1 := { s with keys := [], san := { s.san with busy := true, mode := x.entry.x 0 1, total := total, ended := 0 } }
  sanNext (s1.setSlot { x with todo := todo }) x.id

/-- SANITIZE_CRYPTO_ERASE. -/
def execSanitizeCryptoErase (slot : Nat) (s : State) : Host.Outcome State Fault Refusal :=
  run (slot < Config.slotCount) s fun s => startCmd s slot Opc.sanitize (fun e => e.x 0 1 == 0) fun st x => sanStart st x []

/-- SANITIZE_BLOCK_ERASE. -/
def execSanitizeBlockErase (slot : Nat) (s : State) : Host.Outcome State Fault Refusal :=
  run (slot < Config.slotCount) s fun s => startCmd s slot Opc.sanitize (fun e => e.x 0 1 == 1) fun st x =>
    sanStart st x (st.sanBlocks x.entry.aux0)

/-- The steps of SET_PATROL in order (R294): STOP, the new list, RATE, START. -/
def patrolSteps (s : State) (e : Entry) (l : Option (List FgRange)) : State :=
  let s1 := if bit e.xctl 17 then patrolStop s else s
  let s2 := match l with | some r => patrolLoad s1 r | none => s1
  let s3 := if e.x 0 16 = 0 then s2 else s2.setRegN A.rlvFgRate (e.x 0 16)
  if bit e.xctl 16 then patrolStart s3 else s3

/-- SET_PATROL: a list is read first, so that a fault in reading it changes nothing. -/
def execSetPatrol (slot : Nat) (s : State) : Host.Outcome State Fault Refusal :=
  run (slot < Config.slotCount) s fun s => startCmd s slot Opc.setPatrol (fun _ => true) fun st x =>
    if x.entry.count = 0 then patrolSteps st x.entry none else startPull st slot (st.ownSpan x)

/-- The range list has arrived: a failing entry fails the whole command (R295). -/
def patrolListed (s : State) (x : Slot) : State :=
  let img := x.hostData (16 * x.entry.count)
  let l := (List.range x.entry.count).map fun i => parseRange ((img.drop (16 * i)).take 16)
  match l.findSome? (rangeBad s) with
  | some st => hit s x.id st
  | none => patrolSteps s x.entry (some (l.map Prod.fst))

/-- SET_BUDGET (R168): the tests of R166 with the new values, then both registers together. -/
def setBudget (s : State) (x : Slot) : State :=
  let e := x.entry
  let g := e.x 0 3
  if reserveTest (s.reserveDies g) (newBudget e) (newCosts e) && writeTest (s.boundedWrites g) (newBudget e) (newCosts e) then
    (s.setReg (A.admRailBudget g) (newBudget e)).setReg (A.admRailCost g) (newCosts e)
  else hit s x.id St.invalidState

/-- SET_BUDGET. -/
def execSetBudget (slot : Nat) (s : State) : Host.Outcome State Fault Refusal :=
  run (slot < Config.slotCount) s fun s => startCmd s slot Opc.setBudget (fun _ => true) fun st x => setBudget st x

/-! ## READ_GATHER's list (R120) -/

/-- An element from its 16 bytes, and whether its reserved field is nonzero. -/
def parseElem (l : List Byte) : Elem × Bool :=
  ({ paddr := leAt l 0 8, cnt := leAt l 8 2, doff := leAt l 12 4 }, leAt l 10 2 != 0)

/-- The status of the first check that an element fails. -/
def elemBad (s : State) (x : Slot) (y : Elem × Bool) : Option Status :=
  let e := y.1
  let n := (s.fmtNow x.entry.fmt).ncw
  if y.2 || e.cnt == 0 || decide (8 < e.cnt) || e.doff % 64 != 0 || (bit x.entry.xctl 0 && e.doff != 0) then some St.invalidField
  else if !s.cwOk e.paddr n || decide (n < pCw e.paddr + e.cnt) then some St.invalidAddress
  else none

/-- The element list has arrived: it is checked, then the command meets the admission test (R159). -/
def gatherListed (s : State) (x : Slot) : State :=
  let n := x.id
  let img := x.hostData (16 * x.entry.count)
  let l := (List.range x.entry.count).map fun i => parseElem ((img.drop (16 * i)).take 16)
  let elems := l.map Prod.fst
  let size := elems.foldl (fun m e => max m (e.doff + 4096 * e.cnt)) (4096 * (elems.map Elem.cnt).sum)
  let y := { x with elems := elems, data := [], spans := [(x.entry.haddr, size)] }
  match (match l.findSome? (elemBad s x) with | some st => some st | none => s.listDies y) with
  | some st => hit (s.setSlot { x with phase := .running }) n st
  | none => admitCmd (s.setSlot y) n .running

/-! ## Data that have arrived -/

/-- The images of an append's lines: each line write may go. -/
def appendImages (s : State) (x : Slot) : State :=
  { s with ops := s.ops.map fun (o : Op) =>
      if o.ofSlot x.id && o.kind == .lineWrite && o.image.isEmpty then
        { o with image := x.lineImage (match o.cws with | c :: _ => c.1 | [] => 0) }
      else o }

/-- Every read of a command has been answered with OK. -/
def dataReady (s : State) (n : Nat) : State :=
  match s.slot n with
  | none => s
  | some x =>
    let o := x.entry.opc
    if x.failed || !x.tblDone || !(x.phase == Phase.listing || x.phase == Phase.running) then s
    else if o == Opc.scan then scanArrive s n
    else if !s.pulled x then s
    else if o == Opc.gather then (if x.phase == Phase.listing then gatherListed s x else s)
    else if o == Opc.program then encodePage s n
    else if o == Opc.logAppend then appendImages s x
    else if o == Opc.setKeySlot then keyLoad s x
    else if o == Opc.loadScan then ctxLoad s x
    else if o == Opc.loadMicro then microLoad s x
    else if o == Opc.setPatrol then patrolListed s x
    else s

/-- A fragment table that a command's data needed is known: the data are read. -/
def tableKnown (s : State) (n : Nat) : State :=
  match s.slot n with
  | none => s
  | some x =>
    let o := x.entry.opc
    if x.tblDone && !x.failed && (o == Opc.program || o == Opc.logAppend || o == Opc.scan) then pullData s n else s

end Sys2Proof.Machine
end

