-- ==== Sys2Proof/Machine/Completion.lean ====
section
/-!
DEFINITION. Completion of a command (R51, R91, R128, R138, R180, R349 to R351, R367, R368, R386): when it has finished, the
durable read-back, the records that precede its completion, and the completion itself.
-/

namespace Sys2Proof.Machine

/-! ## When a command has finished (R128) -/

/-- A command still has an operation, a codeword, a request, output or a comb unit. -/
def State.working (s : State) (x : Slot) : Bool :=
  let n := x.id
  (s.ops.any fun o => o.ofSlot n && o.stage != OpStage.done) || (s.cws.any fun c => c.ofSlot n) || s.hasReq n || s.hasUnits n ||
  (s.units.any fun u => u.slot == some n) || s.calibrating n || !x.tblDone || !x.todo.isEmpty || !x.outq.isEmpty

/-- The opcode's own course has come to its end. -/
def State.courseEnd (s : State) (x : Slot) : Bool :=
  let o := x.entry.opc
  if o == Opc.eraseControl || opExclusive o then x.done == 1
  else if o == Opc.scan then (match x.scan with | some r => r.eval + r.excl == x.entry.count && r.late.isEmpty | none => false)
  else if o == Opc.copy then x.copyEnded || x.done == x.entry.count
  else if o == Opc.logAppend then x.done == x.entry.count / 256
  else if o == Opc.fence then (s.fenceWaits x).isEmpty
  else if o == Opc.logRead then x.enc.isEmpty
  else true

/-- The command has finished but for its aggregate results, its read-back and its records. -/
def State.finished (s : State) (x : Slot) : Bool :=
  x.unfinished && (x.reject.isSome || (!s.working x && (x.failed || (x.phase == Phase.running && s.courseEnd x))))

/-! ## Results (R350, R367) -/

/-- RES0 of a failure on the host side (R367). -/
def State.hostRes0 (s : State) (x : Slot) : Nat :=
  let e := x.entry
  let o := e.opc
  let reads := o == Opc.program || o == Opc.logAppend || o == Opc.setKeySlot || o == Opc.loadScan || o == Opc.loadMicro ||
    (o == Opc.dieRaw && match s.custEntry e with | some l => custDir l == 2 | none => false)
  (if reads then x.bytesIn else x.bytesOut) % 2 ^ 32 + s.portOf x * 2 ^ 32 + x.stageNo * 2 ^ 34 + x.ringNo * 2 ^ 36 + x.reason * 2 ^ 44

/-- RES0 of a completion with status `st`. -/
def State.finalRes0 (s : State) (x : Slot) (st : Status) : Nat :=
  let o := x.entry.opc
  if x.reject.isSome then (if x.placed.isSome && x.reject != some St.admissionRefused then x.appendRes0 else x.res0)
  else if 0x40 ≤ st ∧ st ≤ 0x45 then s.hostRes0 x
  else if o == Opc.scan then (match x.scan with | some r => r.res0 | none => 0)
  else if o == Opc.logAppend then x.appendRes0
  else if o == Opc.copy || o == Opc.calibrate then x.done
  else if o == Opc.eraseControl && st != 0 then 0
  else x.res0

/-- LATU: from the fetch, in units of 256 ns (R180). It is taken when the completion becomes ready, so that the time held under
R91 does not count. -/
def State.latuOf (s : State) (x : Slot) : Nat := min ((s.aclk - x.fetched) * 1000 / 256) (2 ^ 18 - 1)

/-! ## What precedes the completion -/

/-- A SCAN that ends without a condition of items 1 to 6 writes its aggregate results (R349). -/
def State.aggDue (s : State) (x : Slot) : Bool :=
  x.entry.opc == Opc.scan && !x.failed && x.done == 0 && ctxHasAgg (s.ctxOf x)

def aggWrite (s : State) (x : Slot) (r : ScanRun) : State :=
  (writePiece s x.id x.entry.aux1 (aggBytes r) false (.dataWrite x.id) true).updSlot x.id fun y => { y with done := 1 }

/-- The read-back of a durable command that wrote host data is due or outstanding. -/
def State.readbackDue (s : State) (x : Slot) : Bool :=
  x.entry.durable && s.mayWrite x && x.lastLine.isSome && x.readback != 2

/-- The CALIBRATION_DONE record of a CALIBRATE (R292). DESIGN CHOICE, log entry 123: one that made no visit shows the die of PADDR. -/
def calRecordOf (s : State) (x : Slot) : State :=
  calDoneRecord s { calFresh 0 (some x.id) x.entry.paddr 0 0 0 with first := if x.calFirst = 0 then pDie x.entry.paddr else x.calFirst,
                                                                    swept := x.done, noVal := x.calNoVal }

/-- The record a command raises before its completion, where it has one (R292, R308, R351). -/
def recordOf (x : Slot) : Option (State → State) :=
  if x.reported then none
  else if x.entry.opc == Opc.calibrate then some fun t => calRecordOf t x
  else if x.reject.isSome && x.placed.isNone then none
  else if x.entry.opc == Opc.scan then
    (match x.scan with | some r => if r.excl = 0 then none else some fun t => scanExt t x r | none => none)
  else if x.entry.opc == Opc.logAppend then
    (match x.placed with | some (_, _, _, l) => if l.isEmpty then none else some fun t => appendExt t x | none => none)
  else none

/-! ## The completion -/

/-- A field of `k` bytes at byte `o` of the slot, with every poisoned byte as 0 (R386). -/
def State.cleanField (s : State) (n o k v : Nat) : Nat :=
  leNat ((leBytes k v).zipIdx.map fun y => if s.poisoned 2 0 (64 * n + o + y.2) 1 then 0 else y.1)

/-- The completion of a finished command is ready: its status, result and latency are settled, what it held at admission is free,
and its entry is written or held. -/
def completeCmd (s : State) (x : Slot) : State :=
  let st := x.finalStatus
  let n := x.id
  let e := { x.entry with cid := s.cleanField n 2 2 x.entry.cid, tag := s.cleanField n 0x38 4 x.entry.tag }
  let y := { x with status := st, res0 := s.finalRes0 x st, latu := s.latuOf x, charged := false, credits := [], entry := e }
  let s1 := if x.outc.contains St.boundReached then s.bump (A.admBreachCnt x.entry.lcls) else s
  let s2 := if x.entry.opc == Opc.sanitize && x.reject.isNone && x.phase == Phase.running then
      { s1 with san := { s1.san with busy := false } } else s1
  ostTake (postReady (calFree (s2.setSlot y) n) n)

/-- COMPLETION_WRITE: each call takes the next of the steps that a finished command still needs. -/
def completionWrite (s0 : State) (n : Nat) : State :=
  if s0.stopped || s0.power.st == .p2 || (s0.smoking && s0.smoke.step != 8) then s0
  else
    let s1 := purgeRings s0
    let s2 := match s1.slot n with | some x => if x.failed && s1.calibrating n then calReap s1 n else s1 | none => s1
    let s := if s2.slotPoisoned n then hit s2 n St.internalPoison else s2
    match s.slot n with
    | none => s
    | some x =>
      if !s.finished x then s
      else if s.aggDue x then (match x.scan with | some r => aggWrite s x r | none => s)
      else if s.readbackDue x then s
      else
        match recordOf x with
        | some f => f (s.setSlot { x with report := true, reported := true })
        | none => if x.report then s else completeCmd s x

/-- COMPLETION_WRITE. -/
def execCompletionWrite (slot : Nat) (s : State) : Host.Outcome State Fault Refusal :=
  run (slot < Config.slotCount) s fun s => completionWrite s slot

/-- DURABLE_READBACK: every write of the durable command is OK; one line is read back (R368). -/
def execDurableReadback (slot : Nat) (s : State) : Host.Outcome State Fault Refusal :=
  run (slot < Config.slotCount) s fun s =>
    match s.slot slot with
    | none => s
    | some x =>
      if s.finished x && !s.aggDue x && s.readbackDue x && x.readback == 0 && !s.stopped then readBack s slot else s

end Sys2Proof.Machine
end

