-- ==== Sys2Proof/Machine/Respond.lean ====
section
/-!
DEFINITION. What a response of the fabric does (R49, R50, R54, R55): by the purpose of its request.
-/

namespace Sys2Proof.Machine

/-- RESP of a QUEUE_FAULT record (R107). -/
def RdEnd.code : RdEnd → Nat
  | .ok _ => 0 | .err => 0 | .poison => 1 | .timeout => 2

/-- The status of a failed read of a command: any bad response is an error, whatever it was (R50). -/
def RdEnd.status : RdEnd → Status
  | .timeout => St.hostReadTimeout
  | _ => St.hostReadError

/-- Host data or a list of a command have arrived: `off` is their offset, the request's span starts at byte `start` of its beats. -/
def dataArrive (s : State) (n off start : Nat) (d : List Byte) : State :=
  match s.slot n with
  | none => s
  | some x =>
    let len := match x.entry.opc == Opc.dieRaw, s.custEntry x.entry with | true, some l => custXlen l | _, _ => s.xferLen x
    let bytes := (d.drop start).take (len - off)
    let n2 := if x.entry.readsList then x.bytesIn else x.bytesIn + bytes.length
    dataReady (s.updSlot n fun y => { y with data := y.data ++ [(off, bytes)], bytesIn := n2 }) n

/-- Host metadata have arrived. -/
def metaArrive (s : State) (n off start : Nat) (d : List Byte) : State :=
  dataReady (s.updSlot n fun y => { y with mdata := y.mdata ++ [(off, d.drop start)] }) n

/-- A read of a command failed. -/
def readFail (s : State) (n : Nat) (e : RdEnd) (stage : Nat) : State := hostFail s n e.status stage 0 0

/-- The read `r` of port `p`, no longer outstanding, has ended. `beats` serve the read-back alone. -/
def readDone (s : State) (r : Req) (e : RdEnd) (beats : List RdBeat) : State :=
  match r.purpose with
  | .sqRead q idx n =>
    (match e with
     | .ok d => sqArrive s q idx n d
     | _ => match s.qp q with | some x => if x.fault then s else queueFault s x 0 e.code r.addr | none => s)
  | .dataRead n off =>
    (match e with
     | .ok d => dataArrive s n off r.start d
     | _ => readFail s n e (match s.slot n with | some x => if x.entry.readsList then 1 else 0 | none => 0))
  | .metaRead n off => (match e with | .ok d => metaArrive s n off r.start d | _ => readFail s n e 0)
  | .table n =>
    (match e with
     | .ok d => dataReady (tableKnown (tableData s n (d.drop r.start)) n) n
     | _ => readFail (s.updSlot n fun y => { y with tblDone := true }) n e 1)
  | .descRead g i k => (match e with | .ok d => descData s g i k (d.drop r.start) | _ => ringFault s g 1)
  | .readback n => (match e with | .timeout => hostFail s n St.readbackError 3 0 0 | _ => readbackEnd s n beats)
  | _ => s

/-- The write `r`, no longer outstanding, has ended. -/
def writeEnd (s : State) (r : Req) (e : WrEnd) : State :=
  let fail := fun (n : Nat) => hostFail (s.updSlot n fun y => { y with noWrite := true }) n St.hostWriteError 0 0 0
  match r.purpose with
  | .cqWrite q idx n =>
    if e == .ok then cqWriteOk s q idx n else cqWriteFail s q idx n (if e == .timeout then 2 else 0) r.addr
  | .dataWrite n => if e == .ok then s else fail n
  | .metaWrite n => if e == .ok then s else fail n
  | .unitData g n => if e == .ok then s else unitDataFail s g n
  | .descBack g n first => if e == .ok then descBackOk s g n first else descBackFail s g n
  | .alert => if e == .ok then alertOk s else alertFail s
  | .message t => messageEnd s t (e == .ok)
  | _ => s

/-- A response whose tag is neither outstanding nor quarantined (R55). -/
def strayResponse (s : State) (p : Nat) : State := s.bump (A.movStrayCnt p)

/-- A response with a quarantined tag is late. -/
def Port.quarantined (x : Port) (tag : Nat) (write : Bool) : Bool := x.quar.any fun q => q.tag == tag && q.write == write

/-- GFP_READ_COMPLETE (R50): the last beat of a read has been transferred; a response with another number of beats is not
complete. -/
def gfpRead (s : State) (p tag : Nat) (beats : List RdBeat) : State :=
  match (s.port p).find tag false with
  | some r => if beats.length = r.beats then ostTake (readDone (retire s p tag) r (readEnd beats) beats) else s
  | none =>
    if (s.port p).quarantined tag false then
      (if (s.port p).quar.any (fun q => q.tag == tag && q.beats == beats.length) then lateResponse s p tag else s)
    else strayResponse s p

/-- GFP_READ_COMPLETE. -/
def execGfpReadComplete (port tag : Nat) (beats : List RdBeat) (s : State) : Host.Outcome State Fault Refusal :=
  run (port < 4 && tag < 256 && beats.all fun b => b.data.length == 64) s fun s => gfpRead s port tag beats

/-- GFP_WRITE_RESPONSE (R49). -/
def gfpWrite (s : State) (p tag : Nat) (ok : Bool) : State :=
  match (s.port p).find tag true with
  | some r => ostTake (writeEnd (retire s p tag) r (if ok then .ok else .err))
  | none => if (s.port p).quarantined tag true then lateResponse s p tag else strayResponse s p

/-- GFP_WRITE_RESPONSE. -/
def execGfpWriteResponse (port tag : Nat) (ok : Bool) (s : State) : Host.Outcome State Fault Refusal :=
  run (port < 4 && tag < 256) s fun s => gfpWrite s port tag ok

/-- GFP_REQUEST_TIMEOUT (R54, R55): T_FAB has passed since the request's transfer: its tag is quarantined, and its owner sees the
timeout. -/
def gfpTimeout (s : State) (p tag : Nat) : State :=
  let x := s.port p
  match x.out.find? fun r => r.tag == tag && decide (r.tfab ≤ s.aclk - r.sent) with
  | none => s
  | some r =>
    let y := { x with out := x.out.filter fun q => q.tag != tag, quar := x.quar ++ [{ tag := tag, write := r.write, beats := r.beats }] }
    let s1 := (s.setPort p y).bump (A.movToCnt p)
    ostTake (if r.write then writeEnd s1 r .timeout else readDone s1 r .timeout [])

/-- GFP_REQUEST_TIMEOUT. -/
def execGfpRequestTimeout (port tag : Nat) (s : State) : Host.Outcome State Fault Refusal :=
  run (port < 4 && tag < 256) s fun s => gfpTimeout s port tag

end Sys2Proof.Machine
end

