-- ==== Sys2Proof/Machine/RegRead.lean ====
section
/-!
DEFINITION. What a read of a register returns (chapter 18 and the register tables of each chapter): the value last
written for a register software writes (R27), and what the block's units hold for a read-only field. A read of
NTF_CLAIM that acts is in Machine/RegWrite.lean; here it has no side effect, as in a snapshot (R414).
-/

namespace Sys2Proof.Machine

/-! ## Instances (R6) -/

/-- The channel an instance of a per-channel register, or of one of its dies, belongs to. -/
def instChan (r : RegRow) (is : List Nat) : Option Nat :=
  let i := is.getD 0 0
  if 0x100000 ≤ r.base then some i
  else if r.base = A.rlvTemp 0 then some (i / 16)
  else if A.movSqCtl 0 ≤ r.base && decide (r.base < A.memScrubCfg) then some i
  else if A.seqChctl 0 ≤ r.base && decide (r.base < A.ch 0 0) then some i
  else if r.base = A.cmbHeld 0 || r.base = A.wglDrdyMask 0 then some i
  else if r.base = A.rlvFgUncCnt 0 then some (i / 64)
  else if r.base = A.rlvBucket 0 then some (i / 4)
  else if r.base = A.rlvLwRo 0 then some (i / 2)
  else none

/-- The channel group an instance of a per-group register belongs to. -/
def instGroup (r : RegRow) (is : List Nat) : Option Nat :=
  if (A.seqCtl 0 ≤ r.base && decide (r.base < A.seqChctl 0)) || r.base = A.wglTempTh 0 then some (is.getD 0 0) else none

/-- The instance belongs to a unit the part has: instances of absent channels, groups and comb units, and of the sources
that do not exist, read 0 and ignore writes (R6, R393, R426). -/
def State.instOk (s : State) (r : RegRow) (is : List Nat) : Bool :=
  (match instChan r is with | some c => s.chPresent c | none => true) &&
  (match instGroup r is with | some g => decide (g < Config.groups s.build) | none => true) &&
  (if r.base = A.cmbUnitSts 0 || r.base = A.cmbUnitAdm 0 then decide (is.getD 0 0 < Config.combUnits s.build) else true) &&
  (if r.base = A.ntfSrcCfg 0 then let n := is.getD 0 0; n != 0 && !(decide (37 ≤ n) && decide (n ≤ 63)) else true)

/-! ## Status the units present -/

/-- The first condition of R436 that fails, for P1 or P2. -/
def State.pwrDeny (s : State) (p2 : Bool) : Nat :=
  if !s.slots.isEmpty || s.qps.any (fun q => q.todo != 0) then 1
  else if s.ports.any (fun p => !p.out.isEmpty || !p.wait.isEmpty) then 2
  else if !p2 && (s.fg.run || s.fg.waiting || !s.rlv.cals.isEmpty || s.chans.any fun c => c.op.isSome) then 3
  else if p2 && s.qps.any (fun q => s.qpEn q.qid) then 4
  else if s.san.busy || s.lowering || s.smoking then 5
  else 0

/-- REQ of GLB_PWR_CTL. -/
def State.pwrReq (s : State) : Nat := s.fldOf A.glbPwrCtl 0 2

/-- GLB_PWR_STS (R438). -/
def State.pwrSts (s : State) : Nat :=
  let pend := s.power.st == PState.p0 && s.pwrReq != 0
  (if s.power.st = .p1 then 1 else 0) + pend.toNat * 4 + (if pend then s.pwrDeny (s.pwrReq == 2) else 0) * 16

/-- GLB_INIT_STATUS (R423). How far a fill has come is a matter of KCLK time (R379), and how many bytes after the header have been taken
of OPT_CLK time: free values up to 100. -/
def State.initSts (s : State) : Nat :=
  let len := leAt s.init.header 4 2
  let pct := if s.init.phase = 2 then (if len = 0 then 0 else 800 / len + s.freeVal.toNat % (101 - 800 / len))
    else if s.init.phase = 5 ∨ s.init.phase = 8 then s.freeVal.toNat % 101 else 0
  s.init.phase + s.init.err * 16 + pct * 256 + s.init.done.toNat * 65536

/-- A codeword of the read path was sampled under an ECC or CMB value that a later write replaced. -/
def State.oldCw (s : State) (c : Cw) : Bool :=
  c.cfg != s.fmtAt c.ch c.cfg.fmt ||
  (match s.cwSlot c with | some x => x.entry.opc == Opc.scan && c.bcw != fld (s.regAt stComb A.cmbStage) 0 6 | none => false)

/-- The same for settings sampled on the write path of a command. -/
def State.oldCfg (s : State) (x : Slot) (f : CwFmt) : Bool := f != s.fmtAt (stWrite (pChan (x.entry.dstPage 1 0))) f.fmt

/-- GLB_APPLY (R36). A codeword is in the write path until its page's confirm cycle (R19). -/
def State.applySts (s : State) : Nat :=
  let waits := fun (b : Boundary) => s.pend.any fun (p : PendWrite) => p.bnd == b
  (waits .fetch).toNat + (waits .instr).toNat * 2 +
  (waits .codeword || s.cws.any s.oldCw || s.slots.any (fun (x : Slot) => x.cfgs.any fun y => s.oldCfg x y.2) ||
   s.ops.any fun (o : Op) => o.stage != OpStage.confirmed && o.cfgs.any fun f => f != s.fmtAt (stWrite (dieCh o.die)) f.fmt).toNat * 4

/-- SEC_SAN_STS (R435). -/
def State.sanSts (s : State) : Nat :=
  s.san.busy.toNat + s.san.mode * 2 + (if s.san.total = 0 then 0 else 100 * s.san.ended / s.san.total) * 256

/-- SEC_ID[k] (R427): the words of SEED read 0. -/
def State.secId (s : State) (k : Nat) : Nat :=
  match s.init.area with
  | some a => if 16 ≤ k ∧ k ≤ 23 then 0 else leAt a.idRow (4 * k) 4
  | none => 0

/-- SEC_KS_VALID[j] (R435). -/
def State.ksValid (s : State) (j : Nat) : Nat :=
  (List.range 32).foldl (fun acc i => if s.keyLoaded (32 * j + i) then acc + 2 ^ i else acc) 0

/-- HQ_QP_STS[q] (R102). -/
def State.qpSts (s : State) (q : Nat) : Nat :=
  match s.qp q with
  | some x => (s.qpIdle x).toNat + 2 + x.fault.toNat * 4 + (s.cqHolds q).toNat * 8 + x.stall.toNat * 16
  | none => 0

/-- HQ_BR_STS[r] (R353). -/
def State.brSts (s : State) (r : Nat) : Nat :=
  let b := s.ring r
  b.active.toNat + b.starved.toNat * 2 + b.fault.toNat * 4 + (s.brIdle r).toNat * 8 + b.freason * 16

/-- DRAINED of a group (R415): no command has an unfinished operation in it. -/
def State.drained (s : State) (g : Nat) : Bool :=
  decide (g < Config.groups s.build) &&
  !(s.ops.any fun (o : Op) => o.slotOf.isSome && dieCh o.die / 8 == g && o.stage != OpStage.done)

/-- WGL_STS (R421). -/
def State.wglStsNow (s : State) : Nat :=
  (List.range 4).foldl (fun acc g => if s.drained g then acc + 2 ^ g else acc) 0 + s.wgl.calBusy.toNat * 16

/-- WGL_HELD[j] (R420). -/
def State.wglHeldNow (s : State) (j : Nat) : Nat :=
  (List.range 32).foldl (fun acc i => if 32 * j + i ∈ s.wgl.heldT then acc + 2 ^ i else acc) 0

/-- MOV_STS (R373). -/
def State.movStsNow (s : State) : Nat :=
  s.mover.aborting.toNat + s.mover.aborted.toNat * 2 + s.mover.ostPend.isSome.toNat * 4

/-- MOV_SQ_STS[ch] (R372). -/
def State.sqStsNow (s : State) (ch : Nat) : Nat :=
  (s.cws.filter fun (c : Cw) => c.ch == ch && c.stage == CwStage.decoded).length + ((s.chan ch).flushing || s.flushDue ch).toNat * 128

/-- The bank group MEM_RREP_SEL selects: memory, instance, bank group. -/
def State.rrepSel (s : State) : Nat × Nat × Nat :=
  (s.fldOf A.memRrepSel 0 4, s.fldOf A.memRrepSel 4 5, s.fldOf A.memRrepSel 9 4)

/-- The key of runtime entry `e` of the selected bank group. -/
def State.rrepKey (s : State) (e : Nat) : Nat := bgKey s.rrepSel.1 s.rrepSel.2.1 s.rrepSel.2.2 * 8 + e

/-- MEM_CEL_A[i] and MEM_CEL_B[i] (R390). -/
def State.celA (s : State) (i : Nat) : Nat :=
  match getBy CeEntry.i i s.mem.log with | some x => x.addr + x.mem * 2 ^ 23 + x.inst * 2 ^ 27 | none => 0

def State.celB (s : State) (i : Nat) : Nat :=
  match getBy CeEntry.i i s.mem.log with
  | some x => x.syn + 256 + x.sticky.toNat * 512 + x.wb.toNat * 1024 + x.scrub.toNat * 2048 + x.hits * 65536
  | none => 0

/-- RLV_TEMP[i] (R273). -/
def State.tempWord (s : State) (i : Nat) : Nat :=
  let d := i / 16 * 64 + i % 16 * 4
  let taken := (s.sensor d).isSome || s.rlv.tIn.contains (i / 128)
  ubyte (s.tempOf d) + (if (s.sensor d).isSome then 0 else 256) + (if taken then 512 else 0)

/-- RLV_CAL_POS[k] and RLV_CAL_ID[k] (R290). -/
def State.calPos (s : State) (k : Nat) : Nat :=
  match s.cal k with | some x => x.die + x.level * 2 ^ 11 + x.point * 2 ^ 15 + 2 ^ 23 | none => 0

def State.calId (s : State) (k : Nat) : Nat :=
  match s.cal k with
  | some x => (match x.slot.bind s.slot with | some y => y.entry.cid + y.qid * 65536 | none => 0)
  | none => 0

/-- RLV_FG_STS (R297). -/
def State.fgSts (s : State) : Nat :=
  s.fg.run.toNat + s.fg.listed.toNat * 2 + s.fg.waiting.toNat * 4 + s.fg.ranges.length * 65536

/-- CMB_UNIT_STS[u] and CMB_UNIT_ADM[u] (R352). -/
def State.unitSts (s : State) (u : Nat) : Nat :=
  let x := s.unit u
  let res := s.slots.any fun (y : Slot) => match y.scan with | some r => r.unit == some u | none => false
  x.slot.isSome.toNat + (decide (u < s.rsv)).toNat * 2 + res.toNat * 4 + (if x.slot.isSome then x.rg else 0) * 65536

def State.unitAdm (s : State) (u : Nat) : Nat :=
  match (s.unit u).slot.bind s.slot with | some x => x.seq % 2 ^ 32 | none => 0

/-- SEQ_CSW_DATA[g][k] (R249): the word SEQ_CSW_ADDR names; a customer word reads 0 from RPL1. -/
def State.cswData (s : State) (g k : Nat) : Nat :=
  let a := s.fldOf (A.seqCswAddr g) 0 14
  if s.level = 2 ∨ (s.level = 1 ∧ 12288 ≤ a) then 0
  else if k < 4 then bits (s.csWord g a).toNat (32 * k) 32 else bits (s.csWord g a).toNat 128 4

/-- SEQ_ENT[g][e] (R249). -/
def State.seqEntNow (s : State) (g e : Nat) : Nat :=
  if 0 < s.level then 0 else leAt ((assoc (s.store g).entries e).getD []) 0 4

/-- SEQ_CHST[ch] (R249). -/
def State.chst (s : State) (ch : Nat) : Nat :=
  let c := s.chan ch
  (match c.run.bind c.ctx with
   | some x => x.pc + 2 ^ 14 + x.cust.isSome.toNat * 2 ^ 15 + x.id * 2 ^ 16 + x.stack.length * 2 ^ 22
   | none => 0) + c.unfrz.toNat * 2 ^ 25

/-- CH_STS (R204). -/
def State.chStsNow (s : State) (ch : Nat) : Nat :=
  let c := s.chan ch
  c.pll.toNat + c.zqOk.toNat * 2 + (s.quiet ch).toNat * 4 + (s.ovhViol ch).toNat * 8 + c.notLive * 16 +
  c.frozen.toNat * 256 + c.wp.toNat * 512 + c.trained.toNat * 1024

/-- CH_EYE (R212). -/
def State.eyeWord (s : State) (ch : Nat) : Nat :=
  let c := s.chan ch
  c.eyeW % 128 + c.eyeValid.toNat * 128 + c.eyeH * 256 + c.eyeTemp.toNat * 2 ^ 20 + c.eyeLane * 2 ^ 28

/-- CH_PBUF[k]: content beyond BYTES is undefined, so a free value (R207). -/
def State.pbufWord (s : State) (ch k : Nat) : Nat :=
  let c := s.chan ch
  leNat ((c.pbuf.take c.opBytes ++ zeros (4 * k)).drop (4 * k) |>.take 4) +
  (let have_ := min 4 (c.opBytes - 4 * k)
   if have_ = 4 then 0 else s.freeVal.toNat / 2 ^ (8 * have_) * 2 ^ (8 * have_))

/-! ## One register -/

/-- What a row's read-only register holds; none for a register whose value is the one last written. An overhead above 65,535 ns is
published modulo 65,536 in its 16 bits (DESIGN CHOICE, log entry 100; R196 gives no value there). -/
def State.status (s : State) (base : Nat) (is : List Nat) : Option Nat :=
  let i := is.getD 0 0
  let j := is.getD 1 0
  let at_ := fun (x : Nat) => base == x
  if at_ A.glbInitStatus then some s.initSts
  else if at_ A.glbApply then some s.applySts
  else if at_ A.glbPwrSts then some s.pwrSts
  else if at_ A.glbSmokeSts then some (s.smoke.step + s.smoke.done.toNat * 16 + s.smoke.entries.length * 65536)
  else if at_ (A.secId 0) then some (s.secId i)
  else if at_ A.secOptMask then some (match s.init.area with | some a => a.mask.toNat | none => 0)
  else if at_ A.secRplSts then some (s.level + s.lowering.toNat * 4 + s.init.result * 16 + s.init.refuse * 256)
  else if at_ A.secSanSts then some s.sanSts
  else if at_ (A.secKsValid 0) then some (s.ksValid i)
  else if at_ A.hqArTail then some s.alert.tail
  else if at_ A.hqSlotUsed then some s.slots.length
  else if at_ (A.hqQpSts 0) then some (s.qpSts i)
  else if at_ (A.hqLsSts 0) then some ((decide (i ∈ s.rlv.lsBad)).toNat + (s.lsIdle i).toNat * 2)
  else if at_ (A.hqBrHead 0) then some (s.ring i).head
  else if at_ (A.hqBrSts 0) then some (s.brSts i)
  else if at_ (A.admRailHeld 0) then some (s.heldTokens i true + s.heldTokens i false * 65536)
  else if at_ (A.ntfClaim 0) then some ((s.bestCand i).getD 0)
  else if at_ (A.ntfTgtSts 0) then some (s.tgtSts i)
  else if at_ (A.wglHeld 0) then some (s.wglHeldNow i)
  else if at_ A.wglSts then some s.wglStsNow
  else if at_ (A.wglTmrSts 0) then some ((s.timer i).elapsed % 2 ^ 28 + (s.timer i).run.toNat * 2 ^ 28)
  else if at_ A.movSts then some s.movStsNow
  else if at_ A.movOstoreUsed then some (s.mover.ostGen / 16 + s.mover.ostBnd / 16 * 65536)
  else if at_ A.movOstoreCfg then s.mover.ostPend.map BitVec.toNat
  else if at_ (A.movSqSts 0) then some (s.sqStsNow i)
  else if at_ (A.memRrepData 0) then some ((assoc s.mem.rrep (s.rrepKey i)).getD 0).toNat
  else if at_ (A.memCelA 0) then some (s.celA i)
  else if at_ (A.memCelB 0) then some (s.celB i)
  else if at_ (A.eccFmt 0) then
    some (setFld (s.applied (A.eccFmt i)) 30 1 (s.fmtNow i).layoutOk.toNat).toNat
  else if at_ (A.rlvTblData 0) then some (s.tblData i)
  else if at_ A.rlvTblLg then some s.tblLg
  else if at_ A.rlvSmokeDie then (s.pendAct A.rlvSmokeDie 0).map fun v => (Reg.merge [Reg.f 0 11, Reg.f 16 1] 0 v).toNat
  else if at_ (A.rlvLwRo 0) then some (s.reg (A.rlvLwRo i) &&& ~~~ ((s.pendAct (A.rlvLwRo i) 0).getD 0)).toNat
  else if at_ (A.chCtl 0) then (s.pendAct (A.chCtl i) 0).map fun v => ((v &&& 0x4F) ||| (s.reg (A.chCtl i) &&& 0x30)).toNat
  else if at_ (A.rlvTemp 0) then some (s.tempWord i)
  else if at_ (A.rlvCalPos 0) then some (s.calPos i)
  else if at_ (A.rlvCalId 0) then some (s.calId i)
  else if at_ A.rlvFgSts then some s.fgSts
  else if at_ A.rlvFgPosLo then some (s.fg.pos % 2 ^ 32)
  else if at_ (A.rlvFgPosLo + 4) then some (s.fg.pos / 2 ^ 32)
  else if at_ A.rlvFgTotalLo then some (s.fg.total % 2 ^ 32)
  else if at_ (A.rlvFgTotalLo + 4) then some (s.fg.total / 2 ^ 32)
  else if at_ A.cmbStageSts then some (s.bcwEff + s.holdEff * 256)
  else if at_ (A.cmbUnitSts 0) then some (s.unitSts i)
  else if at_ (A.cmbUnitAdm 0) then some (s.unitAdm i)
  else if at_ (A.cmbHeld 0) then some (s.heldCws i)
  else if at_ (A.seqSts 0) then some ((s.store i).restoring.toNat + (s.store i).csErr.toNat * 2)
  else if at_ (A.seqCswData 0 0) then some (s.cswData i j)
  else if at_ (A.seqEnt 0 0) then some (s.seqEntNow i j)
  else if at_ (A.seqChst 0) then some (s.chst i)
  else if at_ (A.seqMc 0) then some (s.chan i).mc
  else if at_ (A.seqCfault 0) then some ((s.chan i).cfReason + (s.chan i).cfAddr * 16 + (s.chan i).cfEntry * 2 ^ 18)
  else if at_ (A.chSts 0) then some (s.chStsNow i)
  else if at_ (A.chOvh0 0) then some (nsUp (s.ovR i) % 65536 + s.ovSns i % 65536 * 65536)
  else if at_ (A.chOvh1 0) then some (nsUp (s.ovP i) % 65536 + nsUp (s.ovE i) % 65536 * 65536)
  else if at_ (A.chOpSts 0) then some ((s.chan i).op.isSome.toNat + (s.chan i).opRes * 16 + (s.chan i).opBytes * 256)
  else if at_ (A.chEye 0) then some (s.eyeWord i)
  else if at_ (A.chPbuf 0 0) then some (s.pbufWord i j)
  else none

/-- A read of the register at an MPORT offset, without side effect: 0 where there is no register (R61), and for a
write-only one (R12). -/
def State.readReg (s : State) (a : Nat) : Word :=
  match Reg.find a with
  | none => 0
  | some (r, is) =>
    if r.acc = .wo ∨ !s.instOk r is then 0
    else match s.status r.base is with
      | some n => BitVec.ofNat 32 n
      | none => if Reg.pairBase a ∨ (4 ≤ a ∧ Reg.pairBase (a - 4)) then s.reg a else s.applied a

/-- The value of a pair (R15): the halves in effect, or what the block presents. -/
def State.readPair (s : State) (lo : Nat) : Word × Word :=
  let half := fun (a : Nat) => match Reg.find a with
    | some (r, is) => if s.instOk r is then (match s.status r.base is with | some n => BitVec.ofNat 32 n | none => s.reg a) else 0
    | none => 0
  (half lo, half (lo + 4))

end Sys2Proof.Machine
end

