-- ==== Sys2Proof/Machine/Init.lean ====
section
/-!
DEFINITION. The option port (R63 to R66), the option area (R424 to R430), the reset sequence up to the fill (R422) and
lowering of the protection level (R432 to R434).
-/

namespace Sys2Proof.Machine

/-! ## Requests on the option port -/

/-- The block drives OPT_REQ, once OPT_ACK is 0 (R64). An acknowledge that rises first counts only after it has fallen (R66). -/
def optRequest (s : State) (code : Nat) : State :=
  { s with init := { s.init with optReq := if s.init.optAck then 0 else code, want := if s.init.optAck then code else 0,
                                 armed := !s.init.optAck, loading := false, header := [] } }

/-- Step 1 of the reset sequence (R422). -/
def startLoad (s : State) : State :=
  optRequest { s with init := { s.init with phase := 1, err := 0, lowering := .none } } 1

/-- Step 3 of a lowering: the area is loaded again (R434). -/
def lowerLoad (s : State) : State :=
  optRequest { s with init := { s.init with lowering := .load } } 1

/-- A lowering ends with a RESULT and PHASE is 7 again; one accepted before INIT_DONE returns to step 1 of the reset
sequence (log entry 53). -/
def lowerEnd (s : State) (result : Nat) : State :=
  let s1 := { s with init := { s.init with lowering := .none, result := result, phase := 7, optReq := 0, want := 0, loading := false, header := [] } }
  if s.init.done then s1 else startLoad s1

/-- A load fails with an ERR code (R423, R425): the sequence stops in its phase; a lowering ends with LOAD_FAIL. The
failed load is counted either way. In a lowering ERR stays 0, since RESULT reports it (log entry 52). -/
def loadFail (s : State) (err : Nat) : State :=
  let s1 := s.bump A.glbOptFailCnt
  if s.lowering then lowerEnd s1 3
  else { s1 with init := { s1.init with err := err, optReq := 0, want := 0, loading := false, header := [] } }

/-- OPT_ACK rises (R64, R65): a load starts to take bytes, or the request phase of a rewrite ends. -/
def ackRise (s0 : State) : State :=
  let s := { s0 with init := { s0.init with optAck := true } }
  if s0.init.optAck ∨ !s.init.armed then s
  else if s.init.optReq = 1 then
    { s with init := { s.init with loading := true, header := [], phase := if s.lowering then s.init.phase else 2 } }
  else if s.init.optReq = 2 then { s with init := { s.init with optReq := 0 } }
  else s

/-- OPT_ACK falls: a load that is still taking bytes fails (R66, ERR 5); a request that found it high may now be
acknowledged; a rewrite goes on to its load (R65). -/
def ackFall (s0 : State) : State :=
  let s := { s0 with init := { s0.init with optAck := false, armed := true } }
  if s.init.loading then loadFail s 5
  else if s.init.want ≠ 0 then optRequest s s.init.want
  else if s.init.lowering = .rewrite ∧ s.init.optReq = 0 then lowerLoad s
  else s

/-! ## The area (R424, R425) -/

/-- The sections of an area: TYPE and body. -/
def sections : Nat → List Byte → Option (List (Nat × List Byte))
  | 0, _ => none
  | f + 1, l =>
    if l.isEmpty then some []
    else
      let n := leAt l 2 2
      if l.length < 4 ∨ leAt l 1 1 ≠ 0 ∨ n % 4 ≠ 0 ∨ l.length < 4 + n then none
      else (sections f (l.drop (4 + n))).map fun r => (leAt l 0 1, (l.drop 4).take n) :: r

/-- Every byte of a span is 0. -/
def allZero (l : List Byte) (o n : Nat) : Bool := leAt l o n == 0

/-- The words of a body. -/
def wordsOf (l : List Byte) : List Nat := (List.range (l.length / 4)).map fun i => leAt l (4 * i) 4

/-- The body of a section meets R424 and R427 to R429: its length, and its reserved fields are 0. -/
def sectionOk (groups : Nat) (x : Nat × List Byte) : Bool :=
  let n := x.2.length
  if x.1 = 1 then n == 4
  else if x.1 = 2 then n == 4 && decide (leAt x.2 0 1 ≤ 1) && allZero x.2 1 3
  else if x.1 = 3 then decide (4 ≤ n) && decide (n ≤ 2048) && (wordsOf x.2).all fun w => bits w 10 6 == 0 && bits w 29 2 == 0
  else if x.1 = 4 then n == 128 && allZero x.2 0x1C 36 && allZero x.2 0x60 28 && decide (leAt x.2 7 1 ≤ 1)
  else if x.1 = 5 then decide (8 ≤ n) && decide (n ≤ 3920) && n % 8 == 0
  else if x.1 = 6 then n == 16 * groups && (List.range groups).all fun g => allZero x.2 (16 * g + 4) 12
  else false

/-- The body of the section of a type. -/
def sectionOf (l : List (Nat × List Byte)) (t : Nat) : List Byte := (assoc l t).getD []

/-- ERR of an area whose bytes have all arrived; 0 when it is good (R425). -/
def areaErr (groups : Nat) (l : List Byte) : Nat :=
  if leAt l 8 4 ≠ crc32c (l.take 8 ++ zeros 4 ++ l.drop 12) then 3
  else match sections 1024 (l.drop 16) with
    | none => 4
    | some x =>
      let ts := x.map Prod.fst
      if leAt l 7 1 ≠ 1 ∨ leAt l 12 4 ≠ 0 ∨ leAt l 6 1 ≠ x.length ∨ !x.all (sectionOk groups) ∨
         ts.eraseDups.length ≠ ts.length ∨ 1 ∉ ts ∨ 2 ∉ ts ∨ 4 ∉ ts then 4
      else
        let id := sectionOf x 4
        if leAt id 0 4 ≠ 0x31494447 ∨ leAt id 0x7C 4 ≠ crc32c (id.take 0x7C) then 7 else 0

/-- What a good area gives the block. -/
def mkArea (groups : Nat) (l : List Byte) : OptArea :=
  let x := (sections 1024 (l.drop 16)).getD []
  let id := sectionOf x 4
  let d := wordsOf (sectionOf x 5)
  { mask := BitVec.ofNat 32 (leAt (sectionOf x 1) 0 4), rpl := leAt (sectionOf x 2) 0 1, rpl2 := leAt id 7 1 == 1, idRow := id,
    repair := (wordsOf (sectionOf x 3)).map (BitVec.ofNat 32),
    defaults := (List.range (d.length / 2)).map fun i => (d.getD (2 * i) 0, BitVec.ofNat 32 (d.getD (2 * i + 1) 0)),
    phyTrim := if (assoc x 6).isSome then sectionOf x 6 else zeros (16 * groups) }

/-- Bytes 0 to 7 have arrived (R425): MAGIC, then LENGTH. -/
def headerTaken (s : State) (h : List Byte) : State :=
  if !s.init.loading ∨ s.init.header ≠ [] ∨ h.length ≠ 8 then s
  else
    let s1 := { s with init := { s.init with header := h } }
    let n := leAt h 4 2
    if leAt h 0 4 ≠ 0x314F4347 then loadFail s1 1
    else if n < 164 ∨ 4096 < n ∨ n % 4 ≠ 0 then loadFail s1 2
    else s1

/-- The last byte has arrived: the area is used, or not in any part (R425). A lowering uses only its RPL section (R434). -/
def areaLoaded (s : State) (rest : List Byte) : State :=
  if !s.init.loading ∨ s.init.header = [] ∨ 8 + rest.length ≠ leAt s.init.header 4 2 then s
  else
    let l := s.init.header ++ rest
    let err := areaErr (Config.groups s.build) l
    if err ≠ 0 then loadFail s err
    else
      let a := mkArea (Config.groups s.build) l
      if s.lowering then
        let s1 := lowerEnd s (if a.rpl = 0 then 1 else 2)
        if a.rpl = 0 then { s1 with init := { s1.init with rplSec := 0, raised := false } } else s1
      else
        let pll := s.init.pll
        { s with init := { s.init with area := some a, rplSec := a.rpl, kek := deriveKek a.idRow, optReq := 0, loading := false,
                                       phase := if pll then 5 else 4, pllAt := s.aclk } }

/-- GLB_INIT_CTL.RELOAD (R423): restarts at step 1 unless ERR is 0. -/
def reloadWrite (s : State) : State := if s.init.err = 0 then s else startLoad s

/-! ## Protection level (R432 to R434) -/

/-- SEC_RPL_CTL.RAISE (R432): RPL0 becomes RPL1 until PORST_N. -/
def rplRaise (s : State) : State :=
  if s.level = 0 then { s with init := { s.init with raised := true } } else s

/-- A request to lower is refused. -/
def rplRefuse (s : State) (why : Nat) : State := { s with init := { s.init with result := 4, refuse := why, keyArmed := false } }

/-- The second keyed write (R433): the first condition that fails refuses it. -/
def rplJudge (s : State) (paired : Bool) : State :=
  if s.level ≠ 1 then rplRefuse s 1
  else if !s.slots.isEmpty then rplRefuse s 2
  else if s.qps.any (fun q => s.qpEn q.qid) then rplRefuse s 3
  else if s.san.busy then rplRefuse s 4
  else if !paired then rplRefuse s 5
  else { s with init := { s.init with lowering := .zeroize, phase := 9, result := 0, refuse := 0, keyArmed := false } }

/-- A write of SEC_RPL_REQ through MPORT (R433; log entry 53): the first key arms the pair, the second is judged, any other
value refuses. While a lowering runs a write has no effect. -/
def rplReq (s : State) (v : Word) : State :=
  if s.lowering then s
  else if v = 0x000052B0 then
    let s1 := if s.init.keyArmed then rplRefuse s 5 else s
    { s1 with init := { s1.init with keyArmed := true } }
  else if v = 0x00004F7A then rplJudge s s.init.keyArmed
  else rplRefuse s 5

/-- Any other MPORT write breaks a pair that has begun. -/
def keyBreak (s : State) : State := { s with init := { s.init with keyArmed := false } }

/-- The zeroization of R434 ends: keys, customer regions and entry tables, scan contexts, slots and queue contexts are 0
with valid check bits, the I/O queue pairs are gone, and the rewrite is requested. -/
def zeroizeDone (s : State) : State :=
  if s.init.lowering ≠ .zeroize then s
  else
    let wipe := fun (x : Store) => { x with words := x.words.filter (fun e => decide (e.1 < 12288)), entries := [] }
    let gone := fun (x : Nat × Nat × Nat) => x.1 == 2 || x.1 == 4 || x.1 == 6 || x.1 == 7 || (x.1 == 5 && decide (12288 ≤ x.2.2))
    let s1 := { s with keys := [], scanCtx := [], slots := [], qps := [QP.fresh 0], stores := s.stores.map wipe,
                       mem := { s.mem with poison := s.mem.poison.filter fun x => !gone x } }
    let s2 := (List.range 4).foldl clearCaches s1
    optRequest { s2 with init := { s2.init with lowering := .rewrite } } 2

/-! ## Meanings -/

/-- A pin command acts on a held block only by its level: the option port is idle while a reset is low (R74). -/
def ackPin (s : State) (up : Bool) : State :=
  if s.held then { s with init := { s.init with optAck := up } } else if up then ackRise s else ackFall s

/-- OPT_ACK_RISE. -/
def execOptAckRise (s : State) : Host.Outcome State Fault Refusal := runPin s fun s => ackPin s true
/-- OPT_ACK_FALL. -/
def execOptAckFall (s : State) : Host.Outcome State Fault Refusal := runPin s fun s => ackPin s false
/-- OPTION_HEADER_TAKEN. -/
def execOptionHeaderTaken (header : List Byte) (s : State) : Host.Outcome State Fault Refusal :=
  run true s fun s => headerTaken s header
/-- OPTION_AREA_LOADED. -/
def execOptionAreaLoaded (rest : List Byte) (s : State) : Host.Outcome State Fault Refusal :=
  run true s fun s => areaLoaded s rest
/-- REFERENCE_PLL_LOCK: step 4 ends, unless it has timed out (R422). -/
def execReferencePllLock (s : State) : Host.Outcome State Fault Refusal :=
  run true s fun s =>
    if s.init.phase = 4 ∧ s.init.err = 0 then { s with init := { s.init with pll := true, phase := 5 } } else s
/-- PLL_LOCK_TIMEOUT: after 100 µs of step 4, ERR 6 (R422, R423). -/
def execPllLockTimeout (s : State) : Host.Outcome State Fault Refusal :=
  run true s fun s =>
    if s.init.phase = 4 ∧ s.init.err = 0 ∧ 100 ≤ s.aclk - s.init.pllAt then { s with init := { s.init with err := 6 } } else s
/-- ZEROIZE_DONE. -/
def execZeroizeDone (s : State) : Host.Outcome State Fault Refusal := run true s zeroizeDone

end Sys2Proof.Machine
end

