-- ==== Sys2Proof/Machine/RegWrite.lean ====
section
/-!
DEFINITION. Register accesses (R12 to R15, R27 to R36, R57 to R62, R144 to R146): which are refused, what a write does to
its register, pairs, when writes take effect, and the two register masters.
-/

namespace Sys2Proof.Machine

/-! ## Who may reach what -/

/-- Regions of the register map (R444). -/
def inRegion (a : Nat) : Bool := decide (a < 0x0C0000) || (decide (0x100000 ≤ a) && decide (a < 0x140000))

/-- Regions reached by the mirror: HQ, ADM and NTF (R56, R444). -/
def mirrored (a : Nat) : Bool := decide (0x020000 ≤ a) && decide (a < 0x050000)

/-- The row of a register. -/
def rowBase (a : Nat) : Option Nat := (Reg.find a).map fun x => x.1.base

/-- An MPORT access is DENIED (R61, R432). -/
def State.denied (s : State) (a : Nat) : Bool :=
  (!s.init.done && inRegion a && decide (0x020000 ≤ a)) ||
  (s.level == 2 && (a == A.secRplReq || rowBase a == some (A.seqCswData 0 0) || rowBase a == some (A.seqEnt 0 0)))

/-! ## Waking (R62, R438) -/

/-- A wake begins: the phase WAKE runs the fill. With KCLK stopped by the integrator it waits for the clock. -/
def startWake (s : State) : State :=
  if s.power.st ≠ .p2 ∨ s.power.waking then s
  else if s.power.clkStop then { s with power := { s.power with waitClk := true } }
  else { s with power := { s.power with waking := true, waitClk := false, filled := false }, init := { s.init with phase := 8 } }

/-- The answer MPORT gives. -/
def mpAnswer (s : State) (refused : Bool) (v : Word) : State := { s with answer := { refused := refused, data := v } }

/-- An MPORT access to an offset (R59 to R62): in P2 it is held and starts a wake; in P1 it first returns the block to P0; it is
DENIED without effect, or served. -/
def mpServe (s : State) (a : Nat) (write : Bool) (v : Word) (serve : State → State) : State :=
  if s.power.st = .p2 then
    startWake { s with power := { s.power with mpHeld := s.power.mpHeld.orElse fun _ => some (a, write, v) } }
  else
    let s1 := leaveP1 s
    if s1.denied a then mpAnswer s1 true 0 else serve s1

/-! ## What a write lays into a register -/

/-- The sum of SHARE over LC0 to LC6 with one class at a new value. -/
def State.shareSum (s : State) (c : Nat) (v : Word) : Nat :=
  ((List.range 7).map fun i => fld (if i = c then v else s.applied (A.admCls i)) 16 8).sum

/-- Fields `f` keep their previous values in a write that would give them a reserved combination (R13). -/
def keep (old new : Word) (fs : List (Nat × Nat)) : Word := fs.foldl (fun v f => setFld v f.1 f.2 (fld old f.1 f.2)) new

/-- The value a write leaves in an RW register: its row's fields over the old value, with the combinations that the rules
of single registers reserve, and the writes that have no effect. -/
def State.fixWrite (s : State) (r : RegRow) (is : List Nat) (old v : Word) : Word :=
  let new := Reg.merge r.flds old v
  let i := is.getD 0 0
  let at_ := fun (x : Nat) => r.base == x
  if at_ (A.chTrimTemp 0) || at_ A.rlvTempPt then (if risingPoints new then new else old)
  else if at_ (A.admCls 0) then (if 256 < s.shareSum i new then keep old new [(16, 8)] else new)
  else if at_ A.admCombCfg then
    (if Config.combUnits s.build ≤ fld new 0 5 || decide (s.ostSize < s.ostBrsv * fld new 0 5) then old else new)
  else if at_ (A.rlvLadCfg 0) then (if fld new 12 4 ≤ fld new 8 4 then keep old new [(8, 4), (12, 4)] else new)
  else if at_ (A.rlvDtB 0) then
    (if sbyte (fld new 16 8) < sbyte (fld new 8 8) then keep old new [(8, 8), (16, 8)] else new)
  else if at_ (A.rlvDtZoneA 0) then
    (if fld new 0 12 < fld new 16 12 ∧ fld new 16 12 < fld (s.applied (A.rlvDtZoneB i)) 0 12 then new else old)
  else if at_ (A.rlvDtZoneB 0) then (if fld (s.applied (A.rlvDtZoneA i)) 16 12 < fld new 0 12 then new else old)
  else if at_ A.rlvCalCfg then (if fld new 0 7 % (fld new 8 3 + 1) = 0 then new else keep old new [(0, 7)])
  else if at_ (A.wglTempTh 0) then
    (if sbyte (fld new 8 8) < sbyte (fld new 0 8) then new else keep old new [(8, 8)])
  else if at_ A.wglGrpCtl then new &&& BitVec.ofNat 32 (2 ^ Config.groups s.build - 1)
  else if at_ (A.ntfSrcCfg 0) then (if Config.nested s.build then new else setFld new 0 4 0)
  else if at_ (A.ntfSrcEn 0 0) then
    (let j := is.getD 1 0
     if j = 0 then new &&& 0xFFFFFFFE else if j = 1 then new &&& 0x0000001F else new)
  else if at_ (A.hqQpQuota 0) then
    (if i ≠ 0 ∧ Config.slotCount - Config.slotsReserved < fld new 0 17 then old else new)
  else if at_ (A.hqLsDie 0 0) || at_ (A.hqLsReg 0) || at_ (A.hqLsTail 0) || at_ (A.hqLsAseq 0) then
    (if s.lsEn i then old else new)
  else if at_ (A.chTset 0 0 0) then (if s.tsel i = is.getD 1 0 then old else new)
  else new

/-- The registers of a queue pair exist only while it does (R451). -/
def State.qpRegOk (s : State) (r : RegRow) (is : List Nat) : Bool :=
  if r.base = A.hqQpArb 0 ∨ r.base = A.hqQpQuota 0 ∨ r.base = A.hqQpCqfullCnt 0 ∨ r.base = A.hqQpPhstallCnt 0 then
    (s.qp (is.getD 0 0)).isSome
  else true

/-- Channels or stages that have a boundary of their own to pass before a write is in effect everywhere (R29): for an ECC
setting the entries of the read and write paths, for the decode controls the hard decoders and the soft decoders. -/
def State.boundaryOf (s : State) (r : RegRow) (is : List Nat) : List Nat :=
  let all := List.range (Config.channels s.build)
  match r.bnd with
  | .immediate => []
  | .fetch => [0]
  | .instr => match instChan r is with
    | some c => [c]
    | none => match instGroup r is with
      | some g => (groupChans g).filter (· ∈ all)
      | none => all
  | .codeword =>
    if r.base / 0x10000 = 6 then [stMover]
    else if r.base / 0x10000 = 10 then [stComb]
    else if r.base = A.eccWseqLo ∨ r.base = A.eccWseqLo + 4 then [stWseq]
    else if r.base = A.rlvDecCfg then all.map stHard ++ [stSoft]
    else if r.base = A.eccCtl then all.map stHard
    else all ++ all.map stWrite

/-- A value written to a register takes effect at its boundary, or at once (R29 to R31). -/
def applyWrite (s : State) (r : RegRow) (is : List Nat) (a : Nat) (v : Word) : State :=
  if r.bnd = .immediate then s.setReg a v
  else { s with pend := s.pend ++ [{ bnd := r.bnd, addr := a, val := v, left := s.boundaryOf r is }] }

/-- A producer whose threshold or configuration is written is armed (R408). -/
def rearm (s : State) (ps : List Nat) : State := { s with wgl := { s.wgl with unarmed := s.wgl.unarmed.filter (· ∉ ps) } }

/-- A write of a register without its own behaviour: RW fields, W1C bits, nothing else (R12). -/
def plainWrite (s : State) (r : RegRow) (is : List Nat) (a : Nat) (v : Word) : State :=
  match r.acc with
  | .rw =>
    if !s.qpRegOk r is then s
    else
      let s1 := applyWrite s r is a (s.fixWrite r is (s.applied a) v)
      if r.base = A.wglTempTh 0 then (let g := is.getD 0 0; tempCheck (rearm s1 [32 + g, 36 + g]) g)
      else if r.base = A.wglRingCfg 0 then rearm s1 [49 + is.getD 0 0]
      else s1
  | .w1c => s.setReg a (s.reg a &&& ~~~ (Reg.merge r.flds 0 v))
  | .ro => s
  | .wo => s
  | .rc => s

/-! ## Registers with their own behaviour -/

/-- A write of GLB_PWR_CTL (R436, R438). A new request is served by P1_ENTRY or P2_ENTRY once its conditions hold. -/
def pwrCtlWrite (s : State) (v : Word) : State :=
  s.setReg A.glbPwrCtl (Reg.merge [Reg.fr 0 2 0 2, Reg.f 2 1, Reg.fr 16 16 1 65535] (s.reg A.glbPwrCtl) v)

/-- A write of WGL_FIRE (R406). -/
def fireWrite (s : State) (v : Word) : State := s.each ((List.range 32).filter (bit v.toNat)) (fireChan true)

/-- WGL_TMR_CTL.START: the timer runs from 0 at the next ACLK edge (R410). -/
def timerArm (s : State) (k : Nat) : State := s.setTimer { s.timer k with arm := true }

/-- A stop halts a timer without a pulse (R410). -/
def timerHalt (s : State) (k : Nat) : State := s.setTimer { s.timer k with run := false, arm := false }

/-- A write of WGL_TMR_CTL: with START in the same write, STOP prevails (R421). -/
def timerWrite (s : State) (k : Nat) (v : Word) : State :=
  if bit v.toNat 1 then timerHalt s k else if bit v.toNat 0 then timerArm s k else s

/-- A write of MEM_RREP_DATA[e]: its MEM, INST and BG must be those of the selection, which names a bank group (R381). -/
def rrepWrite (s : State) (e : Nat) (v : Word) : State :=
  let n := v.toNat
  if bits n 16 4 = s.rrepSel.1 ∧ bits n 20 5 = s.rrepSel.2.1 ∧ bits n 25 4 = s.rrepSel.2.2 ∧
     s.rrepSel.2.1 < memInsts s.build s.rrepSel.1 ∧ s.rrepSel.2.2 < memBgs s.rrepSel.1 then
    let w := v &&& 0x9FFF03FF
    { s with mem := { s.mem with rrep := if w = 0 then delBy Prod.fst (s.rrepKey e) s.mem.rrep
                                        else putBy Prod.fst (s.rrepKey e, w) s.mem.rrep } }
  else s

/-- A value of MOV_OSTORE_CFG waits until the output store is empty and no SCAN is unfinished (R362). -/
def ostoreWrite (s : State) (v : Word) : State :=
  let old := s.mover.ostPend.getD (s.reg A.movOstoreCfg)
  ostTake { s with mover := { s.mover with ostPend := some (Reg.merge [Reg.fr 0 6 0 32, Reg.fr 8 6 0 32] old v) } }

/-- A write of MOV_CTL (R373). -/
def movCtlWrite (s : State) (v : Word) : State :=
  let s1 := if bit v.toNat 0 then movAbort s else s
  if bit v.toNat 1 && s1.mover.aborted then { s1 with mover := { s1.mover with aborted := false } } else s1

/-- A write of SEQ_CTL[g] (R248). -/
def seqCtlWrite (s : State) (g : Nat) (v : Word) : State :=
  let s1 := if bit v.toNat 0 then restoreRom s g else s
  if bit v.toNat 1 then clearCaches s1 g else s1

/-- A write to a register with its own behaviour; none where the register has none. -/
def actWrite (s : State) (base i : Nat) (v : Word) : Option State :=
  let at_ := fun (x : Nat) => base == x
  let on := fun (b : Nat) => bit v.toNat b
  if at_ A.glbInitCtl then some (if on 0 then reloadWrite s else s)
  else if at_ A.glbPwrCtl then some (pwrCtlWrite s v)
  else if at_ A.secRplCtl then some (if on 0 then rplRaise s else s)
  else if at_ A.secRplReq then some (rplReq s v)
  else if at_ A.hqAqCfg then some (aqCfg s v)
  else if at_ A.hqArCfg then some (arCfg s v)
  else if at_ A.hqArHead then some (arHeadWrite s v)
  else if at_ (A.hqQpCtl 0) then some (setQpEn s i (on 0))
  else if at_ (A.hqLsCtl 0) then some (lsCtlWrite s i v)
  else if at_ (A.hqBrCfg 0) then some (brCfg s i v)
  else if at_ (A.hqBrKick 0) then some (if on 0 then kickRing s i else s)
  else if at_ (A.ntfComplete 0) then some (complete s i (fld v 0 11))
  else if at_ (A.ntfTgtSts 0) then some (if on 1 then s.setTgt { s.tgt i with msgErr := false } else s)
  else if at_ A.wglFire then some (fireWrite s v)
  else if at_ (A.wglTmrCtl 0) then some (timerWrite s i v)
  else if at_ A.movCtl then some (movCtlWrite s v)
  else if at_ A.movOstoreCfg then some (ostoreWrite s v)
  else if at_ (A.movSqCtl 0) then some (if on 0 then flushWrite s i else s)
  else if at_ (A.memRrepData 0) then some (rrepWrite s i v)
  else if at_ (A.memCelB 0) then
    some (if on 8 then { s with mem := { s.mem with log := delBy CeEntry.i i s.mem.log } } else s)
  else if at_ (A.rlvTblData 0) then some (tblWrite s i v)
  else if at_ A.rlvTblLg then some (lgWrite s v)
  else if at_ A.rlvSmokeDie then some (smokeWrite s v)
  else if at_ (A.rlvLwRo 0) then some (lwRoWrite s (A.rlvLwRo i) v)
  else if at_ (A.seqCtl 0) then some (seqCtlWrite s i v)
  else if at_ (A.seqChctl 0) then some (if on 0 then unfreezeWrite s i else s)
  else if at_ (A.chCtl 0) then some (chCtlWrite s i v)
  else if at_ (A.chOp 0) then some (chOpWrite s i v)
  else none

/-! ## Pairs (R15) -/

/-- What the block keeps for a pair and a master. -/
def State.pairOf (s : State) (lo : Nat) (m : Master) : PairState :=
  (s.pairs.find? fun x => x.addr == lo && x.master == m).getD { addr := lo, master := m, staged := none, capHi := none }

def State.setPair (s : State) (x : PairState) : State :=
  let rest := s.pairs.filter fun y => !(y.addr == x.addr && y.master == x.master)
  { s with pairs := if x.staged.isNone && x.capHi.isNone then rest else rest ++ [x] }

/-- A write of _LO only stages. -/
def pairStage (s : State) (lo : Nat) (m : Master) (v : Word) : State := s.setPair { s.pairOf lo m with staged := some v }

/-- A pair accepts a write: the admin bases while QP 0 is disabled and idle (R95), the alert ring's and a buffer ring's base
while the ring is disabled (R103, R353). -/
def State.pairOpen (s : State) (lo : Nat) : Bool :=
  if lo = A.hqAqSqbLo ∨ lo = A.hqAqCqbLo then s.aqFree
  else if lo = A.hqArBaseLo then !s.arEn
  else if A.hqBrBaseLo 0 ≤ lo ∧ lo < A.hqBrBaseLo 256 then !s.brEn ((lo - A.hqBrBaseLo 0) / 32)
  else true

/-- A write of _HI: the whole value takes effect at the pair's boundary with the master's staged low half, or the low half
in effect, and the staged half is cleared. -/
def pairCommit (s : State) (lo : Nat) (m : Master) (v : Word) : State :=
  let p := s.pairOf lo m
  let s1 := s.setPair { p with staged := none }
  match Reg.find lo, Reg.find (lo + 4) with
  | some (r0, i0), some (r1, i1) =>
    if r0.acc = .rw ∧ s1.pairOpen lo then
      let low := match p.staged with | some w => Reg.merge r0.flds (s1.reg lo) w | none => s1.reg lo
      applyWrite (applyWrite s1 r0 i0 lo low) r1 i1 (lo + 4) (Reg.merge r1.flds (s1.reg (lo + 4)) v)
    else s1
  | _, _ => s1

/-- A read of _LO returns the low half in effect and captures the whole value for its master. -/
def pairReadLo (s : State) (lo : Nat) (m : Master) : Word × State :=
  ((s.readPair lo).1, s.setPair { s.pairOf lo m with capHi := some (s.readPair lo).2 })

/-- A read of _HI returns the captured upper half and releases it, or the live upper half. -/
def pairReadHi (s : State) (lo : Nat) (m : Master) : Word × State :=
  let p := s.pairOf lo m
  match p.capHi with
  | some h => (h, s.setPair { p with capHi := none })
  | none => ((s.readPair lo).2, s)

/-! ## One write -/

/-- The block applies a write to the register at an offset (R13, R27): nothing where there is no register or its unit is
absent (R6, R61). -/
def writeReg (s : State) (m : Master) (a : Nat) (v : Word) : State :=
  match Reg.find a with
  | none => s
  | some (r, is) =>
    if !s.instOk r is then s
    else if Reg.pairBase a then pairStage s a m v
    else if 4 ≤ a ∧ Reg.pairBase (a - 4) then pairCommit s (a - 4) m v
    else match actWrite s r.base (is.getD 0 0) v with
      | some t => t
      | none => plainWrite s r is a v

/-- A mirror access is served when it names a register of a mirrored region, and answered ERR otherwise (R56, R57). -/
def mirrorServe (s : State) (a : Nat) (write : Bool) (v : Word) (f : State → Word × State) : State :=
  tpServe s (0x1000000 + a) write v fun s1 =>
    if mirrored a && (Reg.find a).isSome then (let r := f s1; tpRespond r.2 write false r.1) else tpErr s1 write

/-- One register access of a master; `f` gives the data read and the state after it. -/
def regAccess (s : State) (m : Master) (a : Nat) (write : Bool) (v : Word) (f : State → Word × State) : State :=
  match m with
  | .mport => mpServe s a write v fun s1 => (let r := f s1; mpAnswer (if write && a != A.secRplReq then keyBreak r.2 else r.2) false r.1)
  | .mirror => mirrorServe s a write v f

/-- What a read of an offset returns to a master, and the state after it: a claim, a half of a pair, or the register as it stands. -/
def readAccess (s : State) (m : Master) (a : Nat) : Word × State :=
  if A.ntfClaim 0 ≤ a ∧ a < A.ntfClaim 64 ∧ a % 64 = 0 then
    (let r := claim s ((a - A.ntfClaim 0) / 64); (BitVec.ofNat 32 r.1, r.2))
  else if Reg.pairBase a then pairReadLo s a m
  else if 4 ≤ a ∧ Reg.pairBase (a - 4) then pairReadHi s (a - 4) m
  else (s.readReg a, s)

/-- An access of a master to an offset: a read, or a write of a value. -/
def access (s : State) (m : Master) (a : Nat) (write : Bool) (v : Word) : State :=
  regAccess s m a write v fun t => if write then (0, writeReg t m a v) else readAccess t m a

/-- A mirror write of the register that MPORT writes in the same cycle is discarded (R144 to R146); the target port still
answers it with OK. -/
def collision (s : State) (a : Nat) (kept lost : Word) : State :=
  let s1 := s.bump A.glbCollideCnt
  tpRespond (s1.raise 9 0 (a % 2 ^ 24) (kept.toNat + lost.toNat * 2 ^ 32) (s1.regN A.glbCollideCnt)) true false 0

/-- One write, with the mirror write of the same register in the same cycle, if there is one. -/
def accessWrite (s : State) (m : Master) (a : Nat) (v : Word) (other : Option Word) : State :=
  let s1 := regAccess s m a true v fun t => (0, writeReg t m a v)
  match other with
  | some w =>
    if m = .mport ∧ s.power.st ≠ .p2 ∧ s.init.done ∧ mirrored a ∧ (Reg.find a).isSome then collision s1 a v w else s1
  | none => s1

/-! ## Meanings -/

/-- The frame of a register access: MPORT answers while a reset pin is low too (R74; DEDUCED, log entry
115); nothing does after a memory self-test. -/
def runBus (ok : Bool) (s : State) (f : State → State) : Host.Outcome State Fault Refusal :=
  if ok then .next (if s.pins.bist then s else after s (f s)) else .fault .noSuchUnit

/-- Offsets an access can carry: word addresses of the 16 MiB space. -/
def offsetOk (a : Nat) : Bool := decide (a < 0x1000000) && a % 4 == 0

/-- REGISTER_WRITE. A register with its own row does here what that row does. -/
def execRegisterWrite (master : Master) (offset : Nat) (value : Word) (collide : Option Word) (s : State) :
    Host.Outcome State Fault Refusal :=
  runBus (offsetOk offset) s fun s => accessWrite s master offset value collide

/-- WRITE_TAKES_EFFECT (R29): the fetch unit, one channel's sequencer, or one stage stands at its boundary. -/
def execWriteTakesEffect (hit : BoundaryHit) (s : State) : Host.Outcome State Fault Refusal :=
  run true s fun s => match hit with
    | .fetch => passFetch s
    | .instr ch => passInstr s ch
    | .codeword stage => passCw s stage

/-- REGISTER_PAIR_LO_WRITE. -/
def execRegisterPairLoWrite (master : Master) (offset : Nat) (value : Word) (s : State) : Host.Outcome State Fault Refusal :=
  runBus (Reg.pairBase offset) s fun s => accessWrite s master offset value none

/-- REGISTER_PAIR_HI_WRITE. -/
def execRegisterPairHiWrite (master : Master) (offset : Nat) (value : Word) (s : State) : Host.Outcome State Fault Refusal :=
  runBus (decide (4 ≤ offset) && Reg.pairBase (offset - 4)) s fun s => accessWrite s master offset value none

/-- REGISTER_PAIR_LO_READ. The access itself is the register bus read of R60; at an offset that is no pair it reads the register there,
or 0 where there is none (R61). -/
def execRegisterPairLoRead (master : Master) (offset : Nat) (s : State) : Host.Outcome State Fault Refusal :=
  runBus (offsetOk offset) s fun s => access s master offset false 0

/-- REGISTER_PAIR_HI_READ. -/
def execRegisterPairHiRead (master : Master) (offset : Nat) (s : State) : Host.Outcome State Fault Refusal :=
  runBus (decide (4 ≤ offset) && Reg.pairBase (offset - 4)) s fun s =>
    regAccess s master offset false 0 fun t => pairReadHi t (offset - 4) master

/-- An access to the notification page of the target port (R399, R402): `o` is the offset in the page. -/
def ntfPage (s : State) (t o : Nat) (write : Bool) (v : Word) : State :=
  tpServe s (0x400000 + 0x1000 * t + o) write v fun s1 =>
    if o = 0 then
      (if write then tpRespond s1 true false 0 else (let r := claim s1 t; tpRespond r.2 false false (BitVec.ofNat 32 r.1)))
    else if o = 4 then (if write then tpRespond (complete s1 t (fld v 0 11)) true false 0 else tpRespond s1 false false 0)
    else if write then tpRespond (writeReg s1 .mirror (A.ntfTgtSts t) v) true false 0
    else tpRespond s1 false false (s1.readReg (A.ntfTgtSts t))

/-- A read of a doorbell (R57): the value last recorded; one of a page without a queue pair answers ERR. -/
def bellRead (s : State) (tail : Bool) (qid : Nat) : State :=
  match s.qp qid with
  | none => tpErr s false
  | some q => tpRespond s false false (BitVec.ofNat 32 (if tail then q.bell else q.cqHead))

/-- A target-port request at a location of the window (R56, R57). -/
def tpRequest (s : State) (off : Nat) (write : Bool) (v : Word) : State :=
  if off < 0x400000 then
    tpServe s off write v fun t =>
      if write then doorbell (off % 0x1000 == 0) (off / 0x1000) v t else bellRead t (off % 0x1000 == 0) (off / 0x1000)
  else if off < 0x440000 then ntfPage s ((off - 0x400000) / 0x1000) (off % 0x1000) write v
  else if off < 0x1000000 then tpServe s off write v fun t => tpErr t write
  else access s .mirror (off - 0x1000000) write v

/-- NTF_CLAIM (R400, R402). -/
def execNtfClaim (path : ClaimPath) (target : Nat) (s : State) : Host.Outcome State Fault Refusal :=
  runBus (target < 64) s fun s => match path with
    | .registerBus => regAccess s .mport (A.ntfClaim target) false 0 fun t => let r := claim t target; (BitVec.ofNat 32 r.1, r.2)
    | .targetPort => ntfPage s target 0 false 0

/-- NTF_COMPLETE (R401, R402). -/
def execNtfComplete (path : ClaimPath) (target : Nat) (value : Word) (s : State) : Host.Outcome State Fault Refusal :=
  runBus (target < 64) s fun s => match path with
    | .registerBus => accessWrite s .mport (A.ntfComplete target) value none
    | .targetPort => ntfPage s target 4 true value

/-- A target-port request is one that R57 accepts: one enabled word of a single beat, at a doorbell of a queue pair that
exists, in a notification page, or at a mirrored register. The beat has 64 byte lanes; the lane is given by the offset. -/
def State.tpDefined (s : State) (off len enables : Nat) : Bool :=
  len == 0 && off % 4 == 0 && enables == 15 <<< (off % 64) &&
  (if off < 0x400000 then (off % 0x1000 == 0 || off % 0x1000 == 8) && (s.qp (off / 0x1000)).isSome
   else if off < 0x440000 then decide (off % 0x1000 ≤ 8)
   else decide (0x1000000 ≤ off) && mirrored (off - 0x1000000) && (Reg.find (off - 0x1000000)).isSome)

/-- TARGET_PORT_ERR (R57): a request that the target port does not serve. The window is 32 MiB. A read of a defined location is served
as a read; a defined write has a row of its own, which carries its value. -/
def execTargetPortErr (offset : Nat) (write : Bool) (len enables : Nat) (s : State) : Host.Outcome State Fault Refusal :=
  run true s fun s =>
    let off := offset % 0x2000000
    if s.tpDefined off len enables then (if write then s else tpRequest s off false 0) else tpServe s 0x440000 write 0 fun t => tpErr t write

/-- A request held by the target port in P2 is answered once the block is in P0 (R59). -/
def tpReplay (s : State) : State :=
  match s.target.held with
  | none => s
  | some (off, write, v) =>
    tpRequest { s with target := { s.target with held := none, rqGrant := 1 } } off write v

/-- An MPORT request held in P2 is served once the wake is complete (R62). -/
def mpReplay (s : State) : State :=
  match s.power.mpHeld with
  | none => s
  | some (a, write, v) => access { s with power := { s.power with mpHeld := none } } .mport a write v

/-- RPL_RAISE. -/
def execRplRaise (s : State) : Host.Outcome State Fault Refusal := runBus true s fun s => accessWrite s .mport A.secRplCtl 1 none
/-- RPL_LOWER_REQUEST. -/
def execRplLowerRequest (value : Word) (s : State) : Host.Outcome State Fault Refusal :=
  runBus true s fun s => accessWrite s .mport A.secRplReq value none
/-- RELOAD. -/
def execReload (s : State) : Host.Outcome State Fault Refusal := runBus true s fun s => accessWrite s .mport A.glbInitCtl 1 none
/-- POWER_STATE_REQUEST. -/
def execPowerStateRequest (value : Word) (s : State) : Host.Outcome State Fault Refusal :=
  runBus true s fun s => accessWrite s .mport A.glbPwrCtl value none
/-- ALERT_RING_ENABLE: the word written has EN = 1. -/
def execAlertRingEnable (value : Word) (s : State) : Host.Outcome State Fault Refusal :=
  runBus true s fun s => if fld value 8 1 = 1 then accessWrite s .mport A.hqArCfg value none else s
/-- ALERT_RING_HEAD_WRITE. -/
def execAlertRingHeadWrite (value : Word) (s : State) : Host.Outcome State Fault Refusal :=
  runBus true s fun s => accessWrite s .mport A.hqArHead value none
/-- HQ_AQ_CFG_WRITE. -/
def execHqAqCfgWrite (value : Word) (s : State) : Host.Outcome State Fault Refusal :=
  runBus true s fun s => accessWrite s .mport A.hqAqCfg value none
/-- QP_ENABLE. -/
def execQpEnable (qid : Nat) (s : State) : Host.Outcome State Fault Refusal :=
  runBus (qid < 1024) s fun s => accessWrite s .mport (A.hqQpCtl qid) 1 none
/-- QP_DISABLE. -/
def execQpDisable (qid : Nat) (s : State) : Host.Outcome State Fault Refusal :=
  runBus (qid < 1024) s fun s => accessWrite s .mport (A.hqQpCtl qid) 0 none
/-- WGL_FIRE. -/
def execWglFire (value : Word) (s : State) : Host.Outcome State Fault Refusal :=
  runBus true s fun s => accessWrite s .mport A.wglFire value none
/-- WGL_TMR_START. -/
def execWglTmrStart (timer : Nat) (s : State) : Host.Outcome State Fault Refusal :=
  runBus (timer < 8) s fun s => accessWrite s .mport (A.wglTmrCtl timer) 1 none
/-- WGL_TMR_STOP. -/
def execWglTmrStop (timer : Nat) (s : State) : Host.Outcome State Fault Refusal :=
  runBus (timer < 8) s fun s => accessWrite s .mport (A.wglTmrCtl timer) 2 none
/-- KICK. -/
def execKick (ring : Nat) (s : State) : Host.Outcome State Fault Refusal :=
  runBus (ring < 256) s fun s => accessWrite s .mport (A.hqBrKick ring) 1 none
/-- BUFFER_RING_ENABLE: the word written has EN = 1. -/
def execBufferRingEnable (ring : Nat) (value : Word) (s : State) : Host.Outcome State Fault Refusal :=
  runBus (ring < 256) s fun s => if fld value 7 1 = 1 then accessWrite s .mport (A.hqBrCfg ring) value none else s
/-- BUFFER_RING_DISABLE: the word written has EN = 0. -/
def execBufferRingDisable (ring : Nat) (value : Word) (s : State) : Host.Outcome State Fault Refusal :=
  runBus (ring < 256) s fun s => if fld value 7 1 = 0 then accessWrite s .mport (A.hqBrCfg ring) value none else s
/-- MOV_ABORT. -/
def execMovAbort (s : State) : Host.Outcome State Fault Refusal := runBus true s fun s => accessWrite s .mport A.movCtl 1 none
/-- MOV_RELEASE. -/
def execMovRelease (s : State) : Host.Outcome State Fault Refusal := runBus true s fun s => accessWrite s .mport A.movCtl 2 none
/-- FLUSH. -/
def execFlush (ch : Nat) (s : State) : Host.Outcome State Fault Refusal :=
  runBus (ch < 32) s fun s => accessWrite s .mport (A.movSqCtl ch) 1 none
/-- RESTORE. -/
def execRestore (group : Nat) (s : State) : Host.Outcome State Fault Refusal :=
  runBus (group < 4) s fun s => accessWrite s .mport (A.seqCtl group) 1 none
/-- BCINV. -/
def execBcinv (group : Nat) (s : State) : Host.Outcome State Fault Refusal :=
  runBus (group < 4) s fun s => accessWrite s .mport (A.seqCtl group) 2 none
/-- UNFREEZE. -/
def execUnfreeze (ch : Nat) (s : State) : Host.Outcome State Fault Refusal :=
  runBus (ch < 32) s fun s => accessWrite s .mport (A.seqChctl ch) 1 none
/-- LOG_STREAM_ENABLE: the word written has EN = 1. -/
def execLogStreamEnable (stream : Nat) (value : Word) (s : State) : Host.Outcome State Fault Refusal :=
  runBus (stream < 64) s fun s => if fld value 0 1 = 1 then accessWrite s .mport (A.hqLsCtl stream) value none else s
/-- SMOKE_REGION_ENABLE: the word written has EN = 1. -/
def execSmokeRegionEnable (value : Word) (s : State) : Host.Outcome State Fault Refusal :=
  runBus true s fun s => if fld value 16 1 = 1 then accessWrite s .mport A.rlvSmokeDie value none else s
/-- RLV_TBL_DATA_WRITE. Where an update by tracking or calibration reaches the entry in the same KCLK cycle, the write takes
effect, and the update is discarded and counted (R276). -/
def execRlvTblDataWrite (w : Nat) (value : TblWrite) (s : State) : Host.Outcome State Fault Refusal :=
  runBus (w < 4) s fun s => accessWrite (if value.lost then s.bump A.rlvTblLostCnt else s) .mport (A.rlvTblData w) value.word none
/-- RLV_TBL_LG_WRITE. -/
def execRlvTblLgWrite (value : Word) (s : State) : Host.Outcome State Fault Refusal :=
  runBus true s fun s => accessWrite s .mport A.rlvTblLg value none
/-- LIVE_WRITE: the word written to CH_CTL has LIVE = 1. -/
def execLiveWrite (ch : Nat) (value : Word) (s : State) : Host.Outcome State Fault Refusal :=
  runBus (ch < 32) s fun s => if fld value 5 1 = 1 then accessWrite s .mport (A.chCtl ch) value none else s
/-- TSEL_WRITE: CH_CTL is written with another TSEL and its other fields as they stand. -/
def execTselWrite (ch tsel : Nat) (s : State) : Host.Outcome State Fault Refusal :=
  runBus (ch < 32 && tsel < 8) s fun s => accessWrite s .mport (A.chCtl ch) (setFld (s.reg (A.chCtl ch)) 1 3 tsel) none

end Sys2Proof.Machine
end

