-- ==== Sys2Proof/Machine/Smoke.lean ====
section
/-!
DEFINITION. The smoke sequence (R70, R439 to R442): the quiesce when PLOSS_N falls, its ledger writes, its record in the
smoke region and its summary.
-/

namespace Sys2Proof.Machine

/-- POLICY is CUT. -/
def State.cut (s : State) : Bool := s.fldOf A.glbSmokeCfg 0 1 == 1

/-- Programs and erases that the record lists (R440): those of commands that are in flight, the ones left in the arrays of a
frozen channel included. -/
def Op.smokes (o : Op) : Bool := (o.kind == .program || o.kind == .erase) && o.stage != .queued

/-- The entry of an operation at step 1, with the outcome where step 3 or CUT decides it. -/
def State.smokeEntry (s : State) (o : Op) : Option SmokeEntry :=
  match s.opSlot o with
  | none => none
  | some x =>
    if !o.smokes || x.seq != o.seq then none
    else
      let out := if o.stage == .done then some 5 else if o.unconfirmed then some 3 else if s.cut then some 2 else none
      some { op := o.id, paddr := pageOf (if o.kind == .erase then o.paddr / 2 ^ 15 * 2 ^ 15 else o.paddr), seq := o.seq,
             qid := x.qid, outcome := out, opc := x.entry.opc, planes := o.planes }

/-- An entry enters the list in ascending ADMSEQ order. -/
def insertEntry (e : SmokeEntry) : List SmokeEntry → List SmokeEntry
  | [] => [e]
  | y :: l => if e.seq < y.seq then e :: y :: l else y :: insertEntry e l

/-- A command keeps its own end (R440): it has ended already, it is an append whose first line has been dispatched, a customer
routine (which R241 ends), or, under RUN, a program or erase that the array runs. -/
def State.smokeKeeps (s : State) (x : Slot) : Bool :=
  let mine := s.ops.filter fun (o : Op) => o.ofSlot x.id && o.active
  let o := x.entry.opc
  s.finished x || x.failed ||
  (o == Opc.logAppend && (decide (0 < x.done) || !mine.isEmpty)) || (o == Opc.dieRaw && !mine.isEmpty) ||
  ((o == Opc.program || o == Opc.erase) && !s.cut && mine.any fun y => !y.unconfirmed)

/-- A read, or an operation of no command, stops where it is; so does a calibration, a patrol page and a channel operation. -/
def smokeStop (s : State) : State :=
  let gone := fun (o : Op) => o.active && (o.kind == .read || o.kind == .lineRead || o.kind == .calRead ||
    (o.kind == .exclusive && (match s.opSlot o with | some x => x.entry.opc != Opc.dieRaw | none => true)))
  let s1 := patrolStop (s.each (s.ops.filter gone) abandon)
  let s2 := { s1 with
    cws := [], recov := [],
    ops := s1.ops.filter fun (o : Op) => o.stage != OpStage.queued || o.kind == OpKind.lineWrite || o.slotOf.isSome,
    rlv := { s1.rlv with ledger := s1.rlv.ledger.filter (fun l => l.loaded), calWait := s1.rlv.calWait.filter (fun w => w.1.isSome) } }
  let s3 := s2.each (s2.rlv.cals.filter fun (x : CalSlot) => x.slot.isNone) calEnd
  let s4 := { s3 with wgl := { s3.wgl with calBusy := false } }
  s4.each (s4.chans.filter fun (c : Chan) => c.op.isSome) fun st c => chOpEnd st c.id 1 0

/-- Steps 3 and 4 at one operation: an unconfirmed program is abandoned; under CUT the die is reset; under RUN a suspended
one resumes. -/
def smokeOp (s : State) (o : Op) : State :=
  if o.unconfirmed && o.kind == .program then abandon s o
  else if !(o.kind == .program || o.kind == .erase) || !o.active then s
  else if s.cut then abandon (ceHigh (resetLun s o.die) (dieCh o.die)) o
  else if o.stage == .suspended then resumeOp (s.updOp o.id fun y => { y with expl := false, wantRes := none, wantSusp := none, wantAlso := [] })
    { o with wantRes := none }
  else s.updOp o.id fun y => { y with wantSusp := none, wantAlso := [] }

/-- The sequence begins (R439, R440). Steps 1 to 3 are instantaneous here; steps 4 and 5 then run at the dies. -/
def smokeBegin (s0 : State) : State :=
  let s := leaveP1 s0
  let entries := (s.ops.filterMap s.smokeEntry).foldl (fun acc e => insertEntry e acc) []
  let lost := (s.slots.filter fun x => x.unfinished && !s.smokeKeeps x).map Slot.id
  let s1 := { s with
    init := { s.init with phase := 10 },
    smoke := { step := 4, done := false, start := s.aclk, wseq := s.pair A.eccWseqLo % 2 ^ 40, seq := s.regN A.rlvSmokeSeq,
               entries := entries, written := false, lines := [], summary := 0 } }
  let s2 := lost.foldl (fun st n => hit st n St.powerLossAborted) (s1.event 2)
  let s3 := (smokeStop s2).each (smokeStop s2).ops smokeOp
  -- PLOSS wakes every sleeping context (R228)
  { s3 with chans := s3.chans.map fun (c : Chan) => { c with ctxs := c.ctxs.map (wakeCtx false) } }

/-- PLOSS_N is low (R70, R439): in P2 nothing starts; before INIT_DONE the sequence only sets PHASE (log entry 54); once
started it is not started again. -/
def smokeStart (s : State) : State :=
  if s.smoking ∨ s.power.st = .p2 then s
  else if s.init.done then smokeBegin s
  else { s with init := { s.init with phase := 11, optReq := 0, want := 0, loading := false }, smoke := { Smoke.reset with done := true } }

/-- PLOSS_N falls: the PLOSS producer fires without a clock (R408), and the sequence starts. -/
def plossFall (s : State) : State :=
  if s.pins.ploss then s
  else
    let s1 := { s with pins := { s.pins with ploss := true } }
    if s1.held then s1 else smokeStart (levelProducer s1 40 true false)

/-- Step 5 has ended: the changed ledger records are written (step 6). -/
def smokeLedger (s : State) : State :=
  if s.smoke.step ≠ 4 ∨ s.ops.any (fun (o : Op) => o.kind == .lineWrite && o.slotOf.isSome) then s
  else
    let s1 := { s with smoke := { s.smoke with step := 6 } }
    let due := s1.rlv.ledger.filter fun l => l.loaded && l.dirty &&
      !(s1.ops.any fun (o : Op) => o.owner == .ledger l.die l.seg && o.kind == .lineWrite)
    s1.each due ledgerWrite

/-- A header line of an event (R441). -/
def smokeHeader (s : State) : List Byte :=
  leBytes 4 0x4D534847 ++ leBytes 4 s.smoke.seq ++ leBytes 2 s.smoke.entries.length ++ leBytes 1 s.cut.toNat ++ zeros 1 ++
  leBytes 4 (s.smoke.start % 2 ^ 32) ++ leBytes 5 s.smoke.wseq ++ zeros 235

/-- An entry of an event (R441). -/
def smokeEntryBytes (e : SmokeEntry) : List Byte :=
  leBytes 8 e.paddr ++ leBytes 4 (e.seq % 2 ^ 32) ++ leBytes 2 (e.qid + e.outcome.getD 5 * 1024) ++ leBytes 1 e.opc ++ leBytes 1 e.planes

/-- The lines of an event: the header, then 16 entries a line. -/
def smokeLines (s : State) : List (List Byte) :=
  let b := s.smoke.entries.flatMap smokeEntryBytes
  smokeHeader s :: (List.range ((s.smoke.entries.length + 15) / 16)).map fun i =>
    let l := (b.drop (256 * i)).take 256
    l ++ zeros (256 - l.length)

/-- Lines of the smoke region. -/
def State.smokeRegion (s : State) : Nat := s.smokeNseg * 4096

/-- Steps 4 and 6 have ended: the smoke record is written where there is a region (step 7), CUR moves past it and SEQ
counts. An event that would pass the end of the region starts at its line 0. -/
def smokeRecord (s : State) : State :=
  if s.smoke.step ≠ 6 ∨ s.ops.any (fun (o : Op) => o.stage != .done &&
      (o.kind == .program || o.kind == .erase || o.kind == .lineWrite || o.kind == .exclusive)) then s
  else
    let ls := smokeLines s
    let s1 := { s with smoke := { s.smoke with step := 7 } }
    if !s.smokeOn then s1
    else
      let cur := s.fldOf A.rlvSmokeCur 0 24
      let at_ := if s.smokeRegion < cur + ls.length then 0 else cur
      let d := s.smokeDie
      let put := fun (st : State) (y : List Byte × Nat) =>
        placeOp st { mkOp .smoke .lineWrite 8 st.admSeq (linePaddr d (s.smokeFirst * 4096 + at_ + y.2)) 0 1 [] with
                     image := mkLine y.1 0 (s.smoke.seq % 2 ^ 24) }
      let s2 := s1.each ls.zipIdx put
      let s3 := { s2 with smoke := { s2.smoke with written := true, lines := ls.zipIdx.map fun (y : List Byte × Nat) => (at_ + y.2, y.1) } }
      (s3.setRegN A.rlvSmokeCur ((at_ + ls.length) % s.smokeRegion)).setRegN A.rlvSmokeSeq (min (s.smoke.seq + 1) (2 ^ 32 - 1))

/-- Step 8 has ended once no record waits and no completion can still be written: PHASE becomes SMOKE_DONE. -/
def smokeEnd (s : State) : State :=
  if s.smoke.step = 8 && s.alert.queue.isEmpty && s.alert.out.isNone && s.slots.all (fun x => x.phase == .fullHeld || x.phase == .faultHeld) then
    { s with init := { s.init with phase := 11 }, smoke := { s.smoke with step := 0, done := true } }
  else s

/-- Step 7 has ended: the SMOKE_SUMMARY record (R442), after which completions are written. A later use only looks whether
step 8 has ended. -/
def smokeSummary (s : State) : State :=
  if s.smoke.step ≠ 7 ∨ s.ops.any (fun (o : Op) => o.owner == .smoke) then smokeEnd s
  else
    let n := (s.slots.filter fun x => s.finished x).length
    let s1 := { s with smoke := { s.smoke with step := 8, summary := n } }
    let info0 := s.smoke.seq + s.smoke.entries.length * 2 ^ 32 + s.smoke.written.toNat * 2 ^ 48
    smokeEnd (s1.raise 5 0 info0 n (min (s.aclk - s.smoke.start) (2 ^ 32 - 1)))

/-- SMOKE_SEQUENCE: PLOSS_N falls. -/
def execSmokeSequence (s : State) : Host.Outcome State Fault Refusal := runPin s plossFall
/-- PLOSS_N_RISE: the PLOSS producer is armed again (R408); a sequence that has started goes on (R70). -/
def execPlossNRise (s : State) : Host.Outcome State Fault Refusal :=
  runPin s fun s => rearm { s with pins := { s.pins with ploss := false } } [40]
/-- SMOKE_LEDGER_WRITE. -/
def execSmokeLedgerWrite (s : State) : Host.Outcome State Fault Refusal := run true s smokeLedger
/-- SMOKE_RECORD_WRITE. -/
def execSmokeRecordWrite (s : State) : Host.Outcome State Fault Refusal := run true s smokeRecord
/-- SMOKE_SUMMARY. -/
def execSmokeSummary (s : State) : Host.Outcome State Fault Refusal := run true s smokeSummary

end Sys2Proof.Machine
end

