-- ==== Sys2Proof/Machine/Waggle.lean ====
section
/-!
DEFINITION. The waggle tasks (R411 to R417), the waggle timers (R410) and the loop windows (R418).
-/

namespace Sys2Proof.Machine

/-! ## Erases the tasks act on (R411) -/

/-- RESUME of every explicitly suspended erase (R127). -/
def resumeAll (s : State) : State :=
  { s with ops := updBy (fun (o : Op) => o.kind == .erase && o.expl && o.active) (fun o => { o with expl := false, resume := true, wantRes := none }) s.ops }

/-- The erases ERASE_SUSPEND_ALL acts on: executing, not explicitly suspended, below SUSP_MAX. -/
def State.suspendable (s : State) (o : Op) : Bool :=
  o.kind == .erase && o.active && !o.expl && decide (o.susp < (s.sampOf o).suspMax)

/-- SUSPEND of each of them (R127): one that reads have suspended becomes explicitly suspended at once; the others at their
next instruction boundary. -/
def suspendAll (s : State) : State :=
  let want := fun (o : Op) => match o.wantSusp with | some n => some n | none => some taskSlot
  let act := fun (o : Op) => if o.stage == .suspended && !o.resume then { o with expl := true } else { o with wantSusp := want o }
  { s with ops := updBy s.suspendable act s.ops }

/-! ## SNAPSHOT (R414) -/

/-- The value copied from WGL_SNAP_SRC[k]. -/
def State.snapValue (s : State) (k : Nat) : Word := s.readReg (4 * s.fldOf (A.wglSnapSrc k) 2 22)

/-- SNAPSHOT: the 16 copies are of one cycle, then the count. -/
def snapshot (s : State) : State :=
  (s.each (List.range 16) fun st k => st.setReg (A.wglSnap k) (s.snapValue k)).useFree.bump A.wglSnapSeq

/-! ## The tasks (R411) -/

/-- A task is busy. -/
def State.taskBusy (s : State) (k : Nat) : Bool :=
  if k = 0 then s.fg.run || s.fg.waiting
  else if k = 2 then s.wgl.calBusy
  else if k = 4 then s.ops.any fun (o : Op) => o.wantSusp == some taskSlot && o.active
  else false

/-- CAL_START (R412): the template is sampled, and the calibration waits for a slot. -/
def calTask (s : State) : State :=
  let w := (none, s.pair A.wglCalPaddrLo, s.fldOf A.wglCalCtl 0 11 + 1, s.fldOf A.wglCalCtl 11 15)
  { s with rlv := { s.rlv with calWait := s.rlv.calWait ++ [w] }, wgl := { s.wgl with calBusy := true } }

/-- WAKE: starts a wake in P2, returns to P0 in P1, and has no effect in P0. -/
def wakeTask (s : State) : State := startWake (leaveP1 s)

/-- A timer runs from 0 (R410). -/
def timerRun (s : State) (k : Nat) : State := s.setTimer { s.timer k with run := true, elapsed := 0, arm := false }

/-- WGL_GRP_CTL.EN of a group is set or cleared (R415); an absent group has no bit (R6). -/
def grpSet (s : State) (g : Nat) (on : Bool) : State :=
  if g < Config.groups s.build then s.setFldOf A.wglGrpCtl g 1 on.toNat else s

/-- What a task does. -/
def taskAct (s : State) (k : Nat) : State :=
  if k = 0 then patrolStart s
  else if k = 1 then patrolStop s
  else if k = 2 then calTask s
  else if k = 3 then resumeAll s
  else if k = 4 then suspendAll s
  else if k = 5 then s.setFldOf A.wglDisp 0 1 0
  else if k = 6 then s.setFldOf A.wglDisp 0 1 1
  else if k = 7 then snapshot s
  else if k = 8 then wakeTask s
  else if k < 17 then timerRun s (k - 9)
  else if k < 25 then timerHalt s (k - 17)
  else if k < 29 then grpSet s (k - 25) true
  else grpSet s (k - 29) false

/-- A trigger reaches a task that is not held: it acts, or overruns when it is busy (R416). -/
def taskTake (s : State) (k : Nat) : State := if s.taskBusy k then overrun s k else taskAct s k

/-- The latches of a task that are set. -/
def State.latches (s : State) (k : Nat) : List (Nat × Nat) := s.wgl.latch.filter fun x => x.1 == k

/-- The clock domain of a task samples all its latches at once (R416): two or more merge into one trigger. KCLK tasks do not
act in P2 (R420). -/
def sampleTask (s : State) (k : Nat) : State :=
  let l := s.latches k
  if l.isEmpty ∨ (kclkTask k ∧ s.power.st = .p2) then s
  else
    let s1 := { s with wgl := { s.wgl with latch := s.wgl.latch.filter fun x => x.1 != k } }
    taskTake (if 2 ≤ l.length then s1.bump A.wglCoincCnt else s1) k

/-- PATROL_START. -/
def execPatrolStart (s : State) : Host.Outcome State Fault Refusal := run true s fun s => sampleTask s 0
/-- PATROL_STOP. -/
def execPatrolStop (s : State) : Host.Outcome State Fault Refusal := run true s fun s => sampleTask s 1
/-- CAL_START. -/
def execCalStart (s : State) : Host.Outcome State Fault Refusal := run true s fun s => sampleTask s 2
/-- ERASE_RESUME_ALL. -/
def execEraseResumeAll (s : State) : Host.Outcome State Fault Refusal := run true s fun s => sampleTask s 3
/-- ERASE_SUSPEND_ALL. -/
def execEraseSuspendAll (s : State) : Host.Outcome State Fault Refusal := run true s fun s => sampleTask s 4
/-- DISPATCH_RELEASE. -/
def execDispatchRelease (s : State) : Host.Outcome State Fault Refusal := run true s fun s => sampleTask s 5
/-- DISPATCH_HOLD. -/
def execDispatchHold (s : State) : Host.Outcome State Fault Refusal := run true s fun s => sampleTask s 6
/-- SNAPSHOT. -/
def execSnapshot (s : State) : Host.Outcome State Fault Refusal := run true s fun s => sampleTask s 7
/-- WAKE. -/
def execWake (s : State) : Host.Outcome State Fault Refusal := run true s fun s => sampleTask s 8
/-- TIMER_START of timer k. -/
def execTimerStart (k : Nat) (s : State) : Host.Outcome State Fault Refusal := run (k < 8) s fun s => sampleTask s (9 + k)
/-- TIMER_STOP of timer k. -/
def execTimerStop (k : Nat) (s : State) : Host.Outcome State Fault Refusal := run (k < 8) s fun s => sampleTask s (17 + k)
/-- GRP_ENABLE of group g. -/
def execGrpEnable (g : Nat) (s : State) : Host.Outcome State Fault Refusal := run (g < 4) s fun s => sampleTask s (25 + g)
/-- GRP_DISABLE of group g. -/
def execGrpDisable (g : Nat) (s : State) : Host.Outcome State Fault Refusal := run (g < 4) s fun s => sampleTask s (29 + g)

/-! ## Timers and windows -/

/-- Timer k reaches PERIOD (R410): a periodic one runs again from 0 at the same edge, a one-shot one stops; TMR[k] emits. -/
def timerExpire (s : State) (k : Nat) : State :=
  let x := s.timer k
  let p := s.fldOf (A.wglTmrCfg k) 0 28
  if x.run ∧ p ≤ x.elapsed then
    produce (s.setTimer (if s.fldOf (A.wglTmrCfg k) 28 1 = 1 then { x with elapsed := x.elapsed - p } else { x with run := false })) (41 + k)
  else s

/-- WAGGLE_TIMER_EXPIRY. -/
def execWaggleTimerExpiry (timer : Nat) (s : State) : Host.Outcome State Fault Refusal :=
  run (timer < 8) s fun s => timerExpire s timer

/-- A loop window ends where the ACLK count is a multiple of 1,000 (R418): every channel's count clears. -/
def windowEnd (s : State) : State :=
  if s.aclk % 1000 = 0 then { s with wgl := { s.wgl with counts := [], soft := [] } } else s

/-- LOOP_WINDOW_END. -/
def execLoopWindowEnd (s : State) : Host.Outcome State Fault Refusal := run true s windowEnd

end Sys2Proof.Machine
end

