-- ==== Sys2Proof/Machine/Scrub.lean ====
section
/-!
DEFINITION. The scrubber (R247, R384) and memory self-test (R470).
-/

namespace Sys2Proof.Machine

/-! ## What an uncorrectable unit of staging belongs to. Which bytes of memories 0 and 1 the data of a command occupy the spec
does not say, so the data the unit belongs to are a free value (log entry 3). -/

/-- A unit of raw or staging memory of a channel: one of the codewords there, or none, now holds stored poison (R385). -/
def spoilRead (s : State) (ch : Nat) : State :=
  let t := s.useFree 2
  match (s.cws.filter fun (c : Cw) => c.ch == ch)[s.freeVal.toNat]? with
  | some c => t.setCw { c with bad := some ((Config.freeWord (s.free + 1)).toNat % 64) }
  | none => t

/-- An operation whose image waits in program staging. -/
def Op.staged (o : Op) : Bool := !o.image.isEmpty && (o.stage == .queued || o.stage == .dispatched)

/-- A ring with its unit `i` spoiled. -/
def spoilUnit (x : BufRing) (i : Nat) : BufRing :=
  { x with units := x.units.zipIdx.map fun y => if y.2 = i then { y.1 with bad := true } else y.1 }

/-- A unit of program staging or of the output store: one of the images or ring units, or none, now holds stored poison. -/
def spoilWrite (s : State) : State :=
  let n := s.freeVal.toNat
  let t := s.useFree
  let imgs := s.ops.filter Op.staged
  match imgs[n]? with
  | some o => t.updOp o.id fun y => { y with bad := true }
  | none =>
    let us := s.rings.flatMap fun (x : BufRing) =>
      (x.units.zipIdx.filter fun y => decide (0 < y.1.gen + y.1.bnd)).map fun y => (x, y.2)
    match us[n - imgs.length]? with
    | some y => t.setRing (spoilUnit y.1 y.2)
    | none => t

/-- The data that a poisoned unit of staging belongs to, if any, are spoiled. -/
def spoil (s : State) (mem inst : Nat) : State := if mem = 0 then spoilRead s inst else if mem = 1 then spoilWrite s else s

/-- A unit of a memory other than the control stores is read (R376, R382, R384, R385): by the scrubber, or by another reader, maybe in
a staging queue (R370). -/
def readUnit (mem inst : Nat) (scrub queue : Bool) (s : State) (au : Nat × Nat) : State :=
  let sp := unitSyn mem au.2
  let syn := synField mem sp.1 sp.2
  match judge (codeLen mem) sp.1 sp.2 with
  | .clean => s
  | .fixed =>
    let s1 := correctable s mem inst au.1 syn scrub false
    if scrub then writeBack s1 mem inst au.1 else if queue && mem == 0 then s1.bump (A.movSqCorrCnt inst) else s1
  | .poison => if s.poisoned mem inst au.1 1 then s else spoil (storePoison s mem inst au.1) mem inst
  | .bad => spoil (uncorrectable s mem inst au.1 syn scrub) mem inst

/-- The units of a read of 8 bytes at an address: one of the word code, or eight of the byte code. -/
def readUnits (mem inst a : Nat) (units : List Nat) (scrub queue : Bool) (s : State) : State :=
  ((units.take (if mem ≤ 1 then 1 else 8)).zipIdx.map fun u => (a + u.2, u.1)).foldl (readUnit mem inst scrub queue) s

/-- A control-store word with wrong parity (R247): a word of the ROM image is written again from the ROM; any other is left as
it is and reported. -/
def scrubWord (s : State) (g a : Nat) (w : BitVec 132) : State :=
  let slices := badSlices w
  let st := s.store g
  if slices = 0 then s
  else if a < 11264 then
    (s.setStore g { st with words := delBy Prod.fst a st.words }).bump (A.seqCsFixCnt g)
  else
    let s1 := s.setStore g { st with words := putBy Prod.fst (a, w) st.words, csErr := true }
    let s2 := (setMemSts (s1.bump A.memUeCnt) 1).event 3
    s2.raise 3 (5 + g * 16) (a + slices * 2 ^ 32 + 2 ^ 41) 0 (s2.regN A.memUeCnt)

/-- A memory can be read: it has been filled, and the block is in P0. -/
def State.reads (s : State) (mem inst bg : Nat) : Bool :=
  s.init.done && s.power.st == .p0 && decide (inst < memInsts s.build mem) && decide (bg < memBgs mem)

/-- The scrubber takes a step: it is on, and its step is due. -/
def State.scrubs (s : State) (mem inst bg : Nat) : Bool :=
  s.fldOf A.memScrubCfg 0 1 == 1 && s.reads mem inst bg && s.scrubDue mem inst bg

/-- One step of the scrubber in a bank group (R384). -/
def scrubStep (s : State) (mem inst bg : Nat) (units : List Nat) : State :=
  let a := s.scrubPos mem inst bg
  let s1 := if mem = 5 then (match units with | w :: _ => scrubWord s inst a (BitVec.ofNat 132 w) | [] => s)
            else readUnits mem inst a units true false s
  scrubMove s1 mem inst bg

/-- SCRUB_STEP. DESIGN CHOICE, log entry 126: the row also carries what another reader finds, for which the table has none; a
sequencer's own reads of its control store are in `seqStep`. -/
def execScrubStep (mem inst bg : Nat) (units : List Nat) (who : MemRead) (s : State) : Host.Outcome State Fault Refusal :=
  run (mem < 8 ∧ inst < 32 ∧ bg < 16) s fun s =>
    match who with
    | .scrubber => if s.scrubs mem inst bg then scrubStep s mem inst bg units else s
    | .reader a queue =>
      if mem != 5 && s.reads mem inst bg && decide (bgBase mem bg ≤ a) && decide (a < bgBase mem bg + bgSize mem) && a % scrubStride mem == 0 then
        readUnits mem inst a units false queue s
      else s

end Sys2Proof.Machine
end

