-- ==== Sys2Proof/Machine/Power.lean ====
section
/-!
DEFINITION. The resets and the end of the reset sequence (R72 to R74, R378, R422, R428), the side-band pins (R26, R68, R69), the
power states (R59, R213, R404, R420, R436 to R438) and memory self-test (R75, R470).
-/

namespace Sys2Proof.Machine

/-! ## Resets -/

/-- Everything at its reset value but what no reset reaches: the levels of the input pins and the model's own counter of free
values. The ACLK count restarts. -/
def resetAll (s : State) : State :=
  let t := State.resetOf s.build
  { t with
    free := s.free, init := { t.init with optAck := s.init.optAck },
    pins := { s.pins with temp := [], tdo := [] } }

/-- PORST_N falls (R72): all state is lost, a self-test included. -/
def porstAssert (s : State) : State :=
  let t := resetAll s
  { t with pins := { t.pins with porst := true, bist := false } }

/-- SRST_N falls (R73): everything but the option area, the applied fuse repair, the protection level and the PLL lock. While
PORST_N is low it has no effect. -/
def srstAssert (s : State) : State :=
  if s.pins.porst then { s with pins := { s.pins with srst := true } }
  else
    let t := resetAll s
    let cnt := s.reg A.glbOptFailCnt
    { t.setReg A.glbOptFailCnt cnt with
      pins := { t.pins with srst := true }, mem := { t.mem with spares := s.mem.spares },
      init := { t.init with area := s.init.area, rplSec := s.init.rplSec, raised := s.init.raised, kek := s.init.kek, pll := s.init.pll } }

/-- Both resets are high: the initiator ports grant their response credits (R48, R74), and the reset sequence starts at the fill,
or at step 1 where no area has been loaded or the PLLs have not locked. With PLOSS_N low the smoke sequence sets PHASE (R439). -/
def leaveReset (s : State) : State :=
  if s.held then s
  else
    let s1 := { s with ports := s.ports.map fun (p : Port) => { p with rdGrant := 64, wrGrant := 64 } }
    let s2 := if s.init.area.isNone ∨ !s.init.pll then startLoad s1 else { s1 with init := { s1.init with phase := 5 } }
    if s2.pins.ploss then smokeStart s2 else s2

/-- PORST_N rises. -/
def porstRelease (s : State) : State := leaveReset { s with pins := { s.pins with porst := false } }

/-- SRST_N rises. -/
def srstRelease (s : State) : State := leaveReset { s with pins := { s.pins with srst := false } }

/-- PORST_N_ASSERT. -/
def execPorstNAssert (s : State) : Host.Outcome State Fault Refusal := runPin s porstAssert
/-- PORST_N_RELEASE. -/
def execPorstNRelease (s : State) : Host.Outcome State Fault Refusal := runPin s fun s => if s.pins.porst then porstRelease s else s
/-- SRST_N_ASSERT. -/
def execSrstNAssert (s : State) : Host.Outcome State Fault Refusal := runPin s srstAssert
/-- SRST_N_RELEASE. -/
def execSrstNRelease (s : State) : Host.Outcome State Fault Refusal := runPin s fun s => if s.pins.srst then srstRelease s else s

/-! ## The fill -/

/-- An uncorrectable word of a control store found by a fill stays as read and counts (R247, R378); other memories follow
`sramFill`. -/
def fillWord (s : State) (x : FillFinding) : State :=
  let w := BitVec.ofNat 132 x.bits
  if badSlices w = 0 then s
  else
    let st := s.store x.inst
    (s.setStore x.inst { st with words := putBy Prod.fst (x.addr, w) st.words }).bump A.memFillErrCnt

/-- The fill of every SRAM with what its check read found. -/
def fillAll (s : State) (found : List FillFinding) : State :=
  (sramFill s (found.filter fun (x : FillFinding) => x.mem != 5)).each (found.filter fun (x : FillFinding) => x.mem == 5) fillWord

/-- One entry of the DEFAULTS section (R428): an MPORT write; one in SEC or misaligned is ignored, and one where there is no
register has no effect. -/
def applyDefault (s : State) (e : Nat × Word) : State :=
  if (0x010000 ≤ e.1 ∧ e.1 < 0x020000) ∨ e.1 % 4 ≠ 0 ∨ 0x1000000 ≤ e.1 then s else writeReg s .mport e.1 e.2

/-- Steps 6 and 7 of the reset sequence: the DEFAULTS entries, then INIT_DONE; the target port grants its credits (R58, R74). -/
def initDone (s : State) : State :=
  let s1 := { s with init := { s.init with phase := 6 } }
  let s2 := s1.each (match s.init.area with | some a => a.defaults | none => []) applyDefault
  { s2 with init := { s2.init with phase := 7, done := true }, target := { s2.target with rqGrant := 1, wdGrant := 1 } }

/-- A fill ends: step 5 of the reset sequence, or the first part of a wake (R438). -/
def fillDone (s : State) (found : List FillFinding) : State :=
  if s.init.phase = 5 then initDone (fillAll s found)
  else if s.power.waking ∧ !s.power.filled then
    let s1 := fillAll s found
    { s1 with power := { s1.power with filled := true } }
  else s

/-- SRAM_FILL_DONE. -/
def execSramFillDone (found : List FillFinding) (s : State) : Host.Outcome State Fault Refusal := run true s fun s => fillDone s found

/-! ## Side-band pins -/

/-- An accepted TEMP_IN byte (R26, R69): 0x80 keeps the last one. The temperature producers look at it (R408). -/
def tempAccept (s : State) (g : Nat) (v : Byte) : State :=
  if v = 0x80 ∨ Config.groups s.build ≤ g then s
  else tempCheck { s with pins := { s.pins with temp := putBy Prod.fst (g, v) s.pins.temp }
                          rlv := { s.rlv with tIn := addN g s.rlv.tIn } } g

/-- TEMP_IN_ACCEPT. -/
def execTempInAccept (group : Nat) (value : Byte) (s : State) : Host.Outcome State Fault Refusal :=
  run (group < 4) s fun s => tempAccept s group value

/-- TGT_IDLE[t] changes (R68). -/
def tgtIdleSet (s : State) (t : Nat) (level : Bool) : State :=
  let low := s.pins.tgtIdle % 2 ^ t + s.pins.tgtIdle / 2 ^ (t + 1) * 2 ^ (t + 1)
  { s with pins := { s.pins with tgtIdle := low + level.toNat * 2 ^ t } }

/-- TGT_IDLE_CHANGE. -/
def execTgtIdleChange (target : Nat) (level : Bool) (s : State) : Host.Outcome State Fault Refusal :=
  if target < 64 then runPin s fun s => tgtIdleSet s target level else .fault .noSuchUnit

/-! ## Entry to P1 and P2 (R436, R437) -/

/-- A KCLK task has a latch set: it acts before KCLK is gated. -/
def State.taskDue (s : State) : Bool := s.wgl.latch.any fun x => kclkTask x.1

/-- The conditions of a low-power state hold. -/
def State.mayRest (s : State) (p2 : Bool) : Bool :=
  s.power.st == .p0 && s.init.done && s.pwrDeny p2 == 0 && !s.taskDue

/-- KCLK and FCLK are gated. -/
def enterP1 (s : State) : State := { s with power := { s.power with st := .p1, idle := 0 } }

/-- P1_ENTRY. -/
def execP1Entry (s : State) : Host.Outcome State Fault Refusal :=
  run true s fun s => if s.pwrReq = 1 ∧ s.mayRest false then enterP1 s else s

/-- AUTO_P1_IDLE: with AUTO = 1, IDLE_US µs of conditions 1 to 3 and 5 have passed (log entry 61). -/
def execAutoP1Idle (s : State) : Host.Outcome State Fault Refusal :=
  run true s fun s =>
    if s.pwrReq = 0 ∧ s.fldOf A.glbPwrCtl 2 1 = 1 ∧ s.mayRest false ∧ s.fldOf A.glbPwrCtl 16 16 ≤ s.power.idle then enterP1 s else s

/-- The registers held in retention across P2 (R437, the P2 column of chapter 18), with EN of every log stream at 0. -/
def keptRegs (s : State) : State :=
  let kept := fun (e : Nat × Word) => match Reg.find e.1 with | some (r, _) => r.kept | none => false
  ({ s with regs := s.regs.filter kept }).each (List.range 64) fun st i => st.setFldOf (A.hqLsCtl i) 0 1 0

/-- What a channel holds across P2 (R213). -/
def Chan.asleep (c : Chan) : Chan :=
  { Chan.reset c.id with trained := c.trained, eyeValid := c.eyeValid, eyeW := c.eyeW, eyeH := c.eyeH, eyeTemp := c.eyeTemp,
                         eyeLane := c.eyeLane, keepRx := c.keepRx, keepTx := c.keepTx }

/-- Producers of the fabric that work in P2 (R408). -/
def worksInP2 (p : Nat) : Bool := decide (32 ≤ p) && decide (p ≤ 48)

/-- The block enters P2 (R437): what the retention registers and the ACLK domain hold stays, all else is lost. Whether the
integrator stops KCLK and FCLK there is open (R71): a free value. -/
def enterP2 (s0 : State) : State :=
  let s := keptRegs (takeNow (patrolStop s0) fun _ => true)
  let live := (List.range 32).filter s.live
  let t := State.resetOf s.build
  { t with
    aclk := s.aclk, free := s.free + 1, regs := s.regs, answer := s.answer, tpAnswer := s.tpAnswer,
    init := { s.init with keyArmed := false, result := 0, refuse := 0 }, power := { Power.reset with st := .p2, wasLive := live, clkStop := s.freeVal.toNat % 2 == 1 },
    pins := s.pins, ports := s.ports, target := s.target, chans := s.chans.map Chan.asleep,
    mem := { t.mem with rrep := s.mem.rrep }, ntf := { s.ntf with int := s.intOut },
    wgl := { s.wgl with unarmed := s.wgl.unarmed.filter worksInP2, calBusy := false } }

/-- P2_ENTRY. -/
def execP2Entry (s : State) : Host.Outcome State Fault Refusal :=
  run true s fun s => if s.pwrReq = 2 ∧ s.mayRest true then enterP2 s else s

/-! ## Waking (R438) -/

/-- MPORT_WAKE (R62): a request in P2 is held, and starts the wake. The row has no operands: it is a read of offset 0, and the row
of every other MPORT access holds its own request in P2 through `mpServe`. DESIGN CHOICE, log entry 125. -/
def execMportWake (s : State) : Host.Outcome State Fault Refusal :=
  run true s fun s => if s.power.st = .p2 then access s .mport 0 false 0 else s

/-- KCLK_RESTART (R438): the clocks run again, and a wake that waited for them starts. -/
def execKclkRestart (s : State) : Host.Outcome State Fault Refusal :=
  run true s fun s =>
    let s1 := { s with power := { s.power with clkStop := false } }
    if s.power.waitClk then startWake s1 else s1

/-- The restore of R404: n, timers and READY clear; what is raised then becomes READY at once. -/
def ntfRestore (s : State) : State :=
  s.each s.liveSrcs fun st n => st.setSrc { st.src n with n := 0, timer := none, fired := false, ready := s.raised n }

/-- The fast paths of the channels that had LIVE = 1 (R213): PHY_ZQ of their groups with the resistances measured, then each
channel's training. -/
def fastPaths (s : State) (wake : WakeEnd) : State :=
  let groups := (s.power.wasLive.map fun ch => ch / 8).eraseDups
  (s.each groups fun st g => zqEnd st g ((assoc wake.ohms g).getD 0)).each s.power.wasLive fun st ch =>
    fastPath (st.setFldOf (A.chCtl ch) 5 1 0) ch ((assoc wake.eyes ch).getD { rx := [], tx := [], vref := 0 })

/-- A record that waited for P0 is raised, or dropped (R419). -/
def loopRaise (s : State) (r : Record) : State :=
  if s.arEn then { s with alert := { s.alert with queue := s.alert.queue ++ [r] } } else s.dropRecord none

/-- The block is in P0 again: the restore, the fast paths, then the held records and tasks, the request the target port held, and
the smoke sequence where PLOSS_N is still low (R59, R419, R420, R439). -/
def wakeDone (s0 : State) (wake : WakeEnd) : State :=
  let s := fastPaths s0 wake
  let s1 := ({ s with power := Power.reset, init := { s.init with phase := 7 } }).setFldOf A.glbPwrCtl 0 2 0
  let s2 := ntfRestore s1
  let s3 := { s2 with wgl := { s2.wgl with heldT := [], loopRec := [] } }
  let s4 := (s3.each s2.wgl.loopRec loopRaise).each s2.wgl.heldT taskTake
  let s5 := tpReplay (mpReplay { s4 with power := { s4.power with mpHeld := s0.power.mpHeld } })
  if s5.pins.ploss then smokeStart s5 else s5

/-- WAKE_COMPLETE. -/
def execWakeComplete (wake : WakeEnd) (s : State) : Host.Outcome State Fault Refusal :=
  run true s fun s => if s.power.waking ∧ s.power.filled then wakeDone s wake else s

/-! ## Memory self-test -/

/-- What leaves on TDO. -/
def testOut (s : State) (l : List Byte) : State := { s with pins := { s.pins with tdo := l } }

/-- A bit per level, the first in bit 0. -/
def levels (l : List Bool) : Nat := l.foldr (fun b n => b.toNat + 2 * n) 0

/-- The cells of the boundary scan (R75): flash-side pins, side-band pins, option port. The spec gives them no order: this one is the
model's (DESIGN CHOICE, log entry 114). -/
def State.scanCells (s : State) : List Byte :=
  ((List.range (Config.channels s.build)).flatMap fun ch =>
    let p := s.chanPins ch
    leBytes 2 (levels p.ce) ++ leBytes 1 (levels [p.we, p.reT, p.reC, p.ale, p.cle, p.wp, p.dqDriven])) ++
  leBytes 1 s.intOut ++ leBytes 8 s.pins.tgtIdle ++ ((List.range 4).map fun g => BitVec.ofInt 8 (s.tempIn g)) ++
  leBytes 1 ((!s.pins.ploss).toNat + 2 * s.init.optReq + 8 * s.init.optAck.toNat)

/-- The test port (R75, R470). At RPL2 only the boundary scan remains. Memory self-test overwrites the SRAMs, gives the failing rows
and needs a reset after it; the debug read returns 0 at RPL1 for the customer region and for scan contexts. The form of a PHY
measurement is not in the spec: a free value (log entry 114). -/
def testUse (s : State) (u : TestUse) : State :=
  match u with
  | .boundaryScan => testOut s s.scanCells
  | .memoryBist rows =>
    if s.level = 2 then s
    else
      let t := testOut s (rows.flatMap fun r => leBytes 1 r.mem ++ leBytes 1 r.inst ++ leBytes 1 r.bg ++ leBytes 2 r.row)
      { t with pins := { t.pins with bist := true } }
  | .debugStore g a =>
    if s.level = 2 then s
    else testOut s (if s.level = 1 ∧ 12288 ≤ a then zeros 17 else leBytes 17 (s.csWord g a).toNat)
  | .debugContext c =>
    if s.level = 2 then s
    else testOut s (if s.level = 1 then zeros 2048 else (((assoc s.scanCtx c).getD []) ++ zeros 2048).take 2048)
  | .phy _ => if s.level = 2 then s else (testOut s (s.freeBytes 1)).useFree

/-- MEMORY_BIST. -/
def execMemoryBist (use : TestUse) (s : State) : Host.Outcome State Fault Refusal := run true s fun s => testUse s use

end Sys2Proof.Machine
end

