-- ==== Sys2Proof/Machine/Dispatch.lean ====
section
/-!
DEFINITION. What each command does: one arm for each constructor of `Instr`, one direct call of its meaning.
-/

namespace Sys2Proof.Machine

def exec (i : Instr) (s : State) : Host.Outcome State Fault Refusal :=
  match i with
  | .porstNAssert => Sys2Proof.Machine.execPorstNAssert s
  | .porstNRelease => Sys2Proof.Machine.execPorstNRelease s
  | .srstNAssert => Sys2Proof.Machine.execSrstNAssert s
  | .srstNRelease => Sys2Proof.Machine.execSrstNRelease s
  | .optAckRise => Sys2Proof.Machine.execOptAckRise s
  | .optionAreaLoaded rest => Sys2Proof.Machine.execOptionAreaLoaded rest s
  | .optAckFall => Sys2Proof.Machine.execOptAckFall s
  | .referencePllLock => Sys2Proof.Machine.execReferencePllLock s
  | .pllLockTimeout => Sys2Proof.Machine.execPllLockTimeout s
  | .sramFillDone found => Sys2Proof.Machine.execSramFillDone found s
  | .reload => Sys2Proof.Machine.execReload s
  | .smokeSequence => Sys2Proof.Machine.execSmokeSequence s
  | .smokeLedgerWrite => Sys2Proof.Machine.execSmokeLedgerWrite s
  | .smokeRecordWrite => Sys2Proof.Machine.execSmokeRecordWrite s
  | .smokeSummary => Sys2Proof.Machine.execSmokeSummary s
  | .powerStateRequest value => Sys2Proof.Machine.execPowerStateRequest value s
  | .p1Entry => Sys2Proof.Machine.execP1Entry s
  | .autoP1Idle => Sys2Proof.Machine.execAutoP1Idle s
  | .p2Entry => Sys2Proof.Machine.execP2Entry s
  | .wakeComplete got => Sys2Proof.Machine.execWakeComplete got s
  | .tempInAccept group value => Sys2Proof.Machine.execTempInAccept group value s
  | .tgtIdleChange target level => Sys2Proof.Machine.execTgtIdleChange target level s
  | .rbNHigh ch input => Sys2Proof.Machine.execRbNHigh ch input s
  | .gfpCreditReturn port chan => Sys2Proof.Machine.execGfpCreditReturn port chan s
  | .gfpReadComplete port tag beats => Sys2Proof.Machine.execGfpReadComplete port tag beats s
  | .gfpWriteResponse port tag ok => Sys2Proof.Machine.execGfpWriteResponse port tag ok s
  | .gfpRequestTimeout port tag => Sys2Proof.Machine.execGfpRequestTimeout port tag s
  | .sqTailDoorbell qid value => Sys2Proof.Machine.execSqTailDoorbell qid value s
  | .cqHeadDoorbell qid value => Sys2Proof.Machine.execCqHeadDoorbell qid value s
  | .targetPortErr offset write len enables => Sys2Proof.Machine.execTargetPortErr offset write len enables s
  | .registerWrite master offset value collide => Sys2Proof.Machine.execRegisterWrite master offset value collide s
  | .writeTakesEffect hit => Sys2Proof.Machine.execWriteTakesEffect hit s
  | .registerPairLoWrite master offset value => Sys2Proof.Machine.execRegisterPairLoWrite master offset value s
  | .registerPairHiWrite master offset value => Sys2Proof.Machine.execRegisterPairHiWrite master offset value s
  | .registerPairLoRead master offset => Sys2Proof.Machine.execRegisterPairLoRead master offset s
  | .ntfClaim path target => Sys2Proof.Machine.execNtfClaim path target s
  | .ntfComplete path target value => Sys2Proof.Machine.execNtfComplete path target value s
  | .rplRaise => Sys2Proof.Machine.execRplRaise s
  | .rplLowerRequest value => Sys2Proof.Machine.execRplLowerRequest value s
  | .zeroizeDone => Sys2Proof.Machine.execZeroizeDone s
  | .restore group => Sys2Proof.Machine.execRestore group s
  | .restoreDone group => Sys2Proof.Machine.execRestoreDone group s
  | .bcinv group => Sys2Proof.Machine.execBcinv group s
  | .unfreeze ch => Sys2Proof.Machine.execUnfreeze ch s
  | .unfreezeTakesEffect ch => Sys2Proof.Machine.execUnfreezeTakesEffect ch s
  | .movAbort => Sys2Proof.Machine.execMovAbort s
  | .aborted => Sys2Proof.Machine.execAborted s
  | .movRelease => Sys2Proof.Machine.execMovRelease s
  | .flush ch => Sys2Proof.Machine.execFlush ch s
  | .kick ring => Sys2Proof.Machine.execKick ring s
  | .bufferRingEnable ring value => Sys2Proof.Machine.execBufferRingEnable ring value s
  | .bufferRingDisable ring value => Sys2Proof.Machine.execBufferRingDisable ring value s
  | .alertRingEnable value => Sys2Proof.Machine.execAlertRingEnable value s
  | .alertRingHeadWrite value => Sys2Proof.Machine.execAlertRingHeadWrite value s
  | .hqAqCfgWrite value => Sys2Proof.Machine.execHqAqCfgWrite value s
  | .qpEnable qid => Sys2Proof.Machine.execQpEnable qid s
  | .qpDisable qid => Sys2Proof.Machine.execQpDisable qid s
  | .logStreamEnable stream value => Sys2Proof.Machine.execLogStreamEnable stream value s
  | .smokeRegionEnable value => Sys2Proof.Machine.execSmokeRegionEnable value s
  | .rlvTblDataWrite w value => Sys2Proof.Machine.execRlvTblDataWrite w value s
  | .rlvTblLgWrite value => Sys2Proof.Machine.execRlvTblLgWrite value s
  | .liveWrite ch value => Sys2Proof.Machine.execLiveWrite ch value s
  | .tselWrite ch tsel => Sys2Proof.Machine.execTselWrite ch tsel s
  | .chPllLock ch => Sys2Proof.Machine.execChPllLock ch s
  | .wpNRaise ch => Sys2Proof.Machine.execWpNRaise ch s
  | .wpNLower ch => Sys2Proof.Machine.execWpNLower ch s
  | .phyZq ch ohm10 => Sys2Proof.Machine.execPhyZq ch ohm10 s
  | .reset ch die => Sys2Proof.Machine.execReset ch die s
  | .readId ch die data => Sys2Proof.Machine.execReadId ch die data s
  | .chOpReadParam ch die data => Sys2Proof.Machine.execChOpReadParam ch die data s
  | .chOpSetFeature ch die => Sys2Proof.Machine.execChOpSetFeature ch die s
  | .chOpGetFeature ch die data => Sys2Proof.Machine.execChOpGetFeature ch die data s
  | .volume ch die => Sys2Proof.Machine.execVolume ch die s
  | .dieZq ch die => Sys2Proof.Machine.execDieZq ch die s
  | .train ch scan dcc => Sys2Proof.Machine.execTrain ch scan dcc s
  | .eye ch scan => Sys2Proof.Machine.execEye ch scan s
  | .wglFire value => Sys2Proof.Machine.execWglFire value s
  | .wglTmrStart timer => Sys2Proof.Machine.execWglTmrStart timer s
  | .wglTmrStop timer => Sys2Proof.Machine.execWglTmrStop timer s
  | .read slot => Sys2Proof.Machine.execRead slot s
  | .readGather slot => Sys2Proof.Machine.execReadGather slot s
  | .scan slot => Sys2Proof.Machine.execScan slot s
  | .program slot => Sys2Proof.Machine.execProgram slot s
  | .erase slot => Sys2Proof.Machine.execErase slot s
  | .copy slot => Sys2Proof.Machine.execCopy slot s
  | .logAppend slot => Sys2Proof.Machine.execLogAppend slot s
  | .logRead slot => Sys2Proof.Machine.execLogRead slot s
  | .dieRaw slot => Sys2Proof.Machine.execDieRaw slot s
  | .getFeature slot => Sys2Proof.Machine.execGetFeature slot s
  | .setFeature slot => Sys2Proof.Machine.execSetFeature slot s
  | .readParam slot => Sys2Proof.Machine.execReadParam slot s
  | .eraseSuspend slot => Sys2Proof.Machine.execEraseSuspend slot s
  | .eraseResume slot => Sys2Proof.Machine.execEraseResume slot s
  | .fence slot => Sys2Proof.Machine.execFence slot s
  | .calibrate slot => Sys2Proof.Machine.execCalibrate slot s
  | .abort slot => Sys2Proof.Machine.execAbort slot s
  | .createQp slot => Sys2Proof.Machine.execCreateQp slot s
  | .deleteQp slot => Sys2Proof.Machine.execDeleteQp slot s
  | .setKeySlot slot => Sys2Proof.Machine.execSetKeySlot slot s
  | .keySlotClear slot => Sys2Proof.Machine.execKeySlotClear slot s
  | .loadScanContext slot => Sys2Proof.Machine.execLoadScanContext slot s
  | .loadMicrocodeCustomer slot => Sys2Proof.Machine.execLoadMicrocodeCustomer slot s
  | .loadMicrocodeEntry slot => Sys2Proof.Machine.execLoadMicrocodeEntry slot s
  | .loadMicrocodePatch slot => Sys2Proof.Machine.execLoadMicrocodePatch slot s
  | .getLog slot => Sys2Proof.Machine.execGetLog slot s
  | .sanitizeCryptoErase slot => Sys2Proof.Machine.execSanitizeCryptoErase slot s
  | .sanitizeBlockErase slot => Sys2Proof.Machine.execSanitizeBlockErase slot s
  | .setPatrol slot => Sys2Proof.Machine.execSetPatrol slot s
  | .setBudget slot => Sys2Proof.Machine.execSetBudget slot s
  | .sqRead => Sys2Proof.Machine.execSqRead s
  | .fenceRelease slot => Sys2Proof.Machine.execFenceRelease slot s
  | .dispatch die => Sys2Proof.Machine.execDispatch die s
  | .suspension die => Sys2Proof.Machine.execSuspension die s
  | .suspensionResume die => Sys2Proof.Machine.execSuspensionResume die s
  | .bulkAgeing op => Sys2Proof.Machine.execBulkAgeing op s
  | .segmentStart ch => Sys2Proof.Machine.execSegmentStart ch s
  | .contextWake ch ctx => Sys2Proof.Machine.execContextWake ch ctx s
  | .machineCheck ch slices fromCache => Sys2Proof.Machine.execMachineCheck ch slices fromCache s
  | .frozenTokenRelease ch => Sys2Proof.Machine.execFrozenTokenRelease ch s
  | .busNone ch => Sys2Proof.Machine.execBusNone ch s
  | .busCmd ch => Sys2Proof.Machine.execBusCmd ch s
  | .busAddr ch => Sys2Proof.Machine.execBusAddr ch s
  | .busDin ch data => Sys2Proof.Machine.execBusDin ch data s
  | .busDout ch stop => Sys2Proof.Machine.execBusDout ch stop s
  | .busStatus ch first second dqs => Sys2Proof.Machine.execBusStatus ch first second dqs s
  | .busCelow ch => Sys2Proof.Machine.execBusCelow ch s
  | .busCehigh ch => Sys2Proof.Machine.execBusCehigh ch s
  | .busWpset ch => Sys2Proof.Machine.execBusWpset ch s
  | .busVsel ch => Sys2Proof.Machine.execBusVsel ch s
  | .busPhyop ch => Sys2Proof.Machine.execBusPhyop ch s
  | .ceLowLimit ch => Sys2Proof.Machine.execCeLowLimit ch s
  | .dieRawRunLimit die => Sys2Proof.Machine.execDieRawRunLimit die s
  | .dieTimeout die => Sys2Proof.Machine.execDieTimeout die s
  | .hardDecodeDone cw found weight => Sys2Proof.Machine.execHardDecodeDone cw found weight s
  | .softDecoderGrant => Sys2Proof.Machine.execSoftDecoderGrant s
  | .softDecodeDone cw found => Sys2Proof.Machine.execSoftDecodeDone cw found s
  | .xtsGrant => Sys2Proof.Machine.execXtsGrant s
  | .stagingNotice cw => Sys2Proof.Machine.execStagingNotice cw s
  | .calibrationStart => Sys2Proof.Machine.execCalibrationStart s
  | .foragerPace die => Sys2Proof.Machine.execForagerPace die s
  | .foragerPauseEnd => Sys2Proof.Machine.execForagerPauseEnd s
  | .tempPoll ch target answer => Sys2Proof.Machine.execTempPoll ch target answer s
  | .tempPollStale ch target => Sys2Proof.Machine.execTempPollStale ch target s
  | .combUnitGrant => Sys2Proof.Machine.execCombUnitGrant s
  | .rowGroupReady unit => Sys2Proof.Machine.execRowGroupReady unit s
  | .loadcol unit => Sys2Proof.Machine.execLoadcol unit s
  | .cmp unit => Sys2Proof.Machine.execCmp unit s
  | .range unit => Sys2Proof.Machine.execRange unit s
  | .inset unit => Sys2Proof.Machine.execInset unit s
  | .isnull unit => Sys2Proof.Machine.execIsnull unit s
  | .combAnd unit => Sys2Proof.Machine.execCombAnd unit s
  | .combOr unit => Sys2Proof.Machine.execCombOr unit s
  | .combNot unit => Sys2Proof.Machine.execCombNot unit s
  | .combAndn unit => Sys2Proof.Machine.execCombAndn unit s
  | .emitsel unit => Sys2Proof.Machine.execEmitsel unit s
  | .emitval unit => Sys2Proof.Machine.execEmitval unit s
  | .emitrow unit => Sys2Proof.Machine.execEmitrow unit s
  | .partition unit => Sys2Proof.Machine.execPartition unit s
  | .agg unit => Sys2Proof.Machine.execAgg unit s
  | .combEnd unit => Sys2Proof.Machine.execCombEnd unit s
  | .chunkAccept unit => Sys2Proof.Machine.execChunkAccept unit s
  | .bufferRingPlace ring => Sys2Proof.Machine.execBufferRingPlace ring s
  | .descriptorWriteBack ring => Sys2Proof.Machine.execDescriptorWriteBack ring s
  | .brPoll ring => Sys2Proof.Machine.execBrPoll ring s
  | .brWaitExpiry ring => Sys2Proof.Machine.execBrWaitExpiry ring s
  | .durableReadback slot => Sys2Proof.Machine.execDurableReadback slot s
  | .completionWrite slot => Sys2Proof.Machine.execCompletionWrite slot s
  | .alertRecordWrite => Sys2Proof.Machine.execAlertRecordWrite s
  | .moderationTimer source => Sys2Proof.Machine.execModerationTimer source s
  | .notificationMessage target => Sys2Proof.Machine.execNotificationMessage target s
  | .scrubStep mem inst bg units who => Sys2Proof.Machine.execScrubStep mem inst bg units who s
  | .waggleTimerExpiry timer => Sys2Proof.Machine.execWaggleTimerExpiry timer s
  | .loopWindowEnd => Sys2Proof.Machine.execLoopWindowEnd s
  | .patrolStart => Sys2Proof.Machine.execPatrolStart s
  | .patrolStop => Sys2Proof.Machine.execPatrolStop s
  | .calStart => Sys2Proof.Machine.execCalStart s
  | .eraseResumeAll => Sys2Proof.Machine.execEraseResumeAll s
  | .eraseSuspendAll => Sys2Proof.Machine.execEraseSuspendAll s
  | .dispatchRelease => Sys2Proof.Machine.execDispatchRelease s
  | .dispatchHold => Sys2Proof.Machine.execDispatchHold s
  | .snapshot => Sys2Proof.Machine.execSnapshot s
  | .wake => Sys2Proof.Machine.execWake s
  | .timerStart timer => Sys2Proof.Machine.execTimerStart timer s
  | .timerStop timer => Sys2Proof.Machine.execTimerStop timer s
  | .grpEnable group => Sys2Proof.Machine.execGrpEnable group s
  | .grpDisable group => Sys2Proof.Machine.execGrpDisable group s
  | .registerPairHiRead master offset => Sys2Proof.Machine.execRegisterPairHiRead master offset s
  | .plossNRise => Sys2Proof.Machine.execPlossNRise s
  | .optionHeaderTaken header => Sys2Proof.Machine.execOptionHeaderTaken header s
  | .mportWake => Sys2Proof.Machine.execMportWake s
  | .kclkRestart => Sys2Proof.Machine.execKclkRestart s
  | .memoryBist use => Sys2Proof.Machine.execMemoryBist use s

end Sys2Proof.Machine
end

