-- ==== Sys2Proof/Machine/Tick.lean ====
section
/-!
DEFINITION. One edge of ACLK, which is what the block does while no command waits.
-/

namespace Sys2Proof.Machine

/-- A waggle timer at an ACLK edge (R410): one that a write of START has armed runs from 0; a running one counts. -/
def WTimer.edge (x : WTimer) : WTimer :=
  if x.arm then { x with run := true, elapsed := 0, arm := false }
  else if x.run then { x with elapsed := x.elapsed + 1 }
  else x

/-- A moderation timer at an ACLK edge (R394): it counts outside P2. -/
def Src.edge (p2 : Bool) (x : Src) : Src := if p2 then x else { x with timer := x.timer.map (· + 1) }

/-- How long the conditions of an automatic entry to P1 have held, in ACLK edges (R436). -/
def State.idleTime (s : State) : Nat :=
  if s.power.st = .p0 ∧ s.init.done ∧ s.pwrDeny false = 0 then s.power.idle + 1 else 0

/-- One edge of ACLK (1 MHz): the ACLK count, the waggle timers and the moderation timers count it, and the smoke sequence ends
where its last step has ended (R439). An append whose ledger record was lost in a flush is placed here. DESIGN CHOICE, log entry 2: the table has no row for the tick. -/
def tick (s : State) : State :=
  placeWaiting <| smokeEnd { s with
    aclk := s.aclk + 1, power := { s.power with idle := s.idleTime }, wgl := { s.wgl with timers := s.wgl.timers.map WTimer.edge },
    ntf := { s.ntf with srcs := s.ntf.srcs.map (Src.edge (s.power.st == .p2)) } }

/-- What a step does when no command waits: a block held in reset does nothing. -/
def idle (s : State) : State := if s.held then s else after s (tick s)

end Sys2Proof.Machine
end

