-- ==== Sys2Proof/WellFormed.lean ====
section
/-!
DEFINITION. Which commands name units that the part has. A command that is not well formed names nothing of
the block (channel 40, port 7, slot 200,000, an offset that is not a multiple of four). Its meaning faults with
`noSuchUnit` where no build has the unit, and does nothing where another build has it. Everything else a command may be given,
legal or not, its meaning answers.
-/

namespace Sys2Proof

/-- A die number of R80: channel × 64 + target × 4 + LUN. -/
def dieOk (b : Build) (die : Nat) : Bool := die < 64 * Config.channels b

/-- A channel of the build (R4). -/
def chOk (b : Build) (ch : Nat) : Bool := ch < Config.channels b

/-- A channel group of the build (R4). -/
def groupOk (b : Build) (g : Nat) : Bool := g < Config.groups b

/-- A command slot (R90). -/
def slotOk (slot : Nat) : Bool := slot < Config.slotCount

/-- A comb unit of the build (R4). -/
def unitOk (b : Build) (u : Nat) : Bool := u < Config.combUnits b

/-- A word offset of the 16 MiB MPORT space (R444, R445). -/
def offsetOk (a : Nat) : Bool := a < 2 ^ 24 && a % 4 == 0

/-- A beat is 64 bytes (R43). -/
def RdBeat.wf (x : RdBeat) : Bool := x.data.length == 64

/-- The spans a codeword or a measurement may have are answered by the meanings; only the units named by a
command are checked here. -/
def Instr.wf (b : Build) : Instr → Bool
  | .porstNAssert => true
  | .porstNRelease => true
  | .srstNAssert => true
  | .srstNRelease => true
  | .optAckRise => true
  | .optionAreaLoaded _ => true
  | .optAckFall => true
  | .referencePllLock => true
  | .pllLockTimeout => true
  | .sramFillDone _ => true
  | .reload => true
  | .smokeSequence => true
  | .smokeLedgerWrite => true
  | .smokeRecordWrite => true
  | .smokeSummary => true
  | .powerStateRequest _ => true
  | .p1Entry => true
  | .autoP1Idle => true
  | .p2Entry => true
  | .wakeComplete w => w.eyes.all (fun e => chOk b e.1) && w.ohms.all fun e => decide (e.1 < Config.groups b)
  | .tempInAccept g _ => groupOk b g
  | .tgtIdleChange t _ => t < 64
  | .rbNHigh ch input => chOk b ch && input < 4
  | .gfpCreditReturn p _ => p < 5
  | .gfpReadComplete p tag beats => p < 4 && tag < 256 && beats.all RdBeat.wf
  | .gfpWriteResponse p tag _ => p < 4 && tag < 256
  | .gfpRequestTimeout p tag => p < 4 && tag < 256
  | .sqTailDoorbell q _ => q < 1024
  | .cqHeadDoorbell q _ => q < 1024
  | .targetPortErr off _ len en => off < 2 ^ 25 && len < 64 && en < 2 ^ 64
  | .registerWrite _ off _ _ => offsetOk off
  | .writeTakesEffect .fetch => true
  | .writeTakesEffect (.instr ch) => chOk b ch
  | .writeTakesEffect (.codeword stage) => stage < 160
  | .registerPairLoWrite _ off _ => Machine.Reg.pairBase off
  | .registerPairHiWrite _ off _ => 4 ≤ off && Machine.Reg.pairBase (off - 4)
  | .registerPairLoRead _ off => off < 2 ^ 24 && off % 4 == 0
  | .ntfClaim _ t => t < 64
  | .ntfComplete _ t _ => t < 64
  | .rplRaise => true
  | .rplLowerRequest _ => true
  | .zeroizeDone => true
  | .restore g => groupOk b g
  | .restoreDone g => groupOk b g
  | .bcinv g => groupOk b g
  | .unfreeze ch => chOk b ch
  | .unfreezeTakesEffect ch => chOk b ch
  | .movAbort => true
  | .aborted => true
  | .movRelease => true
  | .flush ch => chOk b ch
  | .kick r => r < 256
  | .bufferRingEnable r _ => r < 256
  | .bufferRingDisable r _ => r < 256
  | .alertRingEnable _ => true
  | .alertRingHeadWrite _ => true
  | .hqAqCfgWrite _ => true
  | .qpEnable q => q < 1024
  | .qpDisable q => q < 1024
  | .logStreamEnable st _ => st < 64
  | .smokeRegionEnable _ => true
  | .rlvTblDataWrite w _ => w < 4
  | .rlvTblLgWrite _ => true
  | .liveWrite ch _ => chOk b ch
  | .tselWrite ch tsel => chOk b ch && tsel < 8
  | .chPllLock ch => chOk b ch
  | .wpNRaise ch => chOk b ch
  | .wpNLower ch => chOk b ch
  | .phyZq ch _ => chOk b ch
  | .reset ch _ => chOk b ch
  | .readId ch _ _ => chOk b ch
  | .chOpReadParam ch _ _ => chOk b ch
  | .chOpSetFeature ch _ => chOk b ch
  | .chOpGetFeature ch _ _ => chOk b ch
  | .volume ch _ => chOk b ch
  | .dieZq ch _ => chOk b ch
  | .train ch _ _ => chOk b ch
  | .eye ch _ => chOk b ch
  | .wglFire _ => true
  | .wglTmrStart k => k < 8
  | .wglTmrStop k => k < 8
  | .read slot => slotOk slot
  | .readGather slot => slotOk slot
  | .scan slot => slotOk slot
  | .program slot => slotOk slot
  | .erase slot => slotOk slot
  | .copy slot => slotOk slot
  | .logAppend slot => slotOk slot
  | .logRead slot => slotOk slot
  | .dieRaw slot => slotOk slot
  | .getFeature slot => slotOk slot
  | .setFeature slot => slotOk slot
  | .readParam slot => slotOk slot
  | .eraseSuspend slot => slotOk slot
  | .eraseResume slot => slotOk slot
  | .fence slot => slotOk slot
  | .calibrate slot => slotOk slot
  | .abort slot => slotOk slot
  | .createQp slot => slotOk slot
  | .deleteQp slot => slotOk slot
  | .setKeySlot slot => slotOk slot
  | .keySlotClear slot => slotOk slot
  | .loadScanContext slot => slotOk slot
  | .loadMicrocodeCustomer slot => slotOk slot
  | .loadMicrocodeEntry slot => slotOk slot
  | .loadMicrocodePatch slot => slotOk slot
  | .getLog slot => slotOk slot
  | .sanitizeCryptoErase slot => slotOk slot
  | .sanitizeBlockErase slot => slotOk slot
  | .setPatrol slot => slotOk slot
  | .setBudget slot => slotOk slot
  | .sqRead => true
  | .fenceRelease slot => slotOk slot
  | .dispatch die => dieOk b die
  | .suspension die => dieOk b die
  | .suspensionResume die => dieOk b die
  | .bulkAgeing _ => true
  | .segmentStart ch => chOk b ch
  | .contextWake ch ctx => chOk b ch && ctx < 64
  | .machineCheck ch slices _ => chOk b ch && slices < 16
  | .frozenTokenRelease ch => chOk b ch
  | .busNone ch => chOk b ch
  | .busCmd ch => chOk b ch
  | .busAddr ch => chOk b ch
  | .busDin ch _ => chOk b ch
  | .busDout ch _ => chOk b ch
  | .busStatus ch _ _ _ => chOk b ch
  | .busCelow ch => chOk b ch
  | .busCehigh ch => chOk b ch
  | .busWpset ch => chOk b ch
  | .busVsel ch => chOk b ch
  | .busPhyop ch => chOk b ch
  | .ceLowLimit ch => chOk b ch
  | .dieRawRunLimit die => dieOk b die
  | .dieTimeout die => dieOk b die
  | .hardDecodeDone _ _ _ => true
  | .softDecoderGrant => true
  | .softDecodeDone _ _ => true
  | .xtsGrant => true
  | .stagingNotice _ => true
  | .calibrationStart => true
  | .foragerPace die => dieOk b die
  | .foragerPauseEnd => true
  | .tempPoll ch t _ => chOk b ch && t < 16
  | .tempPollStale ch t => chOk b ch && t < 16
  | .combUnitGrant => true
  | .rowGroupReady u => unitOk b u
  | .loadcol u => unitOk b u
  | .cmp u => unitOk b u
  | .range u => unitOk b u
  | .inset u => unitOk b u
  | .isnull u => unitOk b u
  | .combAnd u => unitOk b u
  | .combOr u => unitOk b u
  | .combNot u => unitOk b u
  | .combAndn u => unitOk b u
  | .emitsel u => unitOk b u
  | .emitval u => unitOk b u
  | .emitrow u => unitOk b u
  | .partition u => unitOk b u
  | .agg u => unitOk b u
  | .combEnd u => unitOk b u
  | .chunkAccept u => unitOk b u
  | .bufferRingPlace r => r < 256
  | .descriptorWriteBack r => r < 256
  | .brPoll r => r < 256
  | .brWaitExpiry r => r < 256
  | .durableReadback slot => slotOk slot
  | .completionWrite slot => slotOk slot
  | .alertRecordWrite => true
  | .moderationTimer s => 1 ≤ s && s < 1088
  | .notificationMessage t => t < 64
  | .scrubStep mem inst bg _ _ => mem < 8 && inst < 32 && bg < 16
  | .waggleTimerExpiry k => k < 8
  | .loopWindowEnd => true
  | .patrolStart => true
  | .patrolStop => true
  | .calStart => true
  | .eraseResumeAll => true
  | .eraseSuspendAll => true
  | .dispatchRelease => true
  | .dispatchHold => true
  | .snapshot => true
  | .wake => true
  | .timerStart k => k < 8
  | .timerStop k => k < 8
  | .grpEnable g => groupOk b g
  | .grpDisable g => groupOk b g
  | .registerPairHiRead _ off => 4 ≤ off && Machine.Reg.pairBase (off - 4)
  | .plossNRise => true
  | .optionHeaderTaken _ => true
  | .mportWake => true
  | .kclkRestart => true
  | .memoryBist u => match u with
    | .debugStore g a => g < Config.groups b && a < 16384
    | .debugContext c => c < 1024
    | .phy ch => chOk b ch
    | .memoryBist _ => true
    | .boundaryScan => true

end Sys2Proof
end

