-- ==== Sys2Proof/Safety.lean ====
section
/-!
DEFINITION. What counts as a sound state and the terms the statements use: the notification controller at its fixed
point between commands, and the states that differ only by what happens around every command.
-/

namespace Sys2Proof.Machine

/-- The notification controller has evaluated the state (R394, R396, R398): evaluating it again changes nothing. -/
def Settled (s : State) : Prop := settle s = s

/-- `t` is `u` but for what may happen at the end of any command: the ring producers of the waggle fabric fire channels
(R406, R409), which reaches the fabric's own registers and latches, the alert ring's queue, and a block in P1; and the
notification controller evaluates its sources (R394). Everything else of the block is as in `u`. -/
def Around (u t : State) : Prop :=
  (∃ r w n a p, t = { u with regs := r, wgl := w, ntf := n, alert := a, power := p }) ∧
  (∀ x, (x = A.glbPwrCtl → u.power.st ≠ .p1) → x ≠ A.hqArDropCnt → (x < 0x050000 ∨ 0x050600 ≤ x) → t.reg x = u.reg x) ∧
  (u.power.st ≠ .p1 → t.power = u.power) ∧
  t.alert.tail = u.alert.tail ∧ t.alert.wphase = u.alert.wphase ∧ t.alert.out = u.alert.out ∧
  u.alert.queue <+: t.alert.queue ∧
  t.wgl.timers = u.wgl.timers ∧ t.wgl.calBusy = u.wgl.calBusy ∧ t.ntf.int = u.ntf.int ∧
  (∀ k, (t.tgt k).stack = (u.tgt k).stack ∧ (t.tgt k).msgErr = (u.tgt k).msgErr ∧ (t.tgt k).out = (u.tgt k).out) ∧
  (∀ n, (t.src n).active = (u.src n).active ∧ (t.src n).lastT = (u.src n).lastT)

/-- No ring producer is configured (R409: LEVEL 0 turns RING[k] off). -/
def RingsOff (s : State) : Prop := ∀ k < 4, s.fldOf (A.wglRingCfg k) 16 16 = 0

/-- The block runs: no reset pin is low, memory self-test has not run, and the power state is P0. -/
def Awake (s : State) : Prop := s.held = false ∧ s.power.st = .p0

/-- The commands that are accesses of the register bus, which a block in reset still answers (R74). -/
def isBus : Instr → Bool
  | .registerWrite _ _ _ _ => true
  | .registerPairLoWrite _ _ _ => true
  | .registerPairHiWrite _ _ _ => true
  | .registerPairLoRead _ _ => true
  | .registerPairHiRead _ _ => true
  | .ntfClaim _ _ => true
  | .ntfComplete _ _ _ => true
  | .rplRaise => true
  | .rplLowerRequest _ => true
  | .reload => true
  | .powerStateRequest _ => true
  | .alertRingEnable _ => true
  | .alertRingHeadWrite _ => true
  | .hqAqCfgWrite _ => true
  | .qpEnable _ => true
  | .qpDisable _ => true
  | .wglFire _ => true
  | .wglTmrStart _ => true
  | .wglTmrStop _ => true
  | .kick _ => true
  | .bufferRingEnable _ _ => true
  | .bufferRingDisable _ _ => true
  | .movAbort => true
  | .movRelease => true
  | .flush _ => true
  | .restore _ => true
  | .bcinv _ => true
  | .unfreeze _ => true
  | .logStreamEnable _ _ => true
  | .smokeRegionEnable _ => true
  | .rlvTblDataWrite _ _ => true
  | .rlvTblLgWrite _ => true
  | .liveWrite _ _ => true
  | .tselWrite _ _ => true
  | _ => false

/-- INIT_DONE is 1 as well: every region of the register map is served (R61). -/
def InService (s : State) : Prop := Awake s ∧ s.init.done = true

/-- The commands that are levels of input pins a held block still follows. -/
def isPin : Instr → Bool
  | .porstNAssert => true
  | .porstNRelease => true
  | .srstNAssert => true
  | .srstNRelease => true
  | .optAckRise => true
  | .optAckFall => true
  | .smokeSequence => true
  | .plossNRise => true
  | .tgtIdleChange _ _ => true
  | _ => false

/-- A request on the option port starts with no byte taken; it is driven once OPT_ACK is 0 (R63, R64, R66). -/
def Init.requesting (i : Init) (code : Nat) : Init :=
  { i with optReq := if i.optAck then 0 else code, want := if i.optAck then code else 0, armed := !i.optAck, loading := false, header := [] }

/-- Step 1 of the reset sequence (R422). -/
def Init.stepOne (i : Init) : Init := { i with phase := 1, err := 0, lowering := .none }.requesting 1

/-- The data that a claim on either path returns. -/
def claimData (path : ClaimPath) (t : State) : Word := match path with | .registerBus => t.answer.data | .targetPort => t.tpAnswer.data

/-- The message write of R46: one beat, with the value in the four bytes that bits 5 to 2 of the address select. -/
def messageReq (tag k a value : Nat) : Req :=
  { tag := tag, write := true, addr := a / 64 * 64, beats := 1, start := a % 64 / 4 * 4, bytes := leBytes 4 value, psn := [],
    dur := false, notify := true, purpose := .message k }

/-- Command slot `n` holds `x`, an admitted command of opcode `opc` that is free to start. -/
def Starting (s : State) (n : Nat) (x : Slot) (opc : Nat) : Prop :=
  s.held = false ∧ n < Config.slotCount ∧ s.slot n = some x ∧ x.phase = .admitted ∧ x.entry.opc = opc ∧ x.failed = false ∧
  s.smoking = false ∧ s.stopped = false ∧ s.power.st ≠ .p2 ∧ s.slotPoisoned n = false

/-- `t` is `s` with slot `n` at `y`, up to what happens around every command. -/
def OnlySlot (s : State) (n : Nat) (y : Slot) (t : State) : Prop :=
  t.slot n = some y ∧ (∀ m, m ≠ n → t.slot m = s.slot m) ∧ ∃ l, Around { s with slots := l } t

/-- The requests of a port in the order of their issue, without their tags and times: those outstanding, then those that wait. -/
def State.asked (s : State) (p : Nat) : List Req := ((s.port p).out ++ (s.port p).wait).map fun r => { r with tag := 0, sent := 0, tfab := 0 }

/-- The condition `st` is met by the command in slot `n`. -/
def State.met (s : State) (n : Nat) (st : Status) : Prop := ∃ x, s.slot n = some x ∧ st ∈ x.conds

/-- No register write waits for the boundary of place `k`, a channel or a stage (R29). -/
def NoneWaits (s : State) (k : Nat) : Prop := ∀ p ∈ s.pend, p.left ≠ [] ∧ k ∉ p.left

/-- Context `x` runs on channel `ch`, whose PLL is locked and whose bus no channel operation holds, and is to execute a word with bus
operation `op` that no check of R239 or R244 stops and that keeps the sequences of R182 and R192. -/
def Executing (s : State) (ch : Nat) (x : Ctx) (op : Nat) : Prop :=
  let w := (s.wordAt ch x).toNat
  s.held = false ∧ ch < 32 ∧ (s.chan ch).run = some x.id ∧ (s.chan ch).ctx x.id = some x ∧ (s.chan ch).frozen = false ∧
  (s.chan ch).pll = true ∧ ((s.chan ch).op.isSome && (s.chan ch).ceLow.isNone) = false ∧ s.mayIssue ch x w = true ∧
  (s.store (ch / 8)).restoring = false ∧ badSlices (s.wordAt ch x) = 0 ∧ Wd.reserved w = false ∧ Wd.bop w = op ∧
  (x.cust.isNone = true → (s.fetchAddr (ch / 8) x.pc).2 = false) ∧
  (x.cust.isSome = true → s.smoking = false ∧ Wd.forbidden w = false ∧ Wd.badPost w = false)

/-- The bus operation of the word `w` that context `x0` executes has left the state `u` and the context `y`: its report, ALU and sequence
operations follow (R226), unless the bus operation ended the routine, and the channel has passed an instruction boundary (R29). -/
def finish (ch w k : Nat) (x0 : Ctx) (u : State) (y : Ctx) : State :=
  let r := report (ceTime u ch k) w y
  passInstr (if ((r.1.chan ch).run.bind (r.1.chan ch).ctx).isNone then r.1 else seqOp r.1 ch x0 (aluStep w x0 r.2) w) ch

/-- The context of R226 with the events it latches at the start of an instruction. -/
def State.latched (s : State) (ch : Nat) (x : Ctx) : Ctx := { x with events := s.eventsOf ch x }

/-- Unit `n` evaluates a row group of the command in `x` and its next word is `w`, with opcode `op`. -/
def Combing (s : State) (n : Nat) (x : Slot) (op w : Nat) : Prop :=
  s.held = false ∧ n < 32 ∧ (s.unit n).slot.bind s.slot = some x ∧ (s.unit n).running = true ∧ s.ctxBad x = false ∧
  w = Scx.word (s.ctxOf x) (s.unit n).pc ∧ W.op w = op

end Sys2Proof.Machine
end

