-- ==== Sys2Proof/Certificates/Slice0/Obligations.lean ====
section
/-!
DEFINITION. The statements for the provers: what the rules of the spec say each command does, over every state and operand.
A next state is described by `Around u t`: `t` is `u` up to the ring producers and the notification controller, so every field of the
block that `u` does not change is unchanged.
-/

open Sys2Proof Sys2Proof.Machine

/-! ## Resets and the reset sequence (chapters 02 and 17) -/

/-- R72: PORST_N asserted leaves the block at its reset values; the levels of the other input pins stay. Model's own choices: log entries 3 and 8. -/
def Obligations.PorstAssertLosesAllState : Prop :=
  ∀ s : State, exec .porstNAssert s = .next { State.resetOf s.build with
    pending := s.pending, free := s.free, init := { Init.reset with optAck := s.init.optAck },
    pins := { s.pins with porst := true, bist := false, temp := [], tdo := [] } }

/-- R73: SRST_N low resets everything except the loaded option area, the applied fuse repair, the protection level and
the PLL lock (GLB_OPT_FAIL_CNT is cleared only by PORST_N, R423); while PORST_N is low it has no effect. Model's own choices: log entry 9. -/
def Obligations.SrstAssertKeepsAreaRepairLevelAndLock : Prop :=
  ∀ s : State,
    (s.pins.porst = false → ∃ t, exec .srstNAssert s = .next t ∧
      t.init.area = s.init.area ∧ t.mem.spares = s.mem.spares ∧ t.level = s.level ∧ t.init.pll = s.init.pll ∧
      t.pins.srst = true ∧ t.reg A.glbOptFailCnt = s.reg A.glbOptFailCnt ∧
      (∀ a, a ≠ A.glbOptFailCnt → t.reg a = Reg.resetValue s.build a) ∧
      t.keys = [] ∧ t.scanCtx = [] ∧ t.slots = [] ∧ t.qps = [QP.fresh 0] ∧ t.chans = [] ∧ t.ops = [] ∧ t.rlv = Rlv.reset ∧
      t.stores = (State.resetOf s.build).stores ∧ t.ports = (State.resetOf s.build).ports ∧ t.target = TargetPort.reset ∧
      t.init.done = false ∧ t.init.phase = 0 ∧ t.aclk = 0) ∧
    (s.pins.porst = true → ∃ t, exec .srstNAssert s = .next t ∧ Around { s with pins := { s.pins with srst := true } } t)

/-- R73, R422: where the release of a reset pin leaves no reset, the block starts at the load of the option area, or at the fill
after a successful load and a PLL lock; its initiator ports grant 64 response credits (R48, R74). -/
def Obligations.ResetReleaseStartsLoadOrFill : Prop :=
  ∀ s : State, s.pins.bist = false → s.pins.ploss = false →
    let i := if s.init.area.isNone ∨ s.init.pll = false then s.init.stepOne else { s.init with phase := 5 }
    let ps := s.ports.map fun (p : Port) => { p with rdGrant := 64, wrGrant := 64 }
    (s.pins.porst = true → s.pins.srst = false → ∃ t, exec .porstNRelease s = .next t ∧
      Around { s with pins := { s.pins with porst := false }, init := i, ports := ps } t) ∧
    (s.pins.srst = true → s.pins.porst = false → ∃ t, exec .srstNRelease s = .next t ∧
      Around { s with pins := { s.pins with srst := false }, init := i, ports := ps } t)

/-- R64, R66, R423, R425: a load takes bytes from the rise of OPT_ACK; MAGIC and LENGTH are checked after bytes 0 to 7 and the
rest at the end; a failed check counts and stops the sequence in its phase with ERR, and no part of a bad area is used. -/
def Obligations.OptionLoadChecksHeaderThenArea : Prop :=
  ∀ s : State, s.held = false → s.init.lowering = .none →
    let fail := fun (e : Nat) => ({ s with init := { s.init with err := e, optReq := 0, want := 0, loading := false, header := [] } }).bump A.glbOptFailCnt
    (s.init.optAck = false → s.init.armed = true → s.init.optReq = 1 → ∃ t, exec .optAckRise s = .next t ∧
      Around { s with init := { s.init with optAck := true, loading := true, header := [], phase := 2 } } t) ∧
    (s.init.loading = true → ∃ t, exec .optAckFall s = .next t ∧
      Around { fail 5 with init := { s.init with err := 5, optReq := 0, want := 0, loading := false, header := [], optAck := false, armed := true } } t) ∧
    (s.init.loading = true → s.init.header = [] → ∀ h : List Byte, h.length = 8 →
      ∃ t, exec (.optionHeaderTaken h) s = .next t ∧
        Around (if leAt h 0 4 ≠ 0x314F4347 then fail 1
                else if leAt h 4 2 < 164 ∨ 4096 < leAt h 4 2 ∨ leAt h 4 2 % 4 ≠ 0 then fail 2
                else { s with init := { s.init with header := h } }) t) ∧
    (s.init.loading = true → s.init.header ≠ [] → ∀ rest : List Byte, 8 + rest.length = leAt s.init.header 4 2 →
      let area := s.init.header ++ rest
      let e := areaErr (Config.groups s.build) area
      ∃ t, exec (.optionAreaLoaded rest) s = .next t ∧
        (e ≠ 0 → Around (fail e) t) ∧
        (e = 0 → t.init.area = some (mkArea (Config.groups s.build) area) ∧ t.init.optReq = 0 ∧ t.init.loading = false ∧
          t.init.phase = (if s.init.pll then 5 else 4) ∧
          t.level = (if (mkArea (Config.groups s.build) area).rpl2 then 2
                     else if s.init.raised then max 1 (mkArea (Config.groups s.build) area).rpl
                     else (mkArea (Config.groups s.build) area).rpl) ∧
          ∃ i, Around { s with init := i } t))

/-- R422, R423: step 4 ends with the PLL lock or, after 100 µs, with ERR 6; RELOAD restarts at step 1 only where ERR is not 0; the end of the fill
leads, after the DEFAULTS entries, to INIT_DONE with PHASE 7, and the target port grants its credits (R58, R74). Model's own choices: log entry 14. -/
def Obligations.ResetSequenceStepsFourToSeven : Prop :=
  ∀ s : State,
    (s.held = false → s.init.phase = 4 → s.init.err = 0 → ∃ t, exec .referencePllLock s = .next t ∧
      Around { s with init := { s.init with pll := true, phase := 5 } } t) ∧
    (s.held = false → s.init.phase = 4 → s.init.err = 0 → ∃ t, exec .pllLockTimeout s = .next t ∧
      Around (if 100 ≤ s.aclk - s.init.pllAt then { s with init := { s.init with err := 6 } } else s) t) ∧
    (Awake s → ∃ t, exec .reload s = .next t ∧
      Around { s with
        answer := { refused := false, data := 0 },
        init := { (if s.init.err = 0 then s.init else s.init.stepOne) with keyArmed := false } } t) ∧
    (s.held = false → s.init.phase = 5 → ∀ found, ∃ t, exec (.sramFillDone found) s = .next t ∧
      t.init.done = true ∧ t.init.phase = 7 ∧ t.target.rqGrant = 1 ∧ t.target.wdGrant = 1)

/-- R74, R470: while a reset pin is low, or after memory self-test until PORST_N, a command other than a pin's level or a register-bus
access does nothing. In reset, before INIT_DONE, an MPORT access of GLB or SEC is served and one of any other region is DENIED; self-test
answers none. Model's own choices: log entries 7, 56 and 115. -/
def Obligations.HeldBlockDoesNothing : Prop :=
  (∀ (c : Instr) (s : State), s.held = true → c.wf s.build = true → isPin c = false → isBus c = false ∨ s.pins.bist = true →
    exec c s = .next s) ∧
  (∀ (a : Nat) (v : Word) (s : State), s.held = true → s.pins.bist = false → s.init.done = false → s.power.st = .p0 → Machine.offsetOk a = true →
    (0x020000 ≤ a → inRegion a = true →
      (∃ t, exec (.registerWrite .mport a v none) s = .next t ∧ Around { s with answer := { refused := true, data := 0 } } t) ∧
      (∃ t, exec (.registerPairLoRead .mport a) s = .next t ∧ Around { s with answer := { refused := true, data := 0 } } t)) ∧
    (a < 0x020000 → s.level ≠ 2 →
      (∃ t, exec (.registerWrite .mport a v none) s = .next t ∧ t.answer = { refused := false, data := 0 }) ∧
      (∃ t, exec (.registerPairLoRead .mport a) s = .next t ∧ Around { s with answer := { refused := false, data := s.readReg a } } t)))

/-- R75, R470: memory self-test makes the block require PORST_N; every instrument but the boundary scan is closed at RPL2; at RPL1 the
debug read of the customer region and of scan contexts gives 0. No instrument but the self-test changes more than TDO. Model's own choices: log entries 56 and 114. -/
def Obligations.MemorySelfTestRequiresReset : Prop :=
  ∀ s : State, s.held = false →
    let out := fun (l : List Byte) => { s with pins := { s.pins with tdo := l } }
    (∀ u : TestUse, ∃ t, exec (.memoryBist u) s = .next t ∧ (s.level = 2 → u ≠ .boundaryScan → Around s t)) ∧
    (∀ rows, s.level ≠ 2 → ∃ t, exec (.memoryBist (.memoryBist rows)) s = .next t ∧ t.held = true ∧
      Around { s with pins := { s.pins with bist := true, tdo := t.pins.tdo } } t) ∧
    (∃ t, exec (.memoryBist .boundaryScan) s = .next t ∧ Around (out s.scanCells) t) ∧
    (∀ g a, s.level ≠ 2 → ∃ t, exec (.memoryBist (.debugStore g a)) s = .next t ∧
      Around (out (if s.level = 1 ∧ 12288 ≤ a then zeros 17 else leBytes 17 (s.csWord g a).toNat)) t) ∧
    (∀ c, s.level = 1 → ∃ t, exec (.memoryBist (.debugContext c)) s = .next t ∧ Around (out (zeros 2048)) t)

/-! ## Side-band pins and power states (chapters 02 and 17) -/

/-- R26, R68, R69, R70: an accepted TEMP_IN byte becomes the group's temperature unless it is 0x80, and before the first the temperature is 35; TGT_IDLE[t] follows its pin, each bit
separately; a rise of PLOSS_N stops nothing that runs. -/
def Obligations.SidebandPinsUpdateTheirInputs : Prop :=
  ∀ s : State, s.held = false →
    (∀ g v, g < Config.groups s.build → ∃ t, exec (.tempInAccept g v) s = .next t ∧
      (v ≠ 0x80 → t.tempIn g = v.toInt) ∧ (v = 0x80 → t.tempIn g = s.tempIn g) ∧
      (∀ h, h ≠ g → t.tempIn h = s.tempIn h) ∧ ∃ l i, Around { s with pins := { s.pins with temp := l }, rlv := { s.rlv with tIn := i } } t) ∧
    (∀ g, assoc s.pins.temp g = none → s.tempIn g = 35) ∧
    (∀ k level, k < 64 → ∃ t, exec (.tgtIdleChange k level) s = .next t ∧
      bit t.pins.tgtIdle k = level ∧ (∀ j, j ≠ k → bit t.pins.tgtIdle j = bit s.pins.tgtIdle j) ∧
      Around { s with pins := { s.pins with tgtIdle := t.pins.tgtIdle } } t) ∧
    (∃ t, exec .plossNRise s = .next t ∧ t.pins.ploss = false ∧ t.smoke = s.smoke ∧
      ∃ w, Around { s with pins := { s.pins with ploss := false }, wgl := w } t)

/-- R436, R437: GLB_PWR_CTL takes REQ (3 is reserved), AUTO and IDLE_US (0 is reserved); the block enters P1 on a request, or by
itself with AUTO = 1 after IDLE_US of them, when every condition of the state holds, and everything is kept. Model's own choices: log entry 61. -/
def Obligations.LowPowerRequestAndP1Entry : Prop :=
  ∀ s : State, RingsOff s →
    (InService s → ∀ v, ∃ t, exec (.powerStateRequest v) s = .next t ∧
      t.pwrReq = (if fld v 0 2 = 3 then s.pwrReq else fld v 0 2) ∧ t.fldOf A.glbPwrCtl 2 1 = fld v 2 1 ∧
      t.fldOf A.glbPwrCtl 16 16 = (if fld v 16 16 = 0 then s.fldOf A.glbPwrCtl 16 16 else fld v 16 16) ∧
      Around ({ s with answer := { refused := false, data := 0 }, init := { s.init with keyArmed := false } }.setReg A.glbPwrCtl
        (t.reg A.glbPwrCtl)) t) ∧
    (s.held = false → s.pwrReq = 1 → s.mayRest false = true →
      exec .p1Entry s = .next { s with power := { s.power with st := .p1, idle := 0 } }) ∧
    (s.held = false → s.pwrReq = 0 → s.fldOf A.glbPwrCtl 2 1 = 1 → s.mayRest false = true → s.fldOf A.glbPwrCtl 16 16 ≤ s.power.idle →
      exec .autoP1Idle s = .next { s with power := { s.power with st := .p1, idle := 0 } }) ∧
    (s.held = false → s.power.idle < s.fldOf A.glbPwrCtl 16 16 → exec .autoP1Idle s = .next (settle s)) ∧
    (s.held = false → s.mayRest false = false → exec .p1Entry s = .next (settle s) ∧ exec .autoP1Idle s = .next (settle s))

/-- R437: entry to P2 loses every SRAM, so keys, contexts, queues, operations and read-level tables; a register without
retention returns to its reset value, one with retention keeps its value, and EN of every log stream is forced to 0; the option
area, the level, the KEK and the ACLK domain are kept. Model's own choices: log entries 68 and 70. -/
def Obligations.P2EntryKeepsOnlyRetainedState : Prop :=
  ∀ s : State, s.held = false → s.pwrReq = 2 → s.mayRest true = true → ∃ t, exec .p2Entry s = .next t ∧
    t.power.st = .p2 ∧ t.keys = [] ∧ t.scanCtx = [] ∧ t.slots = [] ∧ t.qps = [QP.fresh 0] ∧ t.ops = [] ∧ t.rlv = Rlv.reset ∧
    t.stores = (State.resetOf s.build).stores ∧ t.init.area = s.init.area ∧ t.init.kek = s.init.kek ∧ t.level = s.level ∧
    t.aclk = s.aclk ∧ t.wgl.timers = s.wgl.timers ∧ t.mem.rrep = s.mem.rrep ∧
    (∀ a r i, Reg.find a = some (r, i) → r.kept = false → t.reg a = Reg.resetValue s.build a) ∧
    (∀ k < 64, t.lsEn k = false) ∧
    (s.pend = [] → s.rlv.fg.pages = [] → ∀ a r i, Reg.find a = some (r, i) → r.kept = true → (∀ k < 64, a ≠ A.hqLsCtl k) → t.reg a = s.reg a)

/-- R62, R438: an MPORT request in P2 waits and starts the wake, which waits for KCLK where the integrator has stopped it; the wake
runs the fill with PHASE 8, and its end returns the block to P0 with REQ at 0 and PHASE 7 and serves the request; a request is
a plain read, a plain write, or the row MPORT_WAKE, which reads offset 0. Model's own choices: log entries 59, 68, 69 and 125. -/
def Obligations.WakeRunsFillAndReturnsToP0 : Prop :=
  ∀ s : State, s.held = false → s.power.st = .p2 →
    (∀ a v, Machine.offsetOk a = true → s.power.mpHeld = none → s.power.waking = false →
      ∀ c ∈ [(Instr.mportWake, 0, false, (0 : Word)), (.registerPairLoRead .mport a, a, false, 0), (.registerWrite .mport a v none, a, true, v)],
        (s.power.clkStop = false → exec c.1 s = .next { s with
          power := { s.power with mpHeld := some c.2, waking := true, waitClk := false, filled := false },
          init := { s.init with phase := 8 } }) ∧
        (s.power.clkStop = true → exec c.1 s = .next { s with power := { s.power with mpHeld := some c.2, waitClk := true } })) ∧
    (s.power.waking = false → s.power.waitClk = true →
      exec .kclkRestart s = .next { s with
        power := { s.power with clkStop := false, waking := true, waitClk := false, filled := false },
        init := { s.init with phase := 8 } }) ∧
    (s.power.waking = true → s.power.filled = true → s.wgl.heldT = [] → s.target.held = none → s.pins.ploss = false →
      ∀ w, ∃ t, exec (.wakeComplete w) s = .next t ∧
        (s.power.mpHeld = none → t.power = Power.reset ∧ t.init.phase = 7 ∧ t.pwrReq = 0 ∧ t.init.area = s.init.area) ∧
        (∀ r, s.power.mpHeld = some r → s.init.done = true → s.level ≠ 2 →
          t.power.mpHeld = none ∧ t.answer.refused = false ∧ (r.2.1 = true → t.answer.data = 0)))

/-! ## The smoke sequence and the protection level (chapter 17) -/

/-- R439, R70: the sequence starts when PLOSS_N falls, with PHASE 10 and the dispatch freeze, no recovery step goes on, and it is not
started again; before INIT_DONE it only sets PHASE; in P2 none starts. Model's own choices: log entries 54 and 71. -/
def Obligations.SmokeSequenceStartsWhenPlossFalls : Prop :=
  ∀ s : State, s.held = false → s.pins.ploss = false → ∃ t, exec .smokeSequence s = .next t ∧ t.pins.ploss = true ∧
    (s.smoking = false → s.power.st ≠ .p2 → s.init.done = true →
      t.init.phase = 10 ∧ t.smoke.step = 4 ∧ t.smoke.start = s.aclk ∧ t.smoke.seq = s.regN A.rlvSmokeSeq ∧ t.cws = [] ∧ t.recov = []) ∧
    (s.smoking = false → s.power.st ≠ .p2 → s.init.done = false →
      t.init = { s.init with phase := 11, optReq := 0, want := 0, loading := false } ∧ t.smoke = { Smoke.reset with done := true }) ∧
    (s.smoking = true ∨ s.power.st = .p2 → t.smoke = s.smoke ∧ t.init = s.init ∧ t.ops = s.ops ∧ t.slots = s.slots)

/-- R439 to R442: step 6 begins when no line of a LOG_APPEND is left; the record is written in the smoke region, where one is
enabled, when steps 4 and 6 have ended, CUR moves past it, from line 0 where the event would pass the region's end, and SEQ increments,
up to its highest value (R11); then
a SMOKE_SUMMARY record is raised, and PHASE becomes 11 when step 8 has ended. Model's own choices: log entries 71 and 121. -/
def Obligations.SmokeStepsWriteLedgerRecordAndSummary : Prop :=
  ∀ s : State, s.held = false →
    (s.smoke.step = 4 → s.ops.any (fun o => o.kind == .lineWrite && o.slotOf.isSome) = false →
      ∃ t, exec .smokeLedgerWrite s = .next t ∧ t.smoke = { s.smoke with step := 6 } ∧ t.init = s.init ∧ t.slots = s.slots ∧ t.keys = s.keys ∧
        (∀ l ∈ s.rlv.ledger, l.loaded = true → l.dirty = true →
          s.ops.any (fun o => o.owner == .ledger l.die l.seg && o.kind == .lineWrite) = false →
          ∃ o ∈ t.ops, o.owner = .ledger l.die l.seg ∧ o.kind = .lineWrite) ∧
        (s.rlv.ledger.all (fun l => !(l.loaded && l.dirty)) = true → Around { s with smoke := { s.smoke with step := 6 } } t)) ∧
    (s.smoke.step = 6 → s.ops.all (fun o => o.stage == .done || o.kind == .read || o.kind == .lineRead || o.kind == .calRead) = true →
      ∃ t, exec .smokeRecordWrite s = .next t ∧ t.smoke.step = 7 ∧ t.smoke.entries = s.smoke.entries ∧ t.init = s.init ∧
        (s.smokeOn = false → Around { s with smoke := { s.smoke with step := 7 } } t) ∧
        (s.smokeOn = true →
          let n := 1 + (s.smoke.entries.length + 15) / 16
          let first := if s.smokeNseg * 4096 < s.fldOf A.rlvSmokeCur 0 24 + n then 0 else s.fldOf A.rlvSmokeCur 0 24
          t.smoke.written = true ∧ t.smoke.lines.map Prod.fst = (List.range n).map (first + ·) ∧
          t.regN A.rlvSmokeCur = (first + n) % (s.smokeNseg * 4096) ∧ t.regN A.rlvSmokeSeq = min (s.smoke.seq + 1) (2 ^ 32 - 1) ∧ t.slots = s.slots ∧ t.keys = s.keys)) ∧
    (s.smoke.step = 7 → s.ops.any (fun o => o.owner == .smoke) = false → s.arEn = true →
      ∃ t, exec .smokeSummary s = .next t ∧ t.smoke.step = 8 ∧
        ∃ r ∈ t.alert.queue, r.typ = 5 ∧ r.src = 0 ∧ r.info2 = min (s.aclk - s.smoke.start) (2 ^ 32 - 1) ∧
          r.info0 = s.smoke.seq + s.smoke.entries.length * 2 ^ 32 + s.smoke.written.toNat * 2 ^ 48) ∧
    (s.smoke.step = 8 → s.alert.queue = [] → s.alert.out = none → s.slots = [] →
      ∃ t, exec .smokeSummary s = .next t ∧
        Around { s with init := { s.init with phase := 11 }, smoke := { s.smoke with step := 0, done := true } } t)

/-- R432, R433: RAISE takes RPL0 to RPL1; lowering takes the two keyed writes in order, and the first failing condition of R433
refuses it with RESULT 4; an accepted request starts the zeroization with PHASE 9. Model's own choices: log entry 53. -/
def Obligations.ProtectionLevelRaiseAndLowerRequest : Prop :=
  ∀ s : State, Awake s →
    let ok : Answer := { refused := false, data := 0 }
    (∃ t, exec .rplRaise s = .next t ∧
      Around { s with answer := ok, init := { s.init with keyArmed := false, raised := s.init.raised || s.level == 0 } } t) ∧
    (s.level ≠ 2 → s.init.lowering = .none →
      (s.init.keyArmed = false → ∃ t, exec (.rplLowerRequest 0x000052B0) s = .next t ∧
        Around { s with answer := ok, init := { s.init with keyArmed := true } } t) ∧
      (∃ t, exec (.rplLowerRequest 0x00004F7A) s = .next t ∧
        let refuse := if s.level ≠ 1 then 1 else if s.slots ≠ [] then 2 else if s.qps.any (fun q => s.qpEn q.qid) then 3
          else if s.san.busy then 4 else if s.init.keyArmed = false then 5 else 0
        (refuse ≠ 0 → Around { s with answer := ok, init := { s.init with keyArmed := false, result := 4, refuse := refuse } } t) ∧
        (refuse = 0 → Around { s with answer := ok, init := { s.init with
          keyArmed := false, lowering := .zeroize, phase := 9, result := 0, refuse := 0 } } t)) ∧
      (∀ v, v ≠ 0x000052B0 → v ≠ 0x00004F7A → ∃ t, exec (.rplLowerRequest v) s = .next t ∧
        Around { s with answer := ok, init := { s.init with keyArmed := false, result := 4, refuse := 5 } } t)) ∧
    (s.level = 2 → ∀ v, ∃ t, exec (.rplLowerRequest v) s = .next t ∧ Around { s with answer := { refused := true, data := 0 } } t)

/-- R434: the zeroization leaves no key, scan context, slot, I/O queue pair, customer microcode or customer entry, and asks the SoC for the
rewrite; the area loaded after it lowers the level only where its RPL is 0. Model's own choices: log entries 52 and 67. -/
def Obligations.LoweringZeroizesAndReloads : Prop :=
  ∀ s : State, s.held = false →
    (s.init.lowering = .zeroize → ∃ t, exec .zeroizeDone s = .next t ∧
      t.keys = [] ∧ t.scanCtx = [] ∧ t.slots = [] ∧ t.qps = [QP.fresh 0] ∧
      (∀ st ∈ t.stores, st.entries = [] ∧ ∀ e ∈ st.words, e.1 < 12288) ∧
      t.init = { s.init with lowering := .rewrite }.requesting 2) ∧
    (s.init.lowering = .load → s.init.done = true → s.init.area.isSome = true → s.level = 1 → s.init.loading = true → s.init.header ≠ [] →
      ∀ rest : List Byte, 8 + rest.length = leAt s.init.header 4 2 → areaErr (Config.groups s.build) (s.init.header ++ rest) = 0 →
        ∃ t, exec (.optionAreaLoaded rest) s = .next t ∧ t.init.lowering = .none ∧ t.init.phase = 7 ∧ t.init.area = s.init.area ∧
          ((mkArea (Config.groups s.build) (s.init.header ++ rest)).rpl = 0 → t.init.result = 1 ∧ t.level = 0) ∧
          ((mkArea (Config.groups s.build) (s.init.header ++ rest)).rpl ≠ 0 → t.init.result = 2 ∧ t.level = 1))

/-! ## The fabric port and the queue pairs (chapters 02 and 03) -/

/-- R44, R47, R48, R53: with INIT_DONE a returned credit raises the channel's count, at most to 64, and a request that waits leaves with the
lowest tag that is neither outstanding nor quarantined, its timeout under the T_FAB then in force; on the target port a credit for responses
releases an answer that waits, or counts likewise (R58). Before INIT_DONE the counts stay (R74). -/
def Obligations.CreditReturnReleasesWaitingRequest : Prop :=
  ∀ s : State, s.held = false →
    (s.init.done = false → ∀ p < 5, ∀ c, ∃ t, exec (.gfpCreditReturn p c) s = .next t ∧ Around s t) ∧
    (s.init.done = true → ∀ p < 4, let x := s.port p
      (x.wait = [] → x.beats = [] → ∃ t, exec (.gfpCreditReturn p .request) s = .next t ∧
        Around (s.setPort p { x with rqCrd := min 64 (x.rqCrd + 1) }) t) ∧
      (x.wait = [] → x.beats = [] → ∃ t, exec (.gfpCreditReturn p .writeData) s = .next t ∧
        Around (s.setPort p { x with wdCrd := min 64 (x.wdCrd + 1) }) t) ∧
      (∀ r l tag, x.wait = r :: l → x.rqCrd = 0 → freeTag x = some tag → ∃ t, exec (.gfpCreditReturn p .request) s = .next t ∧
        (t.port p).out = x.out ++ [{ r with tag := tag, sent := s.aclk, tfab := fld (s.reg (A.movTfab p)) 0 20 }] ∧ (t.port p).wait = l ∧ (t.port p).rqCrd = 0)) ∧
    (s.init.done = true → ∃ t, exec (.gfpCreditReturn 4 .readData) s = .next t ∧
      (s.target.rdDue = 0 → Around { s with target := { s.target with rdCrd := min 64 (s.target.rdCrd + 1) } } t) ∧
      (0 < s.target.rdDue → Around { s with target := { s.target with rdDue := s.target.rdDue - 1 } } t)) ∧
    (s.init.done = true → ∃ t, exec (.gfpCreditReturn 4 .writeResponse) s = .next t ∧
      (s.target.wrDue = 0 → Around { s with target := { s.target with wrCrd := min 64 (s.target.wrCrd + 1) } } t) ∧
      (0 < s.target.wrDue → Around { s with target := { s.target with wrDue := s.target.wrDue - 1 } } t))

/-- The response of a tag that is neither outstanding nor quarantined is discarded and counted; a late one, a read's with all its beats,
releases its tag and is counted (R55). -/
def Obligations.StrayAndLateResponsesAreCounted : Prop :=
  ∀ (s : State) (p tag : Nat), s.held = false → p < 4 → tag < 256 →
    (∀ beats : List RdBeat, (beats.all fun b => b.data.length == 64) = true → (s.port p).find tag false = none →
      ((s.port p).quarantined tag false = false → ∃ t, exec (.gfpReadComplete p tag beats) s = .next t ∧ Around (s.bump (A.movStrayCnt p)) t) ∧
      ((s.port p).quar.any (fun q => q.tag == tag && q.beats == beats.length) = true → (s.port p).quarantined tag false = true →
        ∃ t, exec (.gfpReadComplete p tag beats) s = .next t ∧
        (∀ q ∈ (t.port p).quar, q.tag ≠ tag) ∧ t.regN (A.movLateCnt p) = min (s.regN (A.movLateCnt p) + 1) (2 ^ 32 - 1))) ∧
    (∀ ok, (s.port p).find tag true = none →
      ((s.port p).quarantined tag true = false → ∃ t, exec (.gfpWriteResponse p tag ok) s = .next t ∧ Around (s.bump (A.movStrayCnt p)) t) ∧
      ((s.port p).quarantined tag true = true → ∃ t, exec (.gfpWriteResponse p tag ok) s = .next t ∧
        (∀ q ∈ (t.port p).quar, q.tag ≠ tag) ∧ t.regN (A.movLateCnt p) = min (s.regN (A.movLateCnt p) + 1) (2 ^ 32 - 1)))

/-- R49, R50, R54, R98: a failed read of a submission queue faults its queue pair; a failed or expired data write fails its command with HOST_WRITE_ERROR
and an expired data read, T_FAB after its transfer, with HOST_READ_TIMEOUT; a timeout is counted and its tag quarantined; before T_FAB nothing
expires. Model's own choices: log entry 16. -/
def Obligations.FailedRequestsFailTheirOwners : Prop :=
  ∀ (s : State) (p tag : Nat), s.held = false → p < 4 → tag < 256 → s.mover.ostPend = none →
    (∀ r q x beats, (s.port p).find tag false = some r → beats.length = r.beats → (beats.all fun (b : RdBeat) => b.data.length == 64) = true →
      (beats.any fun b => b.resp != .ok) = true → (∃ i n, r.purpose = .sqRead q i n) → s.qp q = some x → x.fault = false →
        ∃ t y, exec (.gfpReadComplete p tag beats) s = .next t ∧ t.qp q = some y ∧ y.fault = true ∧ y.cqFault = x.cqFault ∧ t.slots = s.slots) ∧
    (∀ r n x, s.slot n = some x → x.phase = .running → x.reject = none →
      ((s.port p).find tag true = some r → r.purpose = .dataWrite n →
        ∃ t y, exec (.gfpWriteResponse p tag false) s = .next t ∧ t.slot n = some y ∧ St.hostWriteError ∈ y.conds ∧ y.noWrite = true) ∧
      ((s.port p).out.find? (fun q => q.tag == tag && decide (q.tfab ≤ s.aclk - q.sent)) = some r → r.write = false → (∃ off, r.purpose = .dataRead n off) →
        ∃ t y, exec (.gfpRequestTimeout p tag) s = .next t ∧ t.slot n = some y ∧ St.hostReadTimeout ∈ y.conds ∧
          t.regN (A.movToCnt p) = min (s.regN (A.movToCnt p) + 1) (2 ^ 32 - 1) ∧
          (∃ q ∈ (t.port p).quar, q.tag = tag ∧ q.write = false) ∧ ∀ q ∈ (t.port p).out, q.tag ≠ tag)) ∧
    ((∀ q ∈ (s.port p).out, q.tag = tag → s.aclk - q.sent < q.tfab) → ∃ t, exec (.gfpRequestTimeout p tag) s = .next t ∧ Around s t) ∧
    (∀ r n, (s.port p).find tag true = some r → r.purpose = .dataWrite n → (s.port p).wait = [] → (s.port p).beats = [] →
      ∃ t, exec (.gfpWriteResponse p tag true) s = .next t ∧
        Around (s.setPort p { s.port p with out := (s.port p).out.filter fun q => q.tag != tag }) t)

/-- R84 to R86: an SQ tail doorbell below the ring size is recorded as D and restarts a stalled fetch; a CQ head doorbell is recorded when it
lies from the recorded head forward to T; any other value is not, and HQ_DB_ERR_CNT counts it. Both are answered OK. -/
def Obligations.DoorbellsRecordLegalValues : Prop :=
  ∀ (s : State) (q : Nat) (x : QP) (v : Word), InService s → q < 1024 → s.qp q = some x →
    (∃ t, exec (.sqTailDoorbell q v) s = .next t ∧ t.tpAnswer = { refused := false, data := 0 } ∧ t.slots = s.slots ∧ t.ports = s.ports ∧
      (fld v 0 16 < x.sqSize → t.qp q = some { x with bell := fld v 0 16, stall := false }) ∧
      (x.sqSize ≤ fld v 0 16 → t.qps = s.qps ∧ t.regN A.hqDbErrCnt = min (s.regN A.hqDbErrCnt + 1) (2 ^ 32 - 1)) ∧
      (∀ r, r ≠ q → t.qp r = s.qp r)) ∧
    (∃ t, exec (.cqHeadDoorbell q v) s = .next t ∧ t.tpAnswer = { refused := false, data := 0 } ∧
      let legal := fld v 0 16 < x.cqSize ∧ (fld v 0 16 + x.cqSize - x.cqHead) % x.cqSize ≤ (x.tail + x.cqSize - x.cqHead) % x.cqSize
      (legal → ∃ y, t.qp q = some y ∧ y.cqHead = fld v 0 16) ∧
      (legal → (∀ y ∈ s.slots, y.qid = q → y.phase ≠ .fullHeld) → t.qp q = some { x with cqHead := fld v 0 16 } ∧ t.slots = s.slots) ∧
      (¬legal → t.qps = s.qps ∧ t.slots = s.slots ∧ t.regN A.hqDbErrCnt = min (s.regN A.hqDbErrCnt + 1) (2 ^ 32 - 1)))

/-! ## Registers (chapters 00, 01, 02 and 18) -/

/-- R57: a target-port request outside the defined locations has no effect, is answered ERR, and counts, and a read of a doorbell returns the
value recorded; the answer takes a credit, or waits for one (R44); R61: before INIT_DONE an MPORT access
outside GLB and SEC is DENIED without effect, and an access where there is no register is answered OK without effect. Model's own choices: log entry 18. -/
def Obligations.RefusedAccessesHaveNoEffect : Prop :=
  ∀ s : State, Awake s →
    (∀ (off len be : Nat) (write : Bool), s.init.done = true → s.tpDefined (off % 0x2000000) len be = false →
      ∃ t, exec (.targetPortErr off write len be) s = .next t ∧
        Around ({ s with tpAnswer := { refused := true, data := 0 }, target := s.target.answer write }.bump A.hqTgtErrCnt) t) ∧
    (∀ (q : Nat) (x : QP), s.init.done = true → q < 1024 → s.qp q = some x →
      (∃ t, exec (.targetPortErr (0x1000 * q) false 0 15) s = .next t ∧
        Around { s with tpAnswer := { refused := false, data := BitVec.ofNat 32 x.bell }, target := s.target.answer false } t) ∧
      (∃ t, exec (.targetPortErr (0x1000 * q + 8) false 0 (15 * 2 ^ 8)) s = .next t ∧
        Around { s with tpAnswer := { refused := false, data := BitVec.ofNat 32 x.cqHead }, target := s.target.answer false } t)) ∧
    (∀ (a : Nat) (v : Word), a % 4 = 0 → a < 0x1000000 →
      (s.init.done = false → inRegion a = true → 0x020000 ≤ a →
        ∃ t, exec (.registerWrite .mport a v none) s = .next t ∧ Around { s with answer := { refused := true, data := 0 } } t) ∧
      (s.init.done = true → Reg.find a = none →
        ∃ t, exec (.registerWrite .mport a v none) s = .next t ∧
          Around { s with answer := { refused := false, data := 0 }, init := { s.init with keyArmed := false } } t))

/-- R12, R13, R29 to R31: a write of a register without a rule of its own takes effect at once where its boundary is immediate, and otherwise
waits, readable and not in effect, until its boundary; a reserved encoding leaves its field; a read-only register ignores it. Model's own choices: log entries 17 and 51. -/
def Obligations.RegisterWriteTakesEffectAtItsBoundary : Prop :=
  ∀ (s : State) (a : Nat) (v : Word) (r : RegRow) (is : List Nat), InService s → s.level ≠ 2 → a % 4 = 0 → a < 0x1000000 →
    Reg.find a = some (r, is) → s.instOk r is = true → actWrite s r.base (is.getD 0 0) v = none →
    Reg.pairBase a = false → Reg.pairBase (a - 4) = false →
    let u := { s with answer := { refused := false, data := 0 }, init := { s.init with keyArmed := false } }
    ∃ t, exec (.registerWrite .mport a v none) s = .next t ∧
      (r.acc = .ro → Around u t) ∧
      (r.acc = .rw → s.qpRegOk r is = true → r.base ≠ A.wglTempTh 0 → r.base ≠ A.wglRingCfg 0 →
        s.fixWrite r is (s.applied a) v = Reg.merge r.flds (s.applied a) v →
        (r.bnd = .immediate → Around (u.setReg a (Reg.merge r.flds (s.applied a) v)) t) ∧
        (r.bnd ≠ .immediate →
          Around { u with pend := s.pend ++ [{ bnd := r.bnd, addr := a, val := Reg.merge r.flds (s.applied a) v, left := s.boundaryOf r is }] } t ∧
          t.applied a = Reg.merge r.flds (s.applied a) v))

/-- R29, R31: at the fetch unit's boundary the last value written to each register that waits for it takes effect and waits no longer; a
channel's or a stage's boundary releases a write once every one it governs has passed, and of several writes of one register only the last
acts: tracking switched off and on again between two boundaries keeps its record; R198: EN, TSEL and VOLUME of a CH_CTL write act at the channel's
instruction boundary. -/
def Obligations.BoundaryTakesPendingWrites : Prop :=
  (∀ (s : State) (a : Nat) (v : Word), s.held = false →
    (a < 0x050000 ∨ 0x050600 ≤ a) → a ≠ A.hqArDropCnt → a ≠ A.glbPwrCtl →
    (∀ l, s.pend = l ++ [{ bnd := .fetch, addr := a, val := v, left := [0] }] →
      ∃ t, exec (.writeTakesEffect .fetch) s = .next t ∧ t.reg a = v ∧ t.pend = s.pend.filter fun x => x.bnd != .fetch) ∧
    (∀ ch, s.pend = [{ bnd := .instr, addr := a, val := v, left := [ch] }] →
      ∃ t, exec (.writeTakesEffect (.instr ch)) s = .next t ∧ t.reg a = v ∧ t.pend = []) ∧
    (∀ ch w, s.pend = [{ bnd := .instr, addr := a, val := w, left := [ch] }, { bnd := .instr, addr := a, val := v, left := [ch] }] →
      ∃ t, exec (.writeTakesEffect (.instr ch)) s = .next t ∧ t.reg a = v ∧ t.pend = [] ∧
        (a = A.rlvTrackCfg → fld v 0 1 = 1 → t.rlv.units = s.rlv.units)) ∧
    (∀ c d, c ≠ d → s.pend = [{ bnd := .codeword, addr := a, val := v, left := [c, d] }] → c < 160 → d < 160 →
      ∃ t, exec (.writeTakesEffect (.codeword c)) s = .next t ∧ t.reg a = s.reg a ∧
        t.pend = [{ bnd := .codeword, addr := a, val := v, left := [d] }])) ∧
  (∀ (s : State) (ch : Nat) (v : Word), s.held = false → ch < 32 →
    s.pend = [{ bnd := .instr, addr := A.chCtl ch, val := v, left := [ch], act := true }] →
    ∃ t, exec (.writeTakesEffect (.instr ch)) s = .next t ∧ t.pend = [] ∧ t.en ch = decide (fld v 0 1 = 1) ∧ t.volume ch = decide (fld v 6 1 = 1) ∧
      t.live ch = s.live ch ∧ t.wpRel ch = s.wpRel ch ∧ t.slots = s.slots ∧ t.ops = s.ops ∧
      (s.fldOf (A.chTset ch (fld v 1 3) 0) 0 28 = s.rateOf ch → t.tsel ch = fld v 1 3) ∧
      (fld v 0 1 ≠ (s.en ch).toNat → (t.chan ch).pll = false))

/-- R15: a write of _LO only stages for its master; a write of _HI takes both halves, or the half in effect where none is staged, and clears the
staged half; a read of _LO captures the upper half for its master, and a read of _HI returns and releases the capture. -/
def Obligations.RegisterPairsStageAndCapture : Prop :=
  ∀ (s : State) (k : Nat) (v : Word), InService s → k < 64 →
    let lo := A.ntfTgtAddrLo k
    let merged := fun (old w : Word) => Reg.merge [Reg.f 2 30] old w
    (∃ t, exec (.registerPairLoWrite .mport lo v) s = .next t ∧ (t.pairOf lo .mport).staged = some v ∧
      t.reg lo = s.reg lo ∧ t.reg (lo + 4) = s.reg (lo + 4) ∧ (t.pairOf lo .mirror) = s.pairOf lo .mirror) ∧
    (∃ t, exec (.registerPairHiWrite .mport (lo + 4) v) s = .next t ∧ (t.pairOf lo .mport).staged = none ∧
      t.reg (lo + 4) = Reg.merge [Reg.f 0 24] (s.reg (lo + 4)) v ∧
      t.reg lo = (match (s.pairOf lo .mport).staged with | some w => merged (s.reg lo) w | none => s.reg lo)) ∧
    (∃ t, exec (.registerPairLoRead .mport lo) s = .next t ∧ t.answer = { refused := false, data := s.reg lo } ∧
      (t.pairOf lo .mport).capHi = some (s.reg (lo + 4))) ∧
    (∃ t, exec (.registerPairHiRead .mport (lo + 4)) s = .next t ∧ (t.pairOf lo .mport).capHi = none ∧
      t.answer = { refused := false, data := ((s.pairOf lo .mport).capHi).getD (s.reg (lo + 4)) })

/-- R144 to R146: of two writes of one register in the same cycle the MPORT write is applied and the mirror write discarded, which counts in
GLB_CFG_COLLIDE_CNT, raises a CONFIG_COLLISION record, and is answered OK. -/
def Obligations.CollidingWritesKeepMport : Prop :=
  ∀ (s : State) (k : Nat) (v w : Word), InService s → s.arEn = true → k < 64 →
    ∃ t, exec (.registerWrite .mport (A.ntfTgtData k) v (some w)) s = .next t ∧ t.reg (A.ntfTgtData k) = v ∧
      t.tpAnswer = { refused := false, data := 0 } ∧ t.regN A.glbCollideCnt = min (s.regN A.glbCollideCnt + 1) (2 ^ 32 - 1) ∧
      ∃ r ∈ t.alert.queue, r.typ = 9 ∧ r.src = 0 ∧ r.info0 = A.ntfTgtData k ∧ r.info1 = v.toNat + w.toNat * 2 ^ 32 ∧
        r.info2 = t.regN A.glbCollideCnt

/-! ## The notification controller (chapter 15) -/

/-- R397, R400: a claim returns the highest-ranked candidate, in FC32 the lowest number, and makes it active at the target, and
the latch of an edge source clears; without a candidate it returns 0 and counts. -/
def Obligations.ClaimActivatesHighestCandidate : Prop :=
  ∀ (s : State) (k : Nat) (path : ClaimPath), InService s → RingsOff s → k < 64 →
    (∀ n, s.bestCand k = some n → ∃ t, exec (.ntfClaim path k) s = .next t ∧ claimData path t = BitVec.ofNat 32 n ∧
      (t.src n).active = some k ∧ (t.src n).lastT = some k ∧ (t.src n).latch = false ∧
      (t.tgt k).stack = (n, s.prio n) :: (s.tgt k).stack ∧ (∀ j, j ≠ k → (t.tgt j).stack = (s.tgt j).stack) ∧
      n ∈ (s.tgt k).cands ∧ (s.build = .fc32 → ∀ m ∈ (s.tgt k).cands, n ≤ m)) ∧
    (s.bestCand k = none → ∃ t, exec (.ntfClaim path k) s = .next t ∧ claimData path t = 0 ∧ (s.tgt k).cands = [] ∧
      (∀ j, (t.tgt j).stack = (s.tgt j).stack) ∧ (∀ n, (t.src n).active = (s.src n).active) ∧
      t.regN A.ntfEmptyClaimCnt = min (s.regN A.ntfEmptyClaimCnt + 1) (2 ^ 32 - 1))

/-- R394, R401: a complete write that names the target's newest active source ends its service, and a source still raised is READY at once;
any other number has no effect and counts. -/
def Obligations.CompleteEndsNamedService : Prop :=
  ∀ (s : State) (k : Nat) (path : ClaimPath) (v : Word), InService s → RingsOff s → k < 64 →
    (∀ p rest, (s.tgt k).stack = (fld v 0 11, p) :: rest → ∃ t, exec (.ntfComplete path k v) s = .next t ∧
      (t.tgt k).stack = rest ∧ (t.src (fld v 0 11)).active = none ∧
      (s.raised (fld v 0 11) = true → (t.src (fld v 0 11)).ready = true)) ∧
    ((∀ p rest, (s.tgt k).stack ≠ (fld v 0 11, p) :: rest) → ∃ t, exec (.ntfComplete path k v) s = .next t ∧
      (∀ j, (t.tgt j).stack = (s.tgt j).stack) ∧ (∀ n, (t.src n).active = (s.src n).active) ∧
      t.regN A.ntfCmplErrCnt = min (s.regN A.ntfCmplErrCnt + 1) (2 ^ 32 - 1))

/-- R46, R398: a due message leaves port 0 as one beat with NOTIFY, the target's value in the four bytes its address selects; an error response sets
MSG_ERR and counts. -/
def Obligations.MessageWriteHasNotifyForm : Prop :=
  ∀ (s : State) (k : Nat), Awake s → k < 64 →
    ((s.tgt k).due = true → (s.tgt k).out = false → (s.tgt k).msgErr = false → s.stopped = false →
      (s.port 0).wait = [] → 0 < (s.port 0).rqCrd → ∀ tag, freeTag (s.port 0) = some tag →
      ∃ t, exec (.notificationMessage k) s = .next t ∧ (t.tgt k).out = true ∧
        t.regN A.ntfMsgCnt = min (s.regN A.ntfMsgCnt + 1) (2 ^ 32 - 1) ∧
        (t.port 0).out = (s.port 0).out ++ [{ messageReq tag k (s.pair (A.ntfTgtAddrLo k)) (s.regN (A.ntfTgtData k)) with
          sent := s.aclk, tfab := fld (s.reg (A.movTfab 0)) 0 20 }]) ∧
    (∀ p tag r ok, p < 4 → tag < 256 → s.mover.ostPend = none → (s.port p).find tag true = some r → r.purpose = .message k →
      ∃ t, exec (.gfpWriteResponse p tag ok) s = .next t ∧ (t.tgt k).out = false ∧
        (t.tgt k).msgErr = ((s.tgt k).msgErr || !ok) ∧
        t.regN A.ntfMsgErrCnt = (if ok then s.regN A.ntfMsgErrCnt else min (s.regN A.ntfMsgErrCnt + 1) (2 ^ 32 - 1)))

/-- R394: a raised source whose moderation timer reaches TIME becomes READY. -/
def Obligations.ModerationTimerMakesReady : Prop :=
  ∀ (s : State) (n : Nat), Awake s → RingsOff s → 1 ≤ n → n < 1088 → s.timerMet (s.src n) = true → s.raised n = true →
    ∃ t, exec (.moderationTimer n) s = .next t ∧ (t.src n).ready = true ∧ ∃ w, Around { s with ntf := w } t

/-! ## Registers with a rule of their own (chapters 03, 07, 09, 10 and 13) -/

/-- R103: a rise of EN resets the alert ring to tail 0 and head 0 with the size and port written; while EN is 1 only EN may change; a head is accepted from
HEAD forward to TAIL, and any other is counted. -/
def Obligations.AlertRingEnableAndHeadWrites : Prop :=
  ∀ (s : State) (v : Word), InService s →
    (fld v 8 1 = 1 → s.arEn = false → ∃ t, exec (.alertRingEnable v) s = .next t ∧ t.arEn = true ∧ t.alert.tail = 0 ∧ t.alert.wphase = true ∧
      t.arHead = 0 ∧ t.fldOf A.hqArCfg 0 4 = (if fld v 0 4 ≤ 12 then fld v 0 4 else s.fldOf A.hqArCfg 0 4) ∧
      t.fldOf A.hqArCfg 4 2 = fld v 4 2) ∧
    (fld v 8 1 = 1 → s.arEn = true → ∃ t, exec (.alertRingEnable v) s = .next t ∧ t.reg A.hqArCfg = s.reg A.hqArCfg ∧
      t.alert.tail = s.alert.tail ∧ t.arHead = s.arHead) ∧
    (∃ t, exec (.alertRingHeadWrite v) s = .next t ∧ t.alert.tail = s.alert.tail ∧
      let legal := fld v 0 16 < s.arSize ∧ (fld v 0 16 + s.arSize - s.arHead) % s.arSize ≤ (s.alert.tail + s.arSize - s.arHead) % s.arSize
      (legal → t.arHead = fld v 0 16) ∧
      (¬legal → t.arHead = s.arHead ∧ t.regN A.hqDbErrCnt = min (s.regN A.hqDbErrCnt + 1) (2 ^ 32 - 1)))

/-- R93, R95: HQ_AQ_CFG sets QP 0 up with its bases, sizes and port and fresh rings while QP 0 is disabled and idle, and has no effect otherwise;
QP_EN of a queue pair that exists follows its register, and reads in flight at a disable bring nothing. Model's own choices: log entry 66. -/
def Obligations.QueuePairRegistersSetUpAndEnable : Prop :=
  ∀ (s : State) (q : Nat) (v : Word), InService s → q < 1024 →
    (fld v 0 4 ≤ 12 → fld v 4 4 ≤ 12 → (passFetch s).aqFree = true → ∃ t x, exec (.hqAqCfgWrite v) s = .next t ∧ t.qp 0 = some x ∧
      x.sqSize = 16 * 2 ^ fld v 0 4 ∧ x.cqSize = 16 * 2 ^ fld v 4 4 ∧ x.port = fld v 8 2 ∧
      x.sqBase = (passFetch s).pair A.hqAqSqbLo ∧ x.cqBase = (passFetch s).pair A.hqAqCqbLo ∧
      x.head = 0 ∧ x.expect = true ∧ x.bell = 0 ∧ x.tail = 0 ∧ x.wphase = true ∧ x.posted = 0 ∧ x.cqHead = 0 ∧ x.fault = false) ∧
    ((passFetch s).aqFree = false → ∃ t, exec (.hqAqCfgWrite v) s = .next t ∧ t.qps = s.qps ∧ t.slots = s.slots) ∧
    ((s.qp q).isSome = true → ∃ t, exec (.qpEnable q) s = .next t ∧ t.qpEn q = true ∧ t.qps = s.qps ∧ t.slots = s.slots) ∧
    ((s.qp q).isSome = true → ∃ t, exec (.qpDisable q) s = .next t ∧ t.qpEn q = false ∧ t.qps = s.qps ∧ t.slots = s.slots ∧
      ∀ x ∈ t.ports, ∀ r ∈ x.out ++ x.wait, ∀ i n, r.purpose = .sqRead q i n → n = 0) ∧
    (s.qp q = none → ∃ t, exec (.qpEnable q) s = .next t ∧ t.qpEn q = (passFetch s).qpEn q ∧ t.qps = s.qps)

/-- R355, R358, R360: a rise of EN starts a buffer ring at HEAD 0 without fault; EN = 0 ends it at once when it is idle or its head only waits for
descriptors, every unit failing, and at the unit boundary otherwise; KICK reads the awaited descriptors again, at once or after an outstanding read. -/
def Obligations.BufferRingEnableDisableAndKick : Prop :=
  ∀ (s : State) (r : Nat) (v : Word), InService s → r < 256 →
    (fld v 7 1 = 1 → fld v 0 4 ≤ 12 → s.brEn r = false → ∃ t, exec (.bufferRingEnable r v) s = .next t ∧ t.brEn r = true ∧
      t.brSize r = 16 * 2 ^ fld v 0 4 ∧ (t.ring r).head = 0 ∧ (t.ring r).fault = false ∧ (t.ring r).active = true ∧ (t.ring r).closing = false) ∧
    (fld v 7 1 = 0 → s.brEn r = true → ∃ t, exec (.bufferRingDisable r v) s = .next t ∧ t.brEn r = false ∧
      let waits := (s.ring r).phase = 0 ∨ ((s.ring r).phase = 1 ∧ (s.ring r).starved = true ∧ (s.ring r).taken = [])
      (waits → (t.ring r).active = false ∧ (t.ring r).units = [] ∧
        ∀ u ∈ (s.ring r).units, ∀ x, s.slot u.slot = some x → x.phase = .running → x.reject = none →
          ∃ y, t.slot u.slot = some y ∧ St.outputRingFault ∈ y.conds) ∧
      (¬waits → (t.ring r).closing = true ∧ (t.ring r).units = (s.ring r).units.take 1)) ∧
    ((s.ring r).phase = 1 → s.descReading r = true → ∃ t, exec (.kick r) s = .next t ∧ (t.ring r).again = true ∧ t.ports = s.ports) ∧
    ((s.ring r).phase ≠ 1 → ∃ t, exec (.kick r) s = .next t ∧ t.rings = s.rings ∧ t.ports = s.ports) ∧
    (∀ u l x tag, (s.ring r).phase = 1 → s.descReading r = false → (s.ring r).units = u :: l → s.slot u.slot = some x →
      s.stopped = false → s.portOf x < 4 → (s.port (s.portOf x)).wait = [] → 0 < (s.port (s.portOf x)).rqCrd →
      freeTag (s.port (s.portOf x)) = some tag →
      ∃ t, exec (.kick r) s = .next t ∧
        let i := ((s.ring r).head + (s.ring r).taken.length) % s.brSize r
        let k := min 8 (min (s.brSize r - i) ((4096 - s.brAddr r i % 4096) / 32))
        (t.port (s.portOf x)).out = (s.port (s.portOf x)).out ++ [{ mkRead (s.brAddr r i) (32 * k) false (.descRead r i k) with
          tag := tag, sent := s.aclk, tfab := fld (s.reg (A.movTfab (s.portOf x))) 0 20 }])

/-- R372, R373: MOV_ABORT ends every command and I/O queue pair, disables every queue pair and ring, whose HEAD and FAULT stay, and drops staged codewords; ABORTED holds once no slot is in use
and no dispatched array operation remains, until it is released; a flush of a channel that is not LIVE waits for a
codeword boundary of its decoded codewords and leaves none of its codewords. Model's own choices: log entries 36 and 37. -/
def Obligations.MoverAbortReleaseAndFlush : Prop :=
  ∀ (s : State), InService s →
    let ok := { s with answer := { refused := false, data := 0 }, init := { s.init with keyArmed := false } }
    (s.stopped = false → ∃ t, exec .movAbort s = .next t ∧ t.mover.aborting = true ∧ t.slots = [] ∧ t.cws = [] ∧ t.recov = [] ∧
      t.units = [] ∧ t.rings = s.rings.map BufRing.aborted ∧ (∀ r < 256, t.brEn r = false) ∧ t.arEn = false ∧ (∀ q ∈ t.qps, q.qid = 0) ∧ (∀ q x, q < 1024 → s.qp q = some x → t.qpEn q = false) ∧
      ∀ x ∈ t.ports, x.wait = [] ∧ ∀ r ∈ x.out, r.purpose = .dead) ∧
    (s.stopped = true → ∃ t, exec .movAbort s = .next t ∧ Around ok t) ∧
    (s.mover.aborting = true → s.slots = [] → (s.ops.any Op.active) = false → ∃ t, exec .aborted s = .next t ∧
      Around { s with mover := { s.mover with aborting := false, aborted := true } } t) ∧
    (s.mover.aborted = true → ∃ t, exec .movRelease s = .next t ∧ Around { ok with mover := { s.mover with aborted := false } } t) ∧
    (∀ ch, s.chPresent ch = true →
      (s.live ch = true → ∃ t, exec (.flush ch) s = .next t ∧ Around ok t) ∧
      (s.live ch = false → (s.cws.any fun c => c.ch == ch && c.stage == .decoded) = false → s.pend = [] →
        ∃ t, exec (.flush ch) s = .next t ∧ (∀ c ∈ t.cws, c.ch ≠ ch) ∧ (t.chan ch).flushing = t.arriving ch) ∧
      (s.live ch = false → (s.cws.any fun c => c.ch == ch && c.stage == .decoded) = true →
        ∃ t, exec (.flush ch) s = .next t ∧ t.flushDue ch = true ∧ t.cws = s.cws ∧ t.chans = s.chans ∧ t.slots = s.slots) ∧
      (∀ v, s.pend = [{ bnd := .codeword, addr := A.movSqCtl ch, val := v, left := [stQueue ch], act := true }] →
        ∃ t, exec (.writeTakesEffect (.codeword (stQueue ch))) s = .next t ∧ (∀ c ∈ t.cws, c.ch ≠ ch) ∧ t.pend = []))

/-- R245, R248: RESTORE rewrites the ROM image, with fetches waiting until it ends, and empties the branch caches, as BCINV does; UNFREEZE waits for the
failed commands and the tokens, which stay for the longest program or erase and tRST, and then clears FROZEN and the cache. -/
def Obligations.SequencerControlRestoresAndUnfreezes : Prop :=
  ∀ (s : State), InService s →
    (∀ g, g < Config.groups s.build →
      (∃ t, exec (.restore g) s = .next t ∧ (t.store g).restoring = true ∧ (t.store g).entries = (s.store g).entries ∧
        (t.store g).words = (s.store g).words.filter (fun e => decide (11264 ≤ e.1)) ∧ ∀ i < 8, (t.chan (8 * g + i)).cache = []) ∧
      (∃ t, exec (.restoreDone g) s = .next t ∧ Around (s.setStore g { s.store g with restoring := false }) t) ∧
      (∃ t, exec (.bcinv g) s = .next t ∧ t.stores = s.stores ∧ ∀ i < 8, (t.chan (8 * g + i)).cache = [])) ∧
    (∀ ch, s.chPresent ch = true →
      ((s.chan ch).frozen = true → ∃ t, exec (.unfreeze ch) s = .next t ∧ t.chan ch = { s.chan ch with unfrz := true }) ∧
      ((s.chan ch).frozen = true → (s.chan ch).unfrz = true → (s.chan ch).frozenTok = false → s.freezeOpen ch = false →
        ∃ t, exec (.unfreezeTakesEffect ch) s = .next t ∧
          t.chan ch = { s.chan ch with frozen := false, unfrz := false, cache := [], lastHit := false } ∧ t.live ch = s.live ch) ∧
      ((s.chan ch).frozenTok = true ∨ s.freezeOpen ch = true → ∃ t, exec (.unfreezeTakesEffect ch) s = .next t ∧ Around s t) ∧
      ((s.chan ch).frozenTok = true → 1000 * (s.aclk - (s.chan ch).frozeAt) < s.frozenFor ch →
        ∃ t, exec (.frozenTokenRelease ch) s = .next t ∧ Around s t) ∧
      ((s.chan ch).frozenTok = true → s.frozenFor ch ≤ 1000 * (s.aclk - (s.chan ch).frozeAt) →
        ∃ t, exec (.frozenTokenRelease ch) s = .next t ∧ (t.chan ch).frozenTok = false ∧ t.slots = s.slots ∧
        ∀ o ∈ t.ops, ¬(dieCh o.die = ch ∧ o.stage = .done)))

/-- R304, R314: a stream's EN = 1 takes effect only when its dies and region are legal, and is refused with BADCFG otherwise; the smoke region is enabled
only where it fits a Class L die, at the instruction boundary of the die's channel. Model's own choices: log entries 24 and 25. -/
def Obligations.LogStreamAndSmokeRegionEnable : Prop :=
  ∀ (s : State) (n : Nat) (v : Word), InService s → n < 64 →
    (fld v 0 1 = 1 → (passFetch s).lsOk n v = true → ∃ t, exec (.logStreamEnable n v) s = .next t ∧ t.lsEn n = true ∧
      t.fldOf (A.hqLsCtl n) 1 3 = fld v 1 3 ∧ n ∉ t.rlv.lsBad) ∧
    (fld v 0 1 = 1 → (passFetch s).lsOk n v = false → ∃ t, exec (.logStreamEnable n v) s = .next t ∧ t.lsEn n = (passFetch s).lsEn n ∧
      n ∈ t.rlv.lsBad) ∧
    (fld v 16 1 = 1 →
      let d := fld v 0 11
      let fits := s.classLOk d = true ∧ s.smokeFirstAt d + s.smokeNsegAt d ≤ s.segs d - 1
      ((s.chan (dieCh d)).atBoundary = true → s.pend = [] → ∃ t, exec (.smokeRegionEnable v) s = .next t ∧
        (fits → t.smokeOn = true ∧ t.smokeDie = d) ∧ (¬fits → t.reg A.rlvSmokeDie = s.reg A.rlvSmokeDie)) ∧
      ((s.chan (dieCh d)).atBoundary = false → ∃ t, exec (.smokeRegionEnable v) s = .next t ∧ t.reg A.rlvSmokeDie = s.reg A.rlvSmokeDie ∧
        t.pendAct A.rlvSmokeDie 0 = some v ∧ t.slots = s.slots ∧ t.rlv = s.rlv))

/-- R271, R276, R280, R287: a write of the read-level window, at the instruction boundary of the selected die's channel, sets the four signed slots of the selected entry and leaves the others, and clears the tracking of
its LUN and group; a write of RLV_TBL_LG sets the five last good steps; an update of the
block's own lost to a write is counted. -/
def Obligations.ReadLevelWindowWritesSelectedEntry : Prop :=
  ∀ (s : State) (w : Nat) (v : Word), InService s → w < 4 →
    let here := (s.chan (dieCh s.selDie)).atBoundary = true ∧ s.pend = []
    (s.pend = [] → ∀ lost, ∃ t, exec (.rlvTblDataWrite w { word := v, lost := lost }) s = .next t ∧
      t.regN A.rlvTblLostCnt = (if lost then min (s.regN A.rlvTblLostCnt + 1) (2 ^ 32 - 1) else s.regN A.rlvTblLostCnt)) ∧
    (here → ∃ t, exec (.rlvTblDataWrite w { word := v, lost := false }) s = .next t ∧
      (∀ i < 4, t.tbl s.selDie s.selGroup s.selSet (4 * w + i) = sbyte (fld v (8 * i) 8)) ∧
      (∀ k, k < 16 → k / 4 ≠ w → t.tbl s.selDie s.selGroup s.selSet k = s.tbl s.selDie s.selGroup s.selSet k) ∧
      t.rlv.good = s.rlv.good ∧ ∀ x ∈ t.rlv.units, ¬(x.die = s.selDie ∧ x.grp = s.selGroup)) ∧
    (here → ∃ t, exec (.rlvTblLgWrite v) s = .next t ∧ t.rlv.table = s.rlv.table ∧
      ∀ c < 5, t.lastGoodRaw s.selDie s.selGroup c = fld v (4 * c) 4) ∧
    ((s.chan (dieCh s.selDie)).atBoundary = false →
      (∃ t, exec (.rlvTblDataWrite w { word := v, lost := false }) s = .next t ∧ t.rlv = s.rlv ∧ t.pendAct (A.rlvTblData w) s.selKey = some v) ∧
      (∃ t, exec (.rlvTblLgWrite v) s = .next t ∧ t.rlv = s.rlv ∧ t.pendAct A.rlvTblLg (s.selKey / 4) = some v)) ∧
    (∀ ch key, s.pend = [{ bnd := .instr, addr := A.rlvTblData w, val := v, left := [ch], sel := key, act := true }] → ch < 32 →
      ∃ t, exec (.writeTakesEffect (.instr ch)) s = .next t ∧ t.pend = [] ∧
        ∀ i < 4, t.tbl (key / 64) (key / 4 % 16) (key % 4) (4 * w + i) = sbyte (fld v (8 * i) 8))

/-! ## Channels and the waggle fabric (chapters 06 and 16) -/

/-- R200 to R202: a channel becomes LIVE only when every condition of R201 holds, and NOT_LIVE names the first that fails; TSEL changes the RATE only on a quiet
channel, and then the PLL relocks; WP_n rises with WP_REL on an idle channel that is not frozen, and falls once the writes admitted before have finished. -/
def Obligations.ChannelControlWritesLiveTselAndWp : Prop :=
  ∀ (s : State) (ch : Nat), InService s → s.chPresent ch = true → s.pend = [] →
    (s.live ch = false → ∃ t, exec (.liveWrite ch (s.reg (A.chCtl ch) ||| 0x20)) s = .next t ∧ (t.chan ch).notLive = s.notLiveReason ch ∧
      t.live ch = decide (s.notLiveReason ch = 0)) ∧
    (∀ k, k < 8 →
      let rate := s.fldOf (A.chTset ch k 0) 0 28
      ((s.chan ch).atBoundary = true → ∃ t, exec (.tselWrite ch k) s = .next t ∧
        (rate = s.rateOf ch → t.tsel ch = k ∧ (t.chan ch).pll = (s.chan ch).pll) ∧
        (rate ≠ s.rateOf ch → s.quiet ch = true → t.tsel ch = k ∧ (t.chan ch).pll = false ∧ (t.chan ch).trained = false ∧ (t.chan ch).eyeValid = false) ∧
        (rate ≠ s.rateOf ch → s.quiet ch = false → t.tsel ch = s.tsel ch ∧ (t.chan ch).pll = (s.chan ch).pll)) ∧
      ((s.chan ch).atBoundary = false → ∃ t, exec (.tselWrite ch k) s = .next t ∧ t.tsel ch = s.tsel ch ∧ (t.chan ch).pll = (s.chan ch).pll ∧
        t.pend = [{ bnd := .instr, addr := A.chCtl ch, val := s.tselKept ch (setFld (s.reg (A.chCtl ch)) 1 3 k), left := [ch], act := true }])) ∧
    (s.en ch = true → ∃ t, exec (.chPllLock ch) s = .next t ∧ t.chan ch = { s.chan ch with pll := true }) ∧
    (s.wpRel ch = true → (s.chan ch).idle = true → (s.chan ch).frozen = false → ∃ t, exec (.wpNRaise ch) s = .next t ∧
      t.chan ch = { s.chan ch with wp := true }) ∧
    (s.wpRel ch = false → s.writesBefore ch ((s.chan ch).wpFall.getD s.admSeq) = false → ∃ t, exec (.wpNLower ch) s = .next t ∧
      t.chan ch = { s.chan ch with wp := false, wpFall := none }) ∧
    (s.writesBefore ch ((s.chan ch).wpFall.getD s.admSeq) = true → ∃ t, exec (.wpNLower ch) s = .next t ∧ Around s t)

/-- R200, R206 to R208, R211: a channel operation ends with BUSY 0 and the RESULT of its dies, its cycles sent; those that read bring the bytes into
CH_PBUF with BYTES; PHY_ZQ serves every channel of the group, passes at 240 Ω within 3 %, and keeps the codes where it fails; DCC training writes its code; an
operation that needs the bus does not end while the PLL relocks. Model's own choices: log entries 13, 95 and 102. -/
def Obligations.ChannelOperationsEndWithResult : Prop :=
  ∀ (s : State) (ch : Nat) (o : ChOp) (e : DieEnd) (data : List Byte), s.held = false → ch < 32 → ((opEnter s ch).chan ch).op = some o →
    let free := (s.chan ch).pll = true ∧ (s.chan ch).ceLow = none ∧ (opEnter s ch).opMayEnd ch o e = true
    let sent := fun (t : State) => opCycles o <:+ (t.chan ch).cycles
    (∀ c ∈ [(2, Instr.reset ch e), (5, .chOpSetFeature ch e), (7, .volume ch e), (8, .dieZq ch e)], fld o.word 0 4 = c.1 → free →
      ∃ t, exec c.2 s = .next t ∧ (t.chan ch).op = none ∧ (t.chan ch).opRes = dieResult e ∧ (t.chan ch).opBytes = 0 ∧ sent t) ∧
    (∀ c ∈ [(3, o.arg.toNat, Instr.readId ch e data), (4, o.arg.toNat, .chOpReadParam ch e data), (6, 4, .chOpGetFeature ch e data)],
      fld o.word 0 4 = c.1 → c.2.1 ≤ data.length → free →
      ∃ t, exec c.2.2 s = .next t ∧ (t.chan ch).op = none ∧ (t.chan ch).opRes = dieResult e ∧ sent t ∧
        (e = .ready → (t.chan ch).opBytes = c.2.1 ∧ (t.chan ch).pbuf = data.take c.2.1)) ∧
    (∀ ohm10, fld o.word 0 4 = 1 → ∃ t, exec (.phyZq ch ohm10) s = .next t ∧
      ∀ i < 8, (t.chan (ch / 8 * 8 + i)).zqOk = decide (2328 ≤ ohm10 ∧ ohm10 ≤ 2472) ∧
        (¬(2328 ≤ ohm10 ∧ ohm10 ≤ 2472) → (t.chan (ch / 8 * 8 + i)).zq = (s.chan (ch / 8 * 8 + i)).zq) ∧
        ((s.chan (ch / 8 * 8 + i)).inZq = true → (t.chan (ch / 8 * 8 + i)).op = none ∧
          (t.chan (ch / 8 * 8 + i)).opRes = if 2328 ≤ ohm10 ∧ ohm10 ≤ 2472 then 0 else 4)) ∧
    (∀ eye dcc, fld o.word 0 4 = 9 → free → ∃ t, exec (.train ch { die := e, eye := eye } dcc) s = .next t ∧ (t.chan ch).op = none ∧
      (e ≠ .ready → (t.chan ch).opRes = dieResult e) ∧
      (e = .ready → fld o.word 10 3 = 1 → (t.chan ch).opRes = 0 ∧ t.fldOf (A.chDcc ch) 0 6 = fld dcc 0 6 ∧ t.fldOf (A.chDcc ch) 8 6 = fld dcc 8 6)) ∧
    (∀ eye, fld o.word 0 4 = 10 → free → ∃ t, exec (.eye ch { die := e, eye := eye }) s = .next t ∧ (t.chan ch).op = none ∧
      (e ≠ .ready → (t.chan ch).opRes = dieResult e) ∧
      (e = .ready → (t.chan ch).opRes ∈ [0, 5, 6]) ∧ ∀ k l, t.reg (A.chTrim ch k l) = s.reg (A.chTrim ch k l)) ∧
    ((s.chan ch).pll = false → ∀ c ∈ [Instr.reset ch e, .readId ch e data, .chOpReadParam ch e data, .chOpSetFeature ch e, .chOpGetFeature ch e data,
        .volume ch e, .dieZq ch e, .train ch { die := e, eye := { rx := [], tx := [], vref := 0 } } 0,
        .eye ch { die := e, eye := { rx := [], tx := [], vref := 0 } }],
      ∃ t, exec c s = .next t ∧ Around s t)

/-- R406, R416, R418, R419: a written channel fires while it is enabled and below the window's limit: its source latches, its count rises and its tasks'
latches are set; a firing past the limit disables the channel; the window's end clears the counts. -/
def Obligations.WaggleChannelFiresUpToItsLimit : Prop :=
  ∀ (s : State) (c : Nat) (v : Word), InService s → RingsOff s → c < 32 → v.toNat = 2 ^ c →
    let n := (assoc s.wgl.counts c).getD 0
    let limit := s.fldOf A.wglLoopCfg 0 16
    (bit (s.regN A.wglChEn) c = true → n + 1 ≤ limit → ∃ t, exec (.wglFire v) s = .next t ∧ (t.src (5 + c)).latch = true ∧
      t.regN (A.wglFireCnt c) = min (s.regN (A.wglFireCnt c) + 1) (2 ^ 32 - 1) ∧ assoc t.wgl.counts c = some (n + 1) ∧
      ∀ k, k < 33 → bit (s.regN (A.wglTcmap k)) c = true → (k, c) ∈ t.wgl.latch) ∧
    (bit (s.regN A.wglChEn) c = true → limit < n + 1 → ∃ t, exec (.wglFire v) s = .next t ∧ bit (t.regN A.wglChEn) c = false ∧
      bit (t.regN A.wglLoopSts) c = true ∧ t.wgl.latch = s.wgl.latch ∧ t.regN (A.wglFireCnt c) = s.regN (A.wglFireCnt c)) ∧
    (bit (s.regN A.wglChEn) c = false → ∃ t, exec (.wglFire v) s = .next t ∧ t.wgl = s.wgl) ∧
    (∃ t, exec .loopWindowEnd s = .next t ∧ t.wgl.counts = (if s.aclk % 1000 = 0 then [] else s.wgl.counts))

/-- R410: START of a waggle timer takes effect at the next ACLK edge and STOP at once; at PERIOD a periodic timer runs again, a one-shot one stops, and TMR[k] fires the
channels it is enabled onto. Model's own choices: log entry 60. -/
def Obligations.WaggleTimersStartStopAndExpire : Prop :=
  ∀ (s : State) (k : Nat), InService s → RingsOff s → k < 8 →
    (∃ t, exec (.wglTmrStart k) s = .next t ∧ t.timer k = { s.timer k with arm := true }) ∧
    (∃ t, exec (.wglTmrStop k) s = .next t ∧ t.timer k = { s.timer k with run := false, arm := false }) ∧
    ((s.timer k).run = true → s.fldOf (A.wglTmrCfg k) 0 28 ≤ (s.timer k).elapsed → ∃ t, exec (.waggleTimerExpiry k) s = .next t ∧
      t.timer k = (if s.fldOf (A.wglTmrCfg k) 28 1 = 1
        then { s.timer k with elapsed := (s.timer k).elapsed - s.fldOf (A.wglTmrCfg k) 0 28 } else { s.timer k with run := false }) ∧
      ∀ c, c < 32 → s.regN (A.wglPmap (41 + k)) = 2 ^ c → bit (s.regN A.wglChEn) c = true →
        (assoc s.wgl.counts c).getD 0 + 1 ≤ s.fldOf A.wglLoopCfg 0 16 → (t.src (5 + c)).latch = true) ∧
    (∀ t, step { s with pending := [] } = .next t → (s.timer k).arm = true → s.smoke.step ≠ 8 →
      t.timer k = { s.timer k with run := true, elapsed := 0, arm := false })

/-- R411 to R416: what each waggle task does when it samples one latch, and that two latches merge into one trigger and count; R420, R438: WAKE starts
a wake in P2, which waits for KCLK where the integrator has stopped it, and returns a block in P1 to P0. Model's own choices: log entries 65 and 68. -/
def Obligations.WaggleTasksActOnTheirLatch : Prop :=
  ∀ (s : State) (c : Nat), s.held = false → (s.power.st ≠ .p0 → s.latches 8 = [(8, c)] →
    (s.power.st = .p2 → s.power.waking = false → ∃ t, exec .wake s = .next t ∧
      (s.power.clkStop = false → t.power.waking = true ∧ t.init.phase = 8) ∧
      (s.power.clkStop = true → t.power.waitClk = true ∧ t.power.waking = false)) ∧
    (s.power.st = .p1 → ∃ t, exec .wake s = .next t ∧ t.power.st = .p0 ∧ t.pwrReq = 0)) ∧
  (s.power.st = .p0 → RingsOff s →
    let u := fun (k : Nat) => ({ s with wgl := { s.wgl with latch := s.wgl.latch.filter fun x => x.1 != k } } : State)
    let one := fun (k : Nat) => s.latches k = [(k, c)]
    (one 0 → s.taskBusy 0 = false → s.fg.dies.all s.fgChanBad = false → ∃ t, exec .patrolStart s = .next t ∧
      t.fg.run = true ∧ t.fg.waiting = false ∧ t.fg.pos = 0 ∧ t.fg.passes = min (s.fg.passes + 1) (2 ^ 32 - 1)) ∧
    (one 1 → ∃ t, exec .patrolStop s = .next t ∧ t.fg.run = false ∧ t.fg.waiting = false ∧ t.fg.pages = []) ∧
    (one 2 → s.taskBusy 2 = false → ∃ t, exec .calStart s = .next t ∧ t.wgl.calBusy = true ∧ t.rlv.calWait = s.rlv.calWait ++
      [(none, s.pair A.wglCalPaddrLo, s.fldOf A.wglCalCtl 0 11 + 1, s.fldOf A.wglCalCtl 11 15)]) ∧
    (one 3 → ∃ t, exec .eraseResumeAll s = .next t ∧ ∀ o ∈ t.ops, o.kind = .erase → o.active = true → o.expl = false) ∧
    (one 4 → s.taskBusy 4 = false → ∃ t, exec .eraseSuspendAll s = .next t ∧ t.ops = s.ops.map fun o =>
      if s.suspendable o then (if o.stage = .suspended ∧ o.resume = false then { o with expl := true } else { o with wantSusp := some (o.wantSusp.getD taskSlot) }) else o) ∧
    (one 5 → ∃ t, exec .dispatchRelease s = .next t ∧ t.fldOf A.wglDisp 0 1 = 0) ∧
    (one 6 → ∃ t, exec .dispatchHold s = .next t ∧ t.fldOf A.wglDisp 0 1 = 1) ∧
    (one 7 → ∃ t, exec .snapshot s = .next t ∧ (∀ k < 16, t.reg (A.wglSnap k) = (u 7).snapValue k) ∧
      t.regN A.wglSnapSeq = min (s.regN A.wglSnapSeq + 1) (2 ^ 32 - 1)) ∧
    (∀ k, k < 8 → one (9 + k) → ∃ t, exec (.timerStart k) s = .next t ∧ t.timer k = { s.timer k with run := true, elapsed := 0, arm := false }) ∧
    (∀ k, k < 8 → one (17 + k) → ∃ t, exec (.timerStop k) s = .next t ∧ t.timer k = { s.timer k with run := false, arm := false }) ∧
    (∀ g, g < Config.groups s.build → one (25 + g) → ∃ t, exec (.grpEnable g) s = .next t ∧ t.fldOf A.wglGrpCtl g 1 = 1) ∧
    (∀ g, g < Config.groups s.build → one (29 + g) → ∃ t, exec (.grpDisable g) s = .next t ∧ t.fldOf A.wglGrpCtl g 1 = 0) ∧
    (2 ≤ (s.latches 6).length → ∃ t, exec .dispatchHold s = .next t ∧ t.fldOf A.wglDisp 0 1 = 1 ∧ t.latches 6 = [] ∧
      t.regN A.wglCoincCnt = min (s.regN A.wglCoincCnt + 1) (2 ^ 32 - 1)))

/-- R416: the command by which a waggle task's clock domain samples the task: with no latch set it does nothing; it clears the task's latches, whose merge counts once
in WGL_COINC_CNT where two or more are set; a trigger that reaches a busy task is not acted on, sets the task's bit in WGL_OVR and counts once in WGL_OVR_CNT; a task that is
not busy has no overrun. -/
def Obligations.BusyTasksOverrunOnce : Prop :=
  ∀ (s : State) (k : Nat) (c : Instr), s.held = false → s.power.st = .p0 → RingsOff s →
    (k, c) ∈ [(0, Instr.patrolStart), (1, .patrolStop), (2, .calStart), (3, .eraseResumeAll), (4, .eraseSuspendAll), (5, .dispatchRelease), (6, .dispatchHold),
        (7, .snapshot), (8, .wake)] ++ (List.range 8).map (fun i => (9 + i, Instr.timerStart i)) ++ (List.range 8).map (fun i => (17 + i, Instr.timerStop i)) ++
        (List.range (Config.groups s.build)).map (fun g => (25 + g, Instr.grpEnable g)) ++ (List.range (Config.groups s.build)).map (fun g => (29 + g, Instr.grpDisable g)) →
    let up := fun (n : Nat) => min (n + 1) (2 ^ 32 - 1)
    let coinc := if 2 ≤ (s.latches k).length then up (s.regN A.wglCoincCnt) else s.regN A.wglCoincCnt
    (s.latches k = [] → ∃ t, exec c s = .next t ∧ Around s t) ∧
    (s.latches k ≠ [] → s.taskBusy k = true → ∃ t, exec c s = .next t ∧ t.latches k = [] ∧ (∀ j, j ≠ k → t.latches j = s.latches j) ∧
      bit (t.regN (A.wglOvr (k / 32))) (k % 32) = true ∧ t.regN A.wglOvrCnt = up (s.regN A.wglOvrCnt) ∧ t.regN A.wglCoincCnt = coinc ∧
      (∀ a, a ≠ A.wglOvr (k / 32) → a ≠ A.wglOvrCnt → a ≠ A.wglCoincCnt → t.reg a = s.reg a) ∧
      ∃ r, Around { s with regs := r, wgl := { s.wgl with latch := s.wgl.latch.filter fun x => x.1 != k } } t) ∧
    (s.latches k ≠ [] → s.taskBusy k = false → ∃ t, exec c s = .next t ∧ t.regN A.wglOvrCnt = s.regN A.wglOvrCnt ∧ t.regN A.wglCoincCnt = coinc)

/-! ## The start of commands (chapters 03 to 05 and 13) -/

/-- R111, R113, R118, R122, R128, R133, R134, R302: an admitted command starts running with what it needs of the host side known: no span, one span, or a
fragment table that is read up to its page's end; COPY reads its next source page, which an earlier unfinished erase takes or ends. R28: PROGRAM, COPY and LOG_APPEND wait for room in program
staging. R333: a SCAN waits for a load of its context and is checked against the new content. Model's own choices: log entries 33, 44, 45 and 122. -/
def Obligations.StartedCommandsRun : Prop :=
  ∀ (s : State) (n : Nat) (x : Slot),
    let y : Slot := { x with phase := .running }
    (∀ c ∈ [(Opc.erase, Instr.erase n), (Opc.getFeature, .getFeature n), (Opc.setFeature, .setFeature n)],
      Starting s n x c.1 → ∃ t, exec c.2 s = .next t ∧ OnlySlot s n y t) ∧
    (Starting s n x Opc.fence → ∃ t, exec (.fence n) s = .next t ∧ OnlySlot s n { y with res0 := x.waitsOn } t) ∧
    (Starting s n x Opc.logRead → bit x.entry.xctl 8 = true → ∃ t, exec (.logRead n) s = .next t ∧ OnlySlot s n y t) ∧
    (∀ c ∈ [(Opc.read, Instr.read n, 4096 * x.entry.count), (Opc.readParam, .readParam n, x.entry.count), (Opc.logRead, .logRead n, x.entry.count)],
      Starting s n x c.1 → x.entry.indirect = false → (c.1 = Opc.logRead → bit x.entry.xctl 8 = false) →
      ∃ t, exec c.2.1 s = .next t ∧ OnlySlot s n { y with spans := [(x.entry.haddr, c.2.2)], tblDone := true } t) ∧
    (∀ c ∈ [(Opc.read, Instr.read n, Phase.running), (Opc.scan, .scan n, .listing), (Opc.program, .program n, .running), (Opc.logAppend, .logAppend n, .running),
        (Opc.logRead, .logRead n, .running)],
      Starting s n x c.1 → x.entry.indirect = true → (c.1 = Opc.logRead → bit x.entry.xctl 8 = false) → (c.1 = Opc.scan → s.ctxLoading x = false ∧
        (x.ctxLate = true → ctxChecks (s.setSlot y) y = none)) → ((c.1 = Opc.program ∨ c.1 = Opc.logAppend) → s.stagingRoom n = true) → s.portOf x < 4 →
      ∃ t z, exec c.2.1 s = .next t ∧ t.slot n = some z ∧ z.phase = c.2.2 ∧ z.tblDone = false ∧ z.tblNext = x.entry.haddr ∧
        (s.asked (s.portOf x) ++ [mkRead x.entry.haddr (4096 - x.entry.haddr % 4096) false (.table n)]) <+: t.asked (s.portOf x)) ∧
    (Starting s n x Opc.scan → s.ctxLoading x = true → ∃ t, exec (.scan n) s = .next t ∧ Around s t) ∧
    (∀ st, Starting s n x Opc.scan → s.ctxLoading x = false → x.ctxLate = true → ctxChecks (s.setSlot y) y = some st →
      ∃ t z, exec (.scan n) s = .next t ∧ t.slot n = some z ∧ z.reject = some st) ∧
    (∀ c ∈ [Instr.program n, .copy n, .logAppend n], n < Config.slotCount → s.stagingRoom n = false → ∃ t, exec c s = .next t ∧ (s.held = false → Around s t)) ∧
    (Starting s n x Opc.copy → x.done ≠ x.entry.count → s.stagingRoom n = true →
      let page := x.entry.paddr + 8 * x.done
      ∃ t z, exec (.copy n) s = .next t ∧ t.slot n = some z ∧ z.phase = .running ∧
        (s.eraseBefore page x.seq = none → ∃ o ∈ t.ops, o.owner = .cmd n ∧ o.kind = .read ∧ o.stage = .queued ∧ o.paddr = page ∧ o.planes = 1) ∧
        (∀ o, s.eraseBefore page x.seq = some o → o.expl = true → t.met n St.blockEraseSuspended) ∧
        (∀ o, s.eraseBefore page x.seq = some o → o.expl = false → St.okErased ∈ z.outc))

/-- R120, R123, R242, R294, R309, R323, R333, R354, R365, R431: a command whose host data or list lie in one span reads them when it starts, each request within
one 4 KiB page, from the port of its queue pair; PROGRAM with META reads its metadata as well; GET_LOG writes the bytes of the log. -/
def Obligations.StartedCommandsMoveHostData : Prop :=
  ∀ (s : State) (n : Nat) (x : Slot), s.portOf x < 4 →
    let p := s.portOf x
    let e := x.entry
    let reads := fun (a len : Nat) => (pieces a len).map fun y => mkRead y.1 y.2 false (.dataRead n (y.1 - a))
    let others := fun (t : State) => (∀ m, m ≠ n → t.slot m = s.slot m) ∧ (∀ q, q < 4 → q ≠ p → t.port q = s.port q) ∧ t.ops = s.ops
    (∀ c ∈ [(Opc.gather, Instr.readGather n, true, Phase.listing, e.aux0, 16 * e.count),
        (Opc.scan, .scan n, !s.ctxLoading x && !x.ctxLate, .listing, e.haddr, 128 * e.count),
        (Opc.program, .program n, !e.hasMeta && s.stagingRoom n, .running, e.haddr, 4096 * (s.ncwOf x * e.count)),
        (Opc.logAppend, .logAppend n, s.stagingRoom n, .running, e.haddr, e.count),
        (Opc.setKeySlot, .setKeySlot n, !bit e.xctl 10, .running, e.haddr, e.count),
        (Opc.loadScan, .loadScanContext n, true, .running, e.haddr, 2048),
        (Opc.loadMicro, .loadMicrocodeCustomer n, e.x 2 2 == 0, .running, e.haddr, 16 * e.count),
        (Opc.loadMicro, .loadMicrocodeEntry n, e.x 2 2 == 1, .running, e.haddr, 16 * e.count),
        (Opc.loadMicro, .loadMicrocodePatch n, e.x 2 2 == 2, .running, e.haddr, 16 * e.count),
        (Opc.setPatrol, .setPatrol n, e.count != 0, .running, e.haddr, 16 * e.count)],
      Starting s n x c.1 → c.2.2.1 = true → e.indirect = false →
      ∃ t, exec c.2.1 s = .next t ∧ t.slot n = some { x with phase := c.2.2.2.1, spans := [(c.2.2.2.2.1, c.2.2.2.2.2)], tblDone := true } ∧
        t.asked p = s.asked p ++ reads c.2.2.2.2.1 c.2.2.2.2.2 ∧ others t) ∧
    (Starting s n x Opc.program → e.hasMeta = true → e.indirect = false → s.stagingRoom n = true → ∃ t, exec (.program n) s = .next t ∧ others t ∧
      t.asked p = s.asked p ++ reads e.haddr (4096 * (s.ncwOf x * e.count)) ++
        (pieces e.aux0 (16 * (s.ncwOf x * e.count))).map fun y => mkRead y.1 y.2 false (.metaRead n (y.1 - e.aux0))) ∧
    (Starting s n x Opc.dieRaw → e.indirect = false →
      (s.custEntry e = none → ∃ t, exec (.dieRaw n) s = .next t ∧ OnlySlot s n { x with phase := .running } t) ∧
      (∀ l, s.custEntry e = some l → ∃ t, exec (.dieRaw n) s = .next t ∧ others t ∧
        t.slot n = some { x with phase := .running, spans := [(e.haddr, custXlen l)], tblDone := true } ∧
        t.asked p = s.asked p ++ (if custDir l = 2 then reads e.haddr (custXlen l) else []))) ∧
    (Starting s n x Opc.calibrate → e.indirect = false → ∃ t, exec (.calibrate n) s = .next t ∧ others t ∧
      t.slot n = some { x with phase := .running, spans := [(e.haddr, 64 * e.count)], tblDone := true } ∧
      t.rlv.calWait = s.rlv.calWait ++ [(some n, 0, 0, 0)]) ∧
    (Starting s n x Opc.getLog → e.indirect = false → x.outq = [] → x.noWrite = false → 0 < e.count → ∃ t z, exec (.getLog n) s = .next t ∧ others t ∧
      let u := s.setSlot { x with phase := .running }
      let b := ((u.logBytes (e.x 0 8)).drop e.aux0 ++ zeros e.count).take e.count
      t.slot n = some z ∧ z.res0 = (u.logLen (e.x 0 8)).getD 0 ∧ z.bytesOut = x.bytesOut + e.count ∧
      t.asked p = s.asked p ++ (pieces e.haddr e.count).map fun y =>
        mkWrite y.1 ((b.drop (y.1 - e.haddr)).take y.2) e.durable false (.dataWrite n))

/-- R96, R97, R431, R435: what CREATE_QP, DELETE_QP, KEY_SLOT_CLEAR and SANITIZE do when they start. Model's own choices: log entries 32 and 36. -/
def Obligations.QueuePairsKeysAndSanitize : Prop :=
  ∀ (s : State) (n : Nat) (x : Slot),
    let e := x.entry
    let q := e.x 0 10
    (Starting s n x Opc.setKeySlot → bit e.xctl 10 = true → ∃ t, exec (.keySlotClear n) s = .next t ∧
      (∀ k, assoc t.keys k = if k = q then none else assoc s.keys k) ∧ ∃ l ks, Around { s with slots := l, keys := ks } t) ∧
    (Starting s n x Opc.createQp → s.qp q = none → ∃ t z, exec (.createQp n) s = .next t ∧ t.qp q = some z ∧
      z.sqBase = e.aux0 ∧ z.cqBase = e.aux1 ∧ z.sqSize = 16 * 2 ^ e.x 10 4 ∧ z.cqSize = 16 * 2 ^ e.x 14 4 ∧ z.port = e.x 18 2 ∧
      z.head = 0 ∧ z.expect = true ∧ z.tail = 0 ∧ z.wphase = true ∧ z.cqHead = 0 ∧ z.bell = 0 ∧ z.fault = false ∧
      t.qpEn q = true ∧ t.regN (A.hqQpArb q) = bits e.aux2 0 14 ∧ t.regN (A.hqQpQuota q) = e.count % 2 ^ 32 ∧ ∀ r, r ≠ q → t.qp r = s.qp r) ∧
    (Starting s n x Opc.createQp → (s.qp q).isSome = true → ∃ t, exec (.createQp n) s = .next t ∧ t.met n St.invalidState ∧ t.qps = s.qps) ∧
    (Starting s n x Opc.deleteQp → ∀ z, s.qp q = some z →
      (s.qpIdle z = true → ∃ t y, exec (.deleteQp n) s = .next t ∧ t.qp q = none ∧ (∀ y ∈ t.slots, y.qid ≠ q) ∧ (∀ r, r ≠ q → t.qp r = s.qp r) ∧
        t.slot n = some y ∧ y.res0 = (s.slots.filter fun y => y.qid == q).length) ∧
      (s.qpIdle z = false → ∃ t, exec (.deleteQp n) s = .next t ∧ t.met n St.invalidState ∧ t.qps = s.qps)) ∧
    (Starting s n x Opc.sanitize → e.x 0 1 = 0 → ∃ t, exec (.sanitizeCryptoErase n) s = .next t ∧ t.keys = [] ∧ t.ops = s.ops ∧
      t.san = { s.san with busy := true, mode := 0, total := 0, ended := 0 } ∧ t.slot n = some { x with phase := .running, todo := [] }) ∧
    (Starting s n x Opc.sanitize → e.x 0 1 = 1 → ∃ t z, exec (.sanitizeBlockErase n) s = .next t ∧ t.keys = [] ∧ t.slot n = some z ∧
      t.san = { s.san with busy := true, mode := 1, total := ((s.sanBlocks e.aux0).map fun b => s.planes (pDie b)).sum, ended := 0 } ∧
      ∀ b rest, s.sanBlocks e.aux0 = b :: rest → z.todo = rest ∧
        ∃ o ∈ t.ops, o.owner = .cmd n ∧ o.kind = .erase ∧ o.stage = .queued ∧ o.paddr = b ∧ o.planes = s.planes (pDie b))

/-- R127, R130, R131, R166, R168, R294: ABORT ends what it can of the commands it names and counts both kinds in RES0; ERASE_CONTROL suspends or resumes the
LUN's erase; SET_PATROL acts in the order STOP, RATE, START; SET_BUDGET takes both values or none. Model's own choices: log entries 73, 76 and 78. -/
def Obligations.AbortEraseControlPatrolAndBudget : Prop :=
  ∀ (s : State) (n : Nat) (x : Slot),
    let e := x.entry
    (Starting s n x Opc.abort → (x.qid = 0 → s.sqHalfBad (e.x 0 10) = false ∧ s.cqHalfBad (e.x 0 10) = false) →
      let hits := s.slots.filter fun y => y.qid == e.x 0 10 && y.entry.cid == e.aux0 % 65536 && decide (y.seq < x.seq) && y.unfinished && y.reject.isNone
      (hits = [] → ∃ t, exec (.abort n) s = .next t ∧ OnlySlot s n { x with phase := .running, res0 := 0 } t) ∧
      (∀ y, hits = [y] → s.slot y.id = some y → ∃ t z, exec (.abort n) s = .next t ∧ t.slot n = some z ∧
        (s.abortable y = true → z.res0 = 1 ∧ t.met y.id St.abortedByHost) ∧
        (s.abortable y = false → z.res0 = 2 ^ 32 ∧ t.slot y.id = some y)) ∧
      (∀ y ∈ hits, y.phase = .held ∨ y.waitsPlace = true ∨ y.phase = .admitted ∨ y.phase = .listing → s.abortable y = true)) ∧
    (Starting s n x Opc.eraseControl → e.xctl = 1 →
      (eraseControlOk s x = false → ∃ t, exec (.eraseSuspend n) s = .next t ∧ t.met n St.invalidState) ∧
      (eraseControlOk s x = true → ∀ o, s.runningErase (pDie e.paddr) = some o → ∃ t z, exec (.eraseSuspend n) s = .next t ∧ t.slot n = some z ∧
        (o.stage = .suspended ∧ o.resume = false → z.done = 1 ∧ ∃ q ∈ t.ops, q.id = o.id ∧ q.expl = true) ∧
        (¬(o.stage = .suspended ∧ o.resume = false) → z = { x with phase := .running } ∧
          ∃ q ∈ t.ops, q.id = o.id ∧ (if o.wantSusp.isSome then n ∈ q.wantAlso else q.wantSusp = some n)))) ∧
    (Starting s n x Opc.eraseControl → e.xctl = 2 →
      (s.explErase (pDie e.paddr) = none → ∃ t, exec (.eraseResume n) s = .next t ∧ t.met n St.invalidState) ∧
      (∀ o, s.explErase (pDie e.paddr) = some o → ∃ t, exec (.eraseResume n) s = .next t ∧
        ∃ q ∈ t.ops, q.id = o.id ∧ q.expl = false ∧ q.resume = true ∧ q.wantRes = some n)) ∧
    (Starting s n x Opc.setPatrol → e.count = 0 → ∃ t, exec (.setPatrol n) s = .next t ∧
      (e.x 0 16 ≠ 0 → t.regN A.rlvFgRate = e.x 0 16) ∧ (e.x 0 16 = 0 → t.reg A.rlvFgRate = s.reg A.rlvFgRate) ∧
      (bit e.xctl 17 = true → bit e.xctl 16 = false → t.fg.run = false ∧ t.fg.waiting = false ∧ t.fg.pages = []) ∧
      (bit e.xctl 16 = true → s.fg.dies.all s.fgChanBad = false → t.fg.run = true ∧ t.fg.waiting = false ∧ t.fg.pos = 0 ∧
        t.fg.passes = min (s.fg.passes + 1) (2 ^ 32 - 1)) ∧
      (bit e.xctl 16 = false → bit e.xctl 17 = false → t.fg = s.fg)) ∧
    (Starting s n x Opc.setBudget → ∃ t, exec (.setBudget n) s = .next t ∧
      let g := e.x 0 3
      let fits := reserveTest (s.reserveDies g) (newBudget e) (newCosts e) && writeTest (s.boundedWrites g) (newBudget e) (newCosts e)
      (fits = true → t.reg (A.admRailBudget g) = newBudget e ∧ t.reg (A.admRailCost g) = newCosts e ∧ ¬t.met n St.invalidState) ∧
      (fits = false → t.met n St.invalidState ∧ t.reg (A.admRailBudget g) = s.reg (A.admRailBudget g) ∧ t.reg (A.admRailCost g) = s.reg (A.admRailCost g)))

/-! ## Fetch, dispatch and the routines (chapters 03 to 07) -/

/-- R82, R84, R86, R88, R111, R129: the fetch arbiter reads entries for the queue pair whose turn it is; a returned entry with the expected phase takes the lowest free
slot and the next ADMSEQ, and one with another phase stalls the queue pair and is counted; a held command goes on when nothing holds it, after
checks 4 to 9 again. -/
def Obligations.EntriesAreFetchedAndHeldCommandsReleased : Prop :=
  ∀ s : State,
    (InService s → s.smoking = false → s.stopped = false →
      (s.turnOf = none → ∃ t, exec .sqRead s = .next t ∧ Around s t) ∧
      (∀ q, s.turnOf = some q → q.port < 4 → ∃ t, exec .sqRead s = .next t ∧ s.fetchable q = true ∧
        (s.sqHalfBad q.qid = true → t.ports = s.ports ∧ ∃ y, t.qp q.qid = some y ∧ y.fault = true) ∧
        (s.sqHalfBad q.qid = false → t.lastQp = q.qid ∧ t.asked q.port =
          s.asked q.port ++ [mkRead (q.sqBase + 64 * q.head) (64 * s.readLen q) false (.sqRead q.qid q.head (s.readLen q))]))) ∧
    (s.held = false → s.smoking = false → s.stopped = false → ∀ p tag r q x (b : RdBeat), p < 4 → tag < 256 → (s.port p).find tag false = some r →
      r.beats = 1 → r.purpose = .sqRead q x.head 1 → q < 1024 → s.qp q = some x → s.qpEn q = true → x.fault = false → s.sqHalfBad q = false → x.todo ≠ 0 →
      b.resp = .ok → b.data.length = 64 →
      let e := parseEntry b.data
      ∃ t, exec (.gfpReadComplete p tag [b]) s = .next t ∧
        (e.phase ≠ x.expect → t.qp q = some { x with stall := true } ∧ t.slots = s.slots ∧ t.admSeq = s.admSeq ∧
          t.regN (A.hqQpPhstallCnt q) = min (s.regN (A.hqQpPhstallCnt q) + 1) (2 ^ 32 - 1)) ∧
        (e.phase = x.expect → s.slotFree q = true → t.admSeq = s.admSeq + 1 ∧
          (∃ y, t.qp q = some y ∧ y.head = (if x.head + 1 = x.sqSize then 0 else x.head + 1) ∧
            y.expect = (if x.head + 1 = x.sqSize then !x.expect else x.expect)) ∧
          ∃ z, t.slot (lowestFree s.slots 0) = some z ∧ z.entry = e ∧ z.qid = q ∧ z.seq = s.admSeq ∧ z.fetched = s.aclk ∧
            (opDefined e.opc = false → z.reject = some St.invalidOpcode))) ∧
    (s.held = false → ∀ n x, n < Config.slotCount → s.slot n = some x → x.phase = .held →
      let u := s.updSlot n fun y => { y with released := s.aclk, fenced := true }
      let y := { x with released := s.aclk, fenced := true, phase := .admitted }
      (s.isHeld x = true → ∃ t, exec (.fenceRelease n) s = .next t ∧ Around s t) ∧
      (s.isHeld x = false → (∀ st, lateChecks u y = some st → ∃ t z, exec (.fenceRelease n) s = .next t ∧ t.slot n = some z ∧ z.reject = some st) ∧
        (lateChecks u y = none → x.entry.bounded = false → x.entry.opc ≠ Opc.logAppend → ∃ t z, exec (.fenceRelease n) s = .next t ∧ t.slot n = some z ∧
          z.phase = .admitted ∧ z.released = s.aclk)))

/-- R127, R152 to R154, R161 to R163, R165 to R167: the first operation the die can run is dispatched with its tokens, or waits for them; an executing program or erase is
suspended, at a point where CE_n is high, for the read that is first or for an ERASE_CONTROL, keeps its tokens, and resumes first of the channel's segments; a waiting
LC7 operation ages; a patrol page that a program or erase of its block meets is skipped (R297). Model's own choices: log entries 77, 78 and 99. -/
def Obligations.DispatchSuspendResumeAndAge : Prop :=
  ∀ (s : State) (d : Nat), s.held = false → d < 2048 →
    (s.dispatchHeld d = true → ∃ t, exec (.dispatch d) s = .next t ∧ Around s t) ∧
    (∀ o l, s.dispatchHeld d = false → s.smoking = false → s.queuedAt d = o :: l →
      (s.dispatchBad o = false → (o.fgFirst && (s.fgChanBad d || s.fgBlockBad o.paddr)) = false → s.canRun o = true →
        s.canDraw (s.rail d) o.fromReserve (s.arrayCost o) = true → (o.fromReserve || !s.tokenBehind o) = true →
        ∃ t c, exec (.dispatch d) s = .next t ∧ (∃ y ∈ t.ops, y.id = o.id ∧ y.stage = .dispatched ∧ y.tokens = s.arrayCost o ∧ y.rsv = o.fromReserve) ∧
          (t.chan (dieCh d)).ctx (dieCtx d) = some c ∧ c.op = some o.id ∧ c.ready = true ∧
          (∀ x, s.opSlot o = some x → x.entry.opc ≠ Opc.dieRaw → c.pc = Config.romStart (routineOf o x.entry.opc))) ∧
      (s.dispatchBad o = false → o.fgFirst = true → s.canRun o = true → s.fgBlockBad o.paddr = true →
        ∃ t, exec (.dispatch d) s = .next t ∧ (∀ y ∈ t.ops, y.id ≠ o.id) ∧ t.slots = s.slots) ∧
      (∀ n x, s.dispatchBad o = false → o.fgFirst = false → s.canRun o = true → s.canDraw (s.rail d) o.fromReserve (s.arrayCost o) = false → s.suspendedAt d = none →
        o.waited = false → o.slotOf = some n → s.slot n = some x →
        ∃ t, exec (.dispatch d) s = .next t ∧ t.slot n = some { x with throttled := true } ∧
          t.regN (A.admThrottleCnt (s.rail d)) = min (s.regN (A.admThrottleCnt (s.rail d)) + 1) (2 ^ 32 - 1) ∧
          ∃ y ∈ t.ops, y.id = o.id ∧ y.waited = true ∧ y.stage = .queued) ∧
      (∀ n x, s.dispatchBad o = true → o.slotOf = some n → s.slot n = some x → x.phase = .running → x.reject = none →
        ∃ t, exec (.dispatch d) s = .next t ∧ t.met n St.invalidState)) ∧
    (s.switchPoint (dieCh d) = false → (∃ t, exec (.suspension d) s = .next t ∧ Around s t) ∧
      ∃ t, exec (.suspensionResume d) s = .next t ∧ Around s t) ∧
    (∀ o, s.smoking = false → s.switchPoint (dieCh d) = true → s.victim d = some o →
      (∀ n x, o.wantSusp = some n → s.slot n = some x → ∃ t, exec (.suspension d) s = .next t ∧
        (∀ k ∈ n :: o.wantAlso, (s.slot k).isSome = true → ∃ z, t.slot k = some z ∧ z.done = 1) ∧
        (t.chan (dieCh d)).ctx (dieCtx d) = none ∧
        ∃ y ∈ t.ops, y.id = o.id ∧ y.stage = .suspended ∧ y.susp = o.susp + 1 ∧ y.expl = true ∧ y.tokens = o.tokens) ∧
      (∀ x r, o.wantSusp = none → s.suspender d = some x → (s.queuedAt d).head? = some r →
        (s.maySuspend o x = true → s.outrankedAt (dieCh d) r = false → ∃ t z, exec (.suspension d) s = .next t ∧ t.slot x.id = some z ∧ z.suspOth = true ∧
          (t.chan (dieCh d)).ctx (dieCtx d) = none ∧
          ∃ y ∈ t.ops, y.id = o.id ∧ y.stage = .suspended ∧ y.susp = o.susp + 1 ∧ y.expl = false ∧ y.tokens = o.tokens) ∧
        (s.maySuspend o x = false ∨ s.outrankedAt (dieCh d) r = true → ∃ t, exec (.suspension d) s = .next t ∧ Around s t))) ∧
    (∀ o, s.suspendedAt d = some o →
      (s.resumeDue o = true → s.switchPoint (dieCh d) = true → (s.chan (dieCh d)).ctx (dieCtx d) = none → ∃ t c, exec (.suspensionResume d) s = .next t ∧
        (t.chan (dieCh d)).ctx (dieCtx d) = some c ∧ c.urgent = true ∧ c.ready = true ∧ c.pc = Config.romStart 8 ∧ c.op = some o.id ∧
        ∃ y ∈ t.ops, y.id = o.id ∧ y.stage = .confirmed ∧ y.ran = s.aclk ∧ y.expl = false ∧ y.resume = false) ∧
      (s.resumeDue o = false → ∃ t, exec (.suspensionResume d) s = .next t ∧ Around s t)) ∧
    (∀ k o x, s.op k = some o → s.opSlot o = some x →
      (o.stage = .queued → o.cls = 7 → o.kind ≠ .exclusive → x.samp.age ≠ 0 → x.samp.age ≤ s.aclk - o.placed →
        ∃ t, exec (.bulkAgeing k) s = .next t ∧ t.op k = some { o with aged := true }) ∧
      (x.samp.age = 0 ∨ o.cls ≠ 7 ∨ o.kind = .exclusive ∨ o.stage ≠ .queued → ∃ t, exec (.bulkAgeing k) s = .next t ∧ Around s t))

/-- R33, R189, R228, R229, R232: the highest-ranked ready context of an idle channel, or one that precedes the routine that runs, starts, at its first
start with the timing set then selected, and its address is looked up in the branch cache; a sleeping context wakes when its wait
has passed or its operation ends its wait, or when the ready/busy input of its target rises. Model's own choices: log entry 83. -/
def Obligations.SegmentsStartAndContextsWake : Prop :=
  ∀ (s : State) (ch : Nat), s.held = false → ch < 32 →
    let c := s.chan ch
    let inPlace := c.frozen = false ∧ c.pll = true ∧ c.ceLow = none ∧ c.op = none ∧ s.power.st = .p0 ∧ (s.store (ch / 8)).restoring = false
    let entered := fun (x : Ctx) =>
      let y := if x.fresh then { x with fresh := false, tset := s.tsel ch, start := s.aclk } else x
      { y with ready := false, asleep := false }
    (c.run = none → inPlace →
      ∀ x, s.bestReady c = some x → ∃ t y, exec (.segmentStart ch) s = .next t ∧ (t.chan ch).run = some x.id ∧ (t.chan ch).ctx x.id = some y ∧
        y = entered x ∧
        (∀ e, c.cache.find? (fun e => e.1 == x.pc) = some e → (t.chan ch).lastHit = true ∧
          t.regN (A.seqBcHitCnt ch) = min (s.regN (A.seqBcHitCnt ch) + 1) (2 ^ 32 - 1)) ∧
        (c.cache.find? (fun e => e.1 == x.pc) = none → (t.chan ch).lastHit = false ∧
          (t.chan ch).cache.head? = some (x.pc, s.csWord (ch / 8) (s.fetchAddr (ch / 8) x.pc).1) ∧
          t.regN (A.seqBcMissCnt ch) = min (s.regN (A.seqBcMissCnt ch) + 1) (2 ^ 32 - 1))) ∧
    (∀ k z x, c.run = some k → c.ctx k = some z → inPlace → s.bestReady c = some x → x.id ≠ k →
      (s.segBefore x z = true → ∃ t, exec (.segmentStart ch) s = .next t ∧ (t.chan ch).run = some x.id ∧ (t.chan ch).ctx x.id = some (entered x) ∧
        (t.chan ch).ctx k = some { z with ready := true }) ∧
      (s.segBefore x z = false → ∃ t, exec (.segmentStart ch) s = .next t ∧ Around s t)) ∧
    (c.frozen = true ∨ c.pll = false ∨ c.ceLow.isSome = true ∨ s.bestReady c = none → ∃ t, exec (.segmentStart ch) s = .next t ∧ Around s t) ∧
    (∀ k x, k < 64 → c.ctx k = some x → c.resetDue.contains k = false → ∃ t, exec (.contextWake ch k) s = .next t ∧
      (t.chan ch).ctx k = some (if x.asleep && (s.sleepOver ch x || s.wakeDue ch x) then { x with asleep := false, ready := true, wokeRb := false } else x)) ∧
    (∀ i, i < 4 → ∃ t, exec (.rbNHigh ch i) s = .next t ∧ bit ((assoc t.pins.rb ch).getD 0) i = true ∧
      ∀ k x, c.ctx k = some x → x.asleep = true → s.rbMode (64 * ch + k) = true →
        (fld (s.dmA (64 * ch + k)) 25 2 = i → (t.chan ch).ctx k = some { x with asleep := false, ready := true, wokeRb := true }) ∧
        (fld (s.dmA (64 * ch + k)) 25 2 ≠ i → (t.chan ch).ctx k = some x))

/-- R16, R24, R156, R182, R188, R190, R192, R202, R219 to R226, R229, R275: an instruction does its bus operation, then its report, ALU and sequence operations from the
values at its start, and the channel passes an instruction boundary; bursts move the bytes of their operation, wait for transfer tokens and for decode staging
where there are none, end early at a 64-B boundary for a transfer that ranks higher, and bring codewords; a status that shows ARDY reports the operation ready, and
the third invalid one in a row ends it. Model's own choices: log entries 80, 84, 106, 107 and 108. -/
def Obligations.InstructionsExecute : Prop :=
  ∀ (s : State) (ch : Nat) (x : Ctx),
    let w := (s.wordAt ch x).toNat
    let x0 := s.latched ch x
    let k := s.instrK ch x w
    let fin := finish ch w k x0
    let n := Wd.len w
    let plain := Wd.sop w = 0 ∧ Wd.rop w ≤ 1 ∧ x.cust = none ∧ NoneWaits s ch
    (Executing s ch x 0 → ∃ t, exec (.busNone ch) s = .next t ∧ Around (fin s x0) t) ∧
    (Executing s ch x 10 → ∃ t, exec (.busPhyop ch) s = .next t ∧ Around (fin s x0) t) ∧
    (Executing s ch x 7 → ∃ t, exec (.busCehigh ch) s = .next t ∧ Around (fin (s.updChan ch fun c => { c with ceLow := none }) x0) t) ∧
    (Executing s ch x 9 → ∃ t, exec (.busVsel ch) s = .next t ∧ Around (fin (selectVolume s ch (x.id / 4)) x0) t) ∧
    (Executing s ch x 6 → ∃ t, exec (.busCelow ch) s = .next t ∧
      (x.cust = none → Around (fin (s.updChan ch fun c => { c with
        ceLow := some (s.ceLine ch (x.id / 4)), cycles := [], ceK := 0, ceAt := s.aclk, ceBy := x.id }) x0) t) ∧
      (x.cust.isSome = true → ∃ l, Around (fin ((selectVolume s ch (x.id / 4)).updChan ch fun c => { c with
        ceLow := some (s.ceLine ch (x.id / 4)), cycles := l, ceK := 0, ceAt := s.aclk, ceBy := x.id }) x0) t)) ∧
    (Executing s ch x 8 → ∃ t, exec (.busWpset ch) s = .next t ∧
      (s.wpRel ch = true → Around (fin (s.updChan ch fun c => { c with wp := true }) x0) t) ∧
      (s.wpRel ch = false → s.writesBefore ch ((s.chan ch).wpFall.getD s.admSeq) = false → Around (fin (s.updChan ch fun c => { c with wp := false }) x0) t) ∧
      (s.wpRel ch = false → s.writesBefore ch ((s.chan ch).wpFall.getD s.admSeq) = true → Around (fin s x0) t)) ∧
    (Executing s ch x 2 → ∃ t b, exec (.busAddr ch) s = .next t ∧
      Around (fin (cycles s ch ((s.addrBytes ch x0 w).map fun b => (2, b))) { x0 with addr := x.addr ++ s.addrBytes ch x0 w, burst := b }) t) ∧
    (Executing s ch x 1 → ∃ t, exec (.busCmd ch) s = .next t ∧
      (x.cust.isSome = true ∨ x.op.bind s.op = none →
        Around (fin (cycles s ch [(1, BitVec.ofNat 8 (Wd.byte w))]) (x0.afterCmd (Wd.byte w))) t) ∧
      (∀ o, x.cust = none → x.op.bind s.op = some o → o.kind ≠ .exclusive → Wd.conf w = false →
        Around (fin (cycles s ch [(1, BitVec.ofNat 8 (Wd.byte w))]) (x0.afterCmd (Wd.byte w))) t) ∧
      (∀ o, plain → x.op.bind s.op = some o → o.kind ≠ .exclusive → Wd.conf w = true → o.stage = .dispatched →
        ∃ y ∈ t.ops, y.id = o.id ∧ y.stage = .confirmed ∧ y.ran = s.aclk)) ∧
    (Executing s ch x 5 → ∀ first second dqs, ∃ t, exec (.busStatus ch first second dqs) s = .next t ∧
      let valid := dqs && first == second
      let u := cycles s ch ((1, 0x78) :: (leBytes (s.raBytes (64 * ch + x.id)) (s.rowOf ch x0 (x.op.bind s.op))).map fun b => (2, b))
      (x.cust.isSome = true ∨ x.op.bind s.op = none →
        ∃ b, Around (fin u { x0 with sr := first, srValid := valid, badSt := if valid then 0 else x.badSt + 1, burst := b }) t) ∧
      (∀ o, plain → x.op.bind s.op = some o →
        (valid = true → first.getLsbD 5 = true → o.stage = .confirmed → o.ready = false → o.kind ∈ [OpKind.read, .program, .erase] →
          ∃ y ∈ t.ops, y.id = o.id ∧ y.ready = true ∧ y.tokens = 0 ∧ y.failed = first.getLsbD 0) ∧
        (∀ m z, valid = false → 2 ≤ x.badSt → o.owner = .cmd m → s.slot m = some z → z.phase = .running → z.reject = none →
          t.met m St.dieNotResponding ∧ t.op o.id = none ∧ t.regN (A.chDnrCnt ch) = min (s.regN (A.chDnrCnt ch) + 1) (2 ^ 32 - 1)))) ∧
    (Executing s ch x 3 → ∀ data : List Byte, ∃ t, exec (.busDin ch data) s = .next t ∧
      (x.op.bind s.op = none → Around (fin s x0) t) ∧
      (∀ o, x.op.bind s.op = some o →
        (s.burstOk o = false → Around (throttle (s.updOp o.id fun y => { y with burst := true }) o) t) ∧
        (s.burstOk o = true → s.stageRoom ch o n = false → Around s t) ∧
        (∀ z, s.burstOk o = true → plain → n ≤ data.length → o.kind = .exclusive → s.opSlot o = some z → z.entry.opc = Opc.getFeature →
          ∃ y, t.slot z.id = some y ∧ y.res0 = leNat ((x.got ++ data.take n).take 4)) ∧
        (∀ i p l, s.burstOk o = true → s.stageRoom ch o n = true → plain → n ≤ data.length → o.kind = .read → o.cws = (i, p) :: l →
          let got := x.got ++ data.take n
          let len := (s.fmtAt ch o.fmt).len
          (got.length < len → t.cws = s.cws) ∧
          (len ≤ got.length → o.step = .first → pChan p = ch → (s.chan ch).flushing = false → (∀ c ∈ s.cws, c.stage ≠ .failed) →
            ∃ c ∈ t.cws, c.id = s.cwNo ∧ c.owner = o.owner ∧ c.idx = i ∧ c.paddr = p ∧ c.raw = got.take len ∧ c.stage = .raw ∧ c.first = true)))) ∧
    (Executing s ch x 4 → ∀ stop, ∃ t, exec (.busDout ch stop) s = .next t ∧
      (x.op.bind s.op = none → Around (fin s x0) t) ∧
      (∀ o, x.op.bind s.op = some o →
        let m := s.burstLen ch x0 x.sent n (stop.getD n)
        (s.burstOk o = false → Around (throttle (s.updOp o.id fun y => { y with burst := true }) o) t) ∧
        (s.burstOk o = true → plain → o.bad = false → o.senses = false →
          (t.chan ch).opened = ((s.sendBytes o).drop x.sent).take m ∧ ∃ y, (t.chan ch).ctx x.id = some y ∧ y.sent = x.sent + m) ∧
        (stop = none → m = n) ∧ (m < n → (x.sent + m) % 64 = 0) ∧
        (∀ f l, s.burstOk o = true → plain → o.bad = false → o.senses = true → o.feat = f :: l → (t.chan ch).opened = f.2.take n) ∧
        (∀ j z, s.burstOk o = true → plain → o.bad = true → o.owner = .cmd j → s.slot j = some z → z.phase = .running → z.reject = none →
          t.met j St.internalPoison ∧ t.op o.id = none))) ∧
    (Executing s ch x 0 → x.cust = none → NoneWaits s ch → Wd.sop w = 0 → 2 ≤ Wd.rop w → Wd.rop w ≠ 3 → ∀ o, x.op.bind s.op = some o →
      ∃ t, exec (.busNone ch) s = .next t ∧ ∃ y ∈ t.ops, y.id = o.id ∧ y.reports = o.reports ++ [Wd.rop w]) ∧
    (Executing s ch x 0 → x.cust = none → NoneWaits s ch → Wd.rop w ≤ 1 → ∃ t, exec (.busNone ch) s = .next t ∧
      let yes := x0.holds (Wd.cond w) != Wd.cinv w
      let count := ((aluStep w x0 (report s w x0).2).get (12 + Wd.csel w) + 65535) % 65536
      let at_ := fun (pc : Nat) (stack : List Nat) => ∃ y, (t.chan ch).ctx x.id = some y ∧ y.pc = pc % 16384 ∧ y.stack = stack ∧ y.asleep = x.asleep
      (Wd.sop w = 0 → at_ (x.pc + 1) x.stack) ∧ (Wd.sop w = 1 → at_ (Wd.tgt w) x.stack) ∧
      (Wd.sop w = 2 → at_ (if yes then Wd.tgt w else x.pc + 1) x.stack) ∧
      (Wd.sop w = 3 → x.stack.length < 4 → at_ (Wd.tgt w) ((x.pc + 1) :: x.stack)) ∧
      (∀ a l, Wd.sop w = 4 → x.stack = a :: l → at_ a l) ∧
      (Wd.sop w = 3 ∧ 4 ≤ x.stack.length ∨ Wd.sop w = 4 ∧ x.stack = [] → (t.chan ch).frozen = true) ∧
      (Wd.sop w = 5 → at_ (if count ≠ 0 then Wd.tgt w else x.pc + 1) x.stack) ∧
      (Wd.sop w = 6 → yes = false → at_ (x.pc + 1) x.stack) ∧
      (Wd.sop w = 6 → yes = true → (t.chan ch).run = none ∧ ∃ y, (t.chan ch).ctx x.id = some y ∧ y.pc = Wd.tgt w ∧ y.sidx = Wd.sidx w ∧
        y.asleep = !s.wakeDue ch x) ∧
      (Wd.sop w = 7 → (t.chan ch).ctx x.id = none))

/-- R191, R239, R244 to R246: a machine check freezes its channel, with a record, and fails the commands there; a fault of a customer routine ends the
routine, keeps the reason and resets the LUN, and its command ends once the LUN is ready; a customer routine faults when it holds CE_n low for more than 4,096 KCLK or
runs longer than SEQ_DR_LIMIT; a die that stays busy longer than its limit ends its command with DIE_TIMEOUT. Model's own choices: log entries 79, 93 and 109. -/
def Obligations.MachineChecksFaultsAndTimeouts : Prop :=
  ∀ (s : State), s.held = false →
    (∀ ch x slices fromCache, ch < 32 → slices < 16 → (s.chan ch).run.bind (s.chan ch).ctx = some x → (s.chan ch).frozen = false →
      ∃ t, exec (.machineCheck ch slices fromCache) s = .next t ∧ (t.chan ch).frozen = true ∧ (t.chan ch).wp = false ∧ (t.chan ch).ctxs = [] ∧
        (t.chan ch).run = none ∧ t.live ch = false ∧ t.raised 1 = true ∧
        (∀ o n z, o ∈ s.ops → dieCh o.die = ch → o.stage ≠ .done → o.owner = .cmd n → s.slot n = some z → z.phase = .running → z.reject = none →
          t.met n St.machineCheck) ∧
        (s.arEn = true → ∃ r ∈ t.alert.queue, r.typ = 4 ∧ r.src = ch ∧
          let a := (s.fetchAddr (ch / 8) x.pc).1
          r.info0 = mcInfo a slices (if slices = 0 then 2 else if fromCache then 1 else 0) x.id (decide (12288 ≤ a)))) ∧
    (∀ ch x, ch < 32 → (s.chan ch).run.bind (s.chan ch).ctx = some x → (s.chan ch).frozen = false → (s.store (ch / 8)).restoring = false →
      (s.chan ch).pll = true → (s.chan ch).op = none → (x.cust.isSome = true → s.smoking = false) → badSlices (s.wordAt ch x) ≠ 0 →
      ∃ t, exec (.busNone ch) s = .next t ∧ (t.chan ch).frozen = true) ∧
    (∀ ch x o, ch < 32 → (s.chan ch).run.bind (s.chan ch).ctx = some x → x.cust.isSome = true → x.id < 64 → x.op.bind s.op = some o → o.die = 64 * ch + x.id →
      let ended := fun (t : State) (reason : Nat) (st : Status) => (t.chan ch).cfReason = reason ∧ (t.chan ch).cfAddr = x.pc ∧ (t.chan ch).ceLow = none ∧
        (t.chan ch).ctx x.id = none ∧ x.id ∈ (t.chan ch).resetDue ∧ t.slots = s.slots ∧ ∃ y, t.op o.id = some y ∧ y.endSt = some st
      let run := s.aclk - x.start
      let limit := s.fldAt ch (A.seqDrLimit (ch / 8)) 0 20
      ((s.chan ch).ceBy = x.id → ∃ t, exec (.ceLowLimit ch) s = .next t ∧
        (s.ceTooLong ch x = true → ended t 4 St.invalidField) ∧ (s.ceTooLong ch x = false → Around s t)) ∧
      (∃ t, exec (.dieRawRunLimit o.die) s = .next t ∧
        (x.fresh = false → limit < run → ended t 5 St.dieTimeout ∧ t.regN (A.chDtoCnt ch) = min (s.regN (A.chDtoCnt ch) + 1) (2 ^ 32 - 1)) ∧
        (x.fresh = true ∨ run ≤ limit → Around s t)) ∧
      (let w := (s.wordAt ch x).toNat
       (s.chan ch).frozen = false → (s.chan ch).pll = true → (s.chan ch).op = none → (s.store (ch / 8)).restoring = false → s.smoking = false →
       badSlices (s.wordAt ch x) = 0 → (Wd.reserved w || Wd.forbidden w) = true → ∃ t, exec (.busNone ch) s = .next t ∧ ended t 2 St.invalidField)) ∧
    (∀ ch k o n z st, ch < 32 → k < 64 → k ∈ (s.chan ch).resetDue → s.ops.find? (fun y => y.die == 64 * ch + k && y.endSt.isSome) = some o →
      o.endSt = some st → o.owner = .cmd n → s.slot n = some z → z.phase = .running → z.reject = none →
      ∃ t, exec (.contextWake ch k) s = .next t ∧ k ∉ (t.chan ch).resetDue ∧ t.op o.id = none ∧ t.met n st) ∧
    (∀ d o n z, d < 2048 → s.timedAt d = some o → s.dieLimit o < s.ranFor o → o.owner = .cmd n → s.slot n = some z → z.phase = .running → z.reject = none →
      ∃ t, exec (.dieTimeout d) s = .next t ∧ t.met n St.dieTimeout ∧ t.op o.id = none ∧ (t.chan (dieCh d)).ctx (dieCtx d) = none ∧
        dieCtx d ∈ (t.chan (dieCh d)).resetDue ∧ (∀ y ∈ t.rlv.applied, y.1 ≠ d) ∧
        t.regN (A.chDtoCnt (dieCh d)) = min (s.regN (A.chDtoCnt (dieCh d)) + 1) (2 ^ 32 - 1)) ∧
    (∀ d, d < 2048 → (∀ o, s.timedAt d = some o → s.ranFor o ≤ s.dieLimit o) → ∃ t, exec (.dieTimeout d) s = .next t ∧ Around s t)

/-! ## The read path (chapters 01, 08, 09 and 13) -/

/-- R18, R21, R119, R263, R264, R268, R278, R281, R282: a codeword is erased, decoded, or failed; a decoded one goes to the staging queue, or to XTS; a failed one takes the page's next
step while one is allowed and is uncorrectable or bound-limited otherwise, uncorrectable under NO_RETRY; a line is decoded where at most 16 errors lead to a word of its
code with the right CRC, and failed otherwise. Model's own choices: log entries 46, 48 and 89. -/
def Obligations.DecodingDecidesCodewords : Prop :=
  ∀ (s : State) (k n : Nat) (c : Cw) (x : Slot), s.held = false → s.cw k = some c → c.owner = .cmd n → s.slot n = some x →
    let page := pageOf c.paddr
    let mine := s.cws.Pairwise (fun a b => a.id < b.id) ∧ s.pageCws c.owner page = [c] ∧ s.pageReading c.owner page = false ∧
      NoneWaits s (stHard c.ch) ∧ NoneWaits s stSoft
    let erased := c.first = true ∧ c.bad = none ∧ zeroBits c.raw ≤ s.fldAt (stHard c.ch) A.eccCtl 0 10
    let staged := fun (t : State) (cw : List Byte) (be : Nat) (again : Bool) => ∃ d z, t.cw k = some d ∧ t.slot n = some z ∧
      d.stage = (if c.cfg.enc then .xtsWait else .decoded) ∧ d.data = cw.take 4112 ∧ d.be = be ∧ z.maxBe = max x.maxBe be ∧ z.retried = (x.retried || again)
    (c.stage = .raw → c.isLine = false → ∀ found weight, ∃ t, exec (.hardDecodeDone k found weight) s = .next t ∧
      (mine → erased → t.cw k = none ∧ t.regN A.eccErasedCnt = min (s.regN A.eccErasedCnt + 1) (2 ^ 32 - 1) ∧ ∃ z, t.slot n = some z ∧ St.okErased ∈ z.outc ∧
        (x.entry.opc = Opc.read → bit z.res0 (32 + c.idx) = true)) ∧
      (∀ cw, mine → ¬erased → c.bad = none → found = some cw → isCodeword c cw = true → crcOk cw = true → stampOk c x cw = true → x.entry.opc ≠ Opc.scan → x.mute = false →
        staged t cw (corrected c.hard cw) (!c.first)) ∧
      (mine → ¬erased → (∀ cw, found = some cw → isCodeword c cw = false) → x.entry.opc ≠ Opc.scan → x.kMax ≤ x.rstep →
        t.cw k = none ∧ t.regN A.rlvFailCnt = min (s.regN A.rlvFailCnt + 1) (2 ^ 32 - 1) ∧ ∃ z, t.slot n = some z ∧
          (St.mediaUncorrectable ∈ z.outc ∨ St.boundReached ∈ z.outc) ∧ (x.entry.noRetry = true → St.mediaUncorrectable ∈ z.outc) ∧ (x.entry.opc = Opc.read → bit z.res0 c.idx = true)) ∧
      (mine → ¬erased → (∀ cw, found = some cw → isCodeword c cw = false) → x.entry.opc ≠ Opc.scan → x.failed = false → x.rstep < x.kMax →
        x.entry.bounded = false → s.recovOf c.owner page = none → 0 < s.ladMax page c.cfg.fmt x.entry.lcls →
        (∃ d, t.cw k = some d ∧ d.stage = .failed) ∧ (∃ z, t.slot n = some z ∧ z.rstep = x.rstep + 1) ∧
        ∃ o ∈ t.ops, o.owner = .cmd n ∧ o.kind = .read ∧ o.paddr = page ∧ o.stage = .queued ∧ ∃ j, o.step = .ladder j)) ∧
    (c.stage = .raw → c.isLine = true → ∀ found weight, ∃ t, exec (.hardDecodeDone k found weight) s = .next t ∧
      (∀ l, NoneWaits s (stHard c.ch) → lineOf c found = some l → ∃ d z, t.cw k = some d ∧ d.stage = .decoded ∧ d.data = l.take 256 ∧
        t.slot n = some z ∧ z.maxBe = max x.maxBe (diffBits c.raw l)) ∧
      (NoneWaits s (stHard c.ch) → lineOf c found = none → t.cw k = none ∧ t.regN A.eccLineUncCnt = min (s.regN A.eccLineUncCnt + 1) (2 ^ 32 - 1) ∧
        ∃ z, t.slot n = some z ∧ St.mediaUncorrectable ∈ z.outc ∧ (x.entry.opc = Opc.logRead → bit z.res0 c.idx = true))) ∧
    ((s.cws.filter fun d => d.stage == .softRun).length < Config.softDecoders s.build → s.softNext = some c →
      ∃ t, exec .softDecoderGrant s = .next t ∧ Around (s.setCw { c with stage := .softRun }) t) ∧
    (c.stage = .softRun → ∀ found, ∃ t, exec (.softDecodeDone k found) s = .next t ∧ t.regN A.rlvSoftCnt = min (s.regN A.rlvSoftCnt + 1) (2 ^ 32 - 1) ∧
      (∀ cw, mine → c.bad = none → found = some cw → isCodeword c cw = true → crcOk cw = true → stampOk c x cw = true → x.entry.opc ≠ Opc.scan → x.mute = false →
        staged t cw (corrected (s.centreHard c) cw) true ∧ t.regN A.rlvSoftOkCnt = min (s.regN A.rlvSoftOkCnt + 1) (2 ^ 32 - 1)))

/-- R23, R32, R118, R138, R263, R325, R344, R354, R369, R371: an XTS engine serves the channels in turn and decrypts with the key slot's key of that moment; a staged codeword of a READ is
written to its place in the host span, with stored poison it ends the command, a segment of a SCAN enters the window of the unit that holds its row group. Model's own choices: log entry 49. -/
def Obligations.StagedCodewordsAreDecryptedAndDelivered : Prop :=
  ∀ (s : State) (n : Nat) (c : Cw) (x : Slot), s.held = false → c.owner = .cmd n → s.slot n = some x →
    (s.xtsWaiting = [] → ∃ t, exec .xtsGrant s = .next t ∧ Around s t) ∧
    (c.ch < 32 → (match s.xtsWaiting.find? fun y => decide (s.xtsTurn < y) with | some y => some y | none => s.xtsWaiting.head?) = some c.ch →
      s.cws.find? (fun d => d.stage == .xtsWait && d.ch == c.ch) = some c → ∃ t, exec .xtsGrant s = .next t ∧ t.xtsTurn = c.ch ∧
      (∀ key, s.keyBad x.entry.kslot = false → assoc s.keys x.entry.kslot = some key → ∃ d, t.cw c.id = some d ∧ d.stage = .decoded ∧
        d.data = xtsDec key (x.entry.tweak c.idx c.paddr) (c.data.take 4096) ++ c.data.drop 4096) ∧
      (s.keyBad x.entry.kslot = false → assoc s.keys x.entry.kslot = none → x.phase = .running → x.reject = none →
        t.cw c.id = none ∧ t.met n St.keySlotEmpty)) ∧
    (∀ k, s.cw k = some c → c.stage = .decoded → c.ch < 32 → NoneWaits s (stQueue c.ch) → NoneWaits s stMover →
      (x.mute = true → ∃ t, exec (.stagingNotice k) s = .next t ∧ t.cw k = none ∧ t.ports = s.ports ∧ t.slots = s.slots) ∧
      (∀ len, x.entry.opc = Opc.read → x.mute = false → x.noWrite = false → s.stopped = false → x.entry.hasMeta = false → c.bad = none → x.outq = [] →
        x.spans = [(x.entry.haddr, len)] → 4096 * (c.idx + 1) ≤ len → 4096 ≤ c.data.length → s.portOf x < 4 →
        let a := x.entry.haddr + 4096 * c.idx
        ∃ t z, exec (.stagingNotice k) s = .next t ∧ t.cw k = none ∧ t.regN (A.movSqCwCnt c.ch) = (s.regN (A.movSqCwCnt c.ch) + 1) % 2 ^ 32 ∧
          t.slot n = some z ∧ z.bytesOut = x.bytesOut + 4096 ∧
          t.asked (s.portOf x) = s.asked (s.portOf x) ++ (pieces a 4096).map fun y =>
            mkWrite y.1 (((c.data.take 4096).drop (y.1 - a)).take y.2) x.entry.durable false (.dataWrite n)) ∧
      (x.entry.opc = Opc.read → x.mute = false → c.bad.isSome = true → x.phase = .running → x.reject = none →
        ∃ t, exec (.stagingNotice k) s = .next t ∧ t.cw k = none ∧ t.met n St.internalPoison) ∧
      (x.entry.opc = Opc.scan → x.mute = false → c.bad = none → x.rgOut (x.rgOfCw c.idx).1 = false →
        (s.rgUnit n (x.rgOfCw c.idx).1 = none → ∃ t, exec (.stagingNotice k) s = .next t ∧ Around s t) ∧
        (∀ u, s.rgUnit n (x.rgOfCw c.idx).1 = some u → Seg.reason (leNat (c.data.take 4096)) (x.group (x.rgOfCw c.idx).1) (x.rgOfCw c.idx).2 = 0 →
          ∃ t, exec (.stagingNotice k) s = .next t ∧ t.cw k = none ∧ t.unit u.u = { u with segs := u.segs ++ [((x.rgOfCw c.idx).2, c.data.take 4096)] })))

/-- R247, R273, R288, R289, R294, R296, R297, R384, R385: the engines that work by themselves. A waiting calibration takes the lowest free slot and reads the first level of its first LUN; a pass of
the forager starts again after its pause and reads or skips the next page of a die at its pace; a temperature poll keeps T of its target, and one of 4 intervals ago gives way to
TEMP_IN; the scrubber, when its step is due, repairs or reports the unit it reads and moves on; another reader of staging reports its unit and
leaves the walk (R370, R382). Model's own choices: log entries 43, 58 and 126. -/
def Obligations.BackgroundEnginesWork : Prop :=
  ∀ s : State, s.held = false →
    (s.smoking = false → s.stopped = false →
      (s.rlv.calWait = [] ∨ (∀ k, k < 8 → (s.cal k).isSome = true) → ∃ t, exec .calibrationStart s = .next t ∧ Around s t) ∧
      (∀ w rest k, s.rlv.calWait = w :: rest → ((List.range 8).find? fun k => (s.cal k).isNone) = some k →
        ∃ t, exec .calibrationStart s = .next t ∧ t.rlv.calWait = rest ∧
          ∀ x d l v, (w.1 = none ∧ x = calFresh k none w.2.1 w.2.2.1 w.2.2.2 s.aclk ∨
              ∃ n c, w.1 = some n ∧ s.slot n = some c ∧ c.failed = false ∧ x = calFresh k (some n) c.entry.paddr c.entry.count (c.entry.x 0 15) s.aclk) →
            x.left ≠ 0 → s.lunsFrom (pDie x.page) = d :: l → s.calSkip (s.calBegin x d) = false → s.calNextLevel (s.calBegin x d) = some v →
            ∃ o ∈ t.ops, o.owner = .cal k ∧ o.kind = .calRead ∧ o.stage = .queued ∧ o.die = d)) ∧
    (s.power.st = .p0 → s.smoking = false → s.fg.run = true → s.fg.waiting = true → s.pauseOver = true → s.fg.dies.all s.fgChanBad = false →
      ∃ t, exec .foragerPauseEnd s = .next t ∧ t.fg.run = true ∧ t.fg.waiting = false ∧ t.fg.pos = 0 ∧ t.fg.passes = min (s.fg.passes + 1) (2 ^ 32 - 1)) ∧
    (s.fg.run = false ∨ s.fg.waiting = false ∨ s.pauseOver = false → ∃ t, exec .foragerPauseEnd s = .next t ∧ Around s t) ∧
    (∀ d, d < 2048 →
      (s.fg.run = false ∨ s.fg.waiting = true ∨ s.power.st ≠ .p0 ∨ s.smoking = true ∨ s.paceDue d = false → ∃ t, exec (.foragerPace d) s = .next t ∧ Around s t) ∧
      (∀ r p, s.fg.run = true → s.fg.waiting = false → s.power.st = .p0 → s.smoking = false → s.stopped = false → s.paceDue d = true → s.fgHere d = some (r, p) →
        ((s.fgChanBad d || s.fgBlockBad p) = true → ∃ t, exec (.foragerPace d) s = .next t ∧ t.fg.pos = s.fg.pos + 1 ∧ t.ops = s.ops ∧
          t.regN A.rlvFgSkipCnt = min (s.regN A.rlvFgSkipCnt + 1) (2 ^ 32 - 1)) ∧
        ((s.fgChanBad d || s.fgBlockBad p) = false → ∃ t, exec (.foragerPace d) s = .next t ∧ (∃ q ∈ t.fg.pages, q.page = p) ∧
          ∃ o ∈ t.ops, o.owner = .forager ∧ o.kind = .read ∧ o.stage = .queued ∧ o.cls = 8 ∧ o.paddr = p ∧ o.fmt = r.fmt))) ∧
    (∀ ch i, ch < 32 → i < 16 →
      let d := ch * 64 + i * 4
      (∀ v, s.pollFree ch i = true → ∃ t, exec (.tempPoll ch i (some v)) s = .next t ∧
        (tempIdx d, BitVec.ofInt 8 ((v.toNat : Int) - ((fld (s.dtB d) 0 8 : Nat) : Int)), false) ∈ t.rlv.temps) ∧
      (s.pollFree ch i = true → ∃ t, exec (.tempPoll ch i none) s = .next t ∧
        Around { s with rlv := { s.rlv with polled := putBy Prod.fst (tempIdx d, s.aclk) s.rlv.polled } } t) ∧
      (∀ v, s.pollFree ch i = false → ∃ t, exec (.tempPoll ch i v) s = .next t ∧ Around s t) ∧
      let stale := (assoc s.rlv.pollGood (ch * 16 + i)).getD 0 + 4000 * s.fldAt ch A.rlvTpoll 0 16 ≤ s.aclk
      (stale → (∃ x ∈ s.rlv.temps, x.1 = ch * 16 + i) → ∃ t, exec (.tempPollStale ch i) s = .next t ∧
        t.rlv.temps = s.rlv.temps.filter (fun x => x.1 != ch * 16 + i) ++ [(ch * 16 + i, BitVec.ofInt 8 (s.tempIn (ch / 8)), true)]) ∧
      (¬stale ∨ (∀ x ∈ s.rlv.temps, x.1 ≠ ch * 16 + i) → ∃ t, exec (.tempPollStale ch i) s = .next t ∧ Around s t)) ∧
    (∀ mem inst bg u, mem < 8 → inst < 32 → bg < 16 →
      (s.scrubs mem inst bg = false → ∃ t, exec (.scrubStep mem inst bg [u] .scrubber) s = .next t ∧ Around s t) ∧
      (s.scrubs mem inst bg = true → ∃ t, exec (.scrubStep mem inst bg [u] .scrubber) s = .next t ∧
        let a := s.scrubPos mem inst bg
        let base := bgBase mem bg
        let next := a + scrubStride mem
        assoc t.mem.scrubAt (bgKey mem inst bg) = some (if next < base + bgSize mem then next else base) ∧
        (mem = 5 → badSlices (BitVec.ofNat 132 u) = 0 → t.stores = s.stores ∧ t.regN A.memUeCnt = s.regN A.memUeCnt) ∧
        (mem = 5 → badSlices (BitVec.ofNat 132 u) ≠ 0 → a < 11264 → assoc (t.store inst).words a = none ∧
          t.regN (A.seqCsFixCnt inst) = min (s.regN (A.seqCsFixCnt inst) + 1) (2 ^ 32 - 1)) ∧
        (mem = 5 → badSlices (BitVec.ofNat 132 u) ≠ 0 → 11264 ≤ a → (t.store inst).csErr = true ∧ t.raised 3 = true ∧
          t.regN A.memUeCnt = min (s.regN A.memUeCnt + 1) (2 ^ 32 - 1)) ∧
        (mem ≠ 5 → judge (codeLen mem) (unitSyn mem u).1 (unitSyn mem u).2 = .bad → (mem, inst, a) ∈ t.mem.poison ∧ t.raised 3 = true ∧
          t.regN A.memUeCnt = min (s.regN A.memUeCnt + 1) (2 ^ 32 - 1)) ∧
        (mem ≠ 5 → judge (codeLen mem) (unitSyn mem u).1 (unitSyn mem u).2 = .fixed → t.mem.poison = s.mem.poison ∧
          t.regN A.memCeCnt = min (s.regN A.memCeCnt + 1) (2 ^ 32 - 1)) ∧
        (mem ≠ 5 → judge (codeLen mem) (unitSyn mem u).1 (unitSyn mem u).2 = .clean → t.mem.poison = s.mem.poison ∧ t.reg A.memUeCnt = s.reg A.memUeCnt))) ∧
    (∀ inst u a queue, s.reads 0 inst 0 = true → a < 393216 → a % 8 = 0 → inst < 32 →
      ∃ t, exec (.scrubStep 0 inst 0 [u] (.reader a queue)) s = .next t ∧ t.mem.scrubAt = s.mem.scrubAt ∧
        (judge 71 (unitSyn 0 u).1 (unitSyn 0 u).2 = .fixed → t.mem.poison = s.mem.poison ∧ t.regN A.memCeCnt = min (s.regN A.memCeCnt + 1) (2 ^ 32 - 1) ∧
          t.regN (A.movSqCorrCnt inst) = if queue then min (s.regN (A.movSqCorrCnt inst) + 1) (2 ^ 32 - 1) else s.regN (A.movSqCorrCnt inst)) ∧
        (judge 71 (unitSyn 0 u).1 (unitSyn 0 u).2 = .bad → (0, inst, a) ∈ t.mem.poison ∧ t.raised 3 = true))

/-! ## Scans and the data mover (chapters 10 to 13) -/

/-- R22, R325, R335 to R344, R363: a free unit takes the waiting row group; with every segment there the row group is pruned or its program starts; each instruction changes
its bitmap, column, output or accumulator and nothing else; END commits the row group where the runs of every segment are right, and the
unit is free once the store takes its chunks, in the order of the commits. Model's own choices: log entries 22 and 38. -/
def Obligations.CombUnitsEvaluateRowGroups : Prop :=
  ∀ (s : State) (n : Nat) (x : Slot) (w : Nat),
    let u := s.unit n
    let g := x.group u.rg
    let set := fun (v : Nat) => s.setUnit { u with pc := u.pc + 1, bits := u.bits.set (W.d w) v }
    let rows := rowsIn (u.sel (W.sa w)) g.rows
    let col := u.col (W.k w)
    let emits := fun (l : List (Nat × Nat × Nat × Nat × List Byte)) => s.setUnit { u with pc := u.pc + 1, emits := u.emits ++ l }
    let test := fun (p : Bool → Nat → Bool) => bitmap (fun i => match col.at_ i with | some v => p col.signed v | none => false) g.rows
    (∀ c ∈ [(0x08, Instr.cmp n, set (test fun sg v => cmpTest (W.fn w) sg v (W.imm w))),
        (0x09, .range n, set (test fun sg v => rangeTest (s.ctxOf x) w sg v)),
        (0x0A, .inset n, set (test fun _ v => insetTest (s.ctxOf x) w v)),
        (0x0B, .isnull n, set (bitmap (fun i => col.nulls && (col.at_ i).isNone) g.rows)),
        (0x10, .combAnd n, set (u.sel (W.sa w) &&& u.sel (W.sb w))),
        (0x11, .combOr n, set (u.sel (W.sa w) ||| u.sel (W.sb w))),
        (0x12, .combNot n, set (bitmap (fun i => !bit (u.sel (W.sa w)) i) g.rows)),
        (0x13, .combAndn n, set (bitmap (fun i => bit (u.sel (W.sa w)) i && !bit (u.sel (W.sb w)) i) g.rows)),
        (0x20, .emitsel n, emits [(W.st w, 0, g.rows, 0, bitmapBytes (u.sel (W.sa w)) g.rows)]),
        (0x21, .emitval n, emits [(W.st w, 0, (rows.filterMap col.at_).length, rows.length - (rows.filterMap col.at_).length,
          packItems (8 * 2 ^ W.ow w) (rows.filterMap col.at_))]),
        (0x22, .emitrow n, emits [(W.st w, 0, rows.length, 0, packItems 32 (rows.map fun i => (g.baseRow + i) % 2 ^ 32))]),
        (0x30, .agg n, s.setUnit { u with
          pc := u.pc + 1, accs := putBy Prod.fst (W.d w, aggregate (W.fn w) (W.sg w) (if W.fn w = 0 ∧ W.cntr w then rows else rows.filterMap col.at_)) u.accs })],
      Combing s n x c.1 w → ∃ t, exec c.2.1 s = .next t ∧ Around c.2.2 t) ∧
    (Combing s n x 0x23 w →
      let value := fun (i : Nat) => if W.pv w then some ((g.baseRow + i) % 2 ^ 32) else (u.col (W.kv w)).at_ i
      let part := fun (j : Nat) => rows.filterMap fun i => match col.at_ i, value i with
        | some key, some v => if crc32c (leBytes 8 key) % 2 ^ W.pb w = j then some v else none
        | _, _ => none
      let taken := (rows.filter fun i => (col.at_ i).isSome && (value i).isSome).length
      ∃ t, exec (.partition n) s = .next t ∧ Around (emits ((List.range (2 ^ W.pb w)).map fun j =>
        (W.st w + j, 0, (part j).length, rows.length - taken, packItems (8 * 2 ^ W.ow w) (part j)))) t) ∧
    (Combing s n x 0x01 w →
      let seg := u.seg (W.k w)
      (Seg.runsOk seg = true → ∃ t, exec (.loadcol n) s = .next t ∧ Around (s.setUnit { u with
        pc := u.pc + 1, cols := (u.cols.filter fun y => y.k != W.k w) ++ [{ k := W.k w, signed := Seg.signed seg, nulls := Seg.nulls seg, rows := Seg.rowsOf seg }] }) t) ∧
      (Seg.runsOk seg = false → ∃ t z, exec (.loadcol n) s = .next t ∧ t.slot x.id = some z ∧ St.mediaUncorrectable ∈ z.outc ∧
        t.regN A.cmbSegBadCnt = min (s.regN A.cmbSegBadCnt + 1) (2 ^ 32 - 1))) ∧
    (∀ r k, Combing s n x 0x00 w → x.scan = some r → u.badRuns = some k → ∃ t z, exec (.combEnd n) s = .next t ∧ t.slot x.id = some z ∧
      St.mediaUncorrectable ∈ z.outc ∧ t.regN A.cmbSegBadCnt = min (s.regN A.cmbSegBadCnt + 1) (2 ^ 32 - 1)) ∧
    (∀ r, Combing s n x 0x00 w → x.scan = some r → u.badRuns = none → r.accBad = false → ∃ t z q, exec (.combEnd n) s = .next t ∧ (t.unit n).running = false ∧ (t.unit n).commit.isSome = true ∧ (t.unit n).ord = r.ord ∧ q.ord = r.ord + 1 ∧
      t.slot x.id = some z ∧ z.scan = some q ∧ q.eval = r.eval + 1 ∧ q.pruned = r.pruned ∧ q.excl = r.excl ∧
      t.regN A.cmbRgEvalCnt = min (s.regN A.cmbRgEvalCnt + 1) (2 ^ 32 - 1)) ∧
    (s.held = false → n < 32 → u.slot.bind s.slot = some x →
      (u.running = false → u.commit = none →
        (u.segs.length ≠ g.nseg → ∃ t, exec (.rowGroupReady n) s = .next t ∧ Around s t) ∧
        (u.segs.length = g.nseg → s.ctxBad x = false →
          let pruned := (Scx.prog (s.ctxOf x)).any fun w => W.prune w && pruneFails (s.ctxOf x) w (u.seg (W.k w))
          ∃ t, exec (.rowGroupReady n) s = .next t ∧
            (pruned = false → Around (s.setUnit { u with running := true, pc := 0, bits := List.replicate 8 0 }) t) ∧
            (pruned = true → u.badRuns = none → (∀ r, x.scan = some r → r.accBad = false) → (t.unit n).running = false ∧ (t.unit n).commit.isSome = true ∧
              t.regN A.cmbRgPruneCnt = min (s.regN A.cmbRgPruneCnt + 1) (2 ^ 32 - 1)))) ∧
      (∀ l, u.commit = some l →
        let noLate := ∀ y ∈ s.slots, ∀ r, y.scan = some r → r.late = []
        let turn := s.ordBefore x.id u.ord = false
        let big := x.entry.bounded = true ∧ s.ostBndSize < s.ostOf x.id + chunkLines l
        (turn → big → x.phase = .running → x.reject = none → ∃ t, exec (.chunkAccept n) s = .next t ∧ t.met x.id St.outputRingFault) ∧
        (noLate → (s.ordBefore x.id u.ord = true ∨ (x.entry.bounded = false ∧ s.ostGenSize < s.mover.ostGen + chunkLines l)) → ∃ t, exec (.chunkAccept n) s = .next t ∧ Around s t) ∧
        (turn → ¬big → (x.entry.bounded = true ∨ s.mover.ostGen + chunkLines l ≤ s.ostGenSize) → ∃ t, exec (.chunkAccept n) s = .next t ∧ t.unit n = CombUnit.reset n))) ∧
    (s.held = false →
      (s.rgWaiting = [] → ∃ t, exec .combUnitGrant s = .next t ∧ Around s t) ∧
      (∀ v k, s.rgWaiting ≠ [] → (∀ y ∈ s.rgWaiting, y = v) → (s.slot v.2.2.2.1).bind s.unitFor = some k → ∃ t, exec .combUnitGrant s = .next t ∧
        Around (s.setUnit { CombUnit.reset k with slot := some v.2.2.2.1, rg := v.2.2.2.2 }) t))

/-- R356 to R360, R364: a ring's first unit reads its descriptors; with the data of a unit written, the descriptors but the first go back and then the first; a waited-for descriptor is
polled, and a unit that has waited WAIT ms fails with its ring's reason, HEAD unmoved. -/
def Obligations.BufferRingsPlaceUnits : Prop :=
  ∀ (s : State) (r : Nat) (u : BrUnit) (l : List BrUnit) (x : Slot), s.held = false → s.stopped = false → r < 256 →
    ringPurge s r = s → (s.ring r).units = u :: l → s.slot u.slot = some x → s.portOf x < 4 →
    let b := s.ring r
    let p := s.portOf x
    let i := (b.head + b.taken.length) % s.brSize r
    let k := min 8 (min (s.brSize r - i) ((4096 - s.brAddr r i % 4096) / 32))
    let read := mkRead (s.brAddr r i) (32 * k) false (.descRead r i k)
    let fs := fills b.taken 0 u.bytes.length
    let busy := s.anyReq fun q => match q with | .unitData j n => j == r && n == u.slot | .descBack j n _ => j == r && n == u.slot | _ => false
    let back := fun (first : Bool) (f : Descr × Nat × Nat) =>
      let bad := (List.range (f.2.2 / 64)).any fun j => u.psn.contains (f.2.1 / 64 + j) || u.hole.contains (f.2.1 / 64 + j)
      mkWrite (s.brAddr r f.1.idx + 12) (descBytes u x first (f.2.1 + f.2.2 == u.bytes.length) bad f.2.2) x.entry.durable false (.descBack r x.id first)
    (b.phase = 0 → s.descReading r = false → ∃ t, exec (.bufferRingPlace r) s = .next t ∧ (t.ring r).phase = 1 ∧ (t.ring r).units = u :: l ∧
      t.asked p = s.asked p ++ [read]) ∧
    (b.phase ≠ 0 → ∃ t, exec (.bufferRingPlace r) s = .next t ∧ Around s t) ∧
    (busy = true → ∃ t, exec (.descriptorWriteBack r) s = .next t ∧ Around s t) ∧
    (busy = false → ∃ t, exec (.descriptorWriteBack r) s = .next t ∧ (t.ring r).head = b.head ∧
      (∀ f, b.phase = 2 → fs = [f] → (t.ring r).phase = 4 ∧ t.asked p = s.asked p ++ [back true f]) ∧
      (∀ f g m, b.phase = 2 → fs = f :: g :: m → (t.ring r).phase = 3 ∧ t.asked p = s.asked p ++ (g :: m).map (back false)) ∧
      (∀ f m, b.phase = 3 → fs = f :: m → (t.ring r).phase = 4 ∧ t.asked p = s.asked p ++ [back true f])) ∧
    (b.phase = 1 → b.starved = true → s.descReading r = false → b.readAt + s.fldOf A.hqBrPoll 0 16 ≤ s.aclk → ∃ t, exec (.brPoll r) s = .next t ∧ t.asked p = s.asked p ++ [read]) ∧
    (b.starved = false ∨ s.aclk < b.readAt + s.fldOf A.hqBrPoll 0 16 → ∃ t, exec (.brPoll r) s = .next t ∧ Around s t) ∧
    (b.phase = 1 → b.starved = true → s.fldOf (A.hqBrCfg r) 16 16 ≠ 0 → b.since + 1000 * s.fldOf (A.hqBrCfg r) 16 16 ≤ s.aclk →
      x.phase = .running → x.reject = none →
      ∃ t, exec (.brWaitExpiry r) s = .next t ∧ t.met u.slot St.outputRingFault ∧ (t.ring r).units = l ∧ (t.ring r).head = b.head) ∧
    (s.fldOf (A.hqBrCfg r) 16 16 = 0 ∨ s.aclk < b.since + 1000 * s.fldOf (A.hqBrCfg r) 16 16 → ∃ t, exec (.brWaitExpiry r) s = .next t ∧ Around s t)

/-- R51, R81 to R83, R91, R104, R105, R128, R138, R368: a finished command reads its durable line back, and then its CQ entry is written with its status, or is held behind a full CQ; records
leave in order for the ring's tail, or are dropped and counted. Model's own choices: log entry 34. -/
def Obligations.CompletionsAndRecordsAreWritten : Prop :=
  (∀ (s : State) (n : Nat) (x : Slot), s.held = false → s.stopped = false → s.smoking = false → s.power.st ≠ .p2 → n < Config.slotCount → s.slot n = some x →
    (∀ a bad, s.finished x = true → s.aggDue x = false → s.readbackDue x = true → x.readback = 0 → x.lastLine = some (a, bad) → x.lastPort < 4 →
      ∃ t, exec (.durableReadback n) s = .next t ∧ t.slot n = some { x with readback := 1 } ∧
        t.asked x.lastPort = s.asked x.lastPort ++ [mkRead a 64 true (.readback n)]) ∧
    (s.readbackDue x = false ∨ x.readback ≠ 0 → ∃ t, exec (.durableReadback n) s = .next t ∧ Around s t) ∧
    (purgeRings s = s → s.slotPoisoned n = false → s.calibrating n = false →
      (s.finished x = false → ∃ t, exec (.completionWrite n) s = .next t ∧ Around s t) ∧
      (∀ q, s.finished x = true → s.aggDue x = false → s.readbackDue x = false → (recordOf x).isNone = true → x.report = false → s.qp x.qid = some q → x.qid < 1024 →
        s.cqHalfBad x.qid = false → q.cqFault = false → s.cqHolds x.qid = false → q.port < 4 → ∃ t y, exec (.completionWrite n) s = .next t ∧ t.slot n = some y ∧
          y.status = x.finalStatus ∧ y.res0 = s.finalRes0 x x.finalStatus ∧
          (q.cqFull = false → y.phase = .posting ∧ y.cqIdx = q.tail ∧
            t.asked q.port = s.asked q.port ++ [mkWrite (q.cqBase + 32 * q.tail) (cqBytes y q.head q.wphase) false false (.cqWrite x.qid q.tail n)] ∧
            ∃ z, t.qp x.qid = some z ∧ z.tail = (if q.tail + 1 = q.cqSize then 0 else q.tail + 1) ∧
              z.wphase = (if q.tail + 1 = q.cqSize then !q.wphase else q.wphase)) ∧
          (q.cqFull = true → y.phase = .fullHeld ∧ y.cqHeld = true ∧ t.qps = s.qps ∧ t.ports = s.ports ∧
            t.regN (A.hqQpCqfullCnt x.qid) = min (s.regN (A.hqQpCqfullCnt x.qid) + 1) (2 ^ 32 - 1))))) ∧
  (∀ x : Slot,
    (∀ st, x.reject = some st → x.finalStatus = st) ∧
    (∀ c ∈ x.conds, x.reject = none → (∀ d ∈ x.conds, itemOf c ≤ itemOf d) → x.finalStatus ∈ x.conds ∧ itemOf x.finalStatus = itemOf c) ∧
    (x.reject = none → x.conds = [] → x.entry.opc ≠ Opc.gather → x.entry.opc ≠ Opc.scan →
      (St.mediaUncorrectable ∈ x.outc → x.finalStatus = St.mediaUncorrectable) ∧
      (St.mediaUncorrectable ∉ x.outc → St.boundReached ∈ x.outc → x.finalStatus = St.boundReached) ∧
      (St.mediaUncorrectable ∉ x.outc → St.boundReached ∉ x.outc → St.okErased ∈ x.outc → x.finalStatus = St.okErased) ∧
      (St.mediaUncorrectable ∉ x.outc → St.boundReached ∉ x.outc → St.okErased ∉ x.outc → St.okRetried ∈ x.outc → x.finalStatus = St.okRetried) ∧
      (x.outc = [] → x.finalStatus = St.ok))) ∧
  (∀ (s : State) (r : Record) (l : List Record), s.held = false → s.stopped = false → s.power.st ≠ .p2 → RingsOff s → s.alert.out = none → s.alert.queue = r :: l →
    (s.arEn = true → (s.alert.tail + 1) % s.arSize ≠ s.arHead → ∃ t, exec .alertRecordWrite s = .next t ∧ t.alert.out = some r ∧ t.alert.queue = l ∧
      t.alert.lost = false ∧ let p := s.fldOf A.hqArCfg 4 2
      t.asked p = s.asked p ++ [mkWrite (s.pair A.hqArBaseLo + 32 * s.alert.tail) (recordBytes r s.alert.lost s.alert.wphase) false false .alert]) ∧
    (s.arEn = false ∨ (s.alert.tail + 1) % s.arSize = s.arHead → r.typ ≠ 7 → ∃ t, exec .alertRecordWrite s = .next t ∧ t.alert.out = none ∧ t.alert.queue = l ∧
      t.alert.lost = true ∧ t.ports = s.ports ∧ t.regN A.hqArDropCnt = min (s.regN A.hqArDropCnt + 1) (2 ^ 32 - 1)))

/-! ## The block as a machine (chapters 00, 15 and 17) -/

/-- A step runs the command at the front of the queue, with the rest of the queue in place; with none waiting, the block idles for one ACLK edge, which a held block does
not see (log entry 2: the model's choice). -/
def Obligations.StepRunsFrontCommand : Prop :=
  (∀ (c : Instr) (rest : List Instr) (s : State), s.pending = c :: rest → step s = exec c { s with pending := rest }) ∧
  (∀ s : State, s.pending = [] → (s.held = true → step s = .next s) ∧
    (s.held = false → s.smoke.step ≠ 8 → s.placingSlots = [] → ∃ t, step s = .next t ∧ t.pending = [] ∧ t.aclk = s.aclk + 1 ∧ t.slots = s.slots ∧ t.ops = s.ops ∧ t.ports = s.ports ∧
      t.chans = s.chans ∧ t.qps = s.qps))

/-- R4: every well-formed command ends in a next state, acts on neither the queue of commands nor the build, and nothing else than a unit that no build has stops one. Model's own choices: log entry 11. -/
def Obligations.EveryCommandCompletes : Prop :=
  (∀ (c : Instr) (s : State), c.wf s.build = true → ∃ t, exec c s = .next t ∧ t.pending = s.pending ∧ t.build = s.build) ∧
  (∀ (c : Instr) (s : State), (∃ t, exec c s = .next t) ∨ exec c s = .fault .noSuchUnit)

/-- R72, R394: after reset no register is away from its reset value, nothing is loaded, queued or in flight, INIT_DONE is 0, the protection level is 1, and the notification controller is at its
fixed point. Model's own choices: log entries 6, 7 and 91. -/
def Obligations.ResetStateIsSettled : Prop :=
  Settled State.reset ∧ (∀ a, State.reset.reg a = Reg.resetValue State.reset.build a) ∧ State.reset.pending = [] ∧ State.reset.init.done = false ∧
  State.reset.level = 1 ∧ State.reset.power.st = .p0 ∧ State.reset.slots = [] ∧ State.reset.ops = [] ∧ State.reset.keys = [] ∧ State.reset.scanCtx = [] ∧
  State.reset.alert.queue = [] ∧ (∀ t, (State.reset.tgt t).stack = [] ∧ (State.reset.tgt t).cands = []) ∧ ∀ n, State.reset.raised n = false

/-- R394: in every state in which the notification controller is at its fixed point, a step leaves it there. Model's own choices: log entry 91. -/
def Obligations.EveryStepSettles : Prop := ∀ s t : State, Settled s → step s = .next t → Settled t
end

