-- ==== Sys2Proof/Laws/State.lean ====
section
/-!
SUPPORT. What each named update of the state leaves unchanged: one lemma per field per update.
-/

namespace Sys2Proof.Machine

section
variable (s : State)

/-! `setReg` -/
@[simp] theorem State.setReg_pending (a : Nat) (v : Word) : (s.setReg a v).pending = s.pending := rfl
@[simp] theorem State.setReg_build (a : Nat) (v : Word) : (s.setReg a v).build = s.build := rfl
@[simp] theorem State.setReg_aclk (a : Nat) (v : Word) : (s.setReg a v).aclk = s.aclk := rfl
@[simp] theorem State.setReg_free (a : Nat) (v : Word) : (s.setReg a v).free = s.free := rfl
@[simp] theorem State.setReg_pend (a : Nat) (v : Word) : (s.setReg a v).pend = s.pend := rfl
@[simp] theorem State.setReg_pairs (a : Nat) (v : Word) : (s.setReg a v).pairs = s.pairs := rfl
@[simp] theorem State.setReg_answer (a : Nat) (v : Word) : (s.setReg a v).answer = s.answer := rfl
@[simp] theorem State.setReg_tpAnswer (a : Nat) (v : Word) : (s.setReg a v).tpAnswer = s.tpAnswer := rfl
@[simp] theorem State.setReg_init (a : Nat) (v : Word) : (s.setReg a v).init = s.init := rfl
@[simp] theorem State.setReg_power (a : Nat) (v : Word) : (s.setReg a v).power = s.power := rfl
@[simp] theorem State.setReg_smoke (a : Nat) (v : Word) : (s.setReg a v).smoke = s.smoke := rfl
@[simp] theorem State.setReg_pins (a : Nat) (v : Word) : (s.setReg a v).pins = s.pins := rfl
@[simp] theorem State.setReg_ports (a : Nat) (v : Word) : (s.setReg a v).ports = s.ports := rfl
@[simp] theorem State.setReg_target (a : Nat) (v : Word) : (s.setReg a v).target = s.target := rfl
@[simp] theorem State.setReg_qps (a : Nat) (v : Word) : (s.setReg a v).qps = s.qps := rfl
@[simp] theorem State.setReg_lastQp (a : Nat) (v : Word) : (s.setReg a v).lastQp = s.lastQp := rfl
@[simp] theorem State.setReg_turnOn (a : Nat) (v : Word) : (s.setReg a v).turnOn = s.turnOn := rfl
@[simp] theorem State.setReg_admSeq (a : Nat) (v : Word) : (s.setReg a v).admSeq = s.admSeq := rfl
@[simp] theorem State.setReg_adms (a : Nat) (v : Word) : (s.setReg a v).adms = s.adms := rfl
@[simp] theorem State.setReg_slots (a : Nat) (v : Word) : (s.setReg a v).slots = s.slots := rfl
@[simp] theorem State.setReg_readyNo (a : Nat) (v : Word) : (s.setReg a v).readyNo = s.readyNo := rfl
@[simp] theorem State.setReg_alert (a : Nat) (v : Word) : (s.setReg a v).alert = s.alert := rfl
@[simp] theorem State.setReg_ops (a : Nat) (v : Word) : (s.setReg a v).ops = s.ops := rfl
@[simp] theorem State.setReg_opNo (a : Nat) (v : Word) : (s.setReg a v).opNo = s.opNo := rfl
@[simp] theorem State.setReg_chans (a : Nat) (v : Word) : (s.setReg a v).chans = s.chans := rfl
@[simp] theorem State.setReg_stores (a : Nat) (v : Word) : (s.setReg a v).stores = s.stores := rfl
@[simp] theorem State.setReg_cws (a : Nat) (v : Word) : (s.setReg a v).cws = s.cws := rfl
@[simp] theorem State.setReg_cwNo (a : Nat) (v : Word) : (s.setReg a v).cwNo = s.cwNo := rfl
@[simp] theorem State.setReg_recov (a : Nat) (v : Word) : (s.setReg a v).recov = s.recov := rfl
@[simp] theorem State.setReg_xtsTurn (a : Nat) (v : Word) : (s.setReg a v).xtsTurn = s.xtsTurn := rfl
@[simp] theorem State.setReg_rlv (a : Nat) (v : Word) : (s.setReg a v).rlv = s.rlv := rfl
@[simp] theorem State.setReg_units (a : Nat) (v : Word) : (s.setReg a v).units = s.units := rfl
@[simp] theorem State.setReg_scanCtx (a : Nat) (v : Word) : (s.setReg a v).scanCtx = s.scanCtx := rfl
@[simp] theorem State.setReg_keys (a : Nat) (v : Word) : (s.setReg a v).keys = s.keys := rfl
@[simp] theorem State.setReg_san (a : Nat) (v : Word) : (s.setReg a v).san = s.san := rfl
@[simp] theorem State.setReg_rings (a : Nat) (v : Word) : (s.setReg a v).rings = s.rings := rfl
@[simp] theorem State.setReg_mover (a : Nat) (v : Word) : (s.setReg a v).mover = s.mover := rfl
@[simp] theorem State.setReg_mem (a : Nat) (v : Word) : (s.setReg a v).mem = s.mem := rfl
@[simp] theorem State.setReg_ntf (a : Nat) (v : Word) : (s.setReg a v).ntf = s.ntf := rfl
@[simp] theorem State.setReg_wgl (a : Nat) (v : Word) : (s.setReg a v).wgl = s.wgl := rfl

/-! `setRegN` -/
@[simp] theorem State.setRegN_pending (a n : Nat) : (s.setRegN a n).pending = s.pending := rfl
@[simp] theorem State.setRegN_build (a n : Nat) : (s.setRegN a n).build = s.build := rfl
@[simp] theorem State.setRegN_aclk (a n : Nat) : (s.setRegN a n).aclk = s.aclk := rfl
@[simp] theorem State.setRegN_free (a n : Nat) : (s.setRegN a n).free = s.free := rfl
@[simp] theorem State.setRegN_pend (a n : Nat) : (s.setRegN a n).pend = s.pend := rfl
@[simp] theorem State.setRegN_pairs (a n : Nat) : (s.setRegN a n).pairs = s.pairs := rfl
@[simp] theorem State.setRegN_answer (a n : Nat) : (s.setRegN a n).answer = s.answer := rfl
@[simp] theorem State.setRegN_tpAnswer (a n : Nat) : (s.setRegN a n).tpAnswer = s.tpAnswer := rfl
@[simp] theorem State.setRegN_init (a n : Nat) : (s.setRegN a n).init = s.init := rfl
@[simp] theorem State.setRegN_power (a n : Nat) : (s.setRegN a n).power = s.power := rfl
@[simp] theorem State.setRegN_smoke (a n : Nat) : (s.setRegN a n).smoke = s.smoke := rfl
@[simp] theorem State.setRegN_pins (a n : Nat) : (s.setRegN a n).pins = s.pins := rfl
@[simp] theorem State.setRegN_ports (a n : Nat) : (s.setRegN a n).ports = s.ports := rfl
@[simp] theorem State.setRegN_target (a n : Nat) : (s.setRegN a n).target = s.target := rfl
@[simp] theorem State.setRegN_qps (a n : Nat) : (s.setRegN a n).qps = s.qps := rfl
@[simp] theorem State.setRegN_lastQp (a n : Nat) : (s.setRegN a n).lastQp = s.lastQp := rfl
@[simp] theorem State.setRegN_turnOn (a n : Nat) : (s.setRegN a n).turnOn = s.turnOn := rfl
@[simp] theorem State.setRegN_admSeq (a n : Nat) : (s.setRegN a n).admSeq = s.admSeq := rfl
@[simp] theorem State.setRegN_adms (a n : Nat) : (s.setRegN a n).adms = s.adms := rfl
@[simp] theorem State.setRegN_slots (a n : Nat) : (s.setRegN a n).slots = s.slots := rfl
@[simp] theorem State.setRegN_readyNo (a n : Nat) : (s.setRegN a n).readyNo = s.readyNo := rfl
@[simp] theorem State.setRegN_alert (a n : Nat) : (s.setRegN a n).alert = s.alert := rfl
@[simp] theorem State.setRegN_ops (a n : Nat) : (s.setRegN a n).ops = s.ops := rfl
@[simp] theorem State.setRegN_opNo (a n : Nat) : (s.setRegN a n).opNo = s.opNo := rfl
@[simp] theorem State.setRegN_chans (a n : Nat) : (s.setRegN a n).chans = s.chans := rfl
@[simp] theorem State.setRegN_stores (a n : Nat) : (s.setRegN a n).stores = s.stores := rfl
@[simp] theorem State.setRegN_cws (a n : Nat) : (s.setRegN a n).cws = s.cws := rfl
@[simp] theorem State.setRegN_cwNo (a n : Nat) : (s.setRegN a n).cwNo = s.cwNo := rfl
@[simp] theorem State.setRegN_recov (a n : Nat) : (s.setRegN a n).recov = s.recov := rfl
@[simp] theorem State.setRegN_xtsTurn (a n : Nat) : (s.setRegN a n).xtsTurn = s.xtsTurn := rfl
@[simp] theorem State.setRegN_rlv (a n : Nat) : (s.setRegN a n).rlv = s.rlv := rfl
@[simp] theorem State.setRegN_units (a n : Nat) : (s.setRegN a n).units = s.units := rfl
@[simp] theorem State.setRegN_scanCtx (a n : Nat) : (s.setRegN a n).scanCtx = s.scanCtx := rfl
@[simp] theorem State.setRegN_keys (a n : Nat) : (s.setRegN a n).keys = s.keys := rfl
@[simp] theorem State.setRegN_san (a n : Nat) : (s.setRegN a n).san = s.san := rfl
@[simp] theorem State.setRegN_rings (a n : Nat) : (s.setRegN a n).rings = s.rings := rfl
@[simp] theorem State.setRegN_mover (a n : Nat) : (s.setRegN a n).mover = s.mover := rfl
@[simp] theorem State.setRegN_mem (a n : Nat) : (s.setRegN a n).mem = s.mem := rfl
@[simp] theorem State.setRegN_ntf (a n : Nat) : (s.setRegN a n).ntf = s.ntf := rfl
@[simp] theorem State.setRegN_wgl (a n : Nat) : (s.setRegN a n).wgl = s.wgl := rfl

/-! `setFldOf` -/
@[simp] theorem State.setFldOf_pending (a lo w n : Nat) : (s.setFldOf a lo w n).pending = s.pending := rfl
@[simp] theorem State.setFldOf_build (a lo w n : Nat) : (s.setFldOf a lo w n).build = s.build := rfl
@[simp] theorem State.setFldOf_aclk (a lo w n : Nat) : (s.setFldOf a lo w n).aclk = s.aclk := rfl
@[simp] theorem State.setFldOf_free (a lo w n : Nat) : (s.setFldOf a lo w n).free = s.free := rfl
@[simp] theorem State.setFldOf_pend (a lo w n : Nat) : (s.setFldOf a lo w n).pend = s.pend := rfl
@[simp] theorem State.setFldOf_pairs (a lo w n : Nat) : (s.setFldOf a lo w n).pairs = s.pairs := rfl
@[simp] theorem State.setFldOf_answer (a lo w n : Nat) : (s.setFldOf a lo w n).answer = s.answer := rfl
@[simp] theorem State.setFldOf_tpAnswer (a lo w n : Nat) : (s.setFldOf a lo w n).tpAnswer = s.tpAnswer := rfl
@[simp] theorem State.setFldOf_init (a lo w n : Nat) : (s.setFldOf a lo w n).init = s.init := rfl
@[simp] theorem State.setFldOf_power (a lo w n : Nat) : (s.setFldOf a lo w n).power = s.power := rfl
@[simp] theorem State.setFldOf_smoke (a lo w n : Nat) : (s.setFldOf a lo w n).smoke = s.smoke := rfl
@[simp] theorem State.setFldOf_pins (a lo w n : Nat) : (s.setFldOf a lo w n).pins = s.pins := rfl
@[simp] theorem State.setFldOf_ports (a lo w n : Nat) : (s.setFldOf a lo w n).ports = s.ports := rfl
@[simp] theorem State.setFldOf_target (a lo w n : Nat) : (s.setFldOf a lo w n).target = s.target := rfl
@[simp] theorem State.setFldOf_qps (a lo w n : Nat) : (s.setFldOf a lo w n).qps = s.qps := rfl
@[simp] theorem State.setFldOf_lastQp (a lo w n : Nat) : (s.setFldOf a lo w n).lastQp = s.lastQp := rfl
@[simp] theorem State.setFldOf_turnOn (a lo w n : Nat) : (s.setFldOf a lo w n).turnOn = s.turnOn := rfl
@[simp] theorem State.setFldOf_admSeq (a lo w n : Nat) : (s.setFldOf a lo w n).admSeq = s.admSeq := rfl
@[simp] theorem State.setFldOf_adms (a lo w n : Nat) : (s.setFldOf a lo w n).adms = s.adms := rfl
@[simp] theorem State.setFldOf_slots (a lo w n : Nat) : (s.setFldOf a lo w n).slots = s.slots := rfl
@[simp] theorem State.setFldOf_readyNo (a lo w n : Nat) : (s.setFldOf a lo w n).readyNo = s.readyNo := rfl
@[simp] theorem State.setFldOf_alert (a lo w n : Nat) : (s.setFldOf a lo w n).alert = s.alert := rfl
@[simp] theorem State.setFldOf_ops (a lo w n : Nat) : (s.setFldOf a lo w n).ops = s.ops := rfl
@[simp] theorem State.setFldOf_opNo (a lo w n : Nat) : (s.setFldOf a lo w n).opNo = s.opNo := rfl
@[simp] theorem State.setFldOf_chans (a lo w n : Nat) : (s.setFldOf a lo w n).chans = s.chans := rfl
@[simp] theorem State.setFldOf_stores (a lo w n : Nat) : (s.setFldOf a lo w n).stores = s.stores := rfl
@[simp] theorem State.setFldOf_cws (a lo w n : Nat) : (s.setFldOf a lo w n).cws = s.cws := rfl
@[simp] theorem State.setFldOf_cwNo (a lo w n : Nat) : (s.setFldOf a lo w n).cwNo = s.cwNo := rfl
@[simp] theorem State.setFldOf_recov (a lo w n : Nat) : (s.setFldOf a lo w n).recov = s.recov := rfl
@[simp] theorem State.setFldOf_xtsTurn (a lo w n : Nat) : (s.setFldOf a lo w n).xtsTurn = s.xtsTurn := rfl
@[simp] theorem State.setFldOf_rlv (a lo w n : Nat) : (s.setFldOf a lo w n).rlv = s.rlv := rfl
@[simp] theorem State.setFldOf_units (a lo w n : Nat) : (s.setFldOf a lo w n).units = s.units := rfl
@[simp] theorem State.setFldOf_scanCtx (a lo w n : Nat) : (s.setFldOf a lo w n).scanCtx = s.scanCtx := rfl
@[simp] theorem State.setFldOf_keys (a lo w n : Nat) : (s.setFldOf a lo w n).keys = s.keys := rfl
@[simp] theorem State.setFldOf_san (a lo w n : Nat) : (s.setFldOf a lo w n).san = s.san := rfl
@[simp] theorem State.setFldOf_rings (a lo w n : Nat) : (s.setFldOf a lo w n).rings = s.rings := rfl
@[simp] theorem State.setFldOf_mover (a lo w n : Nat) : (s.setFldOf a lo w n).mover = s.mover := rfl
@[simp] theorem State.setFldOf_mem (a lo w n : Nat) : (s.setFldOf a lo w n).mem = s.mem := rfl
@[simp] theorem State.setFldOf_ntf (a lo w n : Nat) : (s.setFldOf a lo w n).ntf = s.ntf := rfl
@[simp] theorem State.setFldOf_wgl (a lo w n : Nat) : (s.setFldOf a lo w n).wgl = s.wgl := rfl

/-! `bump` -/
@[simp] theorem State.bump_pending (a n : Nat) : (s.bump a n).pending = s.pending := rfl
@[simp] theorem State.bump_build (a n : Nat) : (s.bump a n).build = s.build := rfl
@[simp] theorem State.bump_aclk (a n : Nat) : (s.bump a n).aclk = s.aclk := rfl
@[simp] theorem State.bump_free (a n : Nat) : (s.bump a n).free = s.free := rfl
@[simp] theorem State.bump_pend (a n : Nat) : (s.bump a n).pend = s.pend := rfl
@[simp] theorem State.bump_pairs (a n : Nat) : (s.bump a n).pairs = s.pairs := rfl
@[simp] theorem State.bump_answer (a n : Nat) : (s.bump a n).answer = s.answer := rfl
@[simp] theorem State.bump_tpAnswer (a n : Nat) : (s.bump a n).tpAnswer = s.tpAnswer := rfl
@[simp] theorem State.bump_init (a n : Nat) : (s.bump a n).init = s.init := rfl
@[simp] theorem State.bump_power (a n : Nat) : (s.bump a n).power = s.power := rfl
@[simp] theorem State.bump_smoke (a n : Nat) : (s.bump a n).smoke = s.smoke := rfl
@[simp] theorem State.bump_pins (a n : Nat) : (s.bump a n).pins = s.pins := rfl
@[simp] theorem State.bump_ports (a n : Nat) : (s.bump a n).ports = s.ports := rfl
@[simp] theorem State.bump_target (a n : Nat) : (s.bump a n).target = s.target := rfl
@[simp] theorem State.bump_qps (a n : Nat) : (s.bump a n).qps = s.qps := rfl
@[simp] theorem State.bump_lastQp (a n : Nat) : (s.bump a n).lastQp = s.lastQp := rfl
@[simp] theorem State.bump_turnOn (a n : Nat) : (s.bump a n).turnOn = s.turnOn := rfl
@[simp] theorem State.bump_admSeq (a n : Nat) : (s.bump a n).admSeq = s.admSeq := rfl
@[simp] theorem State.bump_adms (a n : Nat) : (s.bump a n).adms = s.adms := rfl
@[simp] theorem State.bump_slots (a n : Nat) : (s.bump a n).slots = s.slots := rfl
@[simp] theorem State.bump_readyNo (a n : Nat) : (s.bump a n).readyNo = s.readyNo := rfl
@[simp] theorem State.bump_alert (a n : Nat) : (s.bump a n).alert = s.alert := rfl
@[simp] theorem State.bump_ops (a n : Nat) : (s.bump a n).ops = s.ops := rfl
@[simp] theorem State.bump_opNo (a n : Nat) : (s.bump a n).opNo = s.opNo := rfl
@[simp] theorem State.bump_chans (a n : Nat) : (s.bump a n).chans = s.chans := rfl
@[simp] theorem State.bump_stores (a n : Nat) : (s.bump a n).stores = s.stores := rfl
@[simp] theorem State.bump_cws (a n : Nat) : (s.bump a n).cws = s.cws := rfl
@[simp] theorem State.bump_cwNo (a n : Nat) : (s.bump a n).cwNo = s.cwNo := rfl
@[simp] theorem State.bump_recov (a n : Nat) : (s.bump a n).recov = s.recov := rfl
@[simp] theorem State.bump_xtsTurn (a n : Nat) : (s.bump a n).xtsTurn = s.xtsTurn := rfl
@[simp] theorem State.bump_rlv (a n : Nat) : (s.bump a n).rlv = s.rlv := rfl
@[simp] theorem State.bump_units (a n : Nat) : (s.bump a n).units = s.units := rfl
@[simp] theorem State.bump_scanCtx (a n : Nat) : (s.bump a n).scanCtx = s.scanCtx := rfl
@[simp] theorem State.bump_keys (a n : Nat) : (s.bump a n).keys = s.keys := rfl
@[simp] theorem State.bump_san (a n : Nat) : (s.bump a n).san = s.san := rfl
@[simp] theorem State.bump_rings (a n : Nat) : (s.bump a n).rings = s.rings := rfl
@[simp] theorem State.bump_mover (a n : Nat) : (s.bump a n).mover = s.mover := rfl
@[simp] theorem State.bump_mem (a n : Nat) : (s.bump a n).mem = s.mem := rfl
@[simp] theorem State.bump_ntf (a n : Nat) : (s.bump a n).ntf = s.ntf := rfl
@[simp] theorem State.bump_wgl (a n : Nat) : (s.bump a n).wgl = s.wgl := rfl

/-! `bumpWrap` -/
@[simp] theorem State.bumpWrap_pending (a n : Nat) : (s.bumpWrap a n).pending = s.pending := rfl
@[simp] theorem State.bumpWrap_build (a n : Nat) : (s.bumpWrap a n).build = s.build := rfl
@[simp] theorem State.bumpWrap_aclk (a n : Nat) : (s.bumpWrap a n).aclk = s.aclk := rfl
@[simp] theorem State.bumpWrap_free (a n : Nat) : (s.bumpWrap a n).free = s.free := rfl
@[simp] theorem State.bumpWrap_pend (a n : Nat) : (s.bumpWrap a n).pend = s.pend := rfl
@[simp] theorem State.bumpWrap_pairs (a n : Nat) : (s.bumpWrap a n).pairs = s.pairs := rfl
@[simp] theorem State.bumpWrap_answer (a n : Nat) : (s.bumpWrap a n).answer = s.answer := rfl
@[simp] theorem State.bumpWrap_tpAnswer (a n : Nat) : (s.bumpWrap a n).tpAnswer = s.tpAnswer := rfl
@[simp] theorem State.bumpWrap_init (a n : Nat) : (s.bumpWrap a n).init = s.init := rfl
@[simp] theorem State.bumpWrap_power (a n : Nat) : (s.bumpWrap a n).power = s.power := rfl
@[simp] theorem State.bumpWrap_smoke (a n : Nat) : (s.bumpWrap a n).smoke = s.smoke := rfl
@[simp] theorem State.bumpWrap_pins (a n : Nat) : (s.bumpWrap a n).pins = s.pins := rfl
@[simp] theorem State.bumpWrap_ports (a n : Nat) : (s.bumpWrap a n).ports = s.ports := rfl
@[simp] theorem State.bumpWrap_target (a n : Nat) : (s.bumpWrap a n).target = s.target := rfl
@[simp] theorem State.bumpWrap_qps (a n : Nat) : (s.bumpWrap a n).qps = s.qps := rfl
@[simp] theorem State.bumpWrap_lastQp (a n : Nat) : (s.bumpWrap a n).lastQp = s.lastQp := rfl
@[simp] theorem State.bumpWrap_turnOn (a n : Nat) : (s.bumpWrap a n).turnOn = s.turnOn := rfl
@[simp] theorem State.bumpWrap_admSeq (a n : Nat) : (s.bumpWrap a n).admSeq = s.admSeq := rfl
@[simp] theorem State.bumpWrap_adms (a n : Nat) : (s.bumpWrap a n).adms = s.adms := rfl
@[simp] theorem State.bumpWrap_slots (a n : Nat) : (s.bumpWrap a n).slots = s.slots := rfl
@[simp] theorem State.bumpWrap_readyNo (a n : Nat) : (s.bumpWrap a n).readyNo = s.readyNo := rfl
@[simp] theorem State.bumpWrap_alert (a n : Nat) : (s.bumpWrap a n).alert = s.alert := rfl
@[simp] theorem State.bumpWrap_ops (a n : Nat) : (s.bumpWrap a n).ops = s.ops := rfl
@[simp] theorem State.bumpWrap_opNo (a n : Nat) : (s.bumpWrap a n).opNo = s.opNo := rfl
@[simp] theorem State.bumpWrap_chans (a n : Nat) : (s.bumpWrap a n).chans = s.chans := rfl
@[simp] theorem State.bumpWrap_stores (a n : Nat) : (s.bumpWrap a n).stores = s.stores := rfl
@[simp] theorem State.bumpWrap_cws (a n : Nat) : (s.bumpWrap a n).cws = s.cws := rfl
@[simp] theorem State.bumpWrap_cwNo (a n : Nat) : (s.bumpWrap a n).cwNo = s.cwNo := rfl
@[simp] theorem State.bumpWrap_recov (a n : Nat) : (s.bumpWrap a n).recov = s.recov := rfl
@[simp] theorem State.bumpWrap_xtsTurn (a n : Nat) : (s.bumpWrap a n).xtsTurn = s.xtsTurn := rfl
@[simp] theorem State.bumpWrap_rlv (a n : Nat) : (s.bumpWrap a n).rlv = s.rlv := rfl
@[simp] theorem State.bumpWrap_units (a n : Nat) : (s.bumpWrap a n).units = s.units := rfl
@[simp] theorem State.bumpWrap_scanCtx (a n : Nat) : (s.bumpWrap a n).scanCtx = s.scanCtx := rfl
@[simp] theorem State.bumpWrap_keys (a n : Nat) : (s.bumpWrap a n).keys = s.keys := rfl
@[simp] theorem State.bumpWrap_san (a n : Nat) : (s.bumpWrap a n).san = s.san := rfl
@[simp] theorem State.bumpWrap_rings (a n : Nat) : (s.bumpWrap a n).rings = s.rings := rfl
@[simp] theorem State.bumpWrap_mover (a n : Nat) : (s.bumpWrap a n).mover = s.mover := rfl
@[simp] theorem State.bumpWrap_mem (a n : Nat) : (s.bumpWrap a n).mem = s.mem := rfl
@[simp] theorem State.bumpWrap_ntf (a n : Nat) : (s.bumpWrap a n).ntf = s.ntf := rfl
@[simp] theorem State.bumpWrap_wgl (a n : Nat) : (s.bumpWrap a n).wgl = s.wgl := rfl

/-! `useFree` -/
@[simp] theorem State.useFree_pending (n : Nat) : (s.useFree n).pending = s.pending := rfl
@[simp] theorem State.useFree_build (n : Nat) : (s.useFree n).build = s.build := rfl
@[simp] theorem State.useFree_aclk (n : Nat) : (s.useFree n).aclk = s.aclk := rfl
@[simp] theorem State.useFree_regs (n : Nat) : (s.useFree n).regs = s.regs := rfl
@[simp] theorem State.useFree_pend (n : Nat) : (s.useFree n).pend = s.pend := rfl
@[simp] theorem State.useFree_pairs (n : Nat) : (s.useFree n).pairs = s.pairs := rfl
@[simp] theorem State.useFree_answer (n : Nat) : (s.useFree n).answer = s.answer := rfl
@[simp] theorem State.useFree_tpAnswer (n : Nat) : (s.useFree n).tpAnswer = s.tpAnswer := rfl
@[simp] theorem State.useFree_init (n : Nat) : (s.useFree n).init = s.init := rfl
@[simp] theorem State.useFree_power (n : Nat) : (s.useFree n).power = s.power := rfl
@[simp] theorem State.useFree_smoke (n : Nat) : (s.useFree n).smoke = s.smoke := rfl
@[simp] theorem State.useFree_pins (n : Nat) : (s.useFree n).pins = s.pins := rfl
@[simp] theorem State.useFree_ports (n : Nat) : (s.useFree n).ports = s.ports := rfl
@[simp] theorem State.useFree_target (n : Nat) : (s.useFree n).target = s.target := rfl
@[simp] theorem State.useFree_qps (n : Nat) : (s.useFree n).qps = s.qps := rfl
@[simp] theorem State.useFree_lastQp (n : Nat) : (s.useFree n).lastQp = s.lastQp := rfl
@[simp] theorem State.useFree_turnOn (n : Nat) : (s.useFree n).turnOn = s.turnOn := rfl
@[simp] theorem State.useFree_admSeq (n : Nat) : (s.useFree n).admSeq = s.admSeq := rfl
@[simp] theorem State.useFree_adms (n : Nat) : (s.useFree n).adms = s.adms := rfl
@[simp] theorem State.useFree_slots (n : Nat) : (s.useFree n).slots = s.slots := rfl
@[simp] theorem State.useFree_readyNo (n : Nat) : (s.useFree n).readyNo = s.readyNo := rfl
@[simp] theorem State.useFree_alert (n : Nat) : (s.useFree n).alert = s.alert := rfl
@[simp] theorem State.useFree_ops (n : Nat) : (s.useFree n).ops = s.ops := rfl
@[simp] theorem State.useFree_opNo (n : Nat) : (s.useFree n).opNo = s.opNo := rfl
@[simp] theorem State.useFree_chans (n : Nat) : (s.useFree n).chans = s.chans := rfl
@[simp] theorem State.useFree_stores (n : Nat) : (s.useFree n).stores = s.stores := rfl
@[simp] theorem State.useFree_cws (n : Nat) : (s.useFree n).cws = s.cws := rfl
@[simp] theorem State.useFree_cwNo (n : Nat) : (s.useFree n).cwNo = s.cwNo := rfl
@[simp] theorem State.useFree_recov (n : Nat) : (s.useFree n).recov = s.recov := rfl
@[simp] theorem State.useFree_xtsTurn (n : Nat) : (s.useFree n).xtsTurn = s.xtsTurn := rfl
@[simp] theorem State.useFree_rlv (n : Nat) : (s.useFree n).rlv = s.rlv := rfl
@[simp] theorem State.useFree_units (n : Nat) : (s.useFree n).units = s.units := rfl
@[simp] theorem State.useFree_scanCtx (n : Nat) : (s.useFree n).scanCtx = s.scanCtx := rfl
@[simp] theorem State.useFree_keys (n : Nat) : (s.useFree n).keys = s.keys := rfl
@[simp] theorem State.useFree_san (n : Nat) : (s.useFree n).san = s.san := rfl
@[simp] theorem State.useFree_rings (n : Nat) : (s.useFree n).rings = s.rings := rfl
@[simp] theorem State.useFree_mover (n : Nat) : (s.useFree n).mover = s.mover := rfl
@[simp] theorem State.useFree_mem (n : Nat) : (s.useFree n).mem = s.mem := rfl
@[simp] theorem State.useFree_ntf (n : Nat) : (s.useFree n).ntf = s.ntf := rfl
@[simp] theorem State.useFree_wgl (n : Nat) : (s.useFree n).wgl = s.wgl := rfl

/-! `setChan` -/
@[simp] theorem State.setChan_pending (c : Chan) : (s.setChan c).pending = s.pending := rfl
@[simp] theorem State.setChan_build (c : Chan) : (s.setChan c).build = s.build := rfl
@[simp] theorem State.setChan_aclk (c : Chan) : (s.setChan c).aclk = s.aclk := rfl
@[simp] theorem State.setChan_free (c : Chan) : (s.setChan c).free = s.free := rfl
@[simp] theorem State.setChan_regs (c : Chan) : (s.setChan c).regs = s.regs := rfl
@[simp] theorem State.setChan_pend (c : Chan) : (s.setChan c).pend = s.pend := rfl
@[simp] theorem State.setChan_pairs (c : Chan) : (s.setChan c).pairs = s.pairs := rfl
@[simp] theorem State.setChan_answer (c : Chan) : (s.setChan c).answer = s.answer := rfl
@[simp] theorem State.setChan_tpAnswer (c : Chan) : (s.setChan c).tpAnswer = s.tpAnswer := rfl
@[simp] theorem State.setChan_init (c : Chan) : (s.setChan c).init = s.init := rfl
@[simp] theorem State.setChan_power (c : Chan) : (s.setChan c).power = s.power := rfl
@[simp] theorem State.setChan_smoke (c : Chan) : (s.setChan c).smoke = s.smoke := rfl
@[simp] theorem State.setChan_pins (c : Chan) : (s.setChan c).pins = s.pins := rfl
@[simp] theorem State.setChan_ports (c : Chan) : (s.setChan c).ports = s.ports := rfl
@[simp] theorem State.setChan_target (c : Chan) : (s.setChan c).target = s.target := rfl
@[simp] theorem State.setChan_qps (c : Chan) : (s.setChan c).qps = s.qps := rfl
@[simp] theorem State.setChan_lastQp (c : Chan) : (s.setChan c).lastQp = s.lastQp := rfl
@[simp] theorem State.setChan_turnOn (c : Chan) : (s.setChan c).turnOn = s.turnOn := rfl
@[simp] theorem State.setChan_admSeq (c : Chan) : (s.setChan c).admSeq = s.admSeq := rfl
@[simp] theorem State.setChan_adms (c : Chan) : (s.setChan c).adms = s.adms := rfl
@[simp] theorem State.setChan_slots (c : Chan) : (s.setChan c).slots = s.slots := rfl
@[simp] theorem State.setChan_readyNo (c : Chan) : (s.setChan c).readyNo = s.readyNo := rfl
@[simp] theorem State.setChan_alert (c : Chan) : (s.setChan c).alert = s.alert := rfl
@[simp] theorem State.setChan_ops (c : Chan) : (s.setChan c).ops = s.ops := rfl
@[simp] theorem State.setChan_opNo (c : Chan) : (s.setChan c).opNo = s.opNo := rfl
@[simp] theorem State.setChan_stores (c : Chan) : (s.setChan c).stores = s.stores := rfl
@[simp] theorem State.setChan_cws (c : Chan) : (s.setChan c).cws = s.cws := rfl
@[simp] theorem State.setChan_cwNo (c : Chan) : (s.setChan c).cwNo = s.cwNo := rfl
@[simp] theorem State.setChan_recov (c : Chan) : (s.setChan c).recov = s.recov := rfl
@[simp] theorem State.setChan_xtsTurn (c : Chan) : (s.setChan c).xtsTurn = s.xtsTurn := rfl
@[simp] theorem State.setChan_rlv (c : Chan) : (s.setChan c).rlv = s.rlv := rfl
@[simp] theorem State.setChan_units (c : Chan) : (s.setChan c).units = s.units := rfl
@[simp] theorem State.setChan_scanCtx (c : Chan) : (s.setChan c).scanCtx = s.scanCtx := rfl
@[simp] theorem State.setChan_keys (c : Chan) : (s.setChan c).keys = s.keys := rfl
@[simp] theorem State.setChan_san (c : Chan) : (s.setChan c).san = s.san := rfl
@[simp] theorem State.setChan_rings (c : Chan) : (s.setChan c).rings = s.rings := rfl
@[simp] theorem State.setChan_mover (c : Chan) : (s.setChan c).mover = s.mover := rfl
@[simp] theorem State.setChan_mem (c : Chan) : (s.setChan c).mem = s.mem := rfl
@[simp] theorem State.setChan_ntf (c : Chan) : (s.setChan c).ntf = s.ntf := rfl
@[simp] theorem State.setChan_wgl (c : Chan) : (s.setChan c).wgl = s.wgl := rfl

/-! `updChan` -/
@[simp] theorem State.updChan_pending (ch : Nat) (f : Chan → Chan) : (s.updChan ch f).pending = s.pending := rfl
@[simp] theorem State.updChan_build (ch : Nat) (f : Chan → Chan) : (s.updChan ch f).build = s.build := rfl
@[simp] theorem State.updChan_aclk (ch : Nat) (f : Chan → Chan) : (s.updChan ch f).aclk = s.aclk := rfl
@[simp] theorem State.updChan_free (ch : Nat) (f : Chan → Chan) : (s.updChan ch f).free = s.free := rfl
@[simp] theorem State.updChan_regs (ch : Nat) (f : Chan → Chan) : (s.updChan ch f).regs = s.regs := rfl
@[simp] theorem State.updChan_pend (ch : Nat) (f : Chan → Chan) : (s.updChan ch f).pend = s.pend := rfl
@[simp] theorem State.updChan_pairs (ch : Nat) (f : Chan → Chan) : (s.updChan ch f).pairs = s.pairs := rfl
@[simp] theorem State.updChan_answer (ch : Nat) (f : Chan → Chan) : (s.updChan ch f).answer = s.answer := rfl
@[simp] theorem State.updChan_tpAnswer (ch : Nat) (f : Chan → Chan) : (s.updChan ch f).tpAnswer = s.tpAnswer := rfl
@[simp] theorem State.updChan_init (ch : Nat) (f : Chan → Chan) : (s.updChan ch f).init = s.init := rfl
@[simp] theorem State.updChan_power (ch : Nat) (f : Chan → Chan) : (s.updChan ch f).power = s.power := rfl
@[simp] theorem State.updChan_smoke (ch : Nat) (f : Chan → Chan) : (s.updChan ch f).smoke = s.smoke := rfl
@[simp] theorem State.updChan_pins (ch : Nat) (f : Chan → Chan) : (s.updChan ch f).pins = s.pins := rfl
@[simp] theorem State.updChan_ports (ch : Nat) (f : Chan → Chan) : (s.updChan ch f).ports = s.ports := rfl
@[simp] theorem State.updChan_target (ch : Nat) (f : Chan → Chan) : (s.updChan ch f).target = s.target := rfl
@[simp] theorem State.updChan_qps (ch : Nat) (f : Chan → Chan) : (s.updChan ch f).qps = s.qps := rfl
@[simp] theorem State.updChan_lastQp (ch : Nat) (f : Chan → Chan) : (s.updChan ch f).lastQp = s.lastQp := rfl
@[simp] theorem State.updChan_turnOn (ch : Nat) (f : Chan → Chan) : (s.updChan ch f).turnOn = s.turnOn := rfl
@[simp] theorem State.updChan_admSeq (ch : Nat) (f : Chan → Chan) : (s.updChan ch f).admSeq = s.admSeq := rfl
@[simp] theorem State.updChan_adms (ch : Nat) (f : Chan → Chan) : (s.updChan ch f).adms = s.adms := rfl
@[simp] theorem State.updChan_slots (ch : Nat) (f : Chan → Chan) : (s.updChan ch f).slots = s.slots := rfl
@[simp] theorem State.updChan_readyNo (ch : Nat) (f : Chan → Chan) : (s.updChan ch f).readyNo = s.readyNo := rfl
@[simp] theorem State.updChan_alert (ch : Nat) (f : Chan → Chan) : (s.updChan ch f).alert = s.alert := rfl
@[simp] theorem State.updChan_ops (ch : Nat) (f : Chan → Chan) : (s.updChan ch f).ops = s.ops := rfl
@[simp] theorem State.updChan_opNo (ch : Nat) (f : Chan → Chan) : (s.updChan ch f).opNo = s.opNo := rfl
@[simp] theorem State.updChan_stores (ch : Nat) (f : Chan → Chan) : (s.updChan ch f).stores = s.stores := rfl
@[simp] theorem State.updChan_cws (ch : Nat) (f : Chan → Chan) : (s.updChan ch f).cws = s.cws := rfl
@[simp] theorem State.updChan_cwNo (ch : Nat) (f : Chan → Chan) : (s.updChan ch f).cwNo = s.cwNo := rfl
@[simp] theorem State.updChan_recov (ch : Nat) (f : Chan → Chan) : (s.updChan ch f).recov = s.recov := rfl
@[simp] theorem State.updChan_xtsTurn (ch : Nat) (f : Chan → Chan) : (s.updChan ch f).xtsTurn = s.xtsTurn := rfl
@[simp] theorem State.updChan_rlv (ch : Nat) (f : Chan → Chan) : (s.updChan ch f).rlv = s.rlv := rfl
@[simp] theorem State.updChan_units (ch : Nat) (f : Chan → Chan) : (s.updChan ch f).units = s.units := rfl
@[simp] theorem State.updChan_scanCtx (ch : Nat) (f : Chan → Chan) : (s.updChan ch f).scanCtx = s.scanCtx := rfl
@[simp] theorem State.updChan_keys (ch : Nat) (f : Chan → Chan) : (s.updChan ch f).keys = s.keys := rfl
@[simp] theorem State.updChan_san (ch : Nat) (f : Chan → Chan) : (s.updChan ch f).san = s.san := rfl
@[simp] theorem State.updChan_rings (ch : Nat) (f : Chan → Chan) : (s.updChan ch f).rings = s.rings := rfl
@[simp] theorem State.updChan_mover (ch : Nat) (f : Chan → Chan) : (s.updChan ch f).mover = s.mover := rfl
@[simp] theorem State.updChan_mem (ch : Nat) (f : Chan → Chan) : (s.updChan ch f).mem = s.mem := rfl
@[simp] theorem State.updChan_ntf (ch : Nat) (f : Chan → Chan) : (s.updChan ch f).ntf = s.ntf := rfl
@[simp] theorem State.updChan_wgl (ch : Nat) (f : Chan → Chan) : (s.updChan ch f).wgl = s.wgl := rfl

/-! `setSlot` -/
@[simp] theorem State.setSlot_pending (x : Slot) : (s.setSlot x).pending = s.pending := rfl
@[simp] theorem State.setSlot_build (x : Slot) : (s.setSlot x).build = s.build := rfl
@[simp] theorem State.setSlot_aclk (x : Slot) : (s.setSlot x).aclk = s.aclk := rfl
@[simp] theorem State.setSlot_free (x : Slot) : (s.setSlot x).free = s.free := rfl
@[simp] theorem State.setSlot_regs (x : Slot) : (s.setSlot x).regs = s.regs := rfl
@[simp] theorem State.setSlot_pend (x : Slot) : (s.setSlot x).pend = s.pend := rfl
@[simp] theorem State.setSlot_pairs (x : Slot) : (s.setSlot x).pairs = s.pairs := rfl
@[simp] theorem State.setSlot_answer (x : Slot) : (s.setSlot x).answer = s.answer := rfl
@[simp] theorem State.setSlot_tpAnswer (x : Slot) : (s.setSlot x).tpAnswer = s.tpAnswer := rfl
@[simp] theorem State.setSlot_init (x : Slot) : (s.setSlot x).init = s.init := rfl
@[simp] theorem State.setSlot_power (x : Slot) : (s.setSlot x).power = s.power := rfl
@[simp] theorem State.setSlot_smoke (x : Slot) : (s.setSlot x).smoke = s.smoke := rfl
@[simp] theorem State.setSlot_pins (x : Slot) : (s.setSlot x).pins = s.pins := rfl
@[simp] theorem State.setSlot_ports (x : Slot) : (s.setSlot x).ports = s.ports := rfl
@[simp] theorem State.setSlot_target (x : Slot) : (s.setSlot x).target = s.target := rfl
@[simp] theorem State.setSlot_qps (x : Slot) : (s.setSlot x).qps = s.qps := rfl
@[simp] theorem State.setSlot_lastQp (x : Slot) : (s.setSlot x).lastQp = s.lastQp := rfl
@[simp] theorem State.setSlot_turnOn (x : Slot) : (s.setSlot x).turnOn = s.turnOn := rfl
@[simp] theorem State.setSlot_admSeq (x : Slot) : (s.setSlot x).admSeq = s.admSeq := rfl
@[simp] theorem State.setSlot_adms (x : Slot) : (s.setSlot x).adms = s.adms := rfl
@[simp] theorem State.setSlot_readyNo (x : Slot) : (s.setSlot x).readyNo = s.readyNo := rfl
@[simp] theorem State.setSlot_alert (x : Slot) : (s.setSlot x).alert = s.alert := rfl
@[simp] theorem State.setSlot_ops (x : Slot) : (s.setSlot x).ops = s.ops := rfl
@[simp] theorem State.setSlot_opNo (x : Slot) : (s.setSlot x).opNo = s.opNo := rfl
@[simp] theorem State.setSlot_chans (x : Slot) : (s.setSlot x).chans = s.chans := rfl
@[simp] theorem State.setSlot_stores (x : Slot) : (s.setSlot x).stores = s.stores := rfl
@[simp] theorem State.setSlot_cws (x : Slot) : (s.setSlot x).cws = s.cws := rfl
@[simp] theorem State.setSlot_cwNo (x : Slot) : (s.setSlot x).cwNo = s.cwNo := rfl
@[simp] theorem State.setSlot_recov (x : Slot) : (s.setSlot x).recov = s.recov := rfl
@[simp] theorem State.setSlot_xtsTurn (x : Slot) : (s.setSlot x).xtsTurn = s.xtsTurn := rfl
@[simp] theorem State.setSlot_rlv (x : Slot) : (s.setSlot x).rlv = s.rlv := rfl
@[simp] theorem State.setSlot_units (x : Slot) : (s.setSlot x).units = s.units := rfl
@[simp] theorem State.setSlot_scanCtx (x : Slot) : (s.setSlot x).scanCtx = s.scanCtx := rfl
@[simp] theorem State.setSlot_keys (x : Slot) : (s.setSlot x).keys = s.keys := rfl
@[simp] theorem State.setSlot_san (x : Slot) : (s.setSlot x).san = s.san := rfl
@[simp] theorem State.setSlot_rings (x : Slot) : (s.setSlot x).rings = s.rings := rfl
@[simp] theorem State.setSlot_mover (x : Slot) : (s.setSlot x).mover = s.mover := rfl
@[simp] theorem State.setSlot_mem (x : Slot) : (s.setSlot x).mem = s.mem := rfl
@[simp] theorem State.setSlot_ntf (x : Slot) : (s.setSlot x).ntf = s.ntf := rfl
@[simp] theorem State.setSlot_wgl (x : Slot) : (s.setSlot x).wgl = s.wgl := rfl

/-! `updSlot` -/
@[simp] theorem State.updSlot_pending (n : Nat) (f : Slot → Slot) : (s.updSlot n f).pending = s.pending := rfl
@[simp] theorem State.updSlot_build (n : Nat) (f : Slot → Slot) : (s.updSlot n f).build = s.build := rfl
@[simp] theorem State.updSlot_aclk (n : Nat) (f : Slot → Slot) : (s.updSlot n f).aclk = s.aclk := rfl
@[simp] theorem State.updSlot_free (n : Nat) (f : Slot → Slot) : (s.updSlot n f).free = s.free := rfl
@[simp] theorem State.updSlot_regs (n : Nat) (f : Slot → Slot) : (s.updSlot n f).regs = s.regs := rfl
@[simp] theorem State.updSlot_pend (n : Nat) (f : Slot → Slot) : (s.updSlot n f).pend = s.pend := rfl
@[simp] theorem State.updSlot_pairs (n : Nat) (f : Slot → Slot) : (s.updSlot n f).pairs = s.pairs := rfl
@[simp] theorem State.updSlot_answer (n : Nat) (f : Slot → Slot) : (s.updSlot n f).answer = s.answer := rfl
@[simp] theorem State.updSlot_tpAnswer (n : Nat) (f : Slot → Slot) : (s.updSlot n f).tpAnswer = s.tpAnswer := rfl
@[simp] theorem State.updSlot_init (n : Nat) (f : Slot → Slot) : (s.updSlot n f).init = s.init := rfl
@[simp] theorem State.updSlot_power (n : Nat) (f : Slot → Slot) : (s.updSlot n f).power = s.power := rfl
@[simp] theorem State.updSlot_smoke (n : Nat) (f : Slot → Slot) : (s.updSlot n f).smoke = s.smoke := rfl
@[simp] theorem State.updSlot_pins (n : Nat) (f : Slot → Slot) : (s.updSlot n f).pins = s.pins := rfl
@[simp] theorem State.updSlot_ports (n : Nat) (f : Slot → Slot) : (s.updSlot n f).ports = s.ports := rfl
@[simp] theorem State.updSlot_target (n : Nat) (f : Slot → Slot) : (s.updSlot n f).target = s.target := rfl
@[simp] theorem State.updSlot_qps (n : Nat) (f : Slot → Slot) : (s.updSlot n f).qps = s.qps := rfl
@[simp] theorem State.updSlot_lastQp (n : Nat) (f : Slot → Slot) : (s.updSlot n f).lastQp = s.lastQp := rfl
@[simp] theorem State.updSlot_turnOn (n : Nat) (f : Slot → Slot) : (s.updSlot n f).turnOn = s.turnOn := rfl
@[simp] theorem State.updSlot_admSeq (n : Nat) (f : Slot → Slot) : (s.updSlot n f).admSeq = s.admSeq := rfl
@[simp] theorem State.updSlot_adms (n : Nat) (f : Slot → Slot) : (s.updSlot n f).adms = s.adms := rfl
@[simp] theorem State.updSlot_readyNo (n : Nat) (f : Slot → Slot) : (s.updSlot n f).readyNo = s.readyNo := rfl
@[simp] theorem State.updSlot_alert (n : Nat) (f : Slot → Slot) : (s.updSlot n f).alert = s.alert := rfl
@[simp] theorem State.updSlot_ops (n : Nat) (f : Slot → Slot) : (s.updSlot n f).ops = s.ops := rfl
@[simp] theorem State.updSlot_opNo (n : Nat) (f : Slot → Slot) : (s.updSlot n f).opNo = s.opNo := rfl
@[simp] theorem State.updSlot_chans (n : Nat) (f : Slot → Slot) : (s.updSlot n f).chans = s.chans := rfl
@[simp] theorem State.updSlot_stores (n : Nat) (f : Slot → Slot) : (s.updSlot n f).stores = s.stores := rfl
@[simp] theorem State.updSlot_cws (n : Nat) (f : Slot → Slot) : (s.updSlot n f).cws = s.cws := rfl
@[simp] theorem State.updSlot_cwNo (n : Nat) (f : Slot → Slot) : (s.updSlot n f).cwNo = s.cwNo := rfl
@[simp] theorem State.updSlot_recov (n : Nat) (f : Slot → Slot) : (s.updSlot n f).recov = s.recov := rfl
@[simp] theorem State.updSlot_xtsTurn (n : Nat) (f : Slot → Slot) : (s.updSlot n f).xtsTurn = s.xtsTurn := rfl
@[simp] theorem State.updSlot_rlv (n : Nat) (f : Slot → Slot) : (s.updSlot n f).rlv = s.rlv := rfl
@[simp] theorem State.updSlot_units (n : Nat) (f : Slot → Slot) : (s.updSlot n f).units = s.units := rfl
@[simp] theorem State.updSlot_scanCtx (n : Nat) (f : Slot → Slot) : (s.updSlot n f).scanCtx = s.scanCtx := rfl
@[simp] theorem State.updSlot_keys (n : Nat) (f : Slot → Slot) : (s.updSlot n f).keys = s.keys := rfl
@[simp] theorem State.updSlot_san (n : Nat) (f : Slot → Slot) : (s.updSlot n f).san = s.san := rfl
@[simp] theorem State.updSlot_rings (n : Nat) (f : Slot → Slot) : (s.updSlot n f).rings = s.rings := rfl
@[simp] theorem State.updSlot_mover (n : Nat) (f : Slot → Slot) : (s.updSlot n f).mover = s.mover := rfl
@[simp] theorem State.updSlot_mem (n : Nat) (f : Slot → Slot) : (s.updSlot n f).mem = s.mem := rfl
@[simp] theorem State.updSlot_ntf (n : Nat) (f : Slot → Slot) : (s.updSlot n f).ntf = s.ntf := rfl
@[simp] theorem State.updSlot_wgl (n : Nat) (f : Slot → Slot) : (s.updSlot n f).wgl = s.wgl := rfl

/-! `delSlot` -/
@[simp] theorem State.delSlot_pending (n : Nat) : (s.delSlot n).pending = s.pending := rfl
@[simp] theorem State.delSlot_build (n : Nat) : (s.delSlot n).build = s.build := rfl
@[simp] theorem State.delSlot_aclk (n : Nat) : (s.delSlot n).aclk = s.aclk := rfl
@[simp] theorem State.delSlot_free (n : Nat) : (s.delSlot n).free = s.free := rfl
@[simp] theorem State.delSlot_regs (n : Nat) : (s.delSlot n).regs = s.regs := rfl
@[simp] theorem State.delSlot_pend (n : Nat) : (s.delSlot n).pend = s.pend := rfl
@[simp] theorem State.delSlot_pairs (n : Nat) : (s.delSlot n).pairs = s.pairs := rfl
@[simp] theorem State.delSlot_answer (n : Nat) : (s.delSlot n).answer = s.answer := rfl
@[simp] theorem State.delSlot_tpAnswer (n : Nat) : (s.delSlot n).tpAnswer = s.tpAnswer := rfl
@[simp] theorem State.delSlot_init (n : Nat) : (s.delSlot n).init = s.init := rfl
@[simp] theorem State.delSlot_power (n : Nat) : (s.delSlot n).power = s.power := rfl
@[simp] theorem State.delSlot_smoke (n : Nat) : (s.delSlot n).smoke = s.smoke := rfl
@[simp] theorem State.delSlot_pins (n : Nat) : (s.delSlot n).pins = s.pins := rfl
@[simp] theorem State.delSlot_ports (n : Nat) : (s.delSlot n).ports = s.ports := rfl
@[simp] theorem State.delSlot_target (n : Nat) : (s.delSlot n).target = s.target := rfl
@[simp] theorem State.delSlot_qps (n : Nat) : (s.delSlot n).qps = s.qps := rfl
@[simp] theorem State.delSlot_lastQp (n : Nat) : (s.delSlot n).lastQp = s.lastQp := rfl
@[simp] theorem State.delSlot_turnOn (n : Nat) : (s.delSlot n).turnOn = s.turnOn := rfl
@[simp] theorem State.delSlot_admSeq (n : Nat) : (s.delSlot n).admSeq = s.admSeq := rfl
@[simp] theorem State.delSlot_adms (n : Nat) : (s.delSlot n).adms = s.adms := rfl
@[simp] theorem State.delSlot_readyNo (n : Nat) : (s.delSlot n).readyNo = s.readyNo := rfl
@[simp] theorem State.delSlot_alert (n : Nat) : (s.delSlot n).alert = s.alert := rfl
@[simp] theorem State.delSlot_ops (n : Nat) : (s.delSlot n).ops = s.ops := rfl
@[simp] theorem State.delSlot_opNo (n : Nat) : (s.delSlot n).opNo = s.opNo := rfl
@[simp] theorem State.delSlot_chans (n : Nat) : (s.delSlot n).chans = s.chans := rfl
@[simp] theorem State.delSlot_stores (n : Nat) : (s.delSlot n).stores = s.stores := rfl
@[simp] theorem State.delSlot_cws (n : Nat) : (s.delSlot n).cws = s.cws := rfl
@[simp] theorem State.delSlot_cwNo (n : Nat) : (s.delSlot n).cwNo = s.cwNo := rfl
@[simp] theorem State.delSlot_recov (n : Nat) : (s.delSlot n).recov = s.recov := rfl
@[simp] theorem State.delSlot_xtsTurn (n : Nat) : (s.delSlot n).xtsTurn = s.xtsTurn := rfl
@[simp] theorem State.delSlot_rlv (n : Nat) : (s.delSlot n).rlv = s.rlv := rfl
@[simp] theorem State.delSlot_units (n : Nat) : (s.delSlot n).units = s.units := rfl
@[simp] theorem State.delSlot_scanCtx (n : Nat) : (s.delSlot n).scanCtx = s.scanCtx := rfl
@[simp] theorem State.delSlot_keys (n : Nat) : (s.delSlot n).keys = s.keys := rfl
@[simp] theorem State.delSlot_san (n : Nat) : (s.delSlot n).san = s.san := rfl
@[simp] theorem State.delSlot_rings (n : Nat) : (s.delSlot n).rings = s.rings := rfl
@[simp] theorem State.delSlot_mover (n : Nat) : (s.delSlot n).mover = s.mover := rfl
@[simp] theorem State.delSlot_mem (n : Nat) : (s.delSlot n).mem = s.mem := rfl
@[simp] theorem State.delSlot_ntf (n : Nat) : (s.delSlot n).ntf = s.ntf := rfl
@[simp] theorem State.delSlot_wgl (n : Nat) : (s.delSlot n).wgl = s.wgl := rfl

/-! `setQp` -/
@[simp] theorem State.setQp_pending (x : QP) : (s.setQp x).pending = s.pending := rfl
@[simp] theorem State.setQp_build (x : QP) : (s.setQp x).build = s.build := rfl
@[simp] theorem State.setQp_aclk (x : QP) : (s.setQp x).aclk = s.aclk := rfl
@[simp] theorem State.setQp_free (x : QP) : (s.setQp x).free = s.free := rfl
@[simp] theorem State.setQp_regs (x : QP) : (s.setQp x).regs = s.regs := rfl
@[simp] theorem State.setQp_pend (x : QP) : (s.setQp x).pend = s.pend := rfl
@[simp] theorem State.setQp_pairs (x : QP) : (s.setQp x).pairs = s.pairs := rfl
@[simp] theorem State.setQp_answer (x : QP) : (s.setQp x).answer = s.answer := rfl
@[simp] theorem State.setQp_tpAnswer (x : QP) : (s.setQp x).tpAnswer = s.tpAnswer := rfl
@[simp] theorem State.setQp_init (x : QP) : (s.setQp x).init = s.init := rfl
@[simp] theorem State.setQp_power (x : QP) : (s.setQp x).power = s.power := rfl
@[simp] theorem State.setQp_smoke (x : QP) : (s.setQp x).smoke = s.smoke := rfl
@[simp] theorem State.setQp_pins (x : QP) : (s.setQp x).pins = s.pins := rfl
@[simp] theorem State.setQp_ports (x : QP) : (s.setQp x).ports = s.ports := rfl
@[simp] theorem State.setQp_target (x : QP) : (s.setQp x).target = s.target := rfl
@[simp] theorem State.setQp_lastQp (x : QP) : (s.setQp x).lastQp = s.lastQp := rfl
@[simp] theorem State.setQp_turnOn (x : QP) : (s.setQp x).turnOn = s.turnOn := rfl
@[simp] theorem State.setQp_admSeq (x : QP) : (s.setQp x).admSeq = s.admSeq := rfl
@[simp] theorem State.setQp_adms (x : QP) : (s.setQp x).adms = s.adms := rfl
@[simp] theorem State.setQp_slots (x : QP) : (s.setQp x).slots = s.slots := rfl
@[simp] theorem State.setQp_readyNo (x : QP) : (s.setQp x).readyNo = s.readyNo := rfl
@[simp] theorem State.setQp_alert (x : QP) : (s.setQp x).alert = s.alert := rfl
@[simp] theorem State.setQp_ops (x : QP) : (s.setQp x).ops = s.ops := rfl
@[simp] theorem State.setQp_opNo (x : QP) : (s.setQp x).opNo = s.opNo := rfl
@[simp] theorem State.setQp_chans (x : QP) : (s.setQp x).chans = s.chans := rfl
@[simp] theorem State.setQp_stores (x : QP) : (s.setQp x).stores = s.stores := rfl
@[simp] theorem State.setQp_cws (x : QP) : (s.setQp x).cws = s.cws := rfl
@[simp] theorem State.setQp_cwNo (x : QP) : (s.setQp x).cwNo = s.cwNo := rfl
@[simp] theorem State.setQp_recov (x : QP) : (s.setQp x).recov = s.recov := rfl
@[simp] theorem State.setQp_xtsTurn (x : QP) : (s.setQp x).xtsTurn = s.xtsTurn := rfl
@[simp] theorem State.setQp_rlv (x : QP) : (s.setQp x).rlv = s.rlv := rfl
@[simp] theorem State.setQp_units (x : QP) : (s.setQp x).units = s.units := rfl
@[simp] theorem State.setQp_scanCtx (x : QP) : (s.setQp x).scanCtx = s.scanCtx := rfl
@[simp] theorem State.setQp_keys (x : QP) : (s.setQp x).keys = s.keys := rfl
@[simp] theorem State.setQp_san (x : QP) : (s.setQp x).san = s.san := rfl
@[simp] theorem State.setQp_rings (x : QP) : (s.setQp x).rings = s.rings := rfl
@[simp] theorem State.setQp_mover (x : QP) : (s.setQp x).mover = s.mover := rfl
@[simp] theorem State.setQp_mem (x : QP) : (s.setQp x).mem = s.mem := rfl
@[simp] theorem State.setQp_ntf (x : QP) : (s.setQp x).ntf = s.ntf := rfl
@[simp] theorem State.setQp_wgl (x : QP) : (s.setQp x).wgl = s.wgl := rfl

/-! `updQp` -/
@[simp] theorem State.updQp_pending (q : Nat) (f : QP → QP) : (s.updQp q f).pending = s.pending := rfl
@[simp] theorem State.updQp_build (q : Nat) (f : QP → QP) : (s.updQp q f).build = s.build := rfl
@[simp] theorem State.updQp_aclk (q : Nat) (f : QP → QP) : (s.updQp q f).aclk = s.aclk := rfl
@[simp] theorem State.updQp_free (q : Nat) (f : QP → QP) : (s.updQp q f).free = s.free := rfl
@[simp] theorem State.updQp_regs (q : Nat) (f : QP → QP) : (s.updQp q f).regs = s.regs := rfl
@[simp] theorem State.updQp_pend (q : Nat) (f : QP → QP) : (s.updQp q f).pend = s.pend := rfl
@[simp] theorem State.updQp_pairs (q : Nat) (f : QP → QP) : (s.updQp q f).pairs = s.pairs := rfl
@[simp] theorem State.updQp_answer (q : Nat) (f : QP → QP) : (s.updQp q f).answer = s.answer := rfl
@[simp] theorem State.updQp_tpAnswer (q : Nat) (f : QP → QP) : (s.updQp q f).tpAnswer = s.tpAnswer := rfl
@[simp] theorem State.updQp_init (q : Nat) (f : QP → QP) : (s.updQp q f).init = s.init := rfl
@[simp] theorem State.updQp_power (q : Nat) (f : QP → QP) : (s.updQp q f).power = s.power := rfl
@[simp] theorem State.updQp_smoke (q : Nat) (f : QP → QP) : (s.updQp q f).smoke = s.smoke := rfl
@[simp] theorem State.updQp_pins (q : Nat) (f : QP → QP) : (s.updQp q f).pins = s.pins := rfl
@[simp] theorem State.updQp_ports (q : Nat) (f : QP → QP) : (s.updQp q f).ports = s.ports := rfl
@[simp] theorem State.updQp_target (q : Nat) (f : QP → QP) : (s.updQp q f).target = s.target := rfl
@[simp] theorem State.updQp_lastQp (q : Nat) (f : QP → QP) : (s.updQp q f).lastQp = s.lastQp := rfl
@[simp] theorem State.updQp_turnOn (q : Nat) (f : QP → QP) : (s.updQp q f).turnOn = s.turnOn := rfl
@[simp] theorem State.updQp_admSeq (q : Nat) (f : QP → QP) : (s.updQp q f).admSeq = s.admSeq := rfl
@[simp] theorem State.updQp_adms (q : Nat) (f : QP → QP) : (s.updQp q f).adms = s.adms := rfl
@[simp] theorem State.updQp_slots (q : Nat) (f : QP → QP) : (s.updQp q f).slots = s.slots := rfl
@[simp] theorem State.updQp_readyNo (q : Nat) (f : QP → QP) : (s.updQp q f).readyNo = s.readyNo := rfl
@[simp] theorem State.updQp_alert (q : Nat) (f : QP → QP) : (s.updQp q f).alert = s.alert := rfl
@[simp] theorem State.updQp_ops (q : Nat) (f : QP → QP) : (s.updQp q f).ops = s.ops := rfl
@[simp] theorem State.updQp_opNo (q : Nat) (f : QP → QP) : (s.updQp q f).opNo = s.opNo := rfl
@[simp] theorem State.updQp_chans (q : Nat) (f : QP → QP) : (s.updQp q f).chans = s.chans := rfl
@[simp] theorem State.updQp_stores (q : Nat) (f : QP → QP) : (s.updQp q f).stores = s.stores := rfl
@[simp] theorem State.updQp_cws (q : Nat) (f : QP → QP) : (s.updQp q f).cws = s.cws := rfl
@[simp] theorem State.updQp_cwNo (q : Nat) (f : QP → QP) : (s.updQp q f).cwNo = s.cwNo := rfl
@[simp] theorem State.updQp_recov (q : Nat) (f : QP → QP) : (s.updQp q f).recov = s.recov := rfl
@[simp] theorem State.updQp_xtsTurn (q : Nat) (f : QP → QP) : (s.updQp q f).xtsTurn = s.xtsTurn := rfl
@[simp] theorem State.updQp_rlv (q : Nat) (f : QP → QP) : (s.updQp q f).rlv = s.rlv := rfl
@[simp] theorem State.updQp_units (q : Nat) (f : QP → QP) : (s.updQp q f).units = s.units := rfl
@[simp] theorem State.updQp_scanCtx (q : Nat) (f : QP → QP) : (s.updQp q f).scanCtx = s.scanCtx := rfl
@[simp] theorem State.updQp_keys (q : Nat) (f : QP → QP) : (s.updQp q f).keys = s.keys := rfl
@[simp] theorem State.updQp_san (q : Nat) (f : QP → QP) : (s.updQp q f).san = s.san := rfl
@[simp] theorem State.updQp_rings (q : Nat) (f : QP → QP) : (s.updQp q f).rings = s.rings := rfl
@[simp] theorem State.updQp_mover (q : Nat) (f : QP → QP) : (s.updQp q f).mover = s.mover := rfl
@[simp] theorem State.updQp_mem (q : Nat) (f : QP → QP) : (s.updQp q f).mem = s.mem := rfl
@[simp] theorem State.updQp_ntf (q : Nat) (f : QP → QP) : (s.updQp q f).ntf = s.ntf := rfl
@[simp] theorem State.updQp_wgl (q : Nat) (f : QP → QP) : (s.updQp q f).wgl = s.wgl := rfl

/-! `updOp` -/
@[simp] theorem State.updOp_pending (n : Nat) (f : Op → Op) : (s.updOp n f).pending = s.pending := rfl
@[simp] theorem State.updOp_build (n : Nat) (f : Op → Op) : (s.updOp n f).build = s.build := rfl
@[simp] theorem State.updOp_aclk (n : Nat) (f : Op → Op) : (s.updOp n f).aclk = s.aclk := rfl
@[simp] theorem State.updOp_free (n : Nat) (f : Op → Op) : (s.updOp n f).free = s.free := rfl
@[simp] theorem State.updOp_regs (n : Nat) (f : Op → Op) : (s.updOp n f).regs = s.regs := rfl
@[simp] theorem State.updOp_pend (n : Nat) (f : Op → Op) : (s.updOp n f).pend = s.pend := rfl
@[simp] theorem State.updOp_pairs (n : Nat) (f : Op → Op) : (s.updOp n f).pairs = s.pairs := rfl
@[simp] theorem State.updOp_answer (n : Nat) (f : Op → Op) : (s.updOp n f).answer = s.answer := rfl
@[simp] theorem State.updOp_tpAnswer (n : Nat) (f : Op → Op) : (s.updOp n f).tpAnswer = s.tpAnswer := rfl
@[simp] theorem State.updOp_init (n : Nat) (f : Op → Op) : (s.updOp n f).init = s.init := rfl
@[simp] theorem State.updOp_power (n : Nat) (f : Op → Op) : (s.updOp n f).power = s.power := rfl
@[simp] theorem State.updOp_smoke (n : Nat) (f : Op → Op) : (s.updOp n f).smoke = s.smoke := rfl
@[simp] theorem State.updOp_pins (n : Nat) (f : Op → Op) : (s.updOp n f).pins = s.pins := rfl
@[simp] theorem State.updOp_ports (n : Nat) (f : Op → Op) : (s.updOp n f).ports = s.ports := rfl
@[simp] theorem State.updOp_target (n : Nat) (f : Op → Op) : (s.updOp n f).target = s.target := rfl
@[simp] theorem State.updOp_qps (n : Nat) (f : Op → Op) : (s.updOp n f).qps = s.qps := rfl
@[simp] theorem State.updOp_lastQp (n : Nat) (f : Op → Op) : (s.updOp n f).lastQp = s.lastQp := rfl
@[simp] theorem State.updOp_turnOn (n : Nat) (f : Op → Op) : (s.updOp n f).turnOn = s.turnOn := rfl
@[simp] theorem State.updOp_admSeq (n : Nat) (f : Op → Op) : (s.updOp n f).admSeq = s.admSeq := rfl
@[simp] theorem State.updOp_adms (n : Nat) (f : Op → Op) : (s.updOp n f).adms = s.adms := rfl
@[simp] theorem State.updOp_slots (n : Nat) (f : Op → Op) : (s.updOp n f).slots = s.slots := rfl
@[simp] theorem State.updOp_readyNo (n : Nat) (f : Op → Op) : (s.updOp n f).readyNo = s.readyNo := rfl
@[simp] theorem State.updOp_alert (n : Nat) (f : Op → Op) : (s.updOp n f).alert = s.alert := rfl
@[simp] theorem State.updOp_opNo (n : Nat) (f : Op → Op) : (s.updOp n f).opNo = s.opNo := rfl
@[simp] theorem State.updOp_chans (n : Nat) (f : Op → Op) : (s.updOp n f).chans = s.chans := rfl
@[simp] theorem State.updOp_stores (n : Nat) (f : Op → Op) : (s.updOp n f).stores = s.stores := rfl
@[simp] theorem State.updOp_cws (n : Nat) (f : Op → Op) : (s.updOp n f).cws = s.cws := rfl
@[simp] theorem State.updOp_cwNo (n : Nat) (f : Op → Op) : (s.updOp n f).cwNo = s.cwNo := rfl
@[simp] theorem State.updOp_recov (n : Nat) (f : Op → Op) : (s.updOp n f).recov = s.recov := rfl
@[simp] theorem State.updOp_xtsTurn (n : Nat) (f : Op → Op) : (s.updOp n f).xtsTurn = s.xtsTurn := rfl
@[simp] theorem State.updOp_rlv (n : Nat) (f : Op → Op) : (s.updOp n f).rlv = s.rlv := rfl
@[simp] theorem State.updOp_units (n : Nat) (f : Op → Op) : (s.updOp n f).units = s.units := rfl
@[simp] theorem State.updOp_scanCtx (n : Nat) (f : Op → Op) : (s.updOp n f).scanCtx = s.scanCtx := rfl
@[simp] theorem State.updOp_keys (n : Nat) (f : Op → Op) : (s.updOp n f).keys = s.keys := rfl
@[simp] theorem State.updOp_san (n : Nat) (f : Op → Op) : (s.updOp n f).san = s.san := rfl
@[simp] theorem State.updOp_rings (n : Nat) (f : Op → Op) : (s.updOp n f).rings = s.rings := rfl
@[simp] theorem State.updOp_mover (n : Nat) (f : Op → Op) : (s.updOp n f).mover = s.mover := rfl
@[simp] theorem State.updOp_mem (n : Nat) (f : Op → Op) : (s.updOp n f).mem = s.mem := rfl
@[simp] theorem State.updOp_ntf (n : Nat) (f : Op → Op) : (s.updOp n f).ntf = s.ntf := rfl
@[simp] theorem State.updOp_wgl (n : Nat) (f : Op → Op) : (s.updOp n f).wgl = s.wgl := rfl

/-! `delOp` -/
@[simp] theorem State.delOp_pending (n : Nat) : (s.delOp n).pending = s.pending := rfl
@[simp] theorem State.delOp_build (n : Nat) : (s.delOp n).build = s.build := rfl
@[simp] theorem State.delOp_aclk (n : Nat) : (s.delOp n).aclk = s.aclk := rfl
@[simp] theorem State.delOp_free (n : Nat) : (s.delOp n).free = s.free := rfl
@[simp] theorem State.delOp_regs (n : Nat) : (s.delOp n).regs = s.regs := rfl
@[simp] theorem State.delOp_pend (n : Nat) : (s.delOp n).pend = s.pend := rfl
@[simp] theorem State.delOp_pairs (n : Nat) : (s.delOp n).pairs = s.pairs := rfl
@[simp] theorem State.delOp_answer (n : Nat) : (s.delOp n).answer = s.answer := rfl
@[simp] theorem State.delOp_tpAnswer (n : Nat) : (s.delOp n).tpAnswer = s.tpAnswer := rfl
@[simp] theorem State.delOp_init (n : Nat) : (s.delOp n).init = s.init := rfl
@[simp] theorem State.delOp_power (n : Nat) : (s.delOp n).power = s.power := rfl
@[simp] theorem State.delOp_smoke (n : Nat) : (s.delOp n).smoke = s.smoke := rfl
@[simp] theorem State.delOp_pins (n : Nat) : (s.delOp n).pins = s.pins := rfl
@[simp] theorem State.delOp_ports (n : Nat) : (s.delOp n).ports = s.ports := rfl
@[simp] theorem State.delOp_target (n : Nat) : (s.delOp n).target = s.target := rfl
@[simp] theorem State.delOp_qps (n : Nat) : (s.delOp n).qps = s.qps := rfl
@[simp] theorem State.delOp_lastQp (n : Nat) : (s.delOp n).lastQp = s.lastQp := rfl
@[simp] theorem State.delOp_turnOn (n : Nat) : (s.delOp n).turnOn = s.turnOn := rfl
@[simp] theorem State.delOp_admSeq (n : Nat) : (s.delOp n).admSeq = s.admSeq := rfl
@[simp] theorem State.delOp_adms (n : Nat) : (s.delOp n).adms = s.adms := rfl
@[simp] theorem State.delOp_slots (n : Nat) : (s.delOp n).slots = s.slots := rfl
@[simp] theorem State.delOp_readyNo (n : Nat) : (s.delOp n).readyNo = s.readyNo := rfl
@[simp] theorem State.delOp_alert (n : Nat) : (s.delOp n).alert = s.alert := rfl
@[simp] theorem State.delOp_opNo (n : Nat) : (s.delOp n).opNo = s.opNo := rfl
@[simp] theorem State.delOp_chans (n : Nat) : (s.delOp n).chans = s.chans := rfl
@[simp] theorem State.delOp_stores (n : Nat) : (s.delOp n).stores = s.stores := rfl
@[simp] theorem State.delOp_cws (n : Nat) : (s.delOp n).cws = s.cws := rfl
@[simp] theorem State.delOp_cwNo (n : Nat) : (s.delOp n).cwNo = s.cwNo := rfl
@[simp] theorem State.delOp_recov (n : Nat) : (s.delOp n).recov = s.recov := rfl
@[simp] theorem State.delOp_xtsTurn (n : Nat) : (s.delOp n).xtsTurn = s.xtsTurn := rfl
@[simp] theorem State.delOp_rlv (n : Nat) : (s.delOp n).rlv = s.rlv := rfl
@[simp] theorem State.delOp_units (n : Nat) : (s.delOp n).units = s.units := rfl
@[simp] theorem State.delOp_scanCtx (n : Nat) : (s.delOp n).scanCtx = s.scanCtx := rfl
@[simp] theorem State.delOp_keys (n : Nat) : (s.delOp n).keys = s.keys := rfl
@[simp] theorem State.delOp_san (n : Nat) : (s.delOp n).san = s.san := rfl
@[simp] theorem State.delOp_rings (n : Nat) : (s.delOp n).rings = s.rings := rfl
@[simp] theorem State.delOp_mover (n : Nat) : (s.delOp n).mover = s.mover := rfl
@[simp] theorem State.delOp_mem (n : Nat) : (s.delOp n).mem = s.mem := rfl
@[simp] theorem State.delOp_ntf (n : Nat) : (s.delOp n).ntf = s.ntf := rfl
@[simp] theorem State.delOp_wgl (n : Nat) : (s.delOp n).wgl = s.wgl := rfl

/-! `setCw` -/
@[simp] theorem State.setCw_pending (x : Cw) : (s.setCw x).pending = s.pending := rfl
@[simp] theorem State.setCw_build (x : Cw) : (s.setCw x).build = s.build := rfl
@[simp] theorem State.setCw_aclk (x : Cw) : (s.setCw x).aclk = s.aclk := rfl
@[simp] theorem State.setCw_free (x : Cw) : (s.setCw x).free = s.free := rfl
@[simp] theorem State.setCw_regs (x : Cw) : (s.setCw x).regs = s.regs := rfl
@[simp] theorem State.setCw_pend (x : Cw) : (s.setCw x).pend = s.pend := rfl
@[simp] theorem State.setCw_pairs (x : Cw) : (s.setCw x).pairs = s.pairs := rfl
@[simp] theorem State.setCw_answer (x : Cw) : (s.setCw x).answer = s.answer := rfl
@[simp] theorem State.setCw_tpAnswer (x : Cw) : (s.setCw x).tpAnswer = s.tpAnswer := rfl
@[simp] theorem State.setCw_init (x : Cw) : (s.setCw x).init = s.init := rfl
@[simp] theorem State.setCw_power (x : Cw) : (s.setCw x).power = s.power := rfl
@[simp] theorem State.setCw_smoke (x : Cw) : (s.setCw x).smoke = s.smoke := rfl
@[simp] theorem State.setCw_pins (x : Cw) : (s.setCw x).pins = s.pins := rfl
@[simp] theorem State.setCw_ports (x : Cw) : (s.setCw x).ports = s.ports := rfl
@[simp] theorem State.setCw_target (x : Cw) : (s.setCw x).target = s.target := rfl
@[simp] theorem State.setCw_qps (x : Cw) : (s.setCw x).qps = s.qps := rfl
@[simp] theorem State.setCw_lastQp (x : Cw) : (s.setCw x).lastQp = s.lastQp := rfl
@[simp] theorem State.setCw_turnOn (x : Cw) : (s.setCw x).turnOn = s.turnOn := rfl
@[simp] theorem State.setCw_admSeq (x : Cw) : (s.setCw x).admSeq = s.admSeq := rfl
@[simp] theorem State.setCw_adms (x : Cw) : (s.setCw x).adms = s.adms := rfl
@[simp] theorem State.setCw_slots (x : Cw) : (s.setCw x).slots = s.slots := rfl
@[simp] theorem State.setCw_readyNo (x : Cw) : (s.setCw x).readyNo = s.readyNo := rfl
@[simp] theorem State.setCw_alert (x : Cw) : (s.setCw x).alert = s.alert := rfl
@[simp] theorem State.setCw_ops (x : Cw) : (s.setCw x).ops = s.ops := rfl
@[simp] theorem State.setCw_opNo (x : Cw) : (s.setCw x).opNo = s.opNo := rfl
@[simp] theorem State.setCw_chans (x : Cw) : (s.setCw x).chans = s.chans := rfl
@[simp] theorem State.setCw_stores (x : Cw) : (s.setCw x).stores = s.stores := rfl
@[simp] theorem State.setCw_cwNo (x : Cw) : (s.setCw x).cwNo = s.cwNo := rfl
@[simp] theorem State.setCw_recov (x : Cw) : (s.setCw x).recov = s.recov := rfl
@[simp] theorem State.setCw_xtsTurn (x : Cw) : (s.setCw x).xtsTurn = s.xtsTurn := rfl
@[simp] theorem State.setCw_rlv (x : Cw) : (s.setCw x).rlv = s.rlv := rfl
@[simp] theorem State.setCw_units (x : Cw) : (s.setCw x).units = s.units := rfl
@[simp] theorem State.setCw_scanCtx (x : Cw) : (s.setCw x).scanCtx = s.scanCtx := rfl
@[simp] theorem State.setCw_keys (x : Cw) : (s.setCw x).keys = s.keys := rfl
@[simp] theorem State.setCw_san (x : Cw) : (s.setCw x).san = s.san := rfl
@[simp] theorem State.setCw_rings (x : Cw) : (s.setCw x).rings = s.rings := rfl
@[simp] theorem State.setCw_mover (x : Cw) : (s.setCw x).mover = s.mover := rfl
@[simp] theorem State.setCw_mem (x : Cw) : (s.setCw x).mem = s.mem := rfl
@[simp] theorem State.setCw_ntf (x : Cw) : (s.setCw x).ntf = s.ntf := rfl
@[simp] theorem State.setCw_wgl (x : Cw) : (s.setCw x).wgl = s.wgl := rfl

/-! `delCw` -/
@[simp] theorem State.delCw_pending (n : Nat) : (s.delCw n).pending = s.pending := rfl
@[simp] theorem State.delCw_build (n : Nat) : (s.delCw n).build = s.build := rfl
@[simp] theorem State.delCw_aclk (n : Nat) : (s.delCw n).aclk = s.aclk := rfl
@[simp] theorem State.delCw_free (n : Nat) : (s.delCw n).free = s.free := rfl
@[simp] theorem State.delCw_regs (n : Nat) : (s.delCw n).regs = s.regs := rfl
@[simp] theorem State.delCw_pend (n : Nat) : (s.delCw n).pend = s.pend := rfl
@[simp] theorem State.delCw_pairs (n : Nat) : (s.delCw n).pairs = s.pairs := rfl
@[simp] theorem State.delCw_answer (n : Nat) : (s.delCw n).answer = s.answer := rfl
@[simp] theorem State.delCw_tpAnswer (n : Nat) : (s.delCw n).tpAnswer = s.tpAnswer := rfl
@[simp] theorem State.delCw_init (n : Nat) : (s.delCw n).init = s.init := rfl
@[simp] theorem State.delCw_power (n : Nat) : (s.delCw n).power = s.power := rfl
@[simp] theorem State.delCw_smoke (n : Nat) : (s.delCw n).smoke = s.smoke := rfl
@[simp] theorem State.delCw_pins (n : Nat) : (s.delCw n).pins = s.pins := rfl
@[simp] theorem State.delCw_ports (n : Nat) : (s.delCw n).ports = s.ports := rfl
@[simp] theorem State.delCw_target (n : Nat) : (s.delCw n).target = s.target := rfl
@[simp] theorem State.delCw_qps (n : Nat) : (s.delCw n).qps = s.qps := rfl
@[simp] theorem State.delCw_lastQp (n : Nat) : (s.delCw n).lastQp = s.lastQp := rfl
@[simp] theorem State.delCw_turnOn (n : Nat) : (s.delCw n).turnOn = s.turnOn := rfl
@[simp] theorem State.delCw_admSeq (n : Nat) : (s.delCw n).admSeq = s.admSeq := rfl
@[simp] theorem State.delCw_adms (n : Nat) : (s.delCw n).adms = s.adms := rfl
@[simp] theorem State.delCw_slots (n : Nat) : (s.delCw n).slots = s.slots := rfl
@[simp] theorem State.delCw_readyNo (n : Nat) : (s.delCw n).readyNo = s.readyNo := rfl
@[simp] theorem State.delCw_alert (n : Nat) : (s.delCw n).alert = s.alert := rfl
@[simp] theorem State.delCw_ops (n : Nat) : (s.delCw n).ops = s.ops := rfl
@[simp] theorem State.delCw_opNo (n : Nat) : (s.delCw n).opNo = s.opNo := rfl
@[simp] theorem State.delCw_chans (n : Nat) : (s.delCw n).chans = s.chans := rfl
@[simp] theorem State.delCw_stores (n : Nat) : (s.delCw n).stores = s.stores := rfl
@[simp] theorem State.delCw_cwNo (n : Nat) : (s.delCw n).cwNo = s.cwNo := rfl
@[simp] theorem State.delCw_recov (n : Nat) : (s.delCw n).recov = s.recov := rfl
@[simp] theorem State.delCw_xtsTurn (n : Nat) : (s.delCw n).xtsTurn = s.xtsTurn := rfl
@[simp] theorem State.delCw_rlv (n : Nat) : (s.delCw n).rlv = s.rlv := rfl
@[simp] theorem State.delCw_units (n : Nat) : (s.delCw n).units = s.units := rfl
@[simp] theorem State.delCw_scanCtx (n : Nat) : (s.delCw n).scanCtx = s.scanCtx := rfl
@[simp] theorem State.delCw_keys (n : Nat) : (s.delCw n).keys = s.keys := rfl
@[simp] theorem State.delCw_san (n : Nat) : (s.delCw n).san = s.san := rfl
@[simp] theorem State.delCw_rings (n : Nat) : (s.delCw n).rings = s.rings := rfl
@[simp] theorem State.delCw_mover (n : Nat) : (s.delCw n).mover = s.mover := rfl
@[simp] theorem State.delCw_mem (n : Nat) : (s.delCw n).mem = s.mem := rfl
@[simp] theorem State.delCw_ntf (n : Nat) : (s.delCw n).ntf = s.ntf := rfl
@[simp] theorem State.delCw_wgl (n : Nat) : (s.delCw n).wgl = s.wgl := rfl

/-! `setRing` -/
@[simp] theorem State.setRing_pending (x : BufRing) : (s.setRing x).pending = s.pending := rfl
@[simp] theorem State.setRing_build (x : BufRing) : (s.setRing x).build = s.build := rfl
@[simp] theorem State.setRing_aclk (x : BufRing) : (s.setRing x).aclk = s.aclk := rfl
@[simp] theorem State.setRing_free (x : BufRing) : (s.setRing x).free = s.free := rfl
@[simp] theorem State.setRing_regs (x : BufRing) : (s.setRing x).regs = s.regs := rfl
@[simp] theorem State.setRing_pend (x : BufRing) : (s.setRing x).pend = s.pend := rfl
@[simp] theorem State.setRing_pairs (x : BufRing) : (s.setRing x).pairs = s.pairs := rfl
@[simp] theorem State.setRing_answer (x : BufRing) : (s.setRing x).answer = s.answer := rfl
@[simp] theorem State.setRing_tpAnswer (x : BufRing) : (s.setRing x).tpAnswer = s.tpAnswer := rfl
@[simp] theorem State.setRing_init (x : BufRing) : (s.setRing x).init = s.init := rfl
@[simp] theorem State.setRing_power (x : BufRing) : (s.setRing x).power = s.power := rfl
@[simp] theorem State.setRing_smoke (x : BufRing) : (s.setRing x).smoke = s.smoke := rfl
@[simp] theorem State.setRing_pins (x : BufRing) : (s.setRing x).pins = s.pins := rfl
@[simp] theorem State.setRing_ports (x : BufRing) : (s.setRing x).ports = s.ports := rfl
@[simp] theorem State.setRing_target (x : BufRing) : (s.setRing x).target = s.target := rfl
@[simp] theorem State.setRing_qps (x : BufRing) : (s.setRing x).qps = s.qps := rfl
@[simp] theorem State.setRing_lastQp (x : BufRing) : (s.setRing x).lastQp = s.lastQp := rfl
@[simp] theorem State.setRing_turnOn (x : BufRing) : (s.setRing x).turnOn = s.turnOn := rfl
@[simp] theorem State.setRing_admSeq (x : BufRing) : (s.setRing x).admSeq = s.admSeq := rfl
@[simp] theorem State.setRing_adms (x : BufRing) : (s.setRing x).adms = s.adms := rfl
@[simp] theorem State.setRing_slots (x : BufRing) : (s.setRing x).slots = s.slots := rfl
@[simp] theorem State.setRing_readyNo (x : BufRing) : (s.setRing x).readyNo = s.readyNo := rfl
@[simp] theorem State.setRing_alert (x : BufRing) : (s.setRing x).alert = s.alert := rfl
@[simp] theorem State.setRing_ops (x : BufRing) : (s.setRing x).ops = s.ops := rfl
@[simp] theorem State.setRing_opNo (x : BufRing) : (s.setRing x).opNo = s.opNo := rfl
@[simp] theorem State.setRing_chans (x : BufRing) : (s.setRing x).chans = s.chans := rfl
@[simp] theorem State.setRing_stores (x : BufRing) : (s.setRing x).stores = s.stores := rfl
@[simp] theorem State.setRing_cws (x : BufRing) : (s.setRing x).cws = s.cws := rfl
@[simp] theorem State.setRing_cwNo (x : BufRing) : (s.setRing x).cwNo = s.cwNo := rfl
@[simp] theorem State.setRing_recov (x : BufRing) : (s.setRing x).recov = s.recov := rfl
@[simp] theorem State.setRing_xtsTurn (x : BufRing) : (s.setRing x).xtsTurn = s.xtsTurn := rfl
@[simp] theorem State.setRing_rlv (x : BufRing) : (s.setRing x).rlv = s.rlv := rfl
@[simp] theorem State.setRing_units (x : BufRing) : (s.setRing x).units = s.units := rfl
@[simp] theorem State.setRing_scanCtx (x : BufRing) : (s.setRing x).scanCtx = s.scanCtx := rfl
@[simp] theorem State.setRing_keys (x : BufRing) : (s.setRing x).keys = s.keys := rfl
@[simp] theorem State.setRing_san (x : BufRing) : (s.setRing x).san = s.san := rfl
@[simp] theorem State.setRing_mover (x : BufRing) : (s.setRing x).mover = s.mover := rfl
@[simp] theorem State.setRing_mem (x : BufRing) : (s.setRing x).mem = s.mem := rfl
@[simp] theorem State.setRing_ntf (x : BufRing) : (s.setRing x).ntf = s.ntf := rfl
@[simp] theorem State.setRing_wgl (x : BufRing) : (s.setRing x).wgl = s.wgl := rfl

/-! `setUnit` -/
@[simp] theorem State.setUnit_pending (x : CombUnit) : (s.setUnit x).pending = s.pending := rfl
@[simp] theorem State.setUnit_build (x : CombUnit) : (s.setUnit x).build = s.build := rfl
@[simp] theorem State.setUnit_aclk (x : CombUnit) : (s.setUnit x).aclk = s.aclk := rfl
@[simp] theorem State.setUnit_free (x : CombUnit) : (s.setUnit x).free = s.free := rfl
@[simp] theorem State.setUnit_regs (x : CombUnit) : (s.setUnit x).regs = s.regs := rfl
@[simp] theorem State.setUnit_pend (x : CombUnit) : (s.setUnit x).pend = s.pend := rfl
@[simp] theorem State.setUnit_pairs (x : CombUnit) : (s.setUnit x).pairs = s.pairs := rfl
@[simp] theorem State.setUnit_answer (x : CombUnit) : (s.setUnit x).answer = s.answer := rfl
@[simp] theorem State.setUnit_tpAnswer (x : CombUnit) : (s.setUnit x).tpAnswer = s.tpAnswer := rfl
@[simp] theorem State.setUnit_init (x : CombUnit) : (s.setUnit x).init = s.init := rfl
@[simp] theorem State.setUnit_power (x : CombUnit) : (s.setUnit x).power = s.power := rfl
@[simp] theorem State.setUnit_smoke (x : CombUnit) : (s.setUnit x).smoke = s.smoke := rfl
@[simp] theorem State.setUnit_pins (x : CombUnit) : (s.setUnit x).pins = s.pins := rfl
@[simp] theorem State.setUnit_ports (x : CombUnit) : (s.setUnit x).ports = s.ports := rfl
@[simp] theorem State.setUnit_target (x : CombUnit) : (s.setUnit x).target = s.target := rfl
@[simp] theorem State.setUnit_qps (x : CombUnit) : (s.setUnit x).qps = s.qps := rfl
@[simp] theorem State.setUnit_lastQp (x : CombUnit) : (s.setUnit x).lastQp = s.lastQp := rfl
@[simp] theorem State.setUnit_turnOn (x : CombUnit) : (s.setUnit x).turnOn = s.turnOn := rfl
@[simp] theorem State.setUnit_admSeq (x : CombUnit) : (s.setUnit x).admSeq = s.admSeq := rfl
@[simp] theorem State.setUnit_adms (x : CombUnit) : (s.setUnit x).adms = s.adms := rfl
@[simp] theorem State.setUnit_slots (x : CombUnit) : (s.setUnit x).slots = s.slots := rfl
@[simp] theorem State.setUnit_readyNo (x : CombUnit) : (s.setUnit x).readyNo = s.readyNo := rfl
@[simp] theorem State.setUnit_alert (x : CombUnit) : (s.setUnit x).alert = s.alert := rfl
@[simp] theorem State.setUnit_ops (x : CombUnit) : (s.setUnit x).ops = s.ops := rfl
@[simp] theorem State.setUnit_opNo (x : CombUnit) : (s.setUnit x).opNo = s.opNo := rfl
@[simp] theorem State.setUnit_chans (x : CombUnit) : (s.setUnit x).chans = s.chans := rfl
@[simp] theorem State.setUnit_stores (x : CombUnit) : (s.setUnit x).stores = s.stores := rfl
@[simp] theorem State.setUnit_cws (x : CombUnit) : (s.setUnit x).cws = s.cws := rfl
@[simp] theorem State.setUnit_cwNo (x : CombUnit) : (s.setUnit x).cwNo = s.cwNo := rfl
@[simp] theorem State.setUnit_recov (x : CombUnit) : (s.setUnit x).recov = s.recov := rfl
@[simp] theorem State.setUnit_xtsTurn (x : CombUnit) : (s.setUnit x).xtsTurn = s.xtsTurn := rfl
@[simp] theorem State.setUnit_rlv (x : CombUnit) : (s.setUnit x).rlv = s.rlv := rfl
@[simp] theorem State.setUnit_scanCtx (x : CombUnit) : (s.setUnit x).scanCtx = s.scanCtx := rfl
@[simp] theorem State.setUnit_keys (x : CombUnit) : (s.setUnit x).keys = s.keys := rfl
@[simp] theorem State.setUnit_san (x : CombUnit) : (s.setUnit x).san = s.san := rfl
@[simp] theorem State.setUnit_rings (x : CombUnit) : (s.setUnit x).rings = s.rings := rfl
@[simp] theorem State.setUnit_mover (x : CombUnit) : (s.setUnit x).mover = s.mover := rfl
@[simp] theorem State.setUnit_mem (x : CombUnit) : (s.setUnit x).mem = s.mem := rfl
@[simp] theorem State.setUnit_ntf (x : CombUnit) : (s.setUnit x).ntf = s.ntf := rfl
@[simp] theorem State.setUnit_wgl (x : CombUnit) : (s.setUnit x).wgl = s.wgl := rfl

/-! `setStore` -/
@[simp] theorem State.setStore_pending (g : Nat) (x : Store) : (s.setStore g x).pending = s.pending := rfl
@[simp] theorem State.setStore_build (g : Nat) (x : Store) : (s.setStore g x).build = s.build := rfl
@[simp] theorem State.setStore_aclk (g : Nat) (x : Store) : (s.setStore g x).aclk = s.aclk := rfl
@[simp] theorem State.setStore_free (g : Nat) (x : Store) : (s.setStore g x).free = s.free := rfl
@[simp] theorem State.setStore_regs (g : Nat) (x : Store) : (s.setStore g x).regs = s.regs := rfl
@[simp] theorem State.setStore_pend (g : Nat) (x : Store) : (s.setStore g x).pend = s.pend := rfl
@[simp] theorem State.setStore_pairs (g : Nat) (x : Store) : (s.setStore g x).pairs = s.pairs := rfl
@[simp] theorem State.setStore_answer (g : Nat) (x : Store) : (s.setStore g x).answer = s.answer := rfl
@[simp] theorem State.setStore_tpAnswer (g : Nat) (x : Store) : (s.setStore g x).tpAnswer = s.tpAnswer := rfl
@[simp] theorem State.setStore_init (g : Nat) (x : Store) : (s.setStore g x).init = s.init := rfl
@[simp] theorem State.setStore_power (g : Nat) (x : Store) : (s.setStore g x).power = s.power := rfl
@[simp] theorem State.setStore_smoke (g : Nat) (x : Store) : (s.setStore g x).smoke = s.smoke := rfl
@[simp] theorem State.setStore_pins (g : Nat) (x : Store) : (s.setStore g x).pins = s.pins := rfl
@[simp] theorem State.setStore_ports (g : Nat) (x : Store) : (s.setStore g x).ports = s.ports := rfl
@[simp] theorem State.setStore_target (g : Nat) (x : Store) : (s.setStore g x).target = s.target := rfl
@[simp] theorem State.setStore_qps (g : Nat) (x : Store) : (s.setStore g x).qps = s.qps := rfl
@[simp] theorem State.setStore_lastQp (g : Nat) (x : Store) : (s.setStore g x).lastQp = s.lastQp := rfl
@[simp] theorem State.setStore_turnOn (g : Nat) (x : Store) : (s.setStore g x).turnOn = s.turnOn := rfl
@[simp] theorem State.setStore_admSeq (g : Nat) (x : Store) : (s.setStore g x).admSeq = s.admSeq := rfl
@[simp] theorem State.setStore_adms (g : Nat) (x : Store) : (s.setStore g x).adms = s.adms := rfl
@[simp] theorem State.setStore_slots (g : Nat) (x : Store) : (s.setStore g x).slots = s.slots := rfl
@[simp] theorem State.setStore_readyNo (g : Nat) (x : Store) : (s.setStore g x).readyNo = s.readyNo := rfl
@[simp] theorem State.setStore_alert (g : Nat) (x : Store) : (s.setStore g x).alert = s.alert := rfl
@[simp] theorem State.setStore_ops (g : Nat) (x : Store) : (s.setStore g x).ops = s.ops := rfl
@[simp] theorem State.setStore_opNo (g : Nat) (x : Store) : (s.setStore g x).opNo = s.opNo := rfl
@[simp] theorem State.setStore_chans (g : Nat) (x : Store) : (s.setStore g x).chans = s.chans := rfl
@[simp] theorem State.setStore_cws (g : Nat) (x : Store) : (s.setStore g x).cws = s.cws := rfl
@[simp] theorem State.setStore_cwNo (g : Nat) (x : Store) : (s.setStore g x).cwNo = s.cwNo := rfl
@[simp] theorem State.setStore_recov (g : Nat) (x : Store) : (s.setStore g x).recov = s.recov := rfl
@[simp] theorem State.setStore_xtsTurn (g : Nat) (x : Store) : (s.setStore g x).xtsTurn = s.xtsTurn := rfl
@[simp] theorem State.setStore_rlv (g : Nat) (x : Store) : (s.setStore g x).rlv = s.rlv := rfl
@[simp] theorem State.setStore_units (g : Nat) (x : Store) : (s.setStore g x).units = s.units := rfl
@[simp] theorem State.setStore_scanCtx (g : Nat) (x : Store) : (s.setStore g x).scanCtx = s.scanCtx := rfl
@[simp] theorem State.setStore_keys (g : Nat) (x : Store) : (s.setStore g x).keys = s.keys := rfl
@[simp] theorem State.setStore_san (g : Nat) (x : Store) : (s.setStore g x).san = s.san := rfl
@[simp] theorem State.setStore_rings (g : Nat) (x : Store) : (s.setStore g x).rings = s.rings := rfl
@[simp] theorem State.setStore_mover (g : Nat) (x : Store) : (s.setStore g x).mover = s.mover := rfl
@[simp] theorem State.setStore_mem (g : Nat) (x : Store) : (s.setStore g x).mem = s.mem := rfl
@[simp] theorem State.setStore_ntf (g : Nat) (x : Store) : (s.setStore g x).ntf = s.ntf := rfl
@[simp] theorem State.setStore_wgl (g : Nat) (x : Store) : (s.setStore g x).wgl = s.wgl := rfl

/-! `setPort` -/
@[simp] theorem State.setPort_pending (p : Nat) (x : Port) : (s.setPort p x).pending = s.pending := rfl
@[simp] theorem State.setPort_build (p : Nat) (x : Port) : (s.setPort p x).build = s.build := rfl
@[simp] theorem State.setPort_aclk (p : Nat) (x : Port) : (s.setPort p x).aclk = s.aclk := rfl
@[simp] theorem State.setPort_free (p : Nat) (x : Port) : (s.setPort p x).free = s.free := rfl
@[simp] theorem State.setPort_regs (p : Nat) (x : Port) : (s.setPort p x).regs = s.regs := rfl
@[simp] theorem State.setPort_pend (p : Nat) (x : Port) : (s.setPort p x).pend = s.pend := rfl
@[simp] theorem State.setPort_pairs (p : Nat) (x : Port) : (s.setPort p x).pairs = s.pairs := rfl
@[simp] theorem State.setPort_answer (p : Nat) (x : Port) : (s.setPort p x).answer = s.answer := rfl
@[simp] theorem State.setPort_tpAnswer (p : Nat) (x : Port) : (s.setPort p x).tpAnswer = s.tpAnswer := rfl
@[simp] theorem State.setPort_init (p : Nat) (x : Port) : (s.setPort p x).init = s.init := rfl
@[simp] theorem State.setPort_power (p : Nat) (x : Port) : (s.setPort p x).power = s.power := rfl
@[simp] theorem State.setPort_smoke (p : Nat) (x : Port) : (s.setPort p x).smoke = s.smoke := rfl
@[simp] theorem State.setPort_pins (p : Nat) (x : Port) : (s.setPort p x).pins = s.pins := rfl
@[simp] theorem State.setPort_target (p : Nat) (x : Port) : (s.setPort p x).target = s.target := rfl
@[simp] theorem State.setPort_qps (p : Nat) (x : Port) : (s.setPort p x).qps = s.qps := rfl
@[simp] theorem State.setPort_lastQp (p : Nat) (x : Port) : (s.setPort p x).lastQp = s.lastQp := rfl
@[simp] theorem State.setPort_turnOn (p : Nat) (x : Port) : (s.setPort p x).turnOn = s.turnOn := rfl
@[simp] theorem State.setPort_admSeq (p : Nat) (x : Port) : (s.setPort p x).admSeq = s.admSeq := rfl
@[simp] theorem State.setPort_adms (p : Nat) (x : Port) : (s.setPort p x).adms = s.adms := rfl
@[simp] theorem State.setPort_slots (p : Nat) (x : Port) : (s.setPort p x).slots = s.slots := rfl
@[simp] theorem State.setPort_readyNo (p : Nat) (x : Port) : (s.setPort p x).readyNo = s.readyNo := rfl
@[simp] theorem State.setPort_alert (p : Nat) (x : Port) : (s.setPort p x).alert = s.alert := rfl
@[simp] theorem State.setPort_ops (p : Nat) (x : Port) : (s.setPort p x).ops = s.ops := rfl
@[simp] theorem State.setPort_opNo (p : Nat) (x : Port) : (s.setPort p x).opNo = s.opNo := rfl
@[simp] theorem State.setPort_chans (p : Nat) (x : Port) : (s.setPort p x).chans = s.chans := rfl
@[simp] theorem State.setPort_stores (p : Nat) (x : Port) : (s.setPort p x).stores = s.stores := rfl
@[simp] theorem State.setPort_cws (p : Nat) (x : Port) : (s.setPort p x).cws = s.cws := rfl
@[simp] theorem State.setPort_cwNo (p : Nat) (x : Port) : (s.setPort p x).cwNo = s.cwNo := rfl
@[simp] theorem State.setPort_recov (p : Nat) (x : Port) : (s.setPort p x).recov = s.recov := rfl
@[simp] theorem State.setPort_xtsTurn (p : Nat) (x : Port) : (s.setPort p x).xtsTurn = s.xtsTurn := rfl
@[simp] theorem State.setPort_rlv (p : Nat) (x : Port) : (s.setPort p x).rlv = s.rlv := rfl
@[simp] theorem State.setPort_units (p : Nat) (x : Port) : (s.setPort p x).units = s.units := rfl
@[simp] theorem State.setPort_scanCtx (p : Nat) (x : Port) : (s.setPort p x).scanCtx = s.scanCtx := rfl
@[simp] theorem State.setPort_keys (p : Nat) (x : Port) : (s.setPort p x).keys = s.keys := rfl
@[simp] theorem State.setPort_san (p : Nat) (x : Port) : (s.setPort p x).san = s.san := rfl
@[simp] theorem State.setPort_rings (p : Nat) (x : Port) : (s.setPort p x).rings = s.rings := rfl
@[simp] theorem State.setPort_mover (p : Nat) (x : Port) : (s.setPort p x).mover = s.mover := rfl
@[simp] theorem State.setPort_mem (p : Nat) (x : Port) : (s.setPort p x).mem = s.mem := rfl
@[simp] theorem State.setPort_ntf (p : Nat) (x : Port) : (s.setPort p x).ntf = s.ntf := rfl
@[simp] theorem State.setPort_wgl (p : Nat) (x : Port) : (s.setPort p x).wgl = s.wgl := rfl

/-! `setSrc` -/
@[simp] theorem State.setSrc_pending (x : Src) : (s.setSrc x).pending = s.pending := rfl
@[simp] theorem State.setSrc_build (x : Src) : (s.setSrc x).build = s.build := rfl
@[simp] theorem State.setSrc_aclk (x : Src) : (s.setSrc x).aclk = s.aclk := rfl
@[simp] theorem State.setSrc_free (x : Src) : (s.setSrc x).free = s.free := rfl
@[simp] theorem State.setSrc_regs (x : Src) : (s.setSrc x).regs = s.regs := rfl
@[simp] theorem State.setSrc_pend (x : Src) : (s.setSrc x).pend = s.pend := rfl
@[simp] theorem State.setSrc_pairs (x : Src) : (s.setSrc x).pairs = s.pairs := rfl
@[simp] theorem State.setSrc_answer (x : Src) : (s.setSrc x).answer = s.answer := rfl
@[simp] theorem State.setSrc_tpAnswer (x : Src) : (s.setSrc x).tpAnswer = s.tpAnswer := rfl
@[simp] theorem State.setSrc_init (x : Src) : (s.setSrc x).init = s.init := rfl
@[simp] theorem State.setSrc_power (x : Src) : (s.setSrc x).power = s.power := rfl
@[simp] theorem State.setSrc_smoke (x : Src) : (s.setSrc x).smoke = s.smoke := rfl
@[simp] theorem State.setSrc_pins (x : Src) : (s.setSrc x).pins = s.pins := rfl
@[simp] theorem State.setSrc_ports (x : Src) : (s.setSrc x).ports = s.ports := rfl
@[simp] theorem State.setSrc_target (x : Src) : (s.setSrc x).target = s.target := rfl
@[simp] theorem State.setSrc_qps (x : Src) : (s.setSrc x).qps = s.qps := rfl
@[simp] theorem State.setSrc_lastQp (x : Src) : (s.setSrc x).lastQp = s.lastQp := rfl
@[simp] theorem State.setSrc_turnOn (x : Src) : (s.setSrc x).turnOn = s.turnOn := rfl
@[simp] theorem State.setSrc_admSeq (x : Src) : (s.setSrc x).admSeq = s.admSeq := rfl
@[simp] theorem State.setSrc_adms (x : Src) : (s.setSrc x).adms = s.adms := rfl
@[simp] theorem State.setSrc_slots (x : Src) : (s.setSrc x).slots = s.slots := rfl
@[simp] theorem State.setSrc_readyNo (x : Src) : (s.setSrc x).readyNo = s.readyNo := rfl
@[simp] theorem State.setSrc_alert (x : Src) : (s.setSrc x).alert = s.alert := rfl
@[simp] theorem State.setSrc_ops (x : Src) : (s.setSrc x).ops = s.ops := rfl
@[simp] theorem State.setSrc_opNo (x : Src) : (s.setSrc x).opNo = s.opNo := rfl
@[simp] theorem State.setSrc_chans (x : Src) : (s.setSrc x).chans = s.chans := rfl
@[simp] theorem State.setSrc_stores (x : Src) : (s.setSrc x).stores = s.stores := rfl
@[simp] theorem State.setSrc_cws (x : Src) : (s.setSrc x).cws = s.cws := rfl
@[simp] theorem State.setSrc_cwNo (x : Src) : (s.setSrc x).cwNo = s.cwNo := rfl
@[simp] theorem State.setSrc_recov (x : Src) : (s.setSrc x).recov = s.recov := rfl
@[simp] theorem State.setSrc_xtsTurn (x : Src) : (s.setSrc x).xtsTurn = s.xtsTurn := rfl
@[simp] theorem State.setSrc_rlv (x : Src) : (s.setSrc x).rlv = s.rlv := rfl
@[simp] theorem State.setSrc_units (x : Src) : (s.setSrc x).units = s.units := rfl
@[simp] theorem State.setSrc_scanCtx (x : Src) : (s.setSrc x).scanCtx = s.scanCtx := rfl
@[simp] theorem State.setSrc_keys (x : Src) : (s.setSrc x).keys = s.keys := rfl
@[simp] theorem State.setSrc_san (x : Src) : (s.setSrc x).san = s.san := rfl
@[simp] theorem State.setSrc_rings (x : Src) : (s.setSrc x).rings = s.rings := rfl
@[simp] theorem State.setSrc_mover (x : Src) : (s.setSrc x).mover = s.mover := rfl
@[simp] theorem State.setSrc_mem (x : Src) : (s.setSrc x).mem = s.mem := rfl
@[simp] theorem State.setSrc_wgl (x : Src) : (s.setSrc x).wgl = s.wgl := rfl

/-! `setTgt` -/
@[simp] theorem State.setTgt_pending (x : Tgt) : (s.setTgt x).pending = s.pending := rfl
@[simp] theorem State.setTgt_build (x : Tgt) : (s.setTgt x).build = s.build := rfl
@[simp] theorem State.setTgt_aclk (x : Tgt) : (s.setTgt x).aclk = s.aclk := rfl
@[simp] theorem State.setTgt_free (x : Tgt) : (s.setTgt x).free = s.free := rfl
@[simp] theorem State.setTgt_regs (x : Tgt) : (s.setTgt x).regs = s.regs := rfl
@[simp] theorem State.setTgt_pend (x : Tgt) : (s.setTgt x).pend = s.pend := rfl
@[simp] theorem State.setTgt_pairs (x : Tgt) : (s.setTgt x).pairs = s.pairs := rfl
@[simp] theorem State.setTgt_answer (x : Tgt) : (s.setTgt x).answer = s.answer := rfl
@[simp] theorem State.setTgt_tpAnswer (x : Tgt) : (s.setTgt x).tpAnswer = s.tpAnswer := rfl
@[simp] theorem State.setTgt_init (x : Tgt) : (s.setTgt x).init = s.init := rfl
@[simp] theorem State.setTgt_power (x : Tgt) : (s.setTgt x).power = s.power := rfl
@[simp] theorem State.setTgt_smoke (x : Tgt) : (s.setTgt x).smoke = s.smoke := rfl
@[simp] theorem State.setTgt_pins (x : Tgt) : (s.setTgt x).pins = s.pins := rfl
@[simp] theorem State.setTgt_ports (x : Tgt) : (s.setTgt x).ports = s.ports := rfl
@[simp] theorem State.setTgt_target (x : Tgt) : (s.setTgt x).target = s.target := rfl
@[simp] theorem State.setTgt_qps (x : Tgt) : (s.setTgt x).qps = s.qps := rfl
@[simp] theorem State.setTgt_lastQp (x : Tgt) : (s.setTgt x).lastQp = s.lastQp := rfl
@[simp] theorem State.setTgt_turnOn (x : Tgt) : (s.setTgt x).turnOn = s.turnOn := rfl
@[simp] theorem State.setTgt_admSeq (x : Tgt) : (s.setTgt x).admSeq = s.admSeq := rfl
@[simp] theorem State.setTgt_adms (x : Tgt) : (s.setTgt x).adms = s.adms := rfl
@[simp] theorem State.setTgt_slots (x : Tgt) : (s.setTgt x).slots = s.slots := rfl
@[simp] theorem State.setTgt_readyNo (x : Tgt) : (s.setTgt x).readyNo = s.readyNo := rfl
@[simp] theorem State.setTgt_alert (x : Tgt) : (s.setTgt x).alert = s.alert := rfl
@[simp] theorem State.setTgt_ops (x : Tgt) : (s.setTgt x).ops = s.ops := rfl
@[simp] theorem State.setTgt_opNo (x : Tgt) : (s.setTgt x).opNo = s.opNo := rfl
@[simp] theorem State.setTgt_chans (x : Tgt) : (s.setTgt x).chans = s.chans := rfl
@[simp] theorem State.setTgt_stores (x : Tgt) : (s.setTgt x).stores = s.stores := rfl
@[simp] theorem State.setTgt_cws (x : Tgt) : (s.setTgt x).cws = s.cws := rfl
@[simp] theorem State.setTgt_cwNo (x : Tgt) : (s.setTgt x).cwNo = s.cwNo := rfl
@[simp] theorem State.setTgt_recov (x : Tgt) : (s.setTgt x).recov = s.recov := rfl
@[simp] theorem State.setTgt_xtsTurn (x : Tgt) : (s.setTgt x).xtsTurn = s.xtsTurn := rfl
@[simp] theorem State.setTgt_rlv (x : Tgt) : (s.setTgt x).rlv = s.rlv := rfl
@[simp] theorem State.setTgt_units (x : Tgt) : (s.setTgt x).units = s.units := rfl
@[simp] theorem State.setTgt_scanCtx (x : Tgt) : (s.setTgt x).scanCtx = s.scanCtx := rfl
@[simp] theorem State.setTgt_keys (x : Tgt) : (s.setTgt x).keys = s.keys := rfl
@[simp] theorem State.setTgt_san (x : Tgt) : (s.setTgt x).san = s.san := rfl
@[simp] theorem State.setTgt_rings (x : Tgt) : (s.setTgt x).rings = s.rings := rfl
@[simp] theorem State.setTgt_mover (x : Tgt) : (s.setTgt x).mover = s.mover := rfl
@[simp] theorem State.setTgt_mem (x : Tgt) : (s.setTgt x).mem = s.mem := rfl
@[simp] theorem State.setTgt_wgl (x : Tgt) : (s.setTgt x).wgl = s.wgl := rfl

/-! `setTimer` -/
@[simp] theorem State.setTimer_pending (x : WTimer) : (s.setTimer x).pending = s.pending := rfl
@[simp] theorem State.setTimer_build (x : WTimer) : (s.setTimer x).build = s.build := rfl
@[simp] theorem State.setTimer_aclk (x : WTimer) : (s.setTimer x).aclk = s.aclk := rfl
@[simp] theorem State.setTimer_free (x : WTimer) : (s.setTimer x).free = s.free := rfl
@[simp] theorem State.setTimer_regs (x : WTimer) : (s.setTimer x).regs = s.regs := rfl
@[simp] theorem State.setTimer_pend (x : WTimer) : (s.setTimer x).pend = s.pend := rfl
@[simp] theorem State.setTimer_pairs (x : WTimer) : (s.setTimer x).pairs = s.pairs := rfl
@[simp] theorem State.setTimer_answer (x : WTimer) : (s.setTimer x).answer = s.answer := rfl
@[simp] theorem State.setTimer_tpAnswer (x : WTimer) : (s.setTimer x).tpAnswer = s.tpAnswer := rfl
@[simp] theorem State.setTimer_init (x : WTimer) : (s.setTimer x).init = s.init := rfl
@[simp] theorem State.setTimer_power (x : WTimer) : (s.setTimer x).power = s.power := rfl
@[simp] theorem State.setTimer_smoke (x : WTimer) : (s.setTimer x).smoke = s.smoke := rfl
@[simp] theorem State.setTimer_pins (x : WTimer) : (s.setTimer x).pins = s.pins := rfl
@[simp] theorem State.setTimer_ports (x : WTimer) : (s.setTimer x).ports = s.ports := rfl
@[simp] theorem State.setTimer_target (x : WTimer) : (s.setTimer x).target = s.target := rfl
@[simp] theorem State.setTimer_qps (x : WTimer) : (s.setTimer x).qps = s.qps := rfl
@[simp] theorem State.setTimer_lastQp (x : WTimer) : (s.setTimer x).lastQp = s.lastQp := rfl
@[simp] theorem State.setTimer_turnOn (x : WTimer) : (s.setTimer x).turnOn = s.turnOn := rfl
@[simp] theorem State.setTimer_admSeq (x : WTimer) : (s.setTimer x).admSeq = s.admSeq := rfl
@[simp] theorem State.setTimer_adms (x : WTimer) : (s.setTimer x).adms = s.adms := rfl
@[simp] theorem State.setTimer_slots (x : WTimer) : (s.setTimer x).slots = s.slots := rfl
@[simp] theorem State.setTimer_readyNo (x : WTimer) : (s.setTimer x).readyNo = s.readyNo := rfl
@[simp] theorem State.setTimer_alert (x : WTimer) : (s.setTimer x).alert = s.alert := rfl
@[simp] theorem State.setTimer_ops (x : WTimer) : (s.setTimer x).ops = s.ops := rfl
@[simp] theorem State.setTimer_opNo (x : WTimer) : (s.setTimer x).opNo = s.opNo := rfl
@[simp] theorem State.setTimer_chans (x : WTimer) : (s.setTimer x).chans = s.chans := rfl
@[simp] theorem State.setTimer_stores (x : WTimer) : (s.setTimer x).stores = s.stores := rfl
@[simp] theorem State.setTimer_cws (x : WTimer) : (s.setTimer x).cws = s.cws := rfl
@[simp] theorem State.setTimer_cwNo (x : WTimer) : (s.setTimer x).cwNo = s.cwNo := rfl
@[simp] theorem State.setTimer_recov (x : WTimer) : (s.setTimer x).recov = s.recov := rfl
@[simp] theorem State.setTimer_xtsTurn (x : WTimer) : (s.setTimer x).xtsTurn = s.xtsTurn := rfl
@[simp] theorem State.setTimer_rlv (x : WTimer) : (s.setTimer x).rlv = s.rlv := rfl
@[simp] theorem State.setTimer_units (x : WTimer) : (s.setTimer x).units = s.units := rfl
@[simp] theorem State.setTimer_scanCtx (x : WTimer) : (s.setTimer x).scanCtx = s.scanCtx := rfl
@[simp] theorem State.setTimer_keys (x : WTimer) : (s.setTimer x).keys = s.keys := rfl
@[simp] theorem State.setTimer_san (x : WTimer) : (s.setTimer x).san = s.san := rfl
@[simp] theorem State.setTimer_rings (x : WTimer) : (s.setTimer x).rings = s.rings := rfl
@[simp] theorem State.setTimer_mover (x : WTimer) : (s.setTimer x).mover = s.mover := rfl
@[simp] theorem State.setTimer_mem (x : WTimer) : (s.setTimer x).mem = s.mem := rfl
@[simp] theorem State.setTimer_ntf (x : WTimer) : (s.setTimer x).ntf = s.ntf := rfl

end

end Sys2Proof.Machine
end

