-- ==== Sys2Proof/Laws/Ops.lean ====
section
/-!
SUPPORT. The keyed lists and the register file: what a read gives after a write, and that every write keeps the
canonical form.
-/

namespace Sys2Proof.Machine

/-! ## Keyed lists -/

@[simp] theorem getBy_nil {α : Type} (key : α → Nat) (k : Nat) : getBy key k [] = none := rfl

theorem getBy_key {α : Type} {key : α → Nat} {k : Nat} {l : List α} {x : α} (h : getBy key k l = some x) : key x = k := by
  induction l with
  | nil => cases h
  | cons y ys ih =>
    simp only [getBy] at h
    split at h
    · cases h; assumption
    · exact ih h

/-- Reading the key that was put gives what was put. -/
@[simp] theorem getBy_putBy_self {α : Type} (key : α → Nat) (x : α) (l : List α) :
    getBy key (key x) (putBy key x l) = some x := by
  induction l with
  | nil => simp [putBy, getBy]
  | cons y ys ih =>
    simp only [putBy]
    split
    · simp [getBy]
    · split
      · simp [getBy]
      · rename_i h
        simp [getBy, Ne.symm h, ih]

/-- Putting leaves every other key alone. -/
theorem getBy_putBy_ne {α : Type} (key : α → Nat) {x : α} {k : Nat} (l : List α) (h : k ≠ key x) :
    getBy key k (putBy key x l) = getBy key k l := by
  induction l with
  | nil => simp [putBy, getBy, Ne.symm h]
  | cons y ys ih =>
    simp only [putBy]
    split
    · simp [getBy, Ne.symm h]
    · split
      · rename_i h1 h2
        have : key y ≠ k := by rw [← h2]; exact Ne.symm h
        simp [getBy, Ne.symm h, this]
      · simp [getBy, ih]

/-- A deleted key is absent. -/
@[simp] theorem getBy_delBy_self {α : Type} (key : α → Nat) (k : Nat) (l : List α) :
    getBy key k (delBy key k l) = none := by
  induction l with
  | nil => rfl
  | cons y ys ih => by_cases h : key y = k <;> simp [delBy, getBy, h, ih]

/-- Deleting leaves every other key alone. -/
theorem getBy_delBy_ne {α : Type} (key : α → Nat) {k k' : Nat} (l : List α) (h : k' ≠ k) :
    getBy key k' (delBy key k l) = getBy key k' l := by
  induction l with
  | nil => rfl
  | cons y ys ih =>
    by_cases h1 : key y = k
    · have : key y ≠ k' := by rw [h1]; exact Ne.symm h
      simp [delBy, getBy, h1, ih, Ne.symm h]
    · simp [delBy, getBy, h1, ih]

/-- An update of the elements that satisfy a test reads as that update, when it keeps the keys. -/
theorem getBy_updBy {α : Type} (key : α → Nat) (p : α → Bool) (f : α → α) (hk : ∀ x, key (f x) = key x) (k : Nat)
    (l : List α) : getBy key k (updBy p f l) = (getBy key k l).map fun x => if p x then f x else x := by
  induction l with
  | nil => rfl
  | cons y ys ih =>
    simp only [updBy, List.map_cons, getBy] at ih ⊢
    have : key (if p y then f y else y) = key y := by split <;> simp [hk]
    rw [this]
    split
    · rfl
    · exact ih

/-- Keys strictly rising. -/
def rising {α : Type} (key : α → Nat) (l : List α) : Prop := List.Pairwise (fun x y => key x < key y) l

theorem mem_putBy {α : Type} {key : α → Nat} {x y : α} {l : List α} (h : y ∈ putBy key x l) : y = x ∨ y ∈ l := by
  induction l with
  | nil => simpa [putBy] using h
  | cons z zs ih =>
    simp only [putBy] at h
    split at h
    · simpa using h
    · split at h
      · rcases List.mem_cons.1 h with h | h
        · exact .inl h
        · exact .inr (List.mem_cons_of_mem _ h)
      · rcases List.mem_cons.1 h with h | h
        · exact .inr (by simp [h])
        · rcases ih h with h | h
          · exact .inl h
          · exact .inr (List.mem_cons_of_mem _ h)

theorem mem_delBy {α : Type} {key : α → Nat} {k : Nat} {y : α} {l : List α} (h : y ∈ delBy key k l) : y ∈ l := by
  induction l with
  | nil => cases h
  | cons z zs ih =>
    simp only [delBy] at h
    split at h
    · exact List.mem_cons_of_mem _ (ih h)
    · rcases List.mem_cons.1 h with h | h
      · simp [h]
      · exact List.mem_cons_of_mem _ (ih h)

/-- Putting keeps the keys strictly rising. -/
theorem rising_putBy {α : Type} {key : α → Nat} (x : α) {l : List α} (h : rising key l) : rising key (putBy key x l) := by
  unfold rising at *
  induction l with
  | nil => simp [putBy]
  | cons y ys ih =>
    have hy := List.pairwise_cons.1 h
    simp only [putBy]
    split
    · rename_i h1
      refine List.pairwise_cons.2 ⟨fun z hz => ?_, h⟩
      rcases List.mem_cons.1 hz with hz | hz
      · rw [hz]; exact h1
      · exact Nat.lt_trans h1 (hy.1 z hz)
    · split
      · rename_i h1 h2
        exact List.pairwise_cons.2 ⟨fun z hz => by rw [h2]; exact hy.1 z hz, hy.2⟩
      · refine List.pairwise_cons.2 ⟨fun z hz => ?_, ih hy.2⟩
        rcases mem_putBy hz with hz | hz
        · rw [hz]; omega
        · exact hy.1 z hz

/-- Deleting keeps the keys strictly rising. -/
theorem rising_delBy {α : Type} {key : α → Nat} (k : Nat) {l : List α} (h : rising key l) : rising key (delBy key k l) := by
  unfold rising at *
  induction l with
  | nil => exact List.Pairwise.nil
  | cons y ys ih =>
    have hy := List.pairwise_cons.1 h
    simp only [delBy]
    split
    · exact ih hy.2
    · exact List.pairwise_cons.2 ⟨fun z hz => hy.1 z (mem_delBy hz), ih hy.2⟩

/-! ## The register file -/

/-- Reading a register that was set gives the value set. -/
@[simp] theorem State.reg_setReg_self (s : State) (a : Nat) (v : Word) : (s.setReg a v).reg a = v := by
  simp only [State.reg, State.setReg, regGet, regPut, assoc]
  split
  · rename_i h; simp [h]
  · have := getBy_putBy_self (Prod.fst : Nat × Word → Nat) (a, v) s.regs
    simp only at this
    simp [this]

/-- Setting a register leaves every other register alone. -/
theorem State.reg_setReg_ne (s : State) {a b : Nat} (v : Word) (h : b ≠ a) : (s.setReg a v).reg b = s.reg b := by
  simp only [State.reg, State.setReg, regGet, regPut, assoc]
  split
  · rw [getBy_delBy_ne _ _ h]
  · rw [getBy_putBy_ne]; exact h

@[simp] theorem State.regN_setRegN_self (s : State) (a n : Nat) : (s.setRegN a n).regN a = n % 2 ^ 32 := by
  simp [State.regN, State.setRegN]

theorem State.reg_setRegN_ne (s : State) {a b : Nat} (n : Nat) (h : b ≠ a) : (s.setRegN a n).reg b = s.reg b :=
  s.reg_setReg_ne _ h

theorem State.reg_setFldOf_ne (s : State) {a b : Nat} (lo w n : Nat) (h : b ≠ a) : (s.setFldOf a lo w n).reg b = s.reg b :=
  s.reg_setReg_ne _ h

theorem State.reg_bump_ne (s : State) {a b : Nat} (n : Nat) (h : b ≠ a) : (s.bump a n).reg b = s.reg b :=
  s.reg_setReg_ne _ h

/-- A counter that is not at its greatest value counts one event (R11). -/
theorem State.regN_bump (s : State) (a n : Nat) : (s.bump a n).regN a = min (s.regN a + n) (2 ^ 32 - 1) := by
  have h : min (s.regN a + n) (2 ^ 32 - 1) < 2 ^ 32 := by omega
  simp only [State.bump, State.regN_setRegN_self]
  exact Nat.mod_eq_of_lt h

/-- The canonical form says that the addresses rise strictly and that no entry holds its reset value. -/
theorem regsWf_iff (b : Build) (l : List (Nat × Word)) :
    regsWf b l = true ↔ rising Prod.fst l ∧ ∀ e ∈ l, e.2 ≠ Reg.resetValue b e.1 := by
  induction l with
  | nil => simp [regsWf, rising]
  | cons x xs ih =>
    obtain ⟨a, v⟩ := x
    cases xs with
    | nil => simp [regsWf, rising]
    | cons y ys =>
      obtain ⟨a', v'⟩ := y
      simp only [regsWf, Bool.and_eq_true, bne_iff_ne, decide_eq_true_eq] at ih ⊢
      rw [ih]
      constructor
      · rintro ⟨⟨hv, hlt⟩, hr, hall⟩
        refine ⟨List.pairwise_cons.2 ⟨fun z hz => ?_, hr⟩, fun e he => ?_⟩
        · rcases List.mem_cons.1 hz with rfl | hz
          · exact hlt
          · exact Nat.lt_trans hlt ((List.pairwise_cons.1 hr).1 z hz)
        · rcases List.mem_cons.1 he with rfl | he
          · exact hv
          · exact hall e he
      · rintro ⟨hr, hall⟩
        have hr' := List.pairwise_cons.1 hr
        exact ⟨⟨hall (a, v) (by simp), hr'.1 (a', v') (by simp)⟩, hr'.2, fun e he => hall e (List.mem_cons_of_mem _ he)⟩

/-- Setting a register keeps the canonical form of the register file. -/
theorem regsWf_regPut (b : Build) {l : List (Nat × Word)} (a : Nat) (v : Word) (h : regsWf b l = true) :
    regsWf b (regPut b l a v) = true := by
  rw [regsWf_iff] at h ⊢
  unfold regPut
  split
  · exact ⟨rising_delBy a h.1, fun e he => h.2 e (mem_delBy he)⟩
  · rename_i hv
    refine ⟨rising_putBy _ h.1, fun e he => ?_⟩
    rcases mem_putBy he with rfl | he
    · exact hv
    · exact h.2 e he

theorem State.regsWf_setReg {s : State} (a : Nat) (v : Word) (h : regsWf s.build s.regs = true) :
    regsWf s.build (s.setReg a v).regs = true := regsWf_regPut _ a v h

/-! ## Units of the state -/

@[simp] theorem State.slot_setSlot_self (s : State) (x : Slot) : (s.setSlot x).slot x.id = some x :=
  getBy_putBy_self Slot.id x s.slots

theorem State.slot_setSlot_ne (s : State) {x : Slot} {n : Nat} (h : n ≠ x.id) : (s.setSlot x).slot n = s.slot n :=
  getBy_putBy_ne Slot.id s.slots h

@[simp] theorem State.slot_delSlot_self (s : State) (n : Nat) : (s.delSlot n).slot n = none :=
  getBy_delBy_self Slot.id n s.slots

theorem State.slot_delSlot_ne (s : State) {n m : Nat} (h : m ≠ n) : (s.delSlot n).slot m = s.slot m :=
  getBy_delBy_ne Slot.id s.slots h

/-- A slot after an update that keeps slot numbers. -/
theorem State.slot_updSlot (s : State) (n m : Nat) (f : Slot → Slot) (hf : ∀ x, (f x).id = x.id) :
    (s.updSlot n f).slot m = (s.slot m).map fun x => if x.id == n then f x else x :=
  getBy_updBy Slot.id _ f hf m s.slots

theorem State.slot_updSlot_self {s : State} {n : Nat} {x : Slot} (f : Slot → Slot) (hf : ∀ x, (f x).id = x.id)
    (h : s.slot n = some x) : (s.updSlot n f).slot n = some (f x) := by
  rw [s.slot_updSlot n n f hf, h]
  simp [getBy_key h]

theorem State.slot_updSlot_ne (s : State) {n m : Nat} (f : Slot → Slot) (hf : ∀ x, (f x).id = x.id) (h : m ≠ n) :
    (s.updSlot n f).slot m = s.slot m := by
  rw [s.slot_updSlot n m f hf]
  cases hs : s.slot m with
  | none => rfl
  | some x => simp [getBy_key hs, h]

@[simp] theorem State.chan_setChan_self (s : State) (c : Chan) : (s.setChan c).chan c.id = c := by
  simp [State.chan, State.setChan]

theorem State.chan_setChan_ne (s : State) {c : Chan} {ch : Nat} (h : ch ≠ c.id) : (s.setChan c).chan ch = s.chan ch := by
  simp [State.chan, State.setChan, getBy_putBy_ne Chan.id s.chans h]

/-- The channel record read for a number has that number. -/
@[simp] theorem State.chan_id (s : State) (ch : Nat) : (s.chan ch).id = ch := by
  unfold State.chan
  cases h : getBy Chan.id ch s.chans with
  | none => rfl
  | some c => simpa using getBy_key h

/-- A channel after an update that keeps its number. -/
theorem State.chan_updChan_self (s : State) (ch : Nat) (f : Chan → Chan) (hf : ∀ c, (f c).id = c.id) :
    (s.updChan ch f).chan ch = f (s.chan ch) := by
  have h : (f (s.chan ch)).id = ch := by rw [hf, s.chan_id]
  have := s.chan_setChan_self (f (s.chan ch))
  rw [h] at this
  exact this

theorem State.chan_updChan_ne (s : State) {ch d : Nat} (f : Chan → Chan) (hf : ∀ c, (f c).id = c.id) (h : d ≠ ch) :
    (s.updChan ch f).chan d = s.chan d := by
  unfold State.updChan
  exact s.chan_setChan_ne (by rw [hf, s.chan_id]; exact h)

@[simp] theorem State.ring_setRing_self (s : State) (x : BufRing) : (s.setRing x).ring x.r = x := by
  simp [State.ring, State.setRing]

theorem State.ring_setRing_ne (s : State) {x : BufRing} {r : Nat} (h : r ≠ x.r) : (s.setRing x).ring r = s.ring r := by
  simp [State.ring, State.setRing, getBy_putBy_ne BufRing.r s.rings h]

@[simp] theorem State.unit_setUnit_self (s : State) (x : CombUnit) : (s.setUnit x).unit x.u = x := by
  simp [State.unit, State.setUnit]

theorem State.unit_setUnit_ne (s : State) {x : CombUnit} {u : Nat} (h : u ≠ x.u) : (s.setUnit x).unit u = s.unit u := by
  simp [State.unit, State.setUnit, getBy_putBy_ne CombUnit.u s.units h]

@[simp] theorem State.src_setSrc_self (s : State) (x : Src) : (s.setSrc x).src x.s = x := by
  simp [State.src, State.setSrc]

theorem State.src_setSrc_ne (s : State) {x : Src} {n : Nat} (h : n ≠ x.s) : (s.setSrc x).src n = s.src n := by
  simp [State.src, State.setSrc, getBy_putBy_ne Src.s s.ntf.srcs h]

@[simp] theorem State.tgt_setTgt_self (s : State) (x : Tgt) : (s.setTgt x).tgt x.t = x := by
  simp [State.tgt, State.setTgt]

theorem State.tgt_setTgt_ne (s : State) {x : Tgt} {t : Nat} (h : t ≠ x.t) : (s.setTgt x).tgt t = s.tgt t := by
  simp [State.tgt, State.setTgt, getBy_putBy_ne Tgt.t s.ntf.tgts h]

@[simp] theorem State.timer_setTimer_self (s : State) (x : WTimer) : (s.setTimer x).timer x.k = x := by
  simp [State.timer, State.setTimer]

theorem State.timer_setTimer_ne (s : State) {x : WTimer} {k : Nat} (h : k ≠ x.k) : (s.setTimer x).timer k = s.timer k := by
  simp [State.timer, State.setTimer, getBy_putBy_ne WTimer.k s.wgl.timers h]

/-- A queue pair after an update that keeps its number. -/
theorem State.qp_updQp_self {s : State} {q : Nat} {x : QP} (f : QP → QP) (hf : ∀ x, (f x).qid = x.qid)
    (h : s.qp q = some x) : (s.updQp q f).qp q = some (f x) := by
  have := getBy_updBy QP.qid (fun x => x.qid == q) f hf q s.qps
  unfold State.qp State.updQp at *
  rw [this, h]
  simp [getBy_key h]

theorem State.qp_updQp_ne (s : State) {q r : Nat} (f : QP → QP) (hf : ∀ x, (f x).qid = x.qid) (h : r ≠ q) :
    (s.updQp q f).qp r = s.qp r := by
  have := getBy_updBy QP.qid (fun x => x.qid == q) f hf r s.qps
  unfold State.qp State.updQp at *
  rw [this]
  cases hs : getBy QP.qid r s.qps with
  | none => rfl
  | some x => simp [getBy_key hs, h]

/-- An operation after an update that keeps its number. -/
theorem State.op_updOp_self {s : State} {n : Nat} {o : Op} (f : Op → Op) (hf : ∀ x, (f x).id = x.id)
    (h : s.op n = some o) : (s.updOp n f).op n = some (f o) := by
  have := getBy_updBy Op.id (fun x => x.id == n) f hf n s.ops
  unfold State.op State.updOp at *
  rw [this, h]
  simp [getBy_key h]

/-- Setting a port of the part reads back. -/
theorem State.port_setPort_self (s : State) {p : Nat} (x : Port) (h : p < 4) : (s.setPort p x).port p = x := by
  simp [State.port, State.setPort, List.getD_eq_getElem?_getD, h]

theorem State.port_setPort_ne (s : State) {p q : Nat} (x : Port) (hq : q < 4) (h : q ≠ p) :
    (s.setPort p x).port q = s.port q := by
  simp [State.port, State.setPort, List.getD_eq_getElem?_getD, hq, h]

/-- Setting a control store of the part reads back. -/
theorem State.store_setStore_self (s : State) {g : Nat} (x : Store) (h : g < 4) : (s.setStore g x).store g = x := by
  simp [State.store, State.setStore, List.getD_eq_getElem?_getD, h]

theorem State.store_setStore_ne (s : State) {g k : Nat} (x : Store) (hk : k < 4) (h : k ≠ g) :
    (s.setStore g x).store k = s.store k := by
  simp [State.store, State.setStore, List.getD_eq_getElem?_getD, hk, h]

/-- The reset machine's register file is in its canonical form. -/
theorem reset_regsWf (b : Build) : regsWf (State.resetOf b).build (State.resetOf b).regs = true := rfl

end Sys2Proof.Machine
end

