-- ==== Sys2Proof/Laws/Fire.lean ====
section
/-!
SUPPORT. What the frame around every meaning can change: the ring producers with the channels they fire, and the
notification controller.
-/

namespace Sys2Proof.Machine

/-- What firing a channel leaves alone: everything but the registers of the waggle fabric, GLB_PWR_CTL and
HQ_AR_DROP_CNT, the fabric, the controller's sources, the queue of alert records, and the power state in P1. -/
def Fires (s t : State) : Prop :=
  (∃ r w n a p, t = { s with regs := r, wgl := w, ntf := n, alert := a, power := p }) ∧
  (∀ x, (x = A.glbPwrCtl → s.power.st ≠ .p1) → x ≠ A.hqArDropCnt → (x < 0x050000 ∨ 0x050600 ≤ x) → t.reg x = s.reg x) ∧
  t.ntf.tgts = s.ntf.tgts ∧ t.ntf.int = s.ntf.int ∧
  t.alert.tail = s.alert.tail ∧ t.alert.wphase = s.alert.wphase ∧ t.alert.out = s.alert.out ∧
  (s.power.st ≠ .p1 → t.power = s.power) ∧ t.wgl.timers = s.wgl.timers ∧ t.wgl.calBusy = s.wgl.calBusy ∧
  s.alert.queue <+: t.alert.queue ∧ (∀ n, (t.src n).active = (s.src n).active ∧ (t.src n).lastT = (s.src n).lastT)

theorem Fires.refl (s : State) : Fires s s :=
  ⟨⟨_, _, _, _, _, rfl⟩, fun _ _ _ _ => rfl, rfl, rfl, rfl, rfl, rfl, fun _ => rfl, rfl, rfl,
    List.prefix_rfl, fun _ => ⟨rfl, rfl⟩⟩

theorem Fires.trans {s t u : State} (h : Fires s t) (k : Fires t u) : Fires s u := by
  obtain ⟨⟨r, w, n, a, p, rfl⟩, h2, h3, h4, h5, h6, h7, h8, h9, h10, hq, h11⟩ := h
  obtain ⟨⟨r', w', n', a', p', rfl⟩, k2, k3, k4, k5, k6, k7, k8, k9, k10, kq, k11⟩ := k
  refine ⟨⟨r', w', n', a', p', rfl⟩, fun x hx hy hz =>
    (k2 x (fun hg => by have := hx hg; rw [h8 this]; exact this) hy hz).trans (h2 x hx hy hz), k3.trans h3, k4.trans h4,
    k5.trans h5, k6.trans h6, k7.trans h7, fun hp => ?_, k9.trans h9, k10.trans h10, hq.trans kq,
    fun n => ⟨(k11 n).1.trans (h11 n).1, (k11 n).2.trans (h11 n).2⟩⟩
  have hp' := h8 hp
  have : ({ s with regs := r, wgl := w, ntf := n, alert := a, power := p } : State).power.st ≠ .p1 := by rw [hp']; exact hp
  exact (k8 this).trans hp'

theorem Fires.foldl {α : Type} (f : State → α → State) (l : List α) (h : ∀ x ∈ l, ∀ s, Fires s (f s x)) (s : State) :
    Fires s (l.foldl f s) := by
  induction l generalizing s with
  | nil => exact Fires.refl s
  | cons x xs ih =>
    exact (h x (by simp) s).trans (ih (fun y hy => h y (List.mem_cons_of_mem _ hy)) _)

/-- Writing a register of the fabric, or one of the two others, is such a change. -/
theorem Fires.setReg (s : State) (a : Nat) (v : Word)
    (h : a = A.hqArDropCnt ∨ (0x050000 ≤ a ∧ a < 0x050600)) : Fires s (s.setReg a v) := by
  refine ⟨⟨_, _, _, _, _, rfl⟩, fun x hx hy hz => s.reg_setReg_ne v ?_, rfl, rfl, rfl, rfl, rfl, fun _ => rfl,
    rfl, rfl, List.prefix_rfl, fun _ => ⟨rfl, rfl⟩⟩
  rcases h with h | h
  · rw [h]; exact hy
  · omega

theorem Fires.wgl (s : State) (w : Wgl) (h1 : w.timers = s.wgl.timers) (h2 : w.calBusy = s.wgl.calBusy) :
    Fires s { s with wgl := w } :=
  ⟨⟨_, _, _, _, _, rfl⟩, fun _ _ _ _ => rfl, rfl, rfl, rfl, rfl, rfl, fun _ => rfl, h1, h2,
    List.prefix_rfl, fun _ => ⟨rfl, rfl⟩⟩

/-- The source record read for a number has that number. -/
@[simp] theorem State.src_s (s : State) (n : Nat) : (s.src n).s = n := by
  unfold State.src
  cases h : getBy Src.s n s.ntf.srcs with
  | none => rfl
  | some x => simpa using getBy_key h

/-- The target record read for a number has that number. -/
@[simp] theorem State.tgt_t (s : State) (k : Nat) : (s.tgt k).t = k := by
  unfold State.tgt
  cases h : getBy Tgt.t k s.ntf.tgts with
  | none => rfl
  | some x => simpa using getBy_key h

/-- Changing a source's counts and latch, and neither the target that serves it nor the one that last claimed it. -/
theorem Fires.setSrc (s : State) (x : Src) (h1 : x.active = (s.src x.s).active) (h2 : x.lastT = (s.src x.s).lastT) :
    Fires s (s.setSrc x) := by
  refine ⟨⟨_, _, _, _, _, rfl⟩, fun _ _ _ _ => rfl, rfl, rfl, rfl, rfl, rfl, fun _ => rfl, rfl, rfl,
    List.prefix_rfl, fun n => ?_⟩
  by_cases hn : n = x.s
  · subst hn; simp [h1, h2]
  · rw [s.src_setSrc_ne hn]; exact ⟨rfl, rfl⟩

theorem Fires.leaveP1 (s : State) : Fires s (leaveP1 s) := by
  unfold Machine.leaveP1
  split
  · rename_i hp
    refine ⟨⟨_, _, _, _, _, rfl⟩, fun x hx _ _ => ?_, rfl, rfl, rfl, rfl, rfl, fun h => absurd hp h, rfl, rfl,
      List.prefix_rfl, fun _ => ⟨rfl, rfl⟩⟩
    exact State.reg_setReg_ne _ _ fun hg => hx hg hp
  · exact Fires.refl s

theorem Fires.overrun (s : State) {k : Nat} (h : k < 64) : Fires s (overrun s k) := by
  refine (Fires.setReg s (A.wglOvr (k / 32)) _ (.inr (?_))).trans (Fires.setReg _ A.wglOvrCnt _ (.inr (?_)))
  · unfold A.wglOvr; omega
  · decide

theorem Fires.trigger (s : State) (c : Nat) {k : Nat} (h : k < 64) : Fires s (trigger s c k) := by
  unfold Machine.trigger
  split
  · split
    · exact Fires.overrun s h
    · exact Fires.wgl s _ rfl rfl
  · simp only
    split
    · exact (Fires.leaveP1 s).trans (Fires.wgl _ _ rfl rfl)
    · exact Fires.wgl s _ rfl rfl

theorem Fires.raise (s : State) (typ src i0 i1 i2 : Nat) : Fires s (s.raise typ src i0 i1 i2) := by
  unfold State.raise
  split
  · refine ⟨⟨_, _, _, _, _, rfl⟩, fun _ _ _ _ => rfl, rfl, rfl, rfl, rfl, rfl, fun _ => rfl, rfl, rfl, ?_, fun _ => ⟨rfl, rfl⟩⟩
    exact List.prefix_append _ _
  · have h : Fires s { s with alert := { s.alert with lost := true } } :=
      ⟨⟨_, _, _, _, _, rfl⟩, fun _ _ _ _ => rfl, rfl, rfl, rfl, rfl, rfl, fun _ => rfl, rfl, rfl,
    List.prefix_rfl, fun _ => ⟨rfl, rfl⟩⟩
    exact h.trans (Fires.setReg _ A.hqArDropCnt _ (.inl rfl))

theorem Fires.loopStop (s : State) (c : Nat) : Fires s (loopStop s c) := by
  unfold Machine.loopStop
  have h : Fires s ((s.setReg A.wglChEn (s.reg A.wglChEn &&& ~~~ BitVec.ofNat 32 (1 <<< c))).setReg A.wglLoopSts
      ((s.setReg A.wglChEn (s.reg A.wglChEn &&& ~~~ BitVec.ofNat 32 (1 <<< c))).reg A.wglLoopSts ||| BitVec.ofNat 32 (1 <<< c))) :=
    (Fires.setReg s A.wglChEn _ (.inr ((by decide)))).trans (Fires.setReg _ A.wglLoopSts _ (.inr ((by decide))))
  simp only
  split
  · exact h.trans (Fires.wgl _ _ rfl rfl)
  · exact h.trans (Fires.raise _ _ _ _ _ _)

theorem Fires.fireChan (soft : Bool) (s : State) {c : Nat} (h : c < 32) : Fires s (fireChan soft s c) := by
  unfold Machine.fireChan
  split
  · exact Fires.refl s
  · simp only
    have h0 : Fires s (if soft = true then { s with wgl := { s.wgl with soft := addN c s.wgl.soft } } else s) := by
      split
      · exact Fires.wgl s _ rfl rfl
      · exact Fires.refl s
    refine h0.trans ?_
    generalize (if soft = true then { s with wgl := { s.wgl with soft := addN c s.wgl.soft } } else s) = u
    split
    · exact Fires.loopStop u c
    · have h1 := Fires.wgl u { u.wgl with counts := putBy Prod.fst (c, (assoc u.wgl.counts c).getD 0 + 1) u.wgl.counts } rfl rfl
      generalize ({ u with wgl := { u.wgl with counts := putBy Prod.fst (c, (assoc u.wgl.counts c).getD 0 + 1) u.wgl.counts } } : State) = v at *
      refine h1.trans (Fires.trans (Fires.setSrc v { v.src (5 + c) with latch := true } (by simp) (by simp)) ?_)
      generalize v.setSrc { v.src (5 + c) with latch := true } = w
      have h2 : Fires w (w.event (5 + c)) := Fires.setSrc _ _ (by simp) (by simp)
      refine h2.trans ?_
      generalize w.event (5 + c) = x
      have h3 : Fires x (x.bump (A.wglFireCnt c)) := Fires.setReg _ _ _ (.inr ((by unfold A.wglFireCnt; omega)))
      refine h3.trans (Fires.foldl _ _ (fun k hk st => Fires.trigger st c ?_) _)
      have := (List.mem_filter.1 hk).1
      simp only [List.mem_range] at this
      omega

theorem Fires.produce (s : State) (p : Nat) : Fires s (produce s p) := by
  refine Fires.foldl _ _ (fun c hc st => Fires.fireChan false st ?_) _
  have := (List.mem_filter.1 hc).1
  simpa using this

theorem Fires.levelProducer (s : State) (p : Nat) (a b : Bool) : Fires s (levelProducer s p a b) := by
  unfold Machine.levelProducer
  split
  · split
    · exact Fires.wgl s _ rfl rfl
    · exact Fires.refl s
  · split
    · exact (Fires.wgl s _ rfl rfl).trans (Fires.produce _ p)
    · exact Fires.refl s

theorem Fires.ringProducer (s : State) (k : Nat) : Fires s (ringProducer s k) := by
  unfold Machine.ringProducer
  simp only
  split
  · exact Fires.refl s
  · exact Fires.levelProducer s _ _ _

theorem Fires.ringCheck (s : State) : Fires s (ringCheck s) := by
  unfold Machine.ringCheck
  split
  · exact Fires.refl s
  · exact (((Fires.ringProducer s 0).trans (Fires.ringProducer _ 1)).trans (Fires.ringProducer _ 2)).trans
      (Fires.ringProducer _ 3)

/-! ## `settle` and `after` -/

/-- The controller changes nothing but its own state. -/
theorem settle_eq (s : State) : ∃ n, settle s = { s with ntf := n } ∧ n.int = s.ntf.int := by
  unfold settle
  split
  · exact ⟨_, rfl, rfl⟩
  · exact ⟨s.ntf, rfl, rfl⟩

/-- What a command leaves is its effect, with the queue and the build of before, up to what the ring producers and the
notification controller change. -/
theorem after_eq (s t : State) : ∃ r w n a p,
    after s t = { t with pending := s.pending, build := s.build, regs := r, wgl := w, ntf := n, alert := a, power := p } := by
  obtain ⟨⟨r, w, n, a, p, h⟩, -⟩ := Fires.ringCheck t
  obtain ⟨m, hm, -⟩ := settle_eq { ringCheck t with pending := s.pending, build := s.build }
  exact ⟨r, w, m, a, p, by unfold after; rw [hm, h]⟩

section
variable (s t : State)

@[simp] theorem after_pending : (after s t).pending = s.pending := by obtain ⟨_, _, _, _, _, h⟩ := after_eq s t; rw [h]
@[simp] theorem after_build : (after s t).build = s.build := by obtain ⟨_, _, _, _, _, h⟩ := after_eq s t; rw [h]
@[simp] theorem after_aclk : (after s t).aclk = t.aclk := by obtain ⟨_, _, _, _, _, h⟩ := after_eq s t; rw [h]
@[simp] theorem after_free : (after s t).free = t.free := by obtain ⟨_, _, _, _, _, h⟩ := after_eq s t; rw [h]
@[simp] theorem after_pend : (after s t).pend = t.pend := by obtain ⟨_, _, _, _, _, h⟩ := after_eq s t; rw [h]
@[simp] theorem after_pairs : (after s t).pairs = t.pairs := by obtain ⟨_, _, _, _, _, h⟩ := after_eq s t; rw [h]
@[simp] theorem after_answer : (after s t).answer = t.answer := by obtain ⟨_, _, _, _, _, h⟩ := after_eq s t; rw [h]
@[simp] theorem after_tpAnswer : (after s t).tpAnswer = t.tpAnswer := by obtain ⟨_, _, _, _, _, h⟩ := after_eq s t; rw [h]
@[simp] theorem after_init : (after s t).init = t.init := by obtain ⟨_, _, _, _, _, h⟩ := after_eq s t; rw [h]
@[simp] theorem after_smoke : (after s t).smoke = t.smoke := by obtain ⟨_, _, _, _, _, h⟩ := after_eq s t; rw [h]
@[simp] theorem after_pins : (after s t).pins = t.pins := by obtain ⟨_, _, _, _, _, h⟩ := after_eq s t; rw [h]
@[simp] theorem after_ports : (after s t).ports = t.ports := by obtain ⟨_, _, _, _, _, h⟩ := after_eq s t; rw [h]
@[simp] theorem after_target : (after s t).target = t.target := by obtain ⟨_, _, _, _, _, h⟩ := after_eq s t; rw [h]
@[simp] theorem after_qps : (after s t).qps = t.qps := by obtain ⟨_, _, _, _, _, h⟩ := after_eq s t; rw [h]
@[simp] theorem after_lastQp : (after s t).lastQp = t.lastQp := by obtain ⟨_, _, _, _, _, h⟩ := after_eq s t; rw [h]
@[simp] theorem after_admSeq : (after s t).admSeq = t.admSeq := by obtain ⟨_, _, _, _, _, h⟩ := after_eq s t; rw [h]
@[simp] theorem after_slots : (after s t).slots = t.slots := by obtain ⟨_, _, _, _, _, h⟩ := after_eq s t; rw [h]
@[simp] theorem after_readyNo : (after s t).readyNo = t.readyNo := by obtain ⟨_, _, _, _, _, h⟩ := after_eq s t; rw [h]
@[simp] theorem after_ops : (after s t).ops = t.ops := by obtain ⟨_, _, _, _, _, h⟩ := after_eq s t; rw [h]
@[simp] theorem after_opNo : (after s t).opNo = t.opNo := by obtain ⟨_, _, _, _, _, h⟩ := after_eq s t; rw [h]
@[simp] theorem after_chans : (after s t).chans = t.chans := by obtain ⟨_, _, _, _, _, h⟩ := after_eq s t; rw [h]
@[simp] theorem after_stores : (after s t).stores = t.stores := by obtain ⟨_, _, _, _, _, h⟩ := after_eq s t; rw [h]
@[simp] theorem after_cws : (after s t).cws = t.cws := by obtain ⟨_, _, _, _, _, h⟩ := after_eq s t; rw [h]
@[simp] theorem after_cwNo : (after s t).cwNo = t.cwNo := by obtain ⟨_, _, _, _, _, h⟩ := after_eq s t; rw [h]
@[simp] theorem after_recov : (after s t).recov = t.recov := by obtain ⟨_, _, _, _, _, h⟩ := after_eq s t; rw [h]
@[simp] theorem after_xtsTurn : (after s t).xtsTurn = t.xtsTurn := by obtain ⟨_, _, _, _, _, h⟩ := after_eq s t; rw [h]
@[simp] theorem after_rlv : (after s t).rlv = t.rlv := by obtain ⟨_, _, _, _, _, h⟩ := after_eq s t; rw [h]
@[simp] theorem after_units : (after s t).units = t.units := by obtain ⟨_, _, _, _, _, h⟩ := after_eq s t; rw [h]
@[simp] theorem after_scanCtx : (after s t).scanCtx = t.scanCtx := by obtain ⟨_, _, _, _, _, h⟩ := after_eq s t; rw [h]
@[simp] theorem after_keys : (after s t).keys = t.keys := by obtain ⟨_, _, _, _, _, h⟩ := after_eq s t; rw [h]
@[simp] theorem after_san : (after s t).san = t.san := by obtain ⟨_, _, _, _, _, h⟩ := after_eq s t; rw [h]
@[simp] theorem after_rings : (after s t).rings = t.rings := by obtain ⟨_, _, _, _, _, h⟩ := after_eq s t; rw [h]
@[simp] theorem after_mover : (after s t).mover = t.mover := by obtain ⟨_, _, _, _, _, h⟩ := after_eq s t; rw [h]
@[simp] theorem after_mem : (after s t).mem = t.mem := by obtain ⟨_, _, _, _, _, h⟩ := after_eq s t; rw [h]

end

/-- A register outside the fabric, GLB_PWR_CTL and HQ_AR_DROP_CNT is as the command left it. -/
theorem after_reg {s t : State} (hb : t.build = s.build) {x : Nat} (h1 : x = A.glbPwrCtl → t.power.st ≠ .p1) (h2 : x ≠ A.hqArDropCnt)
    (h3 : x < 0x050000 ∨ 0x050600 ≤ x) : (after s t).reg x = t.reg x := by
  obtain ⟨⟨r, w, n, a, p, h⟩, hr, -⟩ := Fires.ringCheck t
  obtain ⟨m, hm, -⟩ := settle_eq { ringCheck t with pending := s.pending, build := s.build }
  rw [← hr x h1 h2 h3]
  unfold after
  rw [hm]
  simp only [State.reg]
  rw [h, hb]

/-! ## What `settle` keeps of each target and source -/

theorem addN_fold_mem (l acc : List Nat) (x : Nat) :
    x ∈ l.foldl (fun acc n => addN n acc) acc ↔ x ∈ l ∨ x ∈ acc := by
  have key : ∀ (n : Nat) (a : List Nat), x ∈ addN n a ↔ x = n ∨ x ∈ a := by
    intro n a
    unfold addN
    induction a with
    | nil => simp [putBy]
    | cons y ys ih =>
      simp only [putBy, id]
      split
      · simp
      · split
        · rename_i h; subst h; simp
        · simp [ih]; tauto
  induction l generalizing acc with
  | nil => simp
  | cons y ys ih => simp [ih, key]; tauto

/-- Reading a key of a list made from keys. -/
theorem getBy_map_of_key {α : Type} (key : α → Nat) (f : Nat → α) (hf : ∀ n, key (f n) = n) (k : Nat) (l : List Nat) :
    getBy key k (l.map f) = if k ∈ l then some (f k) else none := by
  induction l with
  | nil => rfl
  | cons y ys ih =>
    simp only [List.map_cons, getBy, hf, ih, List.mem_cons]
    by_cases h : y = k
    · subst h; simp
    · simp [h, Ne.symm h]

theorem getBy_none {α : Type} {key : α → Nat} {k : Nat} {l : List α} (h : k ∉ l.map key) : getBy key k l = none := by
  induction l with
  | nil => rfl
  | cons y ys ih =>
    simp only [List.map_cons, List.mem_cons, not_or] at h
    simp [getBy, Ne.symm h.1, ih h.2]

@[simp] theorem State.evalSrc_s (s : State) (x : Src) : (s.evalSrc x).s = x.s := by
  unfold State.evalSrc; simp only; repeat' split
  all_goals rfl

theorem State.evalSrc_keeps (s : State) (x : Src) :
    (s.evalSrc x).active = x.active ∧ (s.evalSrc x).lastT = x.lastT ∧ (s.evalSrc x).latch = x.latch := by
  unfold State.evalSrc; simp only; repeat' split
  all_goals exact ⟨rfl, rfl, rfl⟩

/-- The controller keeps which target serves a source, the target that last claimed it, and its latch. -/
theorem settle_src (s : State) (n : Nat) : ((settle s).src n).active = (s.src n).active ∧
    ((settle s).src n).lastT = (s.src n).lastT ∧ ((settle s).src n).latch = (s.src n).latch := by
  unfold settle
  split
  · have h : (({ s with ntf := s.settledNtf } : State).src n) = if n ∈ s.liveSrcs then s.evalSrc (s.src n) else
        { s := n, n := 0, timer := none, fired := false, ready := false, latch := false, active := none, route := none,
          lastT := none } := by
      unfold State.src
      simp only [State.settledNtf]
      rw [getBy_map_of_key Src.s (fun n => s.evalSrc (s.src n)) (fun n => by simp) n]
      split <;> rfl
    rw [h]
    split
    · exact s.evalSrc_keeps _
    · rename_i hn
      have : n ∉ s.ntf.srcs.map Src.s := fun hm => hn (by
        unfold State.liveSrcs
        simp only
        rw [addN_fold_mem]
        simp only [List.mem_append]
        exact .inl (.inl (.inl hm)))
      unfold State.src
      rw [getBy_none this]
      exact ⟨rfl, rfl, rfl⟩
  · exact ⟨rfl, rfl, rfl⟩

/-- The controller keeps what a target serves and the state of its message write. -/
theorem settle_tgt (s : State) (k : Nat) : ((settle s).tgt k).stack = (s.tgt k).stack ∧
    ((settle s).tgt k).msgErr = (s.tgt k).msgErr ∧ ((settle s).tgt k).out = (s.tgt k).out := by
  unfold settle
  split
  · let srcs := s.liveSrcs.map fun n => s.evalSrc (s.src n)
    have h : (({ s with ntf := s.settledNtf } : State).tgt k) =
        if k ∈ liveTgts s.ntf.tgts srcs then s.evalTgt srcs (s.tgt k) else
        { t := k, stack := [], msgErr := false, due := false, out := false, cands := [] } := by
      unfold State.tgt
      simp only [State.settledNtf]
      rw [getBy_map_of_key Tgt.t (fun t => s.evalTgt srcs (s.tgt t)) (fun n => by simp [State.evalTgt]) k]
      split <;> rfl
    rw [h]
    split
    · exact ⟨rfl, rfl, rfl⟩
    · rename_i hn
      have : k ∉ s.ntf.tgts.map Tgt.t := fun hm => hn (by
        unfold liveTgts
        rw [addN_fold_mem]
        simp only [List.mem_append]
        exact .inl (.inl hm))
      unfold State.tgt
      rw [getBy_none this]
      exact ⟨rfl, rfl, rfl⟩
  · exact ⟨rfl, rfl, rfl⟩

/-! ## Around a command -/

/-- What a command leaves is its effect, up to what happens at the end of every command. -/
theorem around_after {s u : State} (hp : u.pending = s.pending) (hb : u.build = s.build) : Around u (after s u) := by
  obtain ⟨⟨r, w, n, a, p, h⟩, h2, h3, h4, h5, h6, h7, h8, h9, h10, hq, h11⟩ := Fires.ringCheck u
  have e : ({ ringCheck u with pending := s.pending, build := s.build } : State) = ringCheck u := by
    rw [h, ← hp, ← hb]
  unfold after
  rw [e]
  obtain ⟨m, hm, hi⟩ := settle_eq (ringCheck u)
  refine ⟨⟨r, w, m, a, p, by rw [hm, h]⟩, fun x hx hy hz => ?_, fun hw => ?_, ?_, ?_, ?_, ?_, ?_, ?_, ?_, fun k => ?_, fun k => ?_⟩
  · rw [← h2 x hx hy hz, hm]; rfl
  · rw [hm]; exact h8 hw
  · rw [hm]; exact h5
  · rw [hm]; exact h6
  · rw [hm]; exact h7
  · rw [hm]; exact hq
  · rw [hm]; exact h9
  · rw [hm]; exact h10
  · rw [hm]; exact hi.trans h4
  · have ht : (ringCheck u).tgt k = u.tgt k := by unfold State.tgt; rw [h3]
    have := settle_tgt (ringCheck u) k
    rwa [ht] at this
  · have := settle_src (ringCheck u) k
    exact ⟨this.1.trans (h11 k).1, this.2.1.trans (h11 k).2⟩

/-- What happens around a command includes firing before it ends. -/
theorem Around.of_fires {u v t : State} (h : Fires u v) (k : Around v t) : Around u t := by
  obtain ⟨⟨r, w, n, a, p, rfl⟩, h2, h3, h4, h5, h6, h7, h8, h9, h10, hq, h11⟩ := h
  obtain ⟨⟨r', w', n', a', p', rfl⟩, k2, k3, k4, k5, k6, k7, k8, k9, k10, k11, k12⟩ := k
  refine ⟨⟨r', w', n', a', p', rfl⟩, fun x hx hy hz => (k2 x (fun hg => ?_) hy hz).trans (h2 x hx hy hz), fun hp => ?_,
    k4.trans h5, k5.trans h6, k6.trans h7, hq.trans k7, k8.trans h9, k9.trans h10, k10.trans h4, fun k => ?_,
    fun n => ⟨(k12 n).1.trans (h11 n).1, (k12 n).2.trans (h11 n).2⟩⟩
  · rw [h8 (hx hg)]; exact hx hg
  · exact (k3 (by rw [h8 hp]; exact hp)).trans (h8 hp)
  · have : ({ u with regs := r, wgl := w, ntf := n, alert := a, power := p } : State).tgt k = u.tgt k := by
      unfold State.tgt; simp only; rw [h3]
    have := k11 k
    simp_all

/-- With the ring producers off nothing but the controller acts. -/
theorem ringCheck_off {u : State} (h : RingsOff u) : ringCheck u = u := by
  have g : ∀ k < 4, ringProducer u k = u := fun k hk => by
    unfold ringProducer
    simp [h k hk]
  unfold ringCheck
  split
  · rfl
  · rw [g 0 (by omega), g 1 (by omega), g 2 (by omega), g 3 (by omega)]

/-- With the ring producers off the queue and the build stay as before the command, and the controller evaluates. -/
theorem after_off_eq (s : State) {u : State} (h : RingsOff u) :
    after s u = settle { u with pending := s.pending, build := s.build } := by
  unfold after
  rw [ringCheck_off h]

theorem after_off {s u : State} (hp : u.pending = s.pending) (hb : u.build = s.build) (h : RingsOff u) :
    after s u = settle u := by
  unfold after
  rw [ringCheck_off h, ← hp, ← hb]

/-! ## The frame of a meaning -/

/-- A meaning whose operands name units of the part answers a next state. -/
theorem run_true (s : State) (f : State → State) : run true s f = .next (if s.held then s else after s (f s)) := rfl

/-- Outside a held block the next state is the command's effect. -/
theorem run_of_ok {ok : Bool} {s : State} (f : State → State) (h : ok = true) (hh : s.held = false) :
    run ok s f = .next (after s (f s)) := by
  subst h
  simp [run, hh]

theorem runPin_eq (s : State) (f : State → State) : runPin s f = .next (after s (f s)) := rfl

/-- A meaning that keeps the queue and the build leaves its effect, around what follows every command. -/
theorem run_around {ok : Bool} {s : State} {f : State → State} (h : ok = true) (hh : s.held = false)
    (hp : (f s).pending = s.pending) (hb : (f s).build = s.build) :
    run ok s f = .next (after s (f s)) ∧ Around (f s) (after s (f s)) :=
  ⟨run_of_ok f h hh, around_after hp hb⟩

theorem runPin_around {s : State} {f : State → State} (hp : (f s).pending = s.pending) (hb : (f s).build = s.build) :
    runPin s f = .next (after s (f s)) ∧ Around (f s) (after s (f s)) :=
  ⟨rfl, around_after hp hb⟩

end Sys2Proof.Machine
end

