-- ==== Sys2Proof/Laws/Access.lean ====
section
/-!
SUPPORT. What one access of the register bus does, said once: served, DENIED, in P1 and in P2.
-/

namespace Sys2Proof.Machine

/-- Outside P1 there is nothing to leave. -/
theorem leaveP1_of_ne {s : State} (h : s.power.st ≠ .p1) : leaveP1 s = s := by simp [leaveP1, h]

/-- In P0 an access is DENIED or served. -/
theorem mpServe_p0 {s : State} (a : Nat) (write : Bool) (v : Word) (f : State → State) (h : s.power.st = .p0) :
    mpServe s a write v f = if s.denied a then mpAnswer s true 0 else f s := by
  simp [mpServe, h, leaveP1_of_ne]

/-- In P2 an access is held and starts the wake. -/
theorem mpServe_p2 {s : State} (a : Nat) (write : Bool) (v : Word) (f : State → State) (h : s.power.st = .p2) :
    mpServe s a write v f = startWake { s with power := { s.power with mpHeld := s.power.mpHeld.orElse fun _ => some (a, write, v) } } := by
  simp [mpServe, h]

/-- In P1 an access first returns the block to P0. -/
theorem mpServe_p1 {s : State} (a : Nat) (write : Bool) (v : Word) (f : State → State) (h : s.power.st = .p1) :
    mpServe s a write v f = mpServe (leaveP1 s) a write v f := by
  have hp : (leaveP1 s).power.st = .p0 := by simp [leaveP1, h]
  rw [mpServe_p0 a write v f hp]
  simp [mpServe, h]

/-- With INIT_DONE, and a level below RPL2, nothing is DENIED. -/
theorem denied_false {s : State} (a : Nat) (h1 : s.init.done = true) (h2 : s.level ≠ 2) : s.denied a = false := by
  simp [State.denied, h1, h2]

/-- With INIT_DONE a register that RPL2 does not close is not DENIED. -/
theorem denied_false' {s : State} {a : Nat} (h1 : s.init.done = true) (h2 : (a == A.secRplReq) = false)
    (h3 : (rowBase a == some (A.seqCswData 0 0)) = false) (h4 : (rowBase a == some (A.seqEnt 0 0)) = false) :
    s.denied a = false := by
  simp only [State.denied, h1, h2, h3, h4]
  simp

/-- A served MPORT write leaves what the register's write does, the answer OK, and no keyed pair. -/
theorem accessWrite_mport {s : State} {a : Nat} (v : Word) (h : s.power.st = .p0) (hd : s.denied a = false)
    (hk : (a != A.secRplReq) = true) :
    accessWrite s .mport a v none = mpAnswer (keyBreak (writeReg s .mport a v)) false 0 := by
  simp [accessWrite, regAccess, mpServe_p0 a _ _ _ h, hd, hk]

/-- A write to a register with its own behaviour does that behaviour. -/
theorem writeReg_act {s : State} {m : Master} {a : Nat} {v : Word} {r : RegRow} {is : List Nat} {t : State}
    (hf : Reg.find a = some (r, is)) (hi : s.instOk r is = true) (h1 : Reg.pairBase a = false)
    (h2 : (decide (4 ≤ a) && Reg.pairBase (a - 4)) = false) (ht : actWrite s r.base (is.getD 0 0) v = some t) :
    writeReg s m a v = t := by
  have h2' : ¬(4 ≤ a ∧ Reg.pairBase (a - 4) = true) := by
    intro h; simp [h.1, h.2] at h2
  simp only [writeReg, hf, hi, h1, h2', ht]
  simp

end Sys2Proof.Machine
end

