-- ==== Sys2Proof/Laws/Codec.lean ====
section
/-!
SUPPORT. What the encoder of R250 to R254 makes is a codeword with a good CRC: little-endian bytes read back, the parity of R254 checks
against itself, and CRC-32C fits its four bytes.
-/

namespace Sys2Proof.Machine

@[simp] theorem leBytes_length (n v : Nat) : (leBytes n v).length = n := by
  induction n generalizing v with
  | zero => rfl
  | succ n ih => simp [leBytes, ih]

theorem leNat_leBytes (n v : Nat) : leNat (leBytes n v) = v % 256 ^ n := by
  induction n generalizing v with
  | zero => simp [leBytes, leNat, Nat.mod_one]
  | succ n ih =>
    simp only [leBytes, leNat, ih, BitVec.toNat_ofNat]
    exact (Nat.pow_succ' (m := 256) (n := n) ▸ Nat.mod_mul).symm

theorem crcBit_lt (c : Nat) (h : c < 2 ^ 32) : crcBit c < 2 ^ 32 := by
  unfold crcBit
  split
  · exact Nat.xor_lt_two_pow (by omega) (by omega)
  · omega

theorem crcByte_lt (c : Nat) (x : Byte) (h : c < 2 ^ 32) : crcByte c x < 2 ^ 32 := by
  have hx : x.toNat < 2 ^ 32 := by have := x.isLt; omega
  unfold crcByte
  repeat' apply crcBit_lt
  exact Nat.xor_lt_two_pow h hx

theorem crc32c_lt (l : List Byte) : crc32c l < 2 ^ 32 := by
  have h : ∀ (l : List Byte) (c : Nat), c < 2 ^ 32 → l.foldl crcByte c < 2 ^ 32 := fun l => by
    induction l with
    | nil => exact fun c hc => hc
    | cons x l ih => exact fun c hc => ih _ (crcByte_lt c x hc)
  exact Nat.xor_lt_two_pow (h l _ (by omega)) (by omega)

theorem leAt_crc (l r : List Byte) (o : Nat) (h : l.length = o) : leAt (l ++ (leBytes 4 (crc32c l) ++ r)) o 4 = crc32c l := by
  rw [leAt, List.drop_append_of_le_length (by omega), List.drop_of_length_le (by omega), List.nil_append, List.take_append_of_le_length (by simp),
    List.take_of_length_le (by simp), leNat_leBytes]
  exact Nat.mod_eq_of_lt (crc32c_lt l)

namespace Ldpc

theorem split_append (n : Nat) (l r : List Byte) (h : 16 * n ≤ l.length) : split n (l ++ r) = split n l := by
  induction n generalizing l with
  | zero => rfl
  | succ n ih =>
    simp only [split]
    rw [List.take_append_of_le_length (by omega), List.drop_append_of_le_length (by omega), ih _ (by simp; omega)]

theorem split_flatMap (bs : List Nat) (h : ∀ b ∈ bs, b < 2 ^ 128) : split bs.length (bs.flatMap (leBytes 16)) = bs := by
  induction bs with
  | nil => rfl
  | cons b bs ih =>
    simp only [List.length_cons, split, List.flatMap_cons]
    rw [List.take_append_of_le_length (by simp), List.take_of_length_le (by simp), List.drop_append_of_le_length (by simp),
      List.drop_of_length_le (by simp), List.nil_append, ih fun x hx => h x (by simp [hx]), leNat_leBytes]
    congr 1
    exact Nat.mod_eq_of_lt (h b (by simp))

theorem rot_lt (s v : Nat) (h : v < 2 ^ 128) : rot s v < 2 ^ 128 :=
  Nat.or_lt_two_pow (Nat.lt_of_le_of_lt (Nat.shiftRight_le v s) h) (Nat.mod_lt _ (by omega))

theorem infoSums_spec (m j : Nat) (vs acc : List Nat) (hv : ∀ v ∈ vs, v < 2 ^ 128) (ha : ∀ a ∈ acc, a < 2 ^ 128) :
    (infoSums m j vs acc).length = acc.length ∧ ∀ a ∈ infoSums m j vs acc, a < 2 ^ 128 := by
  induction vs generalizing j acc with
  | nil => exact ⟨rfl, ha⟩
  | cons v vs ih =>
    have step : ∀ (b : List Nat) (i k : Nat), (∀ a ∈ b, a < 2 ^ 128) → ∀ a ∈ b.set i (b.getD i 0 ^^^ rot k v), a < 2 ^ 128 := by
      intro b i k hb a hm
      rcases List.mem_or_eq_of_mem_set hm with hm | rfl
      · exact hb a hm
      · refine Nat.xor_lt_two_pow ?_ (rot_lt k v (hv v (by simp)))
        by_cases hi : i < b.length
        · rw [List.getD_eq_getElem _ _ hi]; exact hb _ (List.getElem_mem hi)
        · rw [List.getD_eq_default _ _ (by omega)]; omega
    obtain ⟨hl, hb⟩ := ih (j + 1) _ (fun x hx => hv x (by simp [hx])) (step _ _ _ (step _ _ _ (step _ _ _ (step acc (row m j 0) (shift j 0) ha))))
    exact ⟨hl.trans (by simp), hb⟩

theorem accumulate_spec (p : Nat) (ss : List Nat) (hp : p < 2 ^ 128) (hs : ∀ s ∈ ss, s < 2 ^ 128) :
    (accumulate p ss).length = ss.length ∧ ∀ a ∈ accumulate p ss, a < 2 ^ 128 := by
  induction ss generalizing p with
  | nil => exact ⟨rfl, by simp [accumulate]⟩
  | cons s ss ih =>
    have hx : s ^^^ p < 2 ^ 128 := Nat.xor_lt_two_pow (hs s (by simp)) hp
    obtain ⟨hl, hb⟩ := ih (s ^^^ p) hx fun x h => hs x (by simp [h])
    refine ⟨by simp [accumulate, hl], fun a ha => ?_⟩
    rcases List.mem_cons.1 ha with rfl | ha
    · exact hx
    · exact hb a ha

theorem split_lt (n : Nat) (l : List Byte) : ∀ a ∈ split n l, a < 2 ^ 128 := by
  have bound : ∀ l : List Byte, leNat l < 256 ^ l.length := fun l => by
    induction l with
    | nil => simp [leNat]
    | cons x l ih => have := x.isLt; simp only [leNat, List.length_cons, Nat.pow_succ]; omega
  induction n generalizing l with
  | zero => simp [split]
  | succ n ih =>
    intro a ha
    rcases List.mem_cons.1 ha with rfl | ha
    · exact Nat.lt_of_lt_of_le (bound _) (Nat.le_trans (Nat.pow_le_pow_right (by omega) (List.length_take_le 16 l)) (by omega))
    · exact ih _ a ha

theorem parity_spec (m : Nat) (info : List Nat) (h : ∀ v ∈ info, v < 2 ^ 128) : (parity m info).length = m ∧ ∀ a ∈ parity m info, a < 2 ^ 128 := by
  obtain ⟨hl, hb⟩ := infoSums_spec m 0 info (List.replicate m 0) h (by intro a ha; rw [List.eq_of_mem_replicate ha]; omega)
  obtain ⟨h1, h2⟩ := accumulate_spec 0 _ (by omega) hb
  exact ⟨h1.trans (hl.trans (by simp)), h2⟩
end Ldpc

/-- What the encoder of R254 makes satisfies every parity check. -/
theorem ldpcEncode_valid (p : Nat) (l : List Byte) (h : l.length = 4128) (hp : 16 * (p / 16) = p) :
    (ldpcEncode p l).length = 4128 + p ∧ ldpcValid p (ldpcEncode p l) = true := by
  obtain ⟨hl, hb⟩ := Ldpc.parity_spec (ldpcM p) (Ldpc.split 258 l) (Ldpc.split_lt 258 l)
  have hn : ((Ldpc.parity (ldpcM p) (Ldpc.split 258 l)).flatMap (leBytes 16)).length = p := by
    rw [List.length_flatMap, List.map_congr_left fun a _ => leBytes_length 16 a, List.map_const', List.sum_replicate, hl, ldpcM]
    simp only [smul_eq_mul]; omega
  have hc : (ldpcEncode p l).length = 4128 + p := by simp only [ldpcEncode, List.length_append, h, hn]
  refine ⟨hc, ?_⟩
  have hs := Ldpc.split_flatMap _ hb
  rw [hl] at hs
  rw [ldpcValid, ldpcEncode, Ldpc.split_append 258 l _ (by omega), List.drop_append_of_le_length (by omega), List.drop_of_length_le (by omega), List.nil_append, hs]
  simp only [ldpcEncode] at hc
  simp only [hc, beq_self_eq_true, Bool.and_self]

/-- A codeword of the encoder is a codeword of its format and its CRC is good. -/
theorem encodeCw_good (c : Cw) (f : CwFmt) (key wseq : Nat) (user hmeta : List Byte) (h : user.length = 4096) (hf : c.cfg.p = f.p) :
    isCodeword c (encodeCw f key wseq user hmeta) = true ∧ crcOk (encodeCw f key wseq user hmeta) = true := by
  have hm : (user ++ metaBytes hmeta f.fmt key wseq).length = 4124 := by simp [metaBytes, zeros, h]
  have hp : 16 * (f.p / 16) = f.p := by unfold CwFmt.p; omega
  obtain ⟨hl, hv⟩ := ldpcEncode_valid f.p _ (by rw [List.length_append, hm, leBytes_length] : ((user ++ metaBytes hmeta f.fmt key wseq) ++
    leBytes 4 (crc32c (user ++ metaBytes hmeta f.fmt key wseq))).length = 4128) hp
  refine ⟨?_, ?_⟩
  · simp only [isCodeword, encodeCw, CwFmt.len, hf, hl, hv, beq_self_eq_true, Bool.and_self]
  · simp only [crcOk, encodeCw, ldpcEncode, List.append_assoc (user ++ _)]
    rw [leAt_crc _ _ 4124 hm, List.take_append_of_le_length (by omega), List.take_of_length_le (by omega)]
    exact beq_self_eq_true _

end Sys2Proof.Machine
end

