-- ==== Sys2Proof/Tests/Slice0.lean ====
section
/-!
SUPPORT. The model's own tests: an ill-formed command for each check of WellFormed, single steps against what the spec writes out,
and for every statement with hypotheses a state and operands that meet them, clause by clause.
-/

open Sys2Proof Sys2Proof.Machine

namespace Sys2Proof.Tests

/-! ## States -/

/-- A block that has come through its reset sequence, with one request credit and 64 write-data credits on each initiator port. -/
def sv : State :=
  { State.reset with
    pins := Pins.reset,
    init := { Init.reset with
      phase := 7, done := true, pll := true,
      area := some { mask := 0xFFFFFFFF, rpl := 1, rpl2 := false, idRow := [], repair := [], defaults := [], phyTrim := [] } },
    ports := List.replicate 4 { Port.reset with rqCrd := 1, wdCrd := 64, rdGrant := 64, wrGrant := 64 } }

/-- `sv` with some registers away from their reset values. -/
def withRegs (l : List (Nat × Nat)) (s : State) : State := l.foldl (fun t x => t.setRegN x.1 x.2) s

/-- A submission entry of an opcode, all else 0. -/
def ent (opc : Nat) : Entry := { parseEntry (zeros 64) with opc := opc }

/-- What an entry samples when nothing is configured. -/
def samp0 : Samp := { cls := List.replicate 8 0, bound := 0, susp := 0, age := 0, twr := 0, trb := 0, clks := 0, turns := 0 }

/-- A command in slot 0 of queue pair 0. -/
def cmd (e : Entry) : Slot := newSlot 0 0 5 0 e samp0

def busy (e : Entry) : Slot := { cmd e with phase := .running }

/-- `sv` with commands in their slots. -/
def withCmds (l : List Slot) : State := { sv with slots := l }

/-- An operation on block 0 of die 0. -/
def op0 (owner : Owner) (kind : OpKind) : Op := { mkOp owner kind 7 5 0 0 1 [] with id := 0 }

def rd (tag : Nat) (why : Purpose) : Req := { mkRead 0 64 false why with tag := tag }
def wr (tag : Nat) (why : Purpose) : Req := { mkWrite 0 (zeros 64) false false why with tag := tag }

/-- `s` with requests outstanding on port 0. -/
def withOut (l : List Req) (s : State) : State := s.setPort 0 { s.port 0 with out := l }

/-- One good beat of a read response. -/
def beat (r : Resp) : RdBeat := { resp := r, data := zeros 64 }

/-- A codeword of page 0 of the command in slot 0. -/
def cw0 (st : CwStage) : Cw :=
  { id := 0, owner := .cmd 0, ch := 0, paddr := 0, idx := 0, cfg := sv.fmtAt 0 0, stage := st, first := true, hard := [], raw := [], reads := [], data := [], be := 0,
    lad := none, passed := 0, bad := none }

/-! ## Well-formedness: an ill-formed command for each check -/

theorem test_wf_refuses_channel : (Instr.busNone 8).wf .fc8 = false ∧ (Instr.busNone 7).wf .fc8 = true := by decide
theorem test_wf_refuses_group : (Instr.restore 2).wf .fc16 = false ∧ (Instr.tempInAccept 4 0).wf .fc32 = false := by decide
theorem test_wf_refuses_slot : (Instr.read 131072).wf .fc32 = false ∧ (Instr.read 131071).wf .fc32 = true := by decide
theorem test_wf_refuses_unit : (Instr.loadcol 8).wf .fc8 = false ∧ (Instr.loadcol 31).wf .fc32 = true := by decide
theorem test_wf_refuses_die : (Instr.dispatch 512).wf .fc8 = false ∧ (Instr.dispatch 2047).wf .fc32 = true := by decide
theorem test_wf_refuses_target : (Instr.notificationMessage 64).wf .fc32 = false ∧ (Instr.tgtIdleChange 64 true).wf .fc32 = false := by decide
theorem test_wf_refuses_queue_pair : (Instr.qpEnable 1024).wf .fc32 = false ∧ (Instr.sqTailDoorbell 1024 0).wf .fc32 = false := by decide
theorem test_wf_refuses_port : (Instr.gfpReadComplete 4 0 []).wf .fc32 = false ∧ (Instr.gfpCreditReturn 5 .request).wf .fc32 = false := by decide
theorem test_wf_refuses_tag : (Instr.gfpRequestTimeout 0 256).wf .fc32 = false := by decide
theorem test_wf_refuses_short_beat : (Instr.gfpReadComplete 0 0 [{ resp := .ok, data := [] }]).wf .fc32 = false := by decide
theorem test_wf_refuses_offset : (Instr.registerWrite .mport 2 0 none).wf .fc32 = false ∧ (Instr.registerWrite .mport 0x1000000 0 none).wf .fc32 = false := by decide
theorem test_wf_refuses_pair : (Instr.registerPairLoWrite .mport 0 0).wf .fc32 = false ∧ (Instr.registerPairHiRead .mport 2).wf .fc32 = false := by decide
theorem test_wf_refuses_ring : (Instr.kick 256).wf .fc32 = false := by decide
theorem test_wf_refuses_stream : (Instr.logStreamEnable 64 0).wf .fc32 = false := by decide
theorem test_wf_refuses_timer : (Instr.timerStart 8).wf .fc32 = false ∧ (Instr.wglTmrStart 8).wf .fc32 = false := by decide
theorem test_wf_refuses_source : (Instr.moderationTimer 0).wf .fc32 = false ∧ (Instr.moderationTimer 1088).wf .fc32 = false := by decide
theorem test_wf_refuses_input : (Instr.rbNHigh 0 4).wf .fc32 = false ∧ (Instr.contextWake 0 64).wf .fc32 = false := by decide
theorem test_wf_refuses_slices : (Instr.machineCheck 0 16 true).wf .fc32 = false := by decide
theorem test_wf_refuses_bank : (Instr.scrubStep 8 0 0 [] .scrubber).wf .fc32 = false ∧ (Instr.scrubStep 7 31 16 [] .scrubber).wf .fc32 = false := by decide
theorem test_wf_refuses_tsel : (Instr.tselWrite 0 8).wf .fc32 = false ∧ (Instr.rlvTblDataWrite 4 { word := 0, lost := false }).wf .fc32 = false := by decide
theorem test_wf_refuses_burst : (Instr.targetPortErr 0 false 64 0).wf .fc32 = false ∧ (Instr.targetPortErr (2 ^ 25) false 0 0).wf .fc32 = false := by decide

/-- A command that names no unit of any build stops; one that only a larger build has does nothing. -/
theorem test_no_such_unit : exec (.busNone 32) sv = .fault .noSuchUnit := rfl

/-! ## The spec's worked examples -/

/-- Timing set 1 of channel 5 and the dies of its target 3: four planes, two column and three row address cycles (chapters 05 and 06). -/
def chan5 (s : State) : State :=
  withRegs ([(A.chCtl 5, 0x22), (A.chDiemapA 5 3, 1 + 3 * 2 ^ 4 + 0x3FFF * 2 ^ 7 + 2 * 2 ^ 21), (A.chDiemapB 5 3, 0xFFF + 2 ^ 12 + 2 * 2 ^ 14)] ++
    [(0, 4800), (1, 10000), (2, 20000), (3, 5000), (4, 100000), (5, 80000), (6, 150000), (7, 250000), (10, 15000), (11, 10000), (12, 15000), (13, 10000), (18, 2000),
      (19, 500), (20, 60000), (21, 1800000), (22, 5000000), (23, 20000), (24, 100000)].map fun y => (A.chTset 5 1 y.1, y.2)) s

/-- Chapter 06, "checking TSET1". -/
theorem test_tset1 : let s := chan5 sv
    s.ovSns 5 = 171 ∧ s.ovR 5 = 370000 ∧ s.ovhViol 5 = false ∧ s.ovP 5 = 2505000 ∧ s.ovE 5 = 1725000 := by decide +kernel
/-- The READ of chapter 05's example: four codewords of page 120 of block 300 at channel 5, target 3, LUN 0. -/
def readEx : Entry := { ent Opc.read with flags := 1, lcls := 1, paddr := 0x14C04B003C0, count := 4 }

def sampEx : Samp :=
  { cls := [0x00101304, 0x00101304], bound := 700, susp := 0x1010, age := 0, twr := 2, trb := 2, clks := BitVec.ofNat 32 (1800 + 1600 * 2 ^ 16), turns := 524 }

/-- The operations that die and channel hold: an LC5 read, an LC1 read, an LC4 program, an LC7 program, and an LC0 read of target 7. -/
def dieEx (susp : Nat) : List Op :=
  let page := 0x14C00000000
  [{ mkOp (.cmd 1) .read 5 0 page 0 1 [] with stage := .confirmed, id := 1 },
   { mkOp (.cmd 2) .read 1 1 page 0 1 [] with id := 2 },
   { mkOp (.cmd 3) .program 4 2 page 0 1 [] with id := 3, credit := 2 },
   { mkOp (.cmd 4) .program 7 3 page 0 1 [] with id := 4, stage := .suspended, susp := susp },
   { mkOp (.cmd 5) .read 0 4 0x15C00000000 0 1 [] with id := 5 }]

def readS : Slot := newSlot 0 9 9 0 readEx sampEx
def admEx (susp : Nat) : State :=
  chan5 { withCmds [readS, { cmd (ent Opc.read) with id := 1 }, { cmd (ent Opc.read) with id := 2 },
    { cmd (ent Opc.program) with id := 3, samp := sampEx }, { cmd (ent Opc.program) with id := 4 }, { cmd (ent Opc.read) with id := 5 }] with ops := dieEx susp }

/-- Thousandths, rounded. -/
def milli (x : Rat) : Int := (x * 1000 + 1 / 2).floor

/-- Chapter 05, "one LC1 read": ahead, T_F, T_S, t_D, T_P, T_bound and the outcome; the refusal when the LC7 program has used its 16 suspensions; LATU of 410 µs. -/
theorem test_admission : let s := admEx 3; let plan := s.planOps readS
    s.ahead readS plan 332 = 3 ∧ nOwn plan 332 = 1 ∧ milli readS.tF = 4329 ∧ milli (s.tS readS 332) = 135893 ∧ milli (s.tD readS) = 4560 ∧ milli readS.tP = 3000 ∧
      milli (s.bound readS plan) = 697969 ∧ s.refusal readS plan = none := by decide +kernel

theorem test_refusal : let s := admEx 16; let plan := s.planOps readS; (s.refusal readS plan).map (refuseRes0 s readS plan) = some 0x14C03 := by decide +kernel

theorem test_latu : ({ sv with aclk := 410 } : State).latuOf readS = 1601 := by decide

/-- Chapter 09, "one codeword through the ladder and soft phase": die 332 has type 2 and bucket 1, and T is 52. -/
def levelEx : State :=
  { withRegs [(A.chDiemapB 5 3, 2 * 2 ^ 16), (A.rlvDtA 2, 2), (A.rlvDtB 2, 0xD8 * 2 ^ 8 + 40 * 2 ^ 16), (A.rlvDtLpt 2, 0x2464), (A.rlvDtZoneA 2, 8 + 64 * 2 ^ 16),
      (A.rlvDtZoneB 2, 330), (A.rlvDtLad 2, 9 * 2 ^ 16), (A.rlvBucket 20, 1 * 2 ^ 24), (A.rlvTempPt, 0x5F462300), (A.rlvLadCfg 9, 6 + 3 * 2 ^ 8 + 5 * 2 ^ 12),
      (A.rlvLad 9 2 0, 0xFA000000), (A.rlvLad 9 2 1, 0xFB000000), (A.rlvEsc 2, 3)] sv with
    pins := { Pins.reset with temp := [(0, 52)] } }
def levelsOf (s : State) : State := (((s.setTbl 332 7 1 3 (-4)).setTbl 332 7 2 3 (-10)).setTbl 332 7 1 7 2).setTbl 332 7 2 7 (-6)
def pageEx : Nat := mkPaddr 332 300 0 1031 0

theorem test_read_levels : let s := levelsOf levelEx
    s.pageInfo pageEx 0 = (7, 2, [3, 7]) ∧ s.firstOffs pageEx 0 = [(3, -7), (7, -2)] ∧ s.ladderOffs pageEx 0 2 = [(3, -13), (7, -7)] ∧
      s.softOffs pageEx 0 1 [(3, -13), (7, -7)] = [(3, -16), (7, -10)] ∧ s.softOffs pageEx 0 2 [(3, -13), (7, -7)] = [(3, -10), (7, -4)] ∧ s.ladMax pageEx 0 2 = 3 := by
  decide +kernel

/-- Chapter 09's sweep of level 3: the valley is points 4 to 8. -/
theorem test_valley : bestValley (fun _ => 0) (valleys 200 [2140, 1310, 620, 210, 95, 70, 88, 160, 180, 990, 1850, 2600]) = some (4, 8) := by decide +kernel

def calEx : CalSlot := { calFresh 0 none pageEx 1 0x7F 0 with
  die := 332, level := 3, cfg := 12 + 1 * 2 ^ 8 + 200 * 2 ^ 16, centre := -7, diffs := [2140, 1310, 620, 210, 95, 70, 88, 160, 180, 990, 1850, 2600] }

theorem test_calibration : let s := calLevelEnd (levelsOf levelEx) calEx
    calEx.reads = 13 ∧ (s.cal 0).map (fun x => (x.widths, x.newoff, x.edge, x.novl)) = some ([(3, 10)], [(3, -6)], 0, 0) ∧
      s.tbl 332 7 1 3 = -3 ∧ s.tbl 332 7 2 3 = -9 ∧ s.offsetOf 332 7 3 = -6 := by decide +kernel

/-- Chapter 10, "placing one append": dies 400 to 402, FIRST 16, four segments, tail at row 1,000 column 2, the slot at offset 4 skipped. -/
theorem test_append : let s := withRegs [(A.hqLsCtl 5, 1 + 2 * 2), (A.hqLsDie 5 0, 400 + 401 * 2 ^ 16), (A.hqLsDie 5 1, 402), (A.hqLsReg 5, 16 + 3 * 2 ^ 16)] sv
    s.slotLines 5 1000 2 9 [400, 401, 402] [4] = [(0, 402, 66536), (1, 400, 66537), (2, 401, 66537), (3, 402, 66537), (4, 401, 66538), (5, 402, 66538), (6, 400, 66539), (7, 401, 66539)] ∧
      placeWalk (fun o => o == 4) 16 8 0 [] = ([4], 9) ∧ linePaddr 402 66536 % 2 ^ 32 = 0x0103E800 := by decide +kernel

/-- Chapter 11's header of a BITPACK segment, with bit 2 of byte 3,056 and its first three fields. -/
def segEx : Nat :=
  leNat ([0x47, 0x43, 0x50, 0x31, 7, 0, 0xA1, 0x0C, 0xD0, 7, 0xF0, 0x0B, 0xAC, 0x0B, 0x20, 0, 0x80, 0x8D, 0x5B, 0, 0, 0, 0, 0, 0xEB, 3, 0, 0, 0, 0, 0, 0,
    0xCF, 0x13, 0, 0, 0, 0, 0, 0, 0xE8, 3, 0, 0, 0, 0, 0, 0, 0, 0, 8, 0] ++ zeros 12 ++ [0x23, 0x51, 0x0A, 0xC0, 0x07]) + 0x04 * 2 ^ (8 * 3056)

theorem test_segment : Seg.colid segEx = 7 ∧ Seg.nv segEx = 1992 ∧ Seg.vw segEx = 32 ∧ Seg.wantLen segEx = 2988 ∧ Seg.datalen segEx = 2988 ∧ Seg.encOk segEx = true ∧
    Seg.null segEx 2 = true ∧ Seg.null segEx 3 = false ∧ (List.range 3).map (fun j => Seg.field segEx (12 * j) 12) = [0x123, 0x0A5, 0x7C0] ∧
    Seg.min segEx = 1003 ∧ Seg.max segEx = 5071 ∧ Seg.baserow segEx = 6000000 ∧ Seg.rsv segEx = 0 := by decide +kernel

/-- The check value of R252. -/
theorem test_crc : crc32c (List.map (BitVec.ofNat 8) [0x31, 0x32, 0x33, 0x34, 0x35, 0x36, 0x37, 0x38, 0x39]) = 0xE3069283 := by decide +kernel

/-- Chapter 18, "finding three registers". -/
theorem test_addresses : A.chTset 5 1 20 = 0x10A4D0 ∧ A.hqQpCtl 9 = 0x021024 ∧ A.ntfClaim 2 = 0x048080 := by decide

/-- Chapter 08, "tweaks of one READ": the codewords in order and their default tweaks. -/
theorem test_tweaks : let e := { ent Opc.read with paddr := 0x14C04B003C2, count := 4, aux2 := 9 }
    (sv.readCws e).zipIdx.map (fun y => e.tweak y.2 y.1) = [0x14C04B003C2, 0x14C04B003C3, 0x14C04B003C8, 0x14C04B003C9] := by decide +kernel

/-- Chapter 14, "a stuck bit in the read-level table": data bit 0 sits at position 3, SYN is 0x13, and the unit is corrected. -/
theorem test_stuck_bit : tblKey 332 7 1 3 = 0x531D3 ∧ judge (codeLen 3) 3 1 = .fixed ∧ synField 3 3 1 = 0x13 := by decide


/-! ## Witnesses: resets, power, protection -/

theorem sv_inService : InService sv := by unfold InService Awake; decide

theorem sv_ringsOff : RingsOff sv := by unfold RingsOff; decide

/-- A block whose option load takes bytes. -/
def loading (h : List Byte) (low : Lowering) : State :=
  { sv with init := { sv.init with loading := true, header := h, lowering := low, area := some (mkArea 4 []), rplSec := 1 } }

/-- Eight bytes of a header with the smallest LENGTH. -/
def header0 : List Byte := leBytes 4 0x314F4347 ++ leBytes 4 164

theorem witness_SrstAssertKeepsAreaRepairLevelAndLock : sv.pins.porst = false ∧ State.reset.pins.porst = true := by decide

theorem witness_ResetReleaseStartsLoadOrFill :
    (State.reset.pins.bist = false ∧ State.reset.pins.ploss = false ∧ State.reset.pins.porst = true ∧ State.reset.pins.srst = false) ∧
    (let s := { sv with pins := { sv.pins with srst := true } }; s.pins.bist = false ∧ s.pins.ploss = false ∧ s.pins.srst = true ∧ s.pins.porst = false) := by decide

set_option maxRecDepth 8000 in
theorem witness_OptionLoadChecksHeaderThenArea :
    (let s := { sv with init := { sv.init with armed := true, optReq := 1 } }
     s.held = false ∧ s.init.lowering = .none ∧ s.init.optAck = false ∧ s.init.armed = true ∧ s.init.optReq = 1) ∧
    (let s := loading [] .none; s.held = false ∧ s.init.lowering = .none ∧ s.init.loading = true ∧ s.init.header = [] ∧ header0.length = 8) ∧
    (let s := loading header0 .none; s.held = false ∧ s.init.lowering = .none ∧ s.init.loading = true ∧ s.init.header ≠ [] ∧
      8 + (zeros 156).length = leAt s.init.header 4 2) := by decide

theorem witness_ResetSequenceStepsFourToSeven :
    (let s := { sv with init := { sv.init with phase := 4 } }; s.held = false ∧ s.init.phase = 4 ∧ s.init.err = 0) ∧ Awake sv ∧
    (let s := { sv with init := { sv.init with phase := 5 } }; s.held = false ∧ s.init.phase = 5) := ⟨by decide, sv_inService.1, by decide⟩

theorem witness_HeldBlockDoesNothing :
    (State.reset.held = true ∧ Instr.wf State.reset.build (.read 0) = true ∧ isPin (.read 0) = false ∧ isBus (.read 0) = false) ∧
    (let s := { sv with pins := { sv.pins with bist := true } }; s.held = true ∧ s.pins.bist = true ∧ isPin .reload = false) ∧
    (State.reset.held = true ∧ State.reset.pins.bist = false ∧ State.reset.init.done = false ∧ State.reset.power.st = .p0 ∧ State.reset.level ≠ 2 ∧
      Machine.offsetOk 0x01FFFC = true ∧ Machine.offsetOk 0x020000 = true ∧ inRegion 0x020000 = true) := by decide

/-- Protection level RPL2. -/
def atRpl2 : State := { sv with init := { sv.init with area := some { mkArea 4 [] with rpl2 := true } } }

theorem witness_MemorySelfTestRequiresReset : sv.held = false ∧ sv.level ≠ 2 ∧ sv.level = 1 ∧ 12288 ≤ 12288 ∧ atRpl2.held = false ∧ atRpl2.level = 2 ∧
    TestUse.phy 0 ≠ TestUse.boundaryScan := by decide

theorem witness_SidebandPinsUpdateTheirInputs : sv.held = false ∧ 3 < Config.groups sv.build ∧ (0x81 : Byte) ≠ 0x80 ∧ 63 < 64 ∧ assoc sv.pins.temp 3 = none := by decide

/-- A block that may rest: `GLB_PWR_CTL` as given. -/
def resting (v : Nat) : State := withRegs [(A.glbPwrCtl, v)] sv

theorem witness_LowPowerRequestAndP1Entry : RingsOff sv ∧ InService sv ∧
    (RingsOff (resting 1) ∧ (resting 1).held = false ∧ (resting 1).pwrReq = 1 ∧ (resting 1).mayRest false = true) ∧
    (RingsOff (resting 4) ∧ (resting 4).held = false ∧ (resting 4).pwrReq = 0 ∧ (resting 4).fldOf A.glbPwrCtl 2 1 = 1 ∧ (resting 4).mayRest false = true ∧
      (resting 4).fldOf A.glbPwrCtl 16 16 ≤ (resting 4).power.idle ∧ (resting 0x640000).power.idle < (resting 0x640000).fldOf A.glbPwrCtl 16 16) ∧
    (let s := withCmds [busy (ent 1)]; s.held = false ∧ s.mayRest false = false) :=
  ⟨sv_ringsOff, sv_inService, by unfold RingsOff; decide, by unfold RingsOff; decide, by decide⟩

theorem witness_P2EntryKeepsOnlyRetainedState : (resting 2).held = false ∧ (resting 2).pwrReq = 2 ∧ (resting 2).mayRest true = true ∧
    (resting 2).pend = [] ∧ (resting 2).rlv.fg.pages = [] := by decide

/-- A block in P2. -/
def inP2 (p : Power) : State := { sv with power := { p with st := .p2 } }

theorem witness_WakeRunsFillAndReturnsToP0 :
    (let s := inP2 Power.reset; s.held = false ∧ s.power.st = .p2 ∧ s.power.mpHeld = none ∧ s.power.waking = false ∧ s.power.clkStop = false ∧ Machine.offsetOk 0xFFFFFC = true) ∧
    (let s := inP2 { Power.reset with clkStop := true }; s.held = false ∧ s.power.mpHeld = none ∧ s.power.waking = false ∧ s.power.clkStop = true) ∧
    (let s := inP2 { Power.reset with waking := true, filled := true, mpHeld := some (0, false, 0) }; s.held = false ∧ s.power.waking = true ∧ s.power.filled = true ∧
      s.wgl.heldT = [] ∧ s.target.held = none ∧ s.pins.ploss = false ∧ s.power.mpHeld = some (0, false, 0) ∧ s.init.done = true ∧ s.level ≠ 2) ∧
    (let s := inP2 { Power.reset with clkStop := true, waitClk := true }; s.power.waking = false ∧ s.power.waitClk = true) ∧
    (let s := inP2 { Power.reset with waking := true, filled := true }; s.held = false ∧ s.power.waking = true ∧ s.power.filled = true ∧ s.wgl.heldT = [] ∧
      s.target.held = none ∧ s.pins.ploss = false) := by decide

/-- The smoke sequence in one of its steps. -/
def smokeAt (k : Nat) : State := { withRegs [(A.hqArCfg, 0x100)] sv with smoke := { Smoke.reset with step := k } }

theorem witness_SmokeSequenceStartsWhenPlossFalls : sv.held = false ∧ sv.pins.ploss = false ∧ sv.smoking = false ∧ sv.power.st ≠ .p2 ∧ sv.init.done = true ∧
    (let s := { sv with init := { sv.init with done := false } }; s.smoking = false ∧ s.power.st ≠ .p2 ∧ s.init.done = false) ∧ (smokeAt 4).smoking = true := by decide

/-- A ledger record of die 0, changed since it was written. -/
def ledger0 : Ledger := { die := 0, seg := 0, loaded := true, count := 0, alarm := false, full := false, failed := [], dirty := true, stream := 0 }

theorem witness_SmokeStepsWriteLedgerRecordAndSummary :
    (let s := { smokeAt 4 with rlv := { sv.rlv with ledger := [ledger0] } }
     ledger0 ∈ s.rlv.ledger ∧ ledger0.loaded = true ∧ ledger0.dirty = true ∧ s.ops.any (fun o => o.owner == .ledger 0 0 && o.kind == .lineWrite) = false) ∧
    ((smokeAt 4).rlv.ledger.all (fun l => !(l.loaded && l.dirty)) = true ∧
      (smokeAt 6).ops.all (fun o => o.stage == .done || o.kind == .read || o.kind == .lineRead || o.kind == .calRead) = true) ∧
    ((smokeAt 4).held = false ∧ (smokeAt 4).smoke.step = 4 ∧ (smokeAt 4).ops.any (fun o => o.kind == .lineWrite && o.slotOf.isSome) = false) ∧
    ((smokeAt 6).smoke.step = 6 ∧ (smokeAt 6).smokeOn = false) ∧ (withRegs [(A.rlvSmokeDie, 0x10000)] (smokeAt 6)).smokeOn = true ∧
    ((smokeAt 7).smoke.step = 7 ∧ (smokeAt 7).ops.any (fun o => o.owner == .smoke) = false ∧ (smokeAt 7).arEn = true) ∧
    ((smokeAt 8).smoke.step = 8 ∧ (smokeAt 8).alert.queue = [] ∧ (smokeAt 8).alert.out = none ∧ (smokeAt 8).slots = []) := by decide

theorem witness_ProtectionLevelRaiseAndLowerRequest : Awake sv ∧ (sv.level ≠ 2 ∧ sv.init.lowering = .none ∧ sv.init.keyArmed = false) ∧
    (let s := loading [] .none; s.level = 1) ∧ (0x00004F7B : Word) ≠ 0x000052B0 ∧
    atRpl2.level = 2 :=
  ⟨sv_inService.1, by decide, by decide, by decide, by decide⟩

/-- The body of the smallest option area (R424): CHANNEL_MASK, RPL and ID_ROW. -/
def areaBody (rpl : Nat) : List Byte :=
  let idRow := leBytes 4 0x31494447 ++ zeros 120
  leBytes 4 0x00040001 ++ leBytes 4 0xFFFFFFFF ++ leBytes 4 0x00040002 ++ leBytes 4 rpl ++ leBytes 4 0x00800004 ++ idRow ++ leBytes 4 (crc32c idRow)

def areaHeader : List Byte := leBytes 4 0x314F4347 ++ leBytes 4 0x010300A4

/-- What follows the first eight bytes. -/
def areaRest (rpl : Nat) : List Byte :=
  leBytes 4 (crc32c (areaHeader ++ zeros 8 ++ areaBody rpl)) ++ zeros 4 ++ areaBody rpl

/-- A lowering that loads the area again. -/
def reloading : State := { loading areaHeader .load with pins := Pins.reset }

set_option maxRecDepth 20000 in
theorem witness_LoweringZeroizesAndReloads :
    (let s := { sv with init := { sv.init with lowering := .zeroize } }; s.held = false ∧ s.init.lowering = .zeroize) ∧
    (reloading.held = false ∧ reloading.init.lowering = .load ∧ reloading.init.done = true ∧ reloading.init.area.isSome = true ∧ reloading.level = 1 ∧
      reloading.init.loading = true ∧ reloading.init.header ≠ [] ∧ 8 + (areaRest 0).length = leAt reloading.init.header 4 2 ∧
      areaErr (Config.groups reloading.build) (reloading.init.header ++ areaRest 0) = 0 ∧
      (mkArea 4 (areaHeader ++ areaRest 0)).rpl = 0 ∧ (mkArea 4 (areaHeader ++ areaRest 1)).rpl = 1) := by decide

/-! ## Witnesses: the fabric and the queue pairs -/

theorem witness_CreditReturnReleasesWaitingRequest : sv.held = false ∧ sv.init.done = true ∧
    (let s := { sv with init := { sv.init with done := false } }; s.held = false ∧ s.init.done = false) ∧
    (sv.target.rdDue = 0 ∧ sv.target.wrDue = 0) ∧ (let s := { sv with target := { sv.target with rdDue := 1, wrDue := 1 } }; 0 < s.target.rdDue ∧ 0 < s.target.wrDue) ∧
    ((sv.port 3).wait = [] ∧ (sv.port 3).beats = []) ∧
    (let s := sv.setPort 3 { Port.reset with wait := [rd 0 .alert] }
     (s.port 3).wait = rd 0 .alert :: [] ∧ (s.port 3).rqCrd = 0 ∧ freeTag (s.port 3) = some 0) := by decide

/-- Port 3 with tag 255 out of use. -/
def quarantine (w : Bool) : State := sv.setPort 3 { sv.port 3 with quar := [{ tag := 255, write := w, beats := 1 }] }

theorem witness_StrayAndLateResponsesAreCounted : sv.held = false ∧
    ([beat .ok].all (fun b => b.data.length == 64) = true ∧ (sv.port 3).find 255 false = none ∧ (sv.port 3).quarantined 255 false = false) ∧
    (((quarantine false).port 3).find 255 false = none ∧ ((quarantine false).port 3).quarantined 255 false = true ∧
      ((quarantine false).port 3).quar.any (fun q => q.tag == 255 && q.beats == [beat .ok].length) = true) ∧
    ((sv.port 3).find 255 true = none ∧ (sv.port 3).quarantined 255 true = false) ∧ ((quarantine true).port 3).quarantined 255 true = true := by decide

/-- A READ that runs, with a write of its data and a read of host data outstanding, and a read of the ring of QP 0. -/
def reading : State :=
  withOut [wr 0 (.dataWrite 0), rd 1 (.dataRead 0 0), rd 2 (.sqRead 0 0 1)] (withCmds [busy (ent Opc.read)])

theorem witness_FailedRequestsFailTheirOwners : reading.held = false ∧ reading.mover.ostPend = none ∧
    (∃ r x, (reading.port 0).find 2 false = some r ∧ [beat .err].length = r.beats ∧ [beat .err].all (fun b => b.data.length == 64) = true ∧
      [beat .err].any (fun b => b.resp != .ok) = true ∧ (∃ i n, r.purpose = .sqRead 0 i n) ∧ reading.qp 0 = some x ∧ x.fault = false) ∧
    (∃ r x, reading.slot 0 = some x ∧ x.phase = .running ∧ x.reject = none ∧ (reading.port 0).find 0 true = some r ∧ r.purpose = .dataWrite 0 ∧
      (reading.port 0).wait = [] ∧ (reading.port 0).beats = []) ∧
    (∃ r, (reading.port 0).out.find? (fun q => q.tag == 1 && decide (q.tfab ≤ reading.aclk - q.sent)) = some r ∧ r.write = false ∧ ∃ off, r.purpose = .dataRead 0 off) ∧
    (let s := withOut [{ rd 1 (.dataRead 0 0) with tfab := 1 }] (withCmds [busy (ent Opc.read)])
     ∀ q ∈ (s.port 0).out, q.tag = 1 ∧ s.aclk - q.sent < q.tfab) :=
  ⟨rfl, rfl, ⟨_, _, rfl, rfl, rfl, rfl, ⟨_, _, rfl⟩, rfl, rfl⟩, ⟨_, _, rfl, rfl, rfl, rfl, rfl, rfl, rfl⟩, ⟨_, rfl, rfl, _, rfl⟩, by decide⟩

/-- The last legal and the first illegal value of each doorbell of QP 0, whose rings have 16 entries. -/
theorem witness_DoorbellsRecordLegalValues : InService sv ∧ sv.qp 0 = some (QP.fresh 0) ∧ fld (15 : Word) 0 16 < (QP.fresh 0).sqSize ∧
    (QP.fresh 0).sqSize ≤ fld (16 : Word) 0 16 ∧ sv.slots = [] ∧
    (fld (0 : Word) 0 16 < 16 ∧ (fld (0 : Word) 0 16 + 16 - 0) % 16 ≤ (0 + 16 - 0) % 16) ∧ ¬((fld (1 : Word) 0 16 + 16 - 0) % 16 ≤ (0 + 16 - 0) % 16) :=
  ⟨sv_inService, by decide⟩

/-! ## Witnesses: registers -/

theorem witness_RefusedAccessesHaveNoEffect : Awake sv ∧ (sv.init.done = true ∧ sv.tpDefined (0x440000 % 0x2000000) 0 15 = false ∧ sv.tpDefined 4 0 240 = false) ∧
    (let s := { sv with init := { sv.init with done := false } }; s.init.done = false ∧ inRegion 0x020000 = true) ∧
    (sv.qp 0 = some (QP.fresh 0) ∧ 0 < 1024) ∧ (0x020050 % 4 = 0 ∧ Reg.find 0x020050 = none) ∧ Reg.find 0xFFFFFC = none := ⟨sv_inService.1, by decide⟩

/-- A plain read-write register with each kind of boundary, and a read-only one. -/
theorem witness_RegisterWriteTakesEffectAtItsBoundary : InService sv ∧ sv.level ≠ 2 ∧
    (∃ r is, Reg.find (A.ntfTgtData 63) = some (r, is) ∧ sv.instOk r is = true ∧ actWrite sv r.base (is.getD 0 0) 1 = none ∧ Reg.pairBase (A.ntfTgtData 63) = false ∧
      Reg.pairBase (A.ntfTgtData 63 - 4) = false) ∧
    (∃ r is, Reg.find (A.admBound 6) = some (r, is) ∧ sv.instOk r is = true ∧ actWrite sv r.base (is.getD 0 0) 1 = none ∧ Reg.pairBase (A.admBound 6) = false ∧
      Reg.pairBase (A.admBound 6 - 4) = false ∧ r.acc = .rw ∧ sv.qpRegOk r is = true ∧ r.base ≠ A.wglTempTh 0 ∧ r.base ≠ A.wglRingCfg 0 ∧
      sv.fixWrite r is (sv.applied (A.admBound 6)) 1 = Reg.merge r.flds (sv.applied (A.admBound 6)) 1 ∧ r.bnd ≠ .immediate) ∧
    (∃ r is, Reg.find A.ntfMsgCnt = some (r, is) ∧ sv.instOk r is = true ∧ actWrite sv r.base (is.getD 0 0) 1 = none ∧ Reg.pairBase A.ntfMsgCnt = false ∧
      Reg.pairBase (A.ntfMsgCnt - 4) = false ∧ r.acc = .rw ∧ r.bnd = .immediate ∧ sv.fixWrite r is (sv.applied A.ntfMsgCnt) 1 = Reg.merge r.flds (sv.applied A.ntfMsgCnt) 1) ∧
    (∃ r is, Reg.find A.glbVersion = some (r, is) ∧ sv.instOk r is = true ∧ actWrite sv r.base (is.getD 0 0) 1 = none ∧ Reg.pairBase (A.glbVersion - 4) = false ∧ r.acc = .ro) :=
  ⟨sv_inService, by decide, ⟨_, _, rfl, by decide⟩, ⟨_, _, rfl, by decide⟩, ⟨_, _, rfl, by decide⟩, _, _, rfl, by decide⟩

/-- `sv` with writes that wait. -/
def waiting (l : List PendWrite) : State := { sv with pend := l }

theorem witness_BoundaryTakesPendingWrites : sv.held = false ∧ A.admBound 6 < 0x050000 ∧ A.admBound 6 ≠ A.hqArDropCnt ∧ A.admBound 6 ≠ A.glbPwrCtl ∧
    (∃ l, (waiting [{ bnd := .fetch, addr := A.admBound 6, val := 1, left := [0] }, { bnd := .fetch, addr := A.admBound 6, val := 2, left := [0] }]).pend =
      l ++ [{ bnd := .fetch, addr := A.admBound 6, val := 2, left := [0] }]) ∧
    (waiting [{ bnd := .instr, addr := A.chPhyCfg 31, val := 1, left := [31] }]).pend = [{ bnd := .instr, addr := A.chPhyCfg 31, val := 1, left := [31] }] ∧
    ((waiting [{ bnd := .instr, addr := A.rlvTrackCfg, val := 0, left := [31] }, { bnd := .instr, addr := A.rlvTrackCfg, val := 1, left := [31] }]).pend =
      [{ bnd := .instr, addr := A.rlvTrackCfg, val := 0, left := [31] }, { bnd := .instr, addr := A.rlvTrackCfg, val := 1, left := [31] }] ∧ fld (1 : Word) 0 1 = 1) ∧
    ((waiting [{ bnd := .codeword, addr := A.eccCtl, val := 1, left := [0, 159] }]).pend = [{ bnd := .codeword, addr := A.eccCtl, val := 1, left := [0, 159] }] ∧ (0 : Nat) ≠ 159) ∧
    (let s := waiting [{ bnd := .instr, addr := A.chCtl 31, val := 1, left := [31], act := true }]
     s.pend = [{ bnd := .instr, addr := A.chCtl 31, val := 1, left := [31], act := true }] ∧ s.fldOf (A.chTset 31 (fld (1 : Word) 1 3) 0) 0 28 = s.rateOf 31 ∧
      fld (1 : Word) 0 1 ≠ (s.en 31).toNat) :=
  ⟨rfl, by decide, by decide, by decide, ⟨[_], rfl⟩, rfl, by decide, by decide, rfl, by decide⟩

theorem witness_RegisterPairsStageAndCapture : InService sv ∧ 63 < 64 := ⟨sv_inService, by decide⟩

/-- `sv` with the alert ring enabled. -/
def alerting : State := withRegs [(A.hqArCfg, 0x100)] sv

theorem witness_CollidingWritesKeepMport : InService alerting ∧ alerting.arEn = true := ⟨by unfold InService Awake; decide, by decide⟩

/-! ## Witnesses: notification controller -/

/-- Target 63 with two candidates, sources 1 and 2. -/
def pendingAt : State := sv.setTgt { sv.tgt 63 with cands := [1, 2] }

/-- Target 63 serves source 2. -/
def serving : State := sv.setTgt { sv.tgt 63 with stack := [(2, 0)] }

theorem witness_ClaimActivatesHighestCandidate : InService pendingAt ∧ RingsOff pendingAt ∧ pendingAt.bestCand 63 = some 1 ∧ sv.bestCand 63 = none :=
  ⟨by unfold InService Awake; decide, by unfold RingsOff; decide, by decide, by decide⟩

theorem witness_CompleteEndsNamedService : InService serving ∧ RingsOff serving ∧ (serving.tgt 63).stack = (fld (2 : Word) 0 11, 0) :: [] ∧
    (∀ p rest, (serving.tgt 63).stack ≠ (fld (3 : Word) 0 11, p) :: rest) :=
  ⟨by unfold InService Awake; decide, by unfold RingsOff; decide, by decide, fun p rest h => by
    have : (2 : Nat) = 3 := congrArg (fun l : List (Nat × Nat) => (l.headD (0, 0)).1) h
    exact absurd this (by decide)⟩

/-- Target 63 has a message to send. -/
def messaging : State := sv.setTgt { sv.tgt 63 with due := true }

theorem witness_MessageWriteHasNotifyForm : Awake messaging ∧ ((messaging.tgt 63).due = true ∧ (messaging.tgt 63).out = false ∧ (messaging.tgt 63).msgErr = false ∧
    messaging.stopped = false ∧ (messaging.port 0).wait = [] ∧ 0 < (messaging.port 0).rqCrd ∧ freeTag (messaging.port 0) = some 0) ∧
    (∃ r, ((withOut [wr 255 (.message 63)] sv).port 0).find 255 true = some r ∧ r.purpose = .message 63) :=
  ⟨by unfold Awake; decide, by decide, _, rfl, rfl⟩

/-- Source 3 is raised and its moderation timer runs. -/
def moderated : State := { (withRegs [(A.memSts, 2)] sv) with ntf := { Ntf.reset with srcs := [{ sv.src 3 with s := 3, timer := some 1 }] } }

theorem witness_ModerationTimerMakesReady : Awake moderated ∧ RingsOff moderated ∧ moderated.timerMet (moderated.src 3) = true ∧ moderated.raised 3 = true :=
  ⟨by unfold Awake; decide, by unfold RingsOff; decide, by decide, by decide⟩

/-! ## Witnesses: registers with a rule of their own -/

theorem witness_AlertRingEnableAndHeadWrites : InService sv ∧ InService alerting ∧ (fld (0x100 : Word) 8 1 = 1 ∧ sv.arEn = false ∧ alerting.arEn = true) ∧
    (fld (0 : Word) 0 16 < sv.arSize ∧ (fld (0 : Word) 0 16 + sv.arSize - sv.arHead) % sv.arSize ≤ (sv.alert.tail + sv.arSize - sv.arHead) % sv.arSize) ∧
    ¬((fld (1 : Word) 0 16 + sv.arSize - sv.arHead) % sv.arSize ≤ (sv.alert.tail + sv.arSize - sv.arHead) % sv.arSize) :=
  ⟨sv_inService, by unfold InService Awake; decide, by decide⟩

/-- QP 0 is enabled. -/
def qp0On : State := withRegs [(A.hqQpCtl 0, 1)] sv

theorem witness_QueuePairRegistersSetUpAndEnable : InService sv ∧ InService qp0On ∧ (fld (0x0CC : Word) 0 4 ≤ 12 ∧ fld (0x0CC : Word) 4 4 ≤ 12 ∧ (passFetch sv).aqFree = true) ∧
    (passFetch qp0On).aqFree = false ∧ (sv.qp 0).isSome = true ∧ sv.qp 1023 = none := ⟨sv_inService, by unfold InService Awake; decide, by decide⟩

/-- A unit for ring 255 of the command in slot 0. -/
def unit0 : BrUnit := { slot := 0, stream := 0, kind := 0, bytes := zeros 64, psn := [], hole := [], gen := 0, bnd := 0, bad := false }

/-- Ring 255 is enabled, and in one of its phases. -/
def ringAt (ph : Nat) (us : List BrUnit) : State :=
  (withRegs [(A.hqBrCfg 255, 0x10080)] (withCmds [busy (ent Opc.scan)])).setRing { BufRing.reset 255 with active := true, phase := ph, units := us }

theorem witness_BufferRingEnableDisableAndKick : InService sv ∧ InService (ringAt 1 [unit0]) ∧ (fld (0x8C : Word) 7 1 = 1 ∧ fld (0x8C : Word) 0 4 ≤ 12 ∧ sv.brEn 255 = false) ∧
    (fld (0 : Word) 7 1 = 0 ∧ (ringAt 0 []).brEn 255 = true ∧ ((ringAt 0 [unit0]).ring 255).phase = 0 ∧ ((ringAt 2 [unit0]).ring 255).phase ≠ 0 ∧ ((ringAt 2 [unit0]).ring 255).phase ≠ 1 ∧
      (ringAt 2 [unit0]).brEn 255 = true ∧ unit0 ∈ ((ringAt 0 [unit0]).ring 255).units ∧ (ringAt 0 [unit0]).slot unit0.slot = some (busy (ent Opc.scan)) ∧
      (busy (ent Opc.scan)).phase = .running ∧ (busy (ent Opc.scan)).reject = none) ∧
    (let s := (ringAt 1 [unit0]).setRing { (ringAt 1 [unit0]).ring 255 with starved := true }
     s.brEn 255 = true ∧ (s.ring 255).phase = 1 ∧ (s.ring 255).starved = true ∧ (s.ring 255).taken = []) ∧
    (let s := withOut [rd 0 (.descRead 255 0 1)] (ringAt 1 [unit0]); (s.ring 255).phase = 1 ∧ s.descReading 255 = true) ∧
    (let s := ringAt 1 [unit0]
     (s.ring 255).phase = 1 ∧ s.descReading 255 = false ∧ (s.ring 255).units = unit0 :: [] ∧ s.slot 0 = some (busy (ent Opc.scan)) ∧ s.stopped = false ∧
      s.portOf (busy (ent Opc.scan)) < 4 ∧ (s.port (s.portOf (busy (ent Opc.scan)))).wait = [] ∧ 0 < (s.port (s.portOf (busy (ent Opc.scan)))).rqCrd ∧
      freeTag (s.port (s.portOf (busy (ent Opc.scan)))) = some 0) := ⟨sv_inService, by unfold InService Awake; decide, by decide⟩

/-- A decoded codeword of channel 31, which is not LIVE. -/
def withCw31 : State := { sv with cws := [{ cw0 .decoded with ch := 31 }] }

theorem witness_MoverAbortReleaseAndFlush : InService sv ∧ sv.stopped = false ∧
    (let s := { sv with mover := { sv.mover with aborting := true } }; s.stopped = true ∧ s.mover.aborting = true ∧ s.slots = [] ∧ s.ops.any Op.active = false) ∧
    (let s := { sv with mover := { sv.mover with aborted := true } }; s.mover.aborted = true) ∧
    (sv.chPresent 31 = true ∧ sv.live 31 = false ∧ (sv.cws.any fun c => c.ch == 31 && c.stage == .decoded) = false ∧ sv.pend = [] ∧
      (withRegs [(A.chCtl 31, 0x20)] sv).live 31 = true) ∧
    (withCw31.live 31 = false ∧ (withCw31.cws.any fun c => c.ch == 31 && c.stage == .decoded) = true) ∧
    (let p := { bnd := Boundary.codeword, addr := A.movSqCtl 31, val := 1, left := [stQueue 31], act := true }; (waiting [p]).pend = [p]) := ⟨sv_inService, by decide +kernel⟩

/-- Channel 31 with its state changed. -/
def onChan (f : Chan → Chan) : State := sv.updChan 31 f

theorem witness_SequencerControlRestoresAndUnfreezes : InService sv ∧ 3 < Config.groups sv.build ∧ sv.chPresent 31 = true ∧
    (let s := onChan fun c => { c with frozen := true, unfrz := true }
     InService s ∧ s.chPresent 31 = true ∧ (s.chan 31).frozen = true ∧ (s.chan 31).unfrz = true ∧ (s.chan 31).frozenTok = false ∧ s.freezeOpen 31 = false) ∧
    (let s := { (onChan fun c => { c with frozenTok := true }) with aclk := 4000000000 }; (s.chan 31).frozenTok = true ∧ s.frozenFor 31 ≤ 1000 * (s.aclk - (s.chan 31).frozeAt)) ∧
    (let s := withRegs [(A.chTset 31 0 27, 1)] (onChan fun c => { c with frozenTok := true }); (s.chan 31).frozenTok = true ∧
      1000 * (s.aclk - (s.chan 31).frozeAt) < s.frozenFor 31) :=
  ⟨sv_inService, by decide, by decide, ⟨by unfold InService Awake; decide, by decide⟩, by decide⟩

/-- Target 0 of channel 0 is a Class L die of 16 segments. -/
def classL0 : State := withRegs [(A.chDiemapA 0 0, 0x783), (A.chDiemapB 0 0, 0xFFF), (A.hqLsReg 63, 0x10000)] sv

theorem witness_LogStreamAndSmokeRegionEnable : InService classL0 ∧ (fld (1 : Word) 0 1 = 1 ∧ (passFetch classL0).lsOk 63 1 = true ∧ (passFetch sv).lsOk 63 1 = false) ∧
    (fld (0x10000 : Word) 16 1 = 1 ∧ fld (0x10000 : Word) 0 11 = 0 ∧ (classL0.chan 0).atBoundary = true ∧ classL0.pend = [] ∧ classL0.classLOk 0 = true ∧
      classL0.smokeFirstAt 0 + classL0.smokeNsegAt 0 ≤ classL0.segs 0 - 1 ∧ (sv.chan 0).atBoundary = true ∧ sv.classLOk 0 = false) ∧
    ((sv.setChan { Chan.reset 0 with run := some 0 }).chan 0).atBoundary = false := ⟨by unfold InService Awake; decide, by decide⟩

theorem witness_ReadLevelWindowWritesSelectedEntry : InService sv ∧ 3 < 4 ∧ ((sv.chan (dieCh sv.selDie)).atBoundary = true ∧ sv.pend = []) ∧
    (let s := sv.setChan { Chan.reset 0 with run := some 0 }; InService s ∧ (s.chan (dieCh s.selDie)).atBoundary = false) ∧
    (let p := { bnd := Boundary.instr, addr := A.rlvTblData 3, val := 1, left := [31], sel := 131071, act := true }; (waiting [p]).pend = [p]) :=
  ⟨sv_inService, by decide, by decide, ⟨by unfold InService Awake; decide, by decide⟩, rfl⟩

/-! ## Witnesses: channels and the waggle fabric -/

theorem witness_ChannelControlWritesLiveTselAndWp : InService sv ∧ (sv.chPresent 31 = true ∧ sv.pend = [] ∧ sv.live 31 = false) ∧
    ((sv.chan 31).atBoundary = true ∧ ((onChan fun c => { c with run := some 0 }).chan 31).atBoundary = false ∧ sv.fldOf (A.chTset 31 7 0) 0 28 = sv.rateOf 31) ∧
    (let s := withRegs [(A.chTset 31 7 0, 1)] sv; s.fldOf (A.chTset 31 7 0) 0 28 ≠ s.rateOf 31 ∧ s.quiet 31 = true) ∧
    (let s := withRegs [(A.chTset 31 7 0, 1), (A.chCtl 31, 0x20)] sv; s.fldOf (A.chTset 31 7 0) 0 28 ≠ s.rateOf 31 ∧ s.quiet 31 = false) ∧
    (withRegs [(A.chCtl 31, 1)] sv).en 31 = true ∧
    (let s := withRegs [(A.chCtl 31, 0x10)] sv; s.wpRel 31 = true ∧ (s.chan 31).idle = true ∧ (s.chan 31).frozen = false) ∧
    (sv.wpRel 31 = false ∧ sv.writesBefore 31 ((sv.chan 31).wpFall.getD sv.admSeq) = false) ∧
    (let s := { withCmds [busy { ent Opc.program with count := 1 }] with admSeq := 6 }; s.writesBefore 0 ((s.chan 0).wpFall.getD s.admSeq) = true) :=
  ⟨sv_inService, by decide⟩

/-- Channel 31 runs a channel operation. -/
def chOpOf (op arg : Nat) : ChOp := { word := BitVec.ofNat 32 op, arg := BitVec.ofNat 32 arg }
def chOpOn (op arg : Nat) : State := onChan fun c => { c with pll := true, op := some (chOpOf op arg) }

theorem witness_ChannelOperationsEndWithResult : (chOpOn 2 0).held = false ∧
    (∀ k ∈ [1, 2, 3, 4, 5, 6, 7, 8, 9, 10], let s := chOpOn k 0; ((opEnter s 31).chan 31).op = some (chOpOf k 0) ∧
      fld (chOpOf k 0).word 0 4 = k ∧ (s.chan 31).pll = true ∧ (s.chan 31).ceLow = none ∧
      ∀ e ∈ [DieEnd.ready, .noStatus], (opEnter s 31).opMayEnd 31 (chOpOf k 0) e = true) ∧
    (let s := { chOpOn 2 0 with aclk := 1000000000 }; (opEnter s 31).opMayEnd 31 (chOpOf 2 0) .stuckBusy = true) ∧
    ((onChan fun c => { c with pll := false, op := some (chOpOf 2 0) }).chan 31).pll = false ∧
    ((1 : Word).toNat ≤ (zeros 1).length ∧ fld (0x409 : Word) 10 3 = 1) ∧ ((chOpOn 1 0).chan (31 / 8 * 8 + 7)).inZq = true ∧
    (2328 ≤ 2328 ∧ 2472 ≤ 2472 ∧ ¬(2328 ≤ 2327)) := by decide

theorem witness_WaggleChannelFiresUpToItsLimit : InService sv ∧ RingsOff sv ∧ ((0x80000000 : Word).toNat = 2 ^ 31 ∧ bit (sv.regN A.wglChEn) 31 = true ∧
      (assoc sv.wgl.counts 31).getD 0 + 1 ≤ sv.fldOf A.wglLoopCfg 0 16) ∧
    (let s := { sv with wgl := { sv.wgl with counts := [(31, 64)] } }; s.fldOf A.wglLoopCfg 0 16 < (assoc s.wgl.counts 31).getD 0 + 1) :=
  ⟨sv_inService, sv_ringsOff, by decide⟩

/-- Timer 7 and its producer, wired to channel 31. -/
def timing (t : WTimer) : State := (withRegs [(A.wglPmap 48, 0x80000000)] sv).setTimer t

theorem witness_WaggleTimersStartStopAndExpire : InService sv ∧ RingsOff sv ∧
    (let s := timing { k := 7, run := true, elapsed := 1000, arm := false }
     InService s ∧ RingsOff s ∧ (s.timer 7).run = true ∧ s.fldOf (A.wglTmrCfg 7) 0 28 ≤ (s.timer 7).elapsed ∧ s.regN (A.wglPmap (41 + 7)) = 2 ^ 31 ∧
      bit (s.regN A.wglChEn) 31 = true ∧ (assoc s.wgl.counts 31).getD 0 + 1 ≤ s.fldOf A.wglLoopCfg 0 16) ∧
    (let s := timing { k := 7, run := false, elapsed := 0, arm := true }; (s.timer 7).arm = true ∧ s.smoke.step ≠ 8 ∧ ∃ t, step { s with pending := [] } = .next t) :=
  ⟨sv_inService, sv_ringsOff, ⟨by unfold InService Awake; decide, by unfold RingsOff; decide, by decide⟩, by decide, by decide, _, rfl⟩

/-- A latch of task `k` is set by channel 31. -/
def latched (k : Nat) (s : State) : State := { s with wgl := { s.wgl with latch := [(k, 31)] } }

theorem witness_WaggleTasksActOnTheirLatch :
    (let s := latched 8 { sv with power := { sv.power with st := .p2 } }; s.held = false ∧ s.power.st ≠ .p0 ∧ s.latches 8 = [(8, 31)] ∧ s.power.waking = false ∧ s.power.clkStop = false) ∧
    (let s := latched 8 { sv with power := { sv.power with st := .p2, clkStop := true } }; s.latches 8 = [(8, 31)] ∧ s.power.clkStop = true) ∧
    (let s := latched 8 { sv with power := { sv.power with st := .p1 } }; s.power.st = .p1 ∧ s.latches 8 = [(8, 31)]) ∧
    (RingsOff sv ∧ ∀ k < 33, (latched k sv).latches k = [(k, 31)]) ∧ (sv.taskBusy 0 = false ∧ sv.taskBusy 2 = false ∧ sv.taskBusy 4 = false) ∧
    (let s := sv.setFg { sv.fg with ranges := [{ paddr := 0, nblk := 1, npage := 1, fmt := 0, stride := 1 }] }
     (withRegs [(A.chCtl 0, 0x20)] s).fg.dies.all (withRegs [(A.chCtl 0, 0x20)] s).fgChanBad = false) ∧
    (let s := { sv with wgl := { sv.wgl with latch := [(6, 0), (6, 31)] } }; 2 ≤ (s.latches 6).length) :=
  ⟨by decide, by decide, by decide, ⟨sv_ringsOff, by decide⟩, by decide, by decide, by decide⟩

theorem witness_BusyTasksOverrunOnce : sv.held = false ∧ sv.power.st = .p0 ∧ RingsOff sv ∧ sv.latches 2 = [] ∧
    (let s := latched 2 { sv with wgl := { sv.wgl with calBusy := true } }; s.latches 2 ≠ [] ∧ s.taskBusy 2 = true) ∧
    ((latched 32 sv).latches 32 ≠ [] ∧ (latched 32 sv).taskBusy 32 = false ∧ 3 < Config.groups sv.build) :=
  ⟨rfl, rfl, sv_ringsOff, by decide, by decide, by decide⟩

/-! ## Witnesses: the start of commands -/

/-- Every opcode's command starts from slot 0 of a block that has nothing else to do. -/
theorem starts (e : Entry) : Starting (withCmds [cmd e]) 0 (cmd e) e.opc := ⟨rfl, by decide, rfl, rfl, rfl, rfl, rfl, rfl, nofun, rfl⟩

/-- An erase of block 0 of die 0 by the command in slot 1. -/
def erasing (st : OpStage) (expl : Bool) : Op := { op0 (.cmd 1) .erase with stage := st, seq := 4, expl := expl }

theorem witness_StartedCommandsRun :
    (∀ opc ∈ [Opc.erase, Opc.getFeature, Opc.setFeature, Opc.fence, Opc.read, Opc.readParam], Starting (withCmds [cmd (ent opc)]) 0 (cmd (ent opc)) opc ∧
      (cmd (ent opc)).entry.indirect = false) ∧
    (let e := { ent Opc.logRead with xctl := 0x100 }; Starting (withCmds [cmd e]) 0 (cmd e) Opc.logRead ∧ bit e.xctl 8 = true) ∧
    (∀ opc ∈ [Opc.read, Opc.scan, Opc.program, Opc.logAppend, Opc.logRead], let e := { ent opc with flags := 0x10 }
      Starting (withCmds [cmd e]) 0 (cmd e) opc ∧ bit e.xctl 8 = false ∧ (withCmds [cmd e]).ctxLoading (cmd e) = false ∧ (cmd e).ctxLate = false ∧
        (withCmds [cmd e]).stagingRoom 0 = true ∧ (withCmds [cmd e]).portOf (cmd e) < 4) ∧
    (let e := { ent Opc.copy with count := 1 }
     Starting (withCmds [cmd e]) 0 (cmd e) Opc.copy ∧ (cmd e).done ≠ e.count ∧ (withCmds [cmd e]).stagingRoom 0 = true ∧ (withCmds [cmd e]).eraseBefore (e.paddr + 8 * (cmd e).done) (cmd e).seq = none ∧
      (∀ b : Bool, let s := { withCmds [cmd e] with ops := [erasing .suspended b] }
        Starting s 0 (cmd e) Opc.copy ∧ s.eraseBefore (e.paddr + 8 * (cmd e).done) (cmd e).seq = some (erasing .suspended b) ∧ (erasing .suspended b).expl = b)) := by
  refine ⟨fun opc _ => ⟨starts (ent opc), by show bit 0 4 = false; decide⟩, ⟨starts { ent Opc.logRead with xctl := 0x100 }, by decide⟩, fun opc h => ⟨starts { ent opc with flags := 0x10 }, ?_⟩, ?_⟩
  · simp only [List.mem_cons, List.not_mem_nil, or_false] at h
    rcases h with h | h | h | h | h <;> subst h <;> decide
  · refine ⟨starts { ent Opc.copy with count := 1 }, by decide, by decide, by decide, fun b => ⟨starts { ent Opc.copy with count := 1 }, ?_, rfl⟩⟩
    cases b <;> decide

/-- A SCAN that waits for the load of its context, one whose context has come wrong, and a command that finds program staging full. -/
theorem witness_waits_to_start :
    (let x := { cmd (ent Opc.scan) with id := 1, seq := 9 }; let l := cmd (ent Opc.loadScan)
     Starting (withCmds [l, x]) 1 x Opc.scan ∧ (withCmds [l, x]).ctxLoading x = true) ∧
    (let x := { cmd (ent Opc.scan) with ctxLate := true }; let y := { x with phase := .running }; let s := withCmds [x]
     Starting s 0 x Opc.scan ∧ s.ctxLoading x = false ∧ x.ctxLate = true ∧ ctxChecks (s.setSlot y) y = some St.invalidField) ∧
    (withCmds [cmd { ent Opc.program with count := 300 }]).stagingRoom 0 = false :=
  ⟨⟨⟨rfl, by decide, rfl, rfl, rfl, rfl, rfl, rfl, nofun, rfl⟩, by decide⟩, ⟨⟨rfl, by decide, rfl, rfl, rfl, rfl, rfl, rfl, nofun, rfl⟩, by decide, rfl, by decide⟩, by decide⟩

theorem test_indirect_flag : ({ ent Opc.read with flags := 0x10 } : Entry).indirect = true := by decide

/-- A command of each opcode that reads host data, with the fields its form needs. -/
theorem witness_StartedCommandsMoveHostData :
    (∀ e ∈ [{ ent Opc.gather with count := 1 }, { ent Opc.scan with count := 1 }, { ent Opc.program with count := 1 }, { ent Opc.logAppend with count := 256 },
        { ent Opc.setKeySlot with count := 72 }, ent Opc.loadScan, ent Opc.loadMicro, { ent Opc.loadMicro with xctl := 4 }, { ent Opc.loadMicro with xctl := 8 },
        { ent Opc.setPatrol with count := 1 }, ent Opc.dieRaw, ent Opc.calibrate, { ent Opc.getLog with count := 1 }],
      Starting (withCmds [cmd e]) 0 (cmd e) e.opc ∧ (withCmds [cmd e]).portOf (cmd e) < 4 ∧ e.indirect = false ∧ e.hasMeta = false ∧
        (withCmds [cmd e]).ctxLoading (cmd e) = false ∧ (cmd e).ctxLate = false ∧ (withCmds [cmd e]).stagingRoom 0 = true ∧ bit e.xctl 10 = false ∧ (e.opc = Opc.loadMicro → e.x 2 2 < 3) ∧ (e.opc = Opc.setPatrol → e.count ≠ 0) ∧
        (e.opc = Opc.getLog → (cmd e).outq = [] ∧ (cmd e).noWrite = false ∧ 0 < e.count)) ∧
    (∃ e : Entry, Starting (withCmds [cmd e]) 0 (cmd e) Opc.program ∧ e.hasMeta = true ∧ e.indirect = false ∧ (withCmds [cmd e]).stagingRoom 0 = true) ∧
    (withCmds [cmd (ent Opc.dieRaw)]).custEntry (ent Opc.dieRaw) = none ∧
    ∃ l, ((withCmds [cmd (ent Opc.dieRaw)]).setStore 0 { Store.reset with entries := [(0, leBytes 4 0x10000 ++ zeros 12)] }).custEntry (ent Opc.dieRaw) = some l := by
  refine ⟨fun e h => ⟨starts e, ?_⟩, ⟨{ ent Opc.program with xctl := 1 }, starts _, by decide, by decide, by decide⟩, by decide, _, rfl⟩
  simp only [List.mem_cons, List.not_mem_nil, or_false] at h
  rcases h with h | h | h | h | h | h | h | h | h | h | h | h | h <;> subst h <;> decide

/-- QP 1 exists. -/
def twoQps : State := sv.setQp (QP.fresh 1)

theorem witness_QueuePairsKeysAndSanitize :
    (∃ e : Entry, Starting (withCmds [cmd e]) 0 (cmd e) Opc.setKeySlot ∧ bit e.xctl 10 = true) ∧
    (∃ e : Entry, Starting (withCmds [cmd e]) 0 (cmd e) Opc.createQp ∧ e.x 0 10 = 1023 ∧ (withCmds [cmd e]).qp 1023 = none) ∧
    (Starting (withCmds [cmd (ent Opc.createQp)]) 0 (cmd (ent Opc.createQp)) Opc.createQp ∧ ((withCmds [cmd (ent Opc.createQp)]).qp 0).isSome = true) ∧
    (let e := { ent Opc.deleteQp with xctl := 1 }; let s := { twoQps with slots := [cmd e] }
     Starting s 0 (cmd e) Opc.deleteQp ∧ s.qp 1 = some (QP.fresh 1) ∧ s.qpIdle (QP.fresh 1) = true ∧ (withRegs [(A.hqQpCtl 1, 1)] s).qpIdle (QP.fresh 1) = false) ∧
    (Starting (withCmds [cmd (ent Opc.sanitize)]) 0 (cmd (ent Opc.sanitize)) Opc.sanitize ∧ (ent Opc.sanitize).x 0 1 = 0) ∧
    (let e := { ent Opc.sanitize with xctl := 1, aux0 := 1 }; Starting (withCmds [cmd e]) 0 (cmd e) Opc.sanitize ∧ e.x 0 1 = 1) :=
  ⟨⟨{ ent Opc.setKeySlot with xctl := 0x400 }, starts _, by decide⟩, ⟨{ ent Opc.createQp with xctl := 1023 }, starts _, by decide, by decide⟩, ⟨starts _, by decide⟩,
    ⟨⟨rfl, by decide, rfl, rfl, rfl, rfl, rfl, rfl, nofun, rfl⟩, by decide⟩, ⟨starts _, by decide⟩, starts { ent Opc.sanitize with xctl := 1, aux0 := 1 }, by decide⟩

/-- An ABORT in slot 0 that names CID 7 of QP 0. -/
def abort7 : Slot := cmd { ent Opc.abort with aux0 := 7 }

/-- A command in slot 1 with CID 7, fetched before it. -/
def target7 (opc : Nat) (ph : Phase) : Slot := { cmd { ent opc with cid := 7 } with id := 1, seq := 4, phase := ph }

theorem witness_AbortEraseControlPatrolAndBudget :
    (Starting (withCmds [abort7]) 0 abort7 Opc.abort ∧ (withCmds [abort7]).sqHalfBad 0 = false ∧ (withCmds [abort7]).cqHalfBad 0 = false) ∧
    (let s := withCmds [abort7, target7 Opc.read .running]
     Starting s 0 abort7 Opc.abort ∧ s.slots.filter (fun y => y.qid == 0 && y.entry.cid == 7 && decide (y.seq < 5) && y.unfinished && y.reject.isNone) = [target7 Opc.read .running] ∧
      s.abortable (target7 Opc.read .running) = true ∧ s.abortable (target7 Opc.fence .running) = false ∧ s.abortable (target7 Opc.fence .held) = true) ∧
    (let e := { ent Opc.eraseControl with xctl := 1 }; Starting (withCmds [cmd e]) 0 (cmd e) Opc.eraseControl ∧ eraseControlOk (withCmds [cmd e]) (cmd e) = false ∧
      (let s := { withCmds [cmd e] with ops := [erasing .suspended false] }
       Starting s 0 (cmd e) Opc.eraseControl ∧ eraseControlOk s (cmd e) = true ∧ s.runningErase (pDie e.paddr) = some (erasing .suspended false) ∧
        (erasing .suspended false).resume = false) ∧
      (∀ w ∈ [none, some 5], let o := { erasing .confirmed false with wantSusp := w }; let s := { withCmds [cmd e] with ops := [o] }
       eraseControlOk s { cmd e with samp := { samp0 with susp := 1 } } = true ∧ s.runningErase (pDie e.paddr) = some o ∧ ¬(o.stage = .suspended ∧ o.resume = false))) ∧
    (let e := { ent Opc.eraseControl with xctl := 2 }; Starting (withCmds [cmd e]) 0 (cmd e) Opc.eraseControl ∧ (withCmds [cmd e]).explErase (pDie e.paddr) = none ∧
      (let s := { withCmds [cmd e] with ops := [erasing .suspended true] }; s.explErase (pDie e.paddr) = some (erasing .suspended true))) ∧
    (Starting (withCmds [cmd (ent Opc.setPatrol)]) 0 (cmd (ent Opc.setPatrol)) Opc.setPatrol ∧ (ent Opc.setPatrol).count = 0) ∧
    (let s := withCmds [cmd (ent Opc.setBudget)]; Starting s 0 (cmd (ent Opc.setBudget)) Opc.setBudget ∧
      (reserveTest (s.reserveDies 0) 0 0 && writeTest (s.boundedWrites 0) 0 0) = true ∧ writeTest [op0 (.cmd 1) .program] 0 0x0A = false) := by
  refine ⟨⟨starts _, by decide⟩, ⟨⟨rfl, by decide, rfl, rfl, rfl, rfl, rfl, rfl, nofun, rfl⟩, by decide⟩,
    ⟨starts { ent Opc.eraseControl with xctl := 1 }, by decide, ⟨⟨rfl, by decide, rfl, rfl, rfl, rfl, rfl, rfl, nofun, rfl⟩, by decide⟩, by decide⟩,
    ⟨starts { ent Opc.eraseControl with xctl := 2 }, by decide⟩, ⟨starts _, by decide⟩, starts _, by decide⟩

/-! ## Witnesses: fetch, dispatch and the routines -/

/-- QP 1 is enabled and its host has rung one entry. -/
def ringing (q : QP) : State := withRegs [(A.hqQpCtl 1, 1), (A.hqQpQuota 1, 4)] (sv.setQp q)

def q1 : QP := { QP.fresh 1 with bell := 1 }

/-- A PROGRAM entry as it comes from memory, with phase 1 or 0. -/
def fetched (ph : Bool) : RdBeat := { resp := .ok, data := entryBytes { ent Opc.program with phase := ph } }

theorem witness_EntriesAreFetchedAndHeldCommandsReleased :
    (InService sv ∧ sv.smoking = false ∧ sv.stopped = false ∧ sv.turnOf = none) ∧
    (InService (ringing q1) ∧ (ringing q1).smoking = false ∧ (ringing q1).stopped = false ∧ (ringing q1).turnOf = some q1 ∧ q1.port < 4 ∧
      (ringing q1).sqHalfBad 1 = false ∧ ({ ringing q1 with mem := { Mem.reset with poison := [(6, 0, 256)] } } : State).sqHalfBad 1 = true) ∧
    (let r := rd 255 (.sqRead 1 q1.head 1); let s := withOut [r] (ringing q1)
     s.held = false ∧ s.smoking = false ∧ s.stopped = false ∧ (s.port 0).find 255 false = some r ∧ r.beats = 1 ∧ s.qp 1 = some q1 ∧ s.qpEn 1 = true ∧
      q1.fault = false ∧ s.sqHalfBad 1 = false ∧ q1.todo ≠ 0 ∧ s.slotFree 1 = true ∧
      (∀ ph, (fetched ph).resp = .ok ∧ (fetched ph).data.length = 64 ∧ (parseEntry (fetched ph).data).phase = ph) ∧ q1.expect = true) ∧
    (let x := { cmd (ent Opc.fence) with phase := .held }; let s := withCmds [x]; let u := s.updSlot 0 fun y => { y with released := s.aclk, fenced := true }
     s.held = false ∧ 0 < Config.slotCount ∧ s.slot 0 = some x ∧ s.isHeld x = false ∧ lateChecks u { x with released := s.aclk, fenced := true, phase := .admitted } = none ∧
      x.entry.bounded = false ∧ x.entry.opc ≠ Opc.logAppend) ∧
    (let x := { cmd (ent Opc.read) with phase := .held }; let s := withCmds [x]; let u := s.updSlot 0 fun y => { y with released := s.aclk, fenced := true }
     s.slot 0 = some x ∧ s.isHeld x = false ∧ lateChecks u { x with released := s.aclk, fenced := true, phase := .admitted } = some St.invalidState) ∧
    (let x := { cmd (ent Opc.read) with phase := .held }; (withCmds [x, { cmd (ent Opc.fence) with id := 1, seq := 4 }]).isHeld x = true) :=
  ⟨⟨sv_inService, by decide⟩, ⟨by unfold InService Awake; decide, by decide⟩, by decide⟩

/-- An operation of the command in slot 0. -/
def op1 (kind : OpKind) (st : OpStage) : Op := { op0 (.cmd 0) kind with stage := st }

/-- A command that has started, with operations on die 0. -/
def working (e : Entry) (l : List Op) : State := { withCmds [busy e] with ops := l }

/-- Channel 0 stands at a switch point: its PLL is locked, no CE_n is low. -/
def locked (s : State) : State := s.setChan { Chan.reset 0 with pll := true }

theorem witness_DispatchSuspendResumeAndAge :
    (sv.held = false ∧ ({ sv with power := { sv.power with st := .p1 } } : State).dispatchHeld 2047 = true) ∧
    (let o := op1 .erase .queued; let s := working (ent Opc.erase) [o]
     s.held = false ∧ s.dispatchHeld 0 = false ∧ s.smoking = false ∧ s.queuedAt 0 = [o] ∧ s.dispatchBad o = false ∧ s.canRun o = true ∧
      s.canDraw (s.rail 0) o.fromReserve (s.arrayCost o) = true ∧ (o.fgFirst && (s.fgChanBad 0 || s.fgBlockBad o.paddr)) = false ∧
      (o.fromReserve || !s.tokenBehind o) = true ∧ s.opSlot o = some (busy (ent Opc.erase)) ∧ Opc.erase ≠ Opc.dieRaw) ∧
    (let o := op0 .forager .read; let s := working { ent Opc.erase with count := 1 } [o]
     s.dispatchHeld 0 = false ∧ s.smoking = false ∧ s.queuedAt 0 = [o] ∧ s.dispatchBad o = false ∧ o.fgFirst = true ∧ s.canRun o = true ∧ s.fgBlockBad o.paddr = true) ∧
    (let o := op1 .erase .queued; let s := withRegs [(A.admRailBudget 0, 0)] (working (ent Opc.erase) [o])
     s.dispatchHeld 0 = false ∧ s.smoking = false ∧ s.queuedAt 0 = [o] ∧ s.dispatchBad o = false ∧ s.canRun o = true ∧
      s.canDraw (s.rail 0) o.fromReserve (s.arrayCost o) = false ∧ o.fgFirst = false ∧ s.suspendedAt 0 = none ∧ o.waited = false ∧ o.slotOf = some 0 ∧ s.slot 0 = some (busy (ent Opc.erase))) ∧
    (let o := op1 .erase .queued; let s := working (ent Opc.erase) [o, { op0 (.cmd 1) .erase with id := 1, stage := .suspended, expl := true }]
     s.dispatchHeld 0 = false ∧ s.smoking = false ∧ s.queuedAt 0 = [o] ∧ s.dispatchBad o = true ∧ (busy (ent Opc.erase)).phase = .running ∧ (busy (ent Opc.erase)).reject = none) ∧
    sv.switchPoint (dieCh 2047) = false ∧
    (let o := { op1 .erase .confirmed with wantSusp := some 0 }; let s := locked (working (ent Opc.erase) [o])
     s.smoking = false ∧ s.switchPoint (dieCh 0) = true ∧ s.victim 0 = some o ∧ o.wantSusp = some 0 ∧ s.slot 0 = some (busy (ent Opc.erase))) ∧
    (∀ r : Bool, let x := { busy { ent Opc.read with flags := 1 } with samp := { samp0 with susp := 1, cls := List.replicate 8 0x1000 } }
     let o := { op0 (.cmd 1) .erase with id := 1, stage := .confirmed, susp := r.toNat }
     let q := { op1 .read .queued with cls := 0 }
     let s := locked { withCmds [x] with ops := [q, o], aclk := 1000000 }
     s.smoking = false ∧ s.switchPoint (dieCh 0) = true ∧ s.victim 0 = some o ∧ o.wantSusp = none ∧ s.suspender 0 = some x ∧ (s.queuedAt 0).head? = some q ∧
      s.outrankedAt (dieCh 0) q = false ∧ s.maySuspend o x = !r) ∧
    (∀ r : Bool, let o := { op1 .erase .suspended with resume := r, expl := true }; let s := locked (working (ent Opc.erase) [o])
     s.suspendedAt 0 = some o ∧ s.resumeDue o = r ∧ s.switchPoint (dieCh 0) = true ∧ (s.chan (dieCh 0)).ctx (dieCtx 0) = none) ∧
    (let o := op1 .erase .queued; let x := { busy (ent Opc.erase) with samp := { samp0 with age := 1 } }; let s := { withCmds [x] with ops := [o], aclk := 1 }
     s.op 0 = some o ∧ s.opSlot o = some x ∧ o.stage = .queued ∧ o.cls = 7 ∧ o.kind ≠ .exclusive ∧ x.samp.age ≠ 0 ∧ x.samp.age ≤ s.aclk - o.placed) ∧
    (let o := op1 .erase .queued; let s := working (ent Opc.erase) [o]; s.op 0 = some o ∧ s.opSlot o = some (busy (ent Opc.erase)) ∧ (busy (ent Opc.erase)).samp.age = 0) := by
  refine ⟨?_, ?_, ?_, ?_, ?_, ?_, ?_, ?_, ?_, ?_, ?_⟩ <;> decide +kernel

/-- A control store word of the customer region with a bus operation, a sequence operation and other fields. -/
def csWith (bop sop rest : Nat) : BitVec 132 := withParity (BitVec.ofNat 128 (bop * 2 ^ 124 + sop * 2 ^ 76 + rest))

/-- A context of channel 0 at the first address of the customer region. -/
def ctx0 : Ctx := { mkCtx 0 12288 0 with ready := false }

/-- `s` with context `x` running on channel 0, whose PLL is locked, with CE_n of its target low, and word `w` where it is. -/
def runsAt (x : Ctx) (w : BitVec 132) (s : State) : State :=
  (s.setStore 0 { Store.reset with words := [(12288, w)] }).setChan
    { Chan.reset 0 with ctxs := [x], run := some x.id, wp := true, pll := true, ceLow := some (x.id / 4), ceBy := x.id }

/-- A context of a customer routine without an operation. -/
def cust0 : Ctx := { ctx0 with cust := some 63, op := none }

theorem witness_SegmentsStartAndContextsWake :
    (∀ b : Bool, let x := { ctx0 with ready := true }
     let s := sv.setChan { Chan.reset 0 with pll := true, ctxs := [x], cache := if b then [(12288, 0)] else [] }; let c := s.chan 0
     s.held = false ∧ c.frozen = false ∧ c.pll = true ∧ c.ceLow = none ∧ c.op = none ∧ c.run = none ∧ s.power.st = .p0 ∧ (s.store 0).restoring = false ∧
      s.bestReady c = some x ∧ c.cache.find? (fun e => e.1 == x.pc) = if b then some (12288, 0) else none) ∧
    (∀ b : Bool, let z := { ctx0 with id := 1 }; let x := { ctx0 with ready := true, urgent := b }
     let s := sv.setChan { Chan.reset 0 with pll := true, ctxs := [x, z], run := some 1 }; let c := s.chan 0
     c.run = some 1 ∧ c.ctx 1 = some z ∧ c.frozen = false ∧ c.pll = true ∧ c.ceLow = none ∧ c.op = none ∧ s.bestReady c = some x ∧ x.id ≠ 1 ∧ s.segBefore x z = b) ∧
    (sv.bestReady (sv.chan 31) = none) ∧
    (∀ b : Bool, let x := { ctx0 with id := 63, asleep := b }; let s := sv.setChan { Chan.reset 31 with ctxs := [x] }
     s.held = false ∧ (s.chan 31).ctx 63 = some x ∧ (s.chan 31).resetDue.contains 63 = false) ∧
    (let x := { ctx0 with id := 63, asleep := true }; let s := withRegs [(A.chDiemapA 31 15, 0x7000000)] (sv.setChan { Chan.reset 31 with ctxs := [x] })
     (s.chan 31).ctx 63 = some x ∧ s.rbMode (64 * 31 + 63) = true ∧ fld (s.dmA (64 * 31 + 63)) 25 2 = 3) := by
  decide +kernel

/-- An erase of die 0 before its confirm cycle, whose routine has sent the command and the row address. -/
def ctxErase : Ctx := { ctx0 with last := 0x60, addr := [0] }

/-- A read of one codeword that has sensed its page, with the die ready for the data burst. -/
def opRead : Op := { op1 .read .confirmed with cws := [(7, 7)] }
def ctxRead : Ctx := { ctx0 with last := 0xE0, burst := true }

/-- The state in which that read moves data. -/
def readsAt (x : Ctx) (s : State) : State := runsAt x (csWith 3 0 0) { s with ops := [opRead] }

/-- A program before its confirm cycle, with the die ready for its data. -/
def ctxWrite : Ctx := { ctx0 with last := 0x80, burst := true }

/-- Decode staging filled to its capacity (R24). -/
def stagedFull : List Cw := (List.range 96).map fun k => { cw0 .raw with id := k }

theorem witness_executing : (∀ b ∈ [0, 6, 7, 8, 9, 10], Executing (runsAt ctx0 (csWith b 0 0) sv) 0 ctx0 b) ∧
    (∀ b ∈ [0, 1, 2, 3, 4, 5, 6, 7], Executing (runsAt cust0 (csWith b 0 0) sv) 0 cust0 b) ∧ cust0.op.bind sv.op = none := by
  unfold Executing; decide +kernel

theorem witness_bus_operations :
    (∀ w : Bool, let s := withRegs [(A.chCtl 0, if w then 0x10 else 0)] (runsAt ctx0 (csWith 8 0 0) sv); Executing s 0 ctx0 8 ∧ s.wpRel 0 = w ∧
      s.writesBefore 0 ((s.chan 0).wpFall.getD s.admSeq) = false) ∧
    (let s := { runsAt ctx0 (csWith 8 0 0) (withCmds [busy (ent Opc.erase)]) with admSeq := 9 }; Executing s 0 ctx0 8 ∧ s.wpRel 0 = false ∧
      s.writesBefore 0 ((s.chan 0).wpFall.getD s.admSeq) = true) ∧
    (let o := op1 .erase .dispatched; let s := runsAt ctx0 (csWith 1 0 (0x60 * 2 ^ 116)) (working (ent Opc.erase) [o])
     Executing s 0 ctx0 1 ∧ ctx0.op.bind s.op = some o ∧ o.kind ≠ .exclusive ∧ Wd.conf (s.wordAt 0 ctx0).toNat = false) ∧
    (let o := op1 .erase .dispatched; let s := runsAt ctxErase (csWith 1 0 (0xD0 * 2 ^ 116 + 2 ^ 97)) (working (ent Opc.erase) [o]); let w := (s.wordAt 0 ctxErase).toNat
     Executing s 0 ctxErase 1 ∧ Wd.conf w = true ∧ ctxErase.cust = none ∧ ctxErase.op.bind s.op = some o ∧ o.kind ≠ .exclusive ∧ o.stage = .dispatched ∧ Wd.sop w = 0 ∧
      Wd.rop w ≤ 1 ∧ NoneWaits s 0) ∧
    (let o := op1 .erase .confirmed; let x := { ctx0 with badSt := 2 }; let s := runsAt x (csWith 5 0 0) (working (ent Opc.erase) [o]); let w := (s.wordAt 0 x).toNat
     Executing s 0 x 5 ∧ x.cust = none ∧ x.op.bind s.op = some o ∧ Wd.sop w = 0 ∧ Wd.rop w ≤ 1 ∧ NoneWaits s 0 ∧ o.ready = false ∧ o.owner = .cmd 0 ∧
      s.slot 0 = some (busy (ent Opc.erase)) ∧ (0x20 : Byte).getLsbD 5 = true) := by
  refine ⟨?_, ?_, ?_, ?_, ?_⟩ <;> unfold Executing <;> (try unfold NoneWaits) <;> decide +kernel

/-- That read with the bytes of its codeword at hand. -/
def ctxFull : Ctx := { ctxRead with got := zeros 8000 }

theorem witness_bursts_in :
    (let o := op1 .exclusive .confirmed; let x := { ctx0 with last := 0xEE, burst := true }; let s := runsAt x (csWith 3 0 0) (working (ent Opc.getFeature) [o])
     Executing s 0 x 3 ∧ x.op.bind s.op = some o ∧ s.burstOk o = true ∧ s.opSlot o = some (busy (ent Opc.getFeature)) ∧ NoneWaits s 0) ∧
    (let s := readsAt ctxRead (withCmds [busy (ent Opc.read)])
     Executing s 0 ctxRead 3 ∧ ctxRead.op.bind s.op = some opRead ∧ s.burstOk opRead = true ∧ s.stageRoom 0 opRead 1 = true ∧ Wd.len (s.wordAt 0 ctxRead).toNat = 1 ∧
      opRead.cws = (7, 7) :: [] ∧ opRead.step = .first ∧ pChan 7 = 0 ∧ (s.chan 0).flushing = false ∧ s.cws = [] ∧ ctxRead.got.length + 1 < (s.fmtAt 0 opRead.fmt).len) ∧
    (let s := readsAt ctxFull (withCmds [busy (ent Opc.read)])
     Executing s 0 ctxFull 3 ∧ s.stageRoom 0 opRead 1 = true ∧ (s.fmtAt 0 opRead.fmt).len ≤ ctxFull.got.length) ∧
    (let s := withRegs [(A.admRailBudget 0, 0), (A.admRailCost 0, 0x01000000)] (readsAt ctxRead (withCmds [busy (ent Opc.read)]))
     Executing s 0 ctxRead 3 ∧ ctxRead.op.bind s.op = some opRead ∧ s.burstOk opRead = false) ∧
    (let s := readsAt ctxRead { withCmds [busy (ent Opc.read)] with cws := stagedFull }
     Executing s 0 ctxRead 3 ∧ ctxRead.op.bind s.op = some opRead ∧ s.burstOk opRead = true ∧ s.stageRoom 0 opRead 1 = false) := by
  refine ⟨?_, ?_, ⟨⟨rfl, by decide, rfl, rfl, rfl, rfl, rfl, by decide +kernel, rfl, by decide +kernel,
    by decide +kernel, by decide +kernel, fun _ => rfl, nofun⟩, by decide +kernel, by decide +kernel⟩, ?_, ?_⟩ <;>
    unfold Executing <;> (try unfold NoneWaits) <;> decide +kernel

theorem witness_bursts_out :
    (∀ b : Bool, let o := { op1 .program .dispatched with image := zeros 4, bad := b }; let s := runsAt ctxWrite (csWith 4 0 0) (working (ent Opc.program) [o])
     let w := (s.wordAt 0 ctxWrite).toNat
     Executing s 0 ctxWrite 4 ∧ ctxWrite.op.bind s.op = some o ∧ s.burstOk o = true ∧ ctxWrite.cust = none ∧ o.bad = b ∧ o.senses = false ∧ Wd.sop w = 0 ∧ Wd.rop w ≤ 1 ∧
      NoneWaits s 0 ∧ o.owner = .cmd 0 ∧ s.slot 0 = some (busy (ent Opc.program)) ∧ (busy (ent Opc.program)).phase = .running ∧ (busy (ent Opc.program)).reject = none) ∧
    (let o := { op1 .read .dispatched with feat := [(0x90, zeros 4)] }; let x := { ctx0 with last := 0xEF, burst := true }
     let s := runsAt x (csWith 4 0 (3 * 2 ^ 98)) (working (ent Opc.read) [o])
     Executing s 0 x 4 ∧ x.op.bind s.op = some o ∧ s.burstOk o = true ∧ o.bad = false ∧ o.senses = true ∧ o.feat = (0x90, zeros 4) :: [] ∧ NoneWaits s 0) ∧
    (let o := { op1 .program .dispatched with image := zeros 4 }
     let s := withRegs [(A.admRailBudget 0, 0), (A.admRailCost 0, 0x01000000)] (runsAt ctxWrite (csWith 4 0 0) (working (ent Opc.program) [o]))
     Executing s 0 ctxWrite 4 ∧ ctxWrite.op.bind s.op = some o ∧ s.burstOk o = false) := by
  refine ⟨?_, ?_, ?_⟩ <;> unfold Executing <;> (try unfold NoneWaits) <;> decide +kernel

theorem witness_sequence_operations :
    (∀ k ∈ [2, 4, 5, 6], let o := op1 .erase .confirmed; let s := runsAt ctx0 (csWith 0 0 (k * 2 ^ 12)) (working (ent Opc.erase) [o]); let w := (s.wordAt 0 ctx0).toNat
     Executing s 0 ctx0 0 ∧ NoneWaits s 0 ∧ Wd.sop w = 0 ∧ Wd.rop w = k ∧ ctx0.op.bind s.op = some o) ∧
    (∀ k ∈ [0, 1, 2, 3, 4, 5, 6, 7], let x := { ctx0 with stack := [1, 2, 3] }; let s := runsAt x (csWith 0 k (14 * 2 ^ 49)) sv
     Executing s 0 x 0 ∧ x.cust = none ∧ NoneWaits s 0 ∧ Wd.sop (s.wordAt 0 x).toNat = k ∧ Wd.rop (s.wordAt 0 x).toNat ≤ 1 ∧ x.stack.length < 4) ∧
    (let x := { ctx0 with stack := [1, 2, 3, 4] }; let s := runsAt x (csWith 0 3 0) sv; Executing s 0 x 0 ∧ Wd.sop (s.wordAt 0 x).toNat = 3 ∧ 4 ≤ x.stack.length) ∧
    (let s := runsAt ctx0 (csWith 0 4 0) sv; Executing s 0 ctx0 0 ∧ Wd.sop (s.wordAt 0 ctx0).toNat = 4 ∧ ctx0.stack = []) ∧
    (∀ b : Bool, let s := runsAt ctx0 (csWith 0 6 (14 * 2 ^ 49 + if b then 2 ^ 70 else 0)) sv; let w := (s.wordAt 0 ctx0).toNat
     Executing s 0 ctx0 0 ∧ Wd.sop w = 6 ∧ ((s.latched 0 ctx0).holds (Wd.cond w) != Wd.cinv w) = !b) := by
  refine ⟨?_, ?_, ?_, ?_, ?_⟩ <;> unfold Executing <;> (try unfold NoneWaits) <;> decide +kernel

theorem witness_MachineChecksFaultsAndTimeouts :
    (let o := op1 .erase .confirmed; let s := withRegs [(A.hqArCfg, 0x100)] (runsAt ctx0 0 (working (ent Opc.erase) [o]))
     s.held = false ∧ (s.chan 0).run.bind (s.chan 0).ctx = some ctx0 ∧ (s.chan 0).frozen = false ∧ o ∈ s.ops ∧ dieCh o.die = 0 ∧ o.stage ≠ .done ∧ o.owner = .cmd 0 ∧
      s.slot 0 = some (busy (ent Opc.erase)) ∧ (busy (ent Opc.erase)).phase = .running ∧ (busy (ent Opc.erase)).reject = none ∧ s.arEn = true) ∧
    (let s := runsAt ctx0 1 sv; (s.chan 0).run.bind (s.chan 0).ctx = some ctx0 ∧ (s.chan 0).frozen = false ∧ (s.store 0).restoring = false ∧ (s.chan 0).pll = true ∧
      (s.chan 0).op = none ∧ ctx0.cust.isSome = false ∧ badSlices (s.wordAt 0 ctx0) ≠ 0) ∧
    (let x := { ctx0 with cust := some 63 }; let o := op1 .exclusive .confirmed; let s := runsAt x (csWith 8 0 0) (working (ent Opc.dieRaw) [o])
     let t := { s.updChan 0 fun c => { c with ceK := 5000 } with aclk := 2000000 }; let w := (s.wordAt 0 x).toNat
     (s.chan 0).run.bind (s.chan 0).ctx = some x ∧ x.cust.isSome = true ∧ x.op.bind s.op = some o ∧ o.die = 64 * 0 + x.id ∧ o.owner = .cmd 0 ∧
      s.slot 0 = some (busy (ent Opc.dieRaw)) ∧ (s.chan 0).ceBy = x.id ∧ s.ceTooLong 0 x = false ∧ t.ceTooLong 0 x = true ∧ (s.chan 0).frozen = false ∧
      (s.chan 0).pll = true ∧ (s.chan 0).op = none ∧ x.fresh = true ∧ s.fldAt 0 (A.seqDrLimit 0) 0 20 < t.aclk - x.start ∧
      (s.store 0).restoring = false ∧ s.smoking = false ∧ badSlices (s.wordAt 0 x) = 0 ∧ (Wd.reserved w || Wd.forbidden w) = true) ∧
    (let o := op1 .erase .confirmed; let s := working (ent Opc.erase) [o]; let t := { s with aclk := 4000000000 }
     s.timedAt 0 = some o ∧ t.timedAt 0 = some o ∧ s.ranFor o ≤ s.dieLimit o ∧ t.dieLimit o < t.ranFor o ∧ o.owner = .cmd 0 ∧ s.slot 0 = some (busy (ent Opc.erase))) ∧
    (let o := { op1 .exclusive .confirmed with endSt := some St.dieTimeout }
     let s := (working (ent Opc.dieRaw) [o]).setChan { Chan.reset 0 with resetDue := [0] }
     0 ∈ (s.chan 0).resetDue ∧ (s.ops.find? fun y => y.die == 64 * 0 + 0 && y.endSt.isSome) = some o ∧ o.endSt = some St.dieTimeout ∧ o.owner = .cmd 0) ∧
    sv.timedAt 2047 = none := by
  decide +kernel

/-! ## Witnesses: the read path -/

def withCw (x : Slot) (c : Cw) : State := { withCmds [x] with cws := [c] }

/-- A good codeword, by the encoder of R251. -/
def goodCw : List Byte := encodeCw (sv.fmtAt 0 0) 0 0 (zeros 4096) []

/-- A ladder of one step, allowed to class 7. -/
def laddered (s : State) : State := withRegs [(A.rlvLadCfg 0, 1), (A.rlvEsc 7, 1)] s

/-- `foldl` with each value computed before the next, for the kernel's sake. -/
def forced (f : Nat → α → Nat) : Nat → List α → Nat
  | a, [] => a
  | a, x :: l => match f a x with
    | 0 => forced f 0 l
    | n + 1 => forced f (n + 1) l

theorem forced_eq (f : Nat → α → Nat) (a : Nat) (l : List α) : l.foldl f a = forced f a l := by
  induction l generalizing a with
  | nil => rfl
  | cons x l ih => rw [List.foldl_cons, ih, forced]; split <;> simp_all

/-- Line 0 of stream 0 with no data: 260 bytes of zeros, their CRC, and the parity of R267. -/
def line0 : List Byte := zeros 260 ++ leBytes 4 3975388681 ++ Bch.unstream 2835094093025888135849405417695829372775903813617088156170

theorem line0_ok : lineOk { cw0 .raw with raw := line0 } line0 = true := by
  have h1 : bchValid line0 = true := by
    rw [bchValid, Bch.rem, forced_eq]; decide +kernel
  have h2 : decide (diffBits line0 line0 ≤ 16) = true := by decide +kernel
  have h3 : (leAt line0 260 4 == crc32c (line0.take 260)) = true := by
    rw [crc32c, forced_eq]; decide +kernel
  rw [lineOk, h1, h2, h3]; rfl

/-- A READ that may take recovery steps. -/
def retrying : Slot := { busy { ent Opc.read with lcls := 7 } with samp := { samp0 with cls := List.replicate 8 0xFFFFFFFF } }

theorem witness_DecodingDecidesCodewords :
    (∀ c ∈ [cw0 .raw, { cw0 .raw with first := false }, cw0 .softRun], ∀ x ∈ [busy (ent Opc.read), retrying], let s := withCw x c
      s.held = false ∧ c.owner = .cmd 0 ∧ s.cw 0 = some c ∧ s.slot 0 = some x ∧ s.cws.Pairwise (fun a b => a.id < b.id) ∧ s.pageCws c.owner (pageOf c.paddr) = [c] ∧
      s.pageReading c.owner (pageOf c.paddr) = false ∧ c.isLine = false ∧ c.bad = none ∧ x.mute = false ∧ x.entry.opc = Opc.read) ∧
    ((cw0 .raw).first = true ∧ zeroBits (cw0 .raw).raw ≤ (withCw (busy (ent Opc.read)) (cw0 .raw)).fldAt 0 A.eccCtl 0 10) ∧
    ((busy (ent Opc.read)).kMax ≤ (busy (ent Opc.read)).rstep) ∧
    (let s := laddered (withCw retrying { cw0 .raw with first := false })
     s.cw 0 = some { cw0 .raw with first := false } ∧ s.slot 0 = some retrying ∧ retrying.failed = false ∧ retrying.rstep < retrying.kMax ∧
      retrying.entry.bounded = false ∧ s.recovOf (.cmd 0) 0 = none ∧ 0 < s.ladMax 0 0 7) ∧
    (let s := withCw (busy (ent Opc.read)) (cw0 .softWait)
     (s.cws.filter fun d => d.stage == .softRun).length < Config.softDecoders s.build ∧ s.softNext = some (cw0 .softWait)) ∧
    (∀ st, isCodeword (cw0 st) goodCw = true ∧ crcOk goodCw = true ∧ stampOk (cw0 st) (busy (ent Opc.read)) goodCw = true) ∧
    lineOf { cw0 .raw with raw := line0 } (some line0) = some line0 := by
  refine ⟨by decide +kernel, by decide +kernel, by decide +kernel, by decide +kernel, by decide +kernel, fun st => ?_, by rw [lineOf, Option.filter_some_pos line0_ok]; rfl⟩
  obtain ⟨h1, h2⟩ := encodeCw_good (cw0 st) (sv.fmtAt 0 0) 0 0 (zeros 4096) [] List.length_replicate rfl
  refine ⟨h1, h2, ?_⟩
  rw [stampOk, show (cw0 st).cfg.stampchk = false by show (sv.fmtAt 0 0).stampchk = false; decide +kernel]
  rfl

/-- A SCAN of one row group of one row and one segment. -/
def scanRun : ScanRun :=
  { groups := [{ rows := 1, nseg := 1, baseRow := 0, segs := [0], colids := [0], rsv := 0 }], next := 1, eval := 0, excl := 0, pruned := 0, exclIdx := [], accs := [], seqs := [],
    unit := none, ord := 0, late := [], accBad := false }

def scanning : Slot := { busy (ent Opc.scan) with scan := some scanRun }

/-- A plain segment of one 8-bit row of value 0 (R316, R317). -/
def seg0 : Nat := 0x31504347 + 8 * 2 ^ 56 + 2 ^ 64 + 2 ^ 96 + 2 ^ 117

theorem seg0_good : Seg.reason (leNat ((leBytes 4096 seg0).take 4096)) (scanning.group 0) 0 = 0 := by
  rw [List.take_of_length_le (by simp), leNat_leBytes]; decide +kernel

/-- A READ of one codeword to host address 0x1800, which crosses a 4 KiB boundary. -/
def readTo : Slot := { busy { ent Opc.read with haddr := 0x1800 } with spans := [(0x1800, 4096)] }

theorem witness_StagedCodewordsAreDecryptedAndDelivered :
    (sv.held = false ∧ sv.xtsWaiting = []) ∧
    (∀ k : Bool, let c := cw0 .xtsWait; let x := busy (ent Opc.read); let s := { withCw x c with keys := if k then [(0, zeros 32)] else [] }
     s.held = false ∧ c.owner = .cmd 0 ∧ s.slot 0 = some x ∧ c.ch < 32 ∧
      (match s.xtsWaiting.find? fun y => decide (s.xtsTurn < y) with | some y => some y | none => s.xtsWaiting.head?) = some c.ch ∧
      s.cws.find? (fun d => d.stage == .xtsWait && d.ch == c.ch) = some c ∧ s.keyBad x.entry.kslot = false ∧
      assoc s.keys x.entry.kslot = (if k then some (zeros 32) else none) ∧ x.phase = .running ∧ x.reject = none) ∧
    (let x := { busy (ent Opc.read) with conds := [St.abortedByHost] }; let s := withCw x (cw0 .decoded); s.cw 0 = some (cw0 .decoded) ∧ x.mute = true) ∧
    (let c := { cw0 .decoded with bad := some 63 }; let x := busy (ent Opc.read); let s := withCw x c
     s.cw 0 = some c ∧ x.mute = false ∧ c.bad.isSome = true ∧ x.phase = .running ∧ x.reject = none) ∧
    (∀ data : List Byte, data.length = 4096 → let c := { cw0 .decoded with data := data }; let s := withCw readTo c
     s.held = false ∧ s.cw 0 = some c ∧ s.slot 0 = some readTo ∧ c.stage = .decoded ∧ c.ch < 32 ∧ readTo.entry.opc = Opc.read ∧ readTo.mute = false ∧ readTo.noWrite = false ∧
      s.stopped = false ∧ readTo.entry.hasMeta = false ∧ c.bad = none ∧ readTo.outq = [] ∧ readTo.spans = [(readTo.entry.haddr, 4096)] ∧
      4096 * (c.idx + 1) ≤ 4096 ∧ 4096 ≤ c.data.length ∧ s.portOf readTo < 4) ∧
    (∀ b : Bool, let u := { CombUnit.reset 31 with slot := some 0 }; let c := { cw0 .decoded with data := leBytes 4096 seg0 }
     let s := { withCw scanning c with units := if b then [u] else [] }
     s.cw 0 = some c ∧ s.slot 0 = some scanning ∧ scanning.entry.opc = Opc.scan ∧ scanning.mute = false ∧ c.bad = none ∧ scanning.rgOut (scanning.rgOfCw c.idx).1 = false ∧
      s.rgUnit 0 (scanning.rgOfCw c.idx).1 = (if b then some u else none) ∧
      Seg.reason (leNat (c.data.take 4096)) (scanning.group (scanning.rgOfCw c.idx).1) (scanning.rgOfCw c.idx).2 = 0) := by
  refine ⟨by decide +kernel, by decide +kernel, by decide +kernel, by decide +kernel, fun data h => ?_, fun b => ?_⟩
  · exact ⟨rfl, rfl, rfl, rfl, (by decide : 0 < 32), rfl, rfl, rfl, rfl, rfl, rfl, rfl, rfl, (by decide : 4096 * (0 + 1) ≤ 4096), h.symm.le, (by decide : 0 < 4)⟩
  · cases b <;> exact ⟨rfl, rfl, rfl, rfl, rfl, rfl, rfl, seg0_good⟩

/-- Die 0 is present and its channel live. -/
def liveDie (s : State) : State := withRegs [(A.chDiemapA 0 0, 1), (A.chCtl 0, 0x20)] s

def calAsked (w : Option Nat × Nat × Nat × Nat) (s : State) : State := liveDie { s with rlv := { s.rlv with calWait := [w] } }

theorem lunsFrom_zero (s : State) (hb : s.build = .fc32) (h : s.diePresent 0 = true) : ∃ l, s.lunsFrom 0 = 0 :: l := by
  have e : s.dies = 0 :: (List.range 2047).map Nat.succ := by rw [State.dies, hb]; exact List.range_succ_eq_map
  exact ⟨_, by rw [State.lunsFrom, e, List.filter_cons_of_pos (by simp [h])]⟩

/-- A forager of one page of die 0, which it is to read next. -/
def foraging (w : Bool) : State :=
  liveDie { sv with rlv := { sv.rlv with
    fg := { sv.fg with run := true, waiting := w, ranges := [{ paddr := 0, nblk := 1, npage := 1, fmt := 0, stride := 1 }], at_ := [(0, 0, 0, 0)] } } }

theorem witness_BackgroundEnginesWork :
    (sv.held = false ∧ sv.smoking = false ∧ sv.stopped = false ∧ sv.rlv.calWait = []) ∧
    (∀ k < 8, ({ sv with rlv := { sv.rlv with cals := (List.range 8).map fun k => calFresh k none 0 1 1 0 } } : State).cal k |>.isSome) ∧
    (let w := (none, 0, 1, 1); let s := calAsked w sv; let x := calFresh 0 none 0 1 1 s.aclk
     s.rlv.calWait = w :: [] ∧ ((List.range 8).find? fun k => (s.cal k).isNone) = some 0 ∧ x.left ≠ 0 ∧ (∃ l, s.lunsFrom (pDie x.page) = 0 :: l) ∧
      s.calSkip (s.calBegin x 0) = false ∧ s.calNextLevel (s.calBegin x 0) = some 1) ∧
    (let e := { ent Opc.calibrate with count := 1, xctl := 1 }; let w := (some 0, 0, 0, 0); let s := calAsked w (withCmds [busy e])
     let x := calFresh 0 (some 0) e.paddr e.count (e.x 0 15) s.aclk
     s.rlv.calWait = w :: [] ∧ s.slot 0 = some (busy e) ∧ (busy e).failed = false ∧ x.left ≠ 0 ∧ (∃ l, s.lunsFrom (pDie x.page) = 0 :: l) ∧
      s.calSkip (s.calBegin x 0) = false ∧ s.calNextLevel (s.calBegin x 0) = some 1) ∧
    (let s := foraging true; s.fg.run = true ∧ s.fg.waiting = true ∧ s.smoking = false ∧ s.pauseOver = true ∧ s.fg.dies.all s.fgChanBad = false ∧ s.power.st = .p0) ∧
    (sv.fg.run = false ∧ (withRegs [(A.rlvFgCfg, 0x10000)] (foraging true)).pauseOver = false) ∧
    (let s := foraging false; let r := { paddr := 0, nblk := 1, npage := 1, fmt := 0, stride := 1 }
     s.held = false ∧ s.fg.run = true ∧ s.fg.waiting = false ∧ s.power.st = .p0 ∧ s.smoking = false ∧ s.stopped = false ∧ s.paceDue 0 = true ∧
      s.fgHere 0 = some (r, 0) ∧ (s.fgChanBad 0 || s.fgBlockBad 0) = false ∧ (s.setFg { s.fg with lastAt := [(0, 0)] }).paceDue 0 = false) ∧
    (let s := foraging false; let t := { s with ops := [{ op1 .erase .suspended with expl := true }] }
     t.fg.run = true ∧ t.fg.waiting = false ∧ t.power.st = .p0 ∧ t.paceDue 0 = true ∧ (t.fgHere 0).isSome = true ∧ (t.fgChanBad 0 || t.fgBlockBad 0) = true) ∧
    ((withRegs [(A.rlvDtA 0, 0xE7000000), (A.rlvTpoll, 1)] (liveDie { sv with aclk := 1000 })).pollFree 0 0 = true ∧ sv.pollFree 31 15 = false) ∧
    (let s := { sv with rlv := { sv.rlv with temps := [(511, 20, false)] } }
     (assoc s.rlv.pollGood (31 * 16 + 15)).getD 0 + 4000 * s.fldAt 31 A.rlvTpoll 0 16 ≤ s.aclk ∧ (∃ x ∈ s.rlv.temps, x.1 = 31 * 16 + 15) ∧ ∀ x ∈ sv.rlv.temps, x.1 ≠ 31 * 16 + 15) ∧
    (let s := withRegs [(A.memScrubCfg, 1)] sv
     sv.scrubs 5 4 0 = false ∧ s.scrubs 5 3 0 = true ∧ s.scrubs 7 0 0 = true ∧ s.scrubs 0 31 0 = true ∧ s.scrubPos 5 3 0 < 11264 ∧ s.reads 0 31 0 = true ∧
      (let t := { s with mem := { s.mem with scrubAt := [(bgKey 5 3 0, 11264)] } }; 11264 ≤ t.scrubPos 5 3 0 ∧ t.scrubs 5 3 0 = true) ∧
      badSlices (BitVec.ofNat 132 0) = 0 ∧ badSlices (BitVec.ofNat 132 1) ≠ 0) ∧
    (∀ mem ∈ [0, 7], judge (codeLen mem) (unitSyn mem 0).1 (unitSyn mem 0).2 = .clean ∧ judge (codeLen mem) (unitSyn mem 1).1 (unitSyn mem 1).2 = .fixed ∧
      judge (codeLen mem) (unitSyn mem 5).1 (unitSyn mem 5).2 = .bad) := by
  refine ⟨by decide +kernel, by decide +kernel, ?_, ?_, by decide +kernel, by decide +kernel, by decide +kernel, by decide +kernel, by decide +kernel, by decide +kernel, by decide +kernel, by decide +kernel⟩
  · exact ⟨rfl, by decide +kernel, by decide, lunsFrom_zero _ rfl (by decide +kernel), by decide +kernel, by decide +kernel⟩
  · exact ⟨rfl, rfl, rfl, by decide, lunsFrom_zero _ rfl (by decide +kernel), by decide +kernel, by decide +kernel⟩

/-- A scan context with one program word (R330, R331). -/
def ctxWord (w : Nat) : List Byte := zeros 4 ++ leBytes 1 1 ++ zeros 1019 ++ leBytes 16 w

/-- Unit 31 runs the program `w` on the row group of the SCAN in slot 0. -/
def combing (x : Slot) (w : Nat) : State :=
  { withCmds [x] with units := [{ CombUnit.reset 31 with slot := some 0, running := true }], scanCtx := [(0, ctxWord w)] }

/-- Unit 31 holds segments, or chunks that wait for the output store. -/
def holding (x : Slot) (w : Nat) (segs : List (Nat × List Byte)) (c : Option (List Chunk)) : State :=
  { withCmds [x] with units := [{ CombUnit.reset 31 with slot := some 0, segs := segs, commit := c }], scanCtx := [(0, ctxWord w)] }

/-- A chunk of one line. -/
def chunk1 : Chunk := { slot := 0, ring := 0, stream := 0, header := zeros 64, body := zeros 64, skip := false }

/-- The same SCAN under class 7, which is not bounded. -/
def scanning7 : Slot := { busy { ent Opc.scan with lcls := 7 } with scan := some scanRun }

/-- Unit 31 runs the program `w` with a segment under run lengths that do not sum to its values (R325, reason 8). -/
def badRuns (w : Nat) : State :=
  { combing scanning w with
    units := [{ CombUnit.reset 31 with slot := some 0, running := true, segs := [(0, leBytes 4096 (seg0 + 4 * 2 ^ 48))] }] }

theorem witness_CombUnitsEvaluateRowGroups :
    (∀ op ∈ [0x00, 0x01, 0x08, 0x09, 0x0A, 0x0B, 0x10, 0x11, 0x12, 0x13, 0x20, 0x21, 0x22, 0x23, 0x30], Combing (combing scanning op) 31 scanning op op) ∧
    (scanning.scan = some scanRun ∧ ((combing scanning 0).unit 31).badRuns = none ∧ scanRun.accBad = false) ∧
    (Seg.runsOk (((combing scanning 1).unit 31).seg (W.k 1)) = true ∧ Seg.runsOk (((badRuns 1).unit 31).seg (W.k 1)) = false ∧
      ((badRuns 0).unit 31).badRuns = some 0) ∧
    (let s := holding scanning 0 [] none; s.held = false ∧ (s.unit 31).slot.bind s.slot = some scanning ∧ (s.unit 31).running = false ∧ (s.unit 31).commit = none ∧
      (s.unit 31).segs.length ≠ (scanning.group 0).nseg) ∧
    (∀ b : Bool, let w := if b then 0x08 + 2 ^ 35 + 5 * 2 ^ 64 else 0; let s := holding scanning w [(0, leBytes 4096 seg0)] none
     (s.unit 31).slot.bind s.slot = some scanning ∧ (s.unit 31).running = false ∧ (s.unit 31).commit = none ∧ (s.unit 31).segs.length = (scanning.group 0).nseg ∧
      s.ctxBad scanning = false ∧
      ((Scx.prog (s.ctxOf scanning)).any fun w => W.prune w && pruneFails (s.ctxOf scanning) w ((s.unit 31).seg (W.k w))) = b) ∧
    (let s := holding scanning 0 [] (some [chunk1]); (s.unit 31).commit = some [chunk1] ∧ scanning.entry.bounded = true ∧ s.ostBndSize < s.ostOf 0 + chunkLines [chunk1] ∧
      scanning.phase = .running ∧ scanning.reject = none ∧ s.ordBefore 0 (s.unit 31).ord = false) ∧
    (let s := { holding scanning 0 [] (some [chunk1]) with
        units := [{ CombUnit.reset 31 with slot := some 0, commit := some [chunk1], ord := 1 }, { CombUnit.reset 30 with slot := some 0, commit := some [chunk1] }] }
     (s.unit 31).commit = some [chunk1] ∧ s.ordBefore 0 (s.unit 31).ord = true ∧ ∀ y ∈ s.slots, ∀ r ∈ y.scan, r.late = []) ∧
    (let s := holding scanning7 0 [] (some [chunk1]); scanning7.entry.bounded = false ∧ s.mover.ostGen + chunkLines [chunk1] ≤ s.ostGenSize ∧
      (let t := { s with mover := { s.mover with ostGen := s.ostGenSize } }; t.ostGenSize < t.mover.ostGen + chunkLines [chunk1])) ∧
    sv.rgWaiting = [] ∧
    (let s := withCw scanning7 (cw0 .decoded)
     s.rgWaiting ≠ [] ∧ (∀ y ∈ s.rgWaiting, y = (7, 5, none, 0, 0)) ∧ (s.slot 0).bind s.unitFor = some 0) := by
  refine ⟨by unfold Combing; decide +kernel, by decide +kernel, by decide +kernel, by decide +kernel, ?_, by decide +kernel, by decide +kernel, by decide +kernel, by decide +kernel, by decide +kernel⟩
  decide +kernel

theorem witness_BufferRingsPlaceUnits :
    (let s := ringAt 0 [unit0]
     s.held = false ∧ s.stopped = false ∧ ringPurge s 255 = s ∧ (s.ring 255).units = unit0 :: [] ∧ s.slot unit0.slot = some (busy (ent Opc.scan)) ∧
      s.portOf (busy (ent Opc.scan)) < 4 ∧ (s.ring 255).phase = 0 ∧ s.descReading 255 = false ∧ (s.ring 255).starved = false ∧ s.fldOf (A.hqBrCfg 255) 16 16 ≠ 0) ∧
    (let d := { idx := 0, addr := 0, len := 32 }
     ∀ l ∈ [[d], [d, d]], ∀ ph ∈ [2, 3], let s := (ringAt ph [unit0]).setRing { (ringAt ph [unit0]).ring 255 with taken := l }
     ringPurge s 255 = s ∧ (s.ring 255).units = unit0 :: [] ∧ (s.ring 255).phase = ph ∧ (fills (s.ring 255).taken 0 unit0.bytes.length).length = l.length ∧
      (s.anyReq fun q => match q with | .unitData j n => j == 255 && n == unit0.slot | .descBack j n _ => j == 255 && n == unit0.slot | _ => false) = false) ∧
    (let s := withOut [wr 0 (.descBack 255 unit0.slot true)] (ringAt 4 [unit0])
     (s.anyReq fun q => match q with | .unitData j n => j == 255 && n == unit0.slot | .descBack j n _ => j == 255 && n == unit0.slot | _ => false) = true ∧ ringPurge s 255 = s) ∧
    (let s := (ringAt 1 [unit0]).setRing { (ringAt 1 [unit0]).ring 255 with starved := true }
     ringPurge s 255 = s ∧ (s.ring 255).units = unit0 :: [] ∧ (s.ring 255).phase = 1 ∧ (s.ring 255).starved = true ∧ s.descReading 255 = false ∧
      s.fldOf (A.hqBrCfg 255) 16 16 ≠ 0 ∧ (busy (ent Opc.scan)).phase = .running ∧ (busy (ent Opc.scan)).reject = none ∧
      (withRegs [(A.hqBrCfg 255, 0x80)] s).fldOf (A.hqBrCfg 255) 16 16 = 0 ∧
      (let t := { s with aclk := 100000000 }
       (t.ring 255).readAt + t.fldOf A.hqBrPoll 0 16 ≤ t.aclk ∧ (t.ring 255).since + 1000 * t.fldOf (A.hqBrCfg 255) 16 16 ≤ t.aclk) ∧
      s.aclk < (s.ring 255).since + 1000 * s.fldOf (A.hqBrCfg 255) 16 16) := by
  decide +kernel

/-- A finished FENCE; a finished durable READ whose last line was written to address 64 of port 3. -/
def done : Slot := busy (ent Opc.fence)

def durable : Slot := { busy { ent Opc.read with flags := 8 } with lastLine := some (64, false), lastPort := 3 }

/-- A record of a command's end. -/
def record0 : Record := { typ := 1, src := 0, info0 := 0, info1 := 0, info2 := 0, time := 0, owner := none }

def recording (s : State) : State := { s with alert := { s.alert with queue := [record0] } }

theorem witness_CompletionsAndRecordsAreWritten :
    (let s := withCmds [durable]; s.held = false ∧ s.stopped = false ∧ s.smoking = false ∧ s.power.st ≠ .p2 ∧ 0 < Config.slotCount ∧ s.slot 0 = some durable ∧
      s.finished durable = true ∧ s.aggDue durable = false ∧ s.readbackDue durable = true ∧ durable.readback = 0 ∧ durable.lastLine = some (64, false) ∧ durable.lastPort < 4) ∧
    ((withCmds [done]).readbackDue done = false ∧ (withCmds [cmd (ent Opc.fence)]).finished (cmd (ent Opc.fence)) = false) ∧
    (∀ full : Bool, let q := QP.fresh 0; let s := (withCmds [done]).setQp { QP.fresh 0 with tail := if full then 15 else 0 }
     purgeRings s = s ∧ s.slotPoisoned 0 = false ∧ s.calibrating 0 = false ∧ s.finished done = true ∧ s.aggDue done = false ∧ s.readbackDue done = false ∧
      (recordOf done).isNone = true ∧ done.report = false ∧ s.cqHalfBad 0 = false ∧ q.cqFault = false ∧ s.cqHolds 0 = false ∧ q.port < 4 ∧
      ((s.qp 0).map QP.cqFull) = some full) ∧
    ((let x := { done with reject := some St.invalidField }; x.reject = some St.invalidField) ∧
      (let x := { done with conds := [St.machineCheck] }; ∀ c ∈ x.conds, x.reject = none ∧ ∀ d ∈ x.conds, itemOf c ≤ itemOf d) ∧
      (let x := busy (ent Opc.read); x.reject = none ∧ x.conds = [] ∧ x.entry.opc ≠ Opc.gather ∧ x.entry.opc ≠ Opc.scan ∧ x.outc = []) ∧
      (St.mediaUncorrectable ∉ [St.boundReached] ∧ St.mediaUncorrectable ∉ [St.okErased] ∧ St.boundReached ∉ [St.okErased] ∧
        St.mediaUncorrectable ∉ [St.okRetried] ∧ St.boundReached ∉ [St.okRetried] ∧ St.okErased ∉ [St.okRetried])) ∧
    (RingsOff (recording sv) ∧ RingsOff (recording alerting) ∧
      ∀ s ∈ [recording sv, recording alerting], s.held = false ∧ s.stopped = false ∧ s.power.st ≠ .p2 ∧ s.alert.out = none ∧ s.alert.queue = [record0]) ∧
    ((recording sv).arEn = false ∧ record0.typ ≠ 7 ∧ (recording alerting).arEn = true ∧
      ((recording alerting).alert.tail + 1) % (recording alerting).arSize ≠ (recording alerting).arHead) := by
  refine ⟨by decide +kernel, by decide +kernel, by decide +kernel, by decide +kernel, ⟨by unfold RingsOff; decide, by unfold RingsOff; decide, by decide +kernel⟩, by decide +kernel⟩

/-! ## Witnesses: the block as a machine -/

theorem witness_StepRunsFrontCommand : ({ sv with pending := [.busNone 32] } : State).pending = .busNone 32 :: [] ∧ sv.pending = [] ∧ State.reset.held = true ∧
    sv.held = false ∧ sv.smoke.step ≠ 8 ∧ sv.placingSlots = [] := by decide

theorem witness_EveryCommandCompletes : (Instr.busNone 31).wf sv.build = true := by decide

theorem reset_settled : Settled State.reset := by unfold Settled; decide

theorem witness_EveryStepSettles : Settled State.reset ∧ (∃ t, step State.reset = .next t) ∧ Settled { sv with pending := [.fenceRelease 0] } :=
  ⟨reset_settled, ⟨_, rfl⟩, by unfold Settled; decide⟩

end Sys2Proof.Tests
end

section
/-!
SUPPORT. The frame of every command (R4): which commands complete, and what a step does with the queue.
-/

namespace Sys2Proof.Machine

/-! ## Steps -/

theorem step_cons {s : State} {c : Instr} {rest : List Instr} (h : s.pending = c :: rest) :
    step s = exec c { s with pending := rest } := by simp only [step, h]

theorem step_nil {s : State} (h : s.pending = []) : step s = .next (idle s) := by simp only [step, h]

/-- Outside step 8 of the smoke sequence nothing of it ends. -/
theorem smokeEnd_of_ne {s : State} (h : s.smoke.step ≠ 8) : smokeEnd s = s := by simp [smokeEnd, h]

/-- Without an append that waits for its placement there is none to place. -/
theorem placeWaiting_of_nil {s : State} (h : s.placingSlots = []) : placeWaiting s = s := by
  simp [placeWaiting, h, State.each]

/-- With no smoke sequence to end and no append to place, an edge of ACLK only counts (R24). -/
theorem tick_eq {s : State} (h8 : s.smoke.step ≠ 8) (hp : s.placingSlots = []) :
    tick s = { s with
      aclk := s.aclk + 1, power := { s.power with idle := s.idleTime }, wgl := { s.wgl with timers := s.wgl.timers.map WTimer.edge },
      ntf := { s.ntf with srcs := s.ntf.srcs.map (Src.edge (s.power.st == .p2)) } } := by
  unfold tick
  rw [smokeEnd_of_ne (by exact h8), placeWaiting_of_nil (by exact hp)]

/-- Settles O57: the front command runs on the rest of the queue; with none, `tick_eq` says what the edge changes and the
frame laws of `after` what follows it leaves alone. -/
theorem stepRunsFrontCommand : Obligations.StepRunsFrontCommand := by
  refine ⟨fun c rest s h => step_cons h, fun s h => ⟨fun hh => ?_, fun hh h8 hp => ?_⟩⟩
  · rw [step_nil h, idle, if_pos hh]
  · have hs : step s = .next (after s (tick s)) := by rw [step_nil h, idle, hh]; rfl
    refine ⟨_, hs, ?_⟩
    rw [tick_eq h8 hp]
    simp [h]

/-! ## Completion -/

/-- The outcome of a command on `s`: a next state with the queue and the build of before where the command is well formed, and
otherwise that or the one fault. -/
def Completes (wf : Bool) (s : State) (o : Host.Outcome State Fault Refusal) : Prop :=
  (wf = true → ∃ t, o = .next t ∧ t.pending = s.pending ∧ t.build = s.build) ∧
  ((∃ t, o = .next t) ∨ o = .fault .noSuchUnit)

/-- A frame that checks its units with `ok` and leaves the queue and the build completes each command whose units are named. -/
theorem completes_ite {wf ok : Bool} {s t : State} (h : wf = true → ok = true) (hp : t.pending = s.pending)
    (hb : t.build = s.build) : Completes wf s (if ok then .next t else .fault .noSuchUnit) := by
  cases ok with
  | true => exact ⟨fun _ => ⟨t, rfl, hp, hb⟩, .inl ⟨t, rfl⟩⟩
  | false => exact ⟨fun hw => absurd (h hw) (by decide), .inr rfl⟩

theorem completes_run {wf ok : Bool} (s : State) (f : State → State) (h : wf = true → ok = true) :
    Completes wf s (run ok s f) := by
  refine completes_ite h ?_ ?_ <;> split <;> simp

theorem completes_runBus {wf ok : Bool} (s : State) (f : State → State) (h : wf = true → ok = true) :
    Completes wf s (runBus ok s f) := by
  refine completes_ite h ?_ ?_ <;> split <;> simp

theorem completes_runPin {wf : Bool} (s : State) (f : State → State) : Completes wf s (runPin s f) :=
  completes_ite (ok := true) (fun _ => rfl) (after_pending s (f s)) (after_build s (f s))

theorem completes_execTgtIdleChange (t : Nat) (level : Bool) (s : State) :
    Completes (decide (t < 64)) s (execTgtIdleChange t level s) := by
  unfold execTgtIdleChange
  split
  · exact completes_runPin s _
  · rename_i h
    exact ⟨fun hw => absurd (of_decide_eq_true hw) h, .inr rfl⟩

/-! ### The units of a build are units of the part (R4, R6) -/

theorem lt_of_chOk {b : Build} {ch : Nat} (h : chOk b ch = true) : ch < 32 := by
  have := of_decide_eq_true h
  cases b <;> simp only [Config.channels] at this <;> omega

theorem lt_of_groupOk {b : Build} {g : Nat} (h : groupOk b g = true) : g < 4 := by
  have := of_decide_eq_true h
  cases b <;> simp only [Config.groups] at this <;> omega

theorem lt_of_dieOk {b : Build} {d : Nat} (h : dieOk b d = true) : d < 2048 := by
  have := of_decide_eq_true h
  cases b <;> simp only [Config.channels] at this <;> omega

theorem lt_of_unitOk {b : Build} {u : Nat} (h : unitOk b u = true) : u < 32 := by
  have := of_decide_eq_true h
  cases b <;> simp only [Config.combUnits] at this <;> omega

theorem and_eq_true_imp_left {p p' q : Bool} (hp : p = true → p' = true) (h : (p && q) = true) : (p' && q) = true := by
  rw [Bool.and_eq_true] at h ⊢
  exact h.imp_left hp

/-- Every command completes: each arm of `exec` is one of the three frames, and a well-formed command meets its check. -/
theorem exec_completes (c : Instr) (s : State) : Completes (c.wf s.build) s (exec c s) := by
  cases c with
  -- levels of pins
  | porstNAssert | porstNRelease | srstNAssert | srstNRelease | optAckRise | optAckFall | smokeSequence | plossNRise =>
    unfold exec; exact completes_runPin s _
  | tgtIdleChange t level => exact completes_execTgtIdleChange t level s
  -- commands that name no unit
  | optionAreaLoaded | referencePllLock | pllLockTimeout | sramFillDone | smokeLedgerWrite | smokeRecordWrite | smokeSummary
  | p1Entry | autoP1Idle | p2Entry | wakeComplete | targetPortErr | writeTakesEffect | zeroizeDone | aborted | sqRead
  | bulkAgeing | hardDecodeDone | softDecoderGrant | softDecodeDone | xtsGrant | stagingNotice | calibrationStart
  | foragerPauseEnd | combUnitGrant | alertRecordWrite | loopWindowEnd | patrolStart | patrolStop | calStart
  | eraseResumeAll | eraseSuspendAll | dispatchRelease | dispatchHold | snapshot | wake | optionHeaderTaken | mportWake
  | kclkRestart | memoryBist =>
    unfold exec; exact completes_run s _ fun _ => rfl
  | reload | powerStateRequest | rplRaise | rplLowerRequest | movAbort | movRelease | alertRingEnable | alertRingHeadWrite
  | hqAqCfgWrite | smokeRegionEnable | rlvTblLgWrite | wglFire =>
    unfold exec; exact completes_runBus s _ fun _ => rfl
  -- a channel
  | unfreezeTakesEffect | chPllLock | wpNRaise | wpNLower | phyZq | reset | readId | chOpReadParam | chOpSetFeature
  | chOpGetFeature | volume | dieZq | train | eye | segmentStart | frozenTokenRelease | busNone | busCmd | busAddr | busDin
  | busDout | busStatus | busCelow | busCehigh | busWpset | busVsel | busPhyop | ceLowLimit =>
    unfold exec; exact completes_run s _ fun h => decide_eq_true (lt_of_chOk h)
  | rbNHigh | contextWake | machineCheck | tempPoll | tempPollStale =>
    unfold exec; exact completes_run s _ (and_eq_true_imp_left fun h => decide_eq_true (lt_of_chOk h))
  | unfreeze | flush | liveWrite => unfold exec; exact completes_runBus s _ fun h => decide_eq_true (lt_of_chOk h)
  | tselWrite => unfold exec; exact completes_runBus s _ (and_eq_true_imp_left fun h => decide_eq_true (lt_of_chOk h))
  -- a channel group, a die, a comb unit
  | tempInAccept | restoreDone | grpEnable | grpDisable => unfold exec; exact completes_run s _ fun h => decide_eq_true (lt_of_groupOk h)
  | restore | bcinv => unfold exec; exact completes_runBus s _ fun h => decide_eq_true (lt_of_groupOk h)
  | dispatch | suspension | suspensionResume | dieRawRunLimit | dieTimeout | foragerPace =>
    unfold exec; exact completes_run s _ fun h => decide_eq_true (lt_of_dieOk h)
  | rowGroupReady | loadcol | cmp | range | inset | isnull | combAnd | combOr | combNot | combAndn | emitsel | emitval
  | emitrow | partition | agg | combEnd | chunkAccept =>
    unfold exec; exact completes_run s _ fun h => decide_eq_true (lt_of_unitOk h)
  -- units that every build has: the command is well formed exactly when its meaning finds the unit
  | read | readGather | scan | program | erase | copy | logAppend | logRead | dieRaw | getFeature | setFeature | readParam
  | eraseSuspend | eraseResume | fence | calibrate | abort | createQp | deleteQp | setKeySlot | keySlotClear
  | loadScanContext | loadMicrocodeCustomer | loadMicrocodeEntry | loadMicrocodePatch | getLog | sanitizeCryptoErase
  | sanitizeBlockErase | setPatrol | setBudget | fenceRelease | durableReadback | completionWrite
  | gfpCreditReturn | gfpReadComplete | gfpWriteResponse | gfpRequestTimeout | sqTailDoorbell | cqHeadDoorbell
  | bufferRingPlace | descriptorWriteBack | brPoll | brWaitExpiry | moderationTimer | notificationMessage
  | waggleTimerExpiry | timerStart | timerStop =>
    unfold exec; exact completes_run s _ id
  | scrubStep => unfold exec; exact completes_run s _ fun h => by simpa [Instr.wf, and_assoc] using h
  | registerWrite | registerPairLoRead | registerPairLoWrite | registerPairHiWrite | registerPairHiRead | ntfClaim
  | ntfComplete | kick | bufferRingEnable | bufferRingDisable | qpEnable | qpDisable | logStreamEnable | rlvTblDataWrite
  | wglTmrStart | wglTmrStop =>
    unfold exec; exact completes_runBus s _ id

/-- Settles O58, from the frame that each arm of `exec` is. -/
theorem everyCommandCompletes : Obligations.EveryCommandCompletes :=
  ⟨fun c s => (exec_completes c s).1, fun c s => (exec_completes c s).2⟩

end Sys2Proof.Machine
end

section
/-!
SUPPORT. Register writes and register pairs (R12 to R15, R29 to R31): what an MPORT access in service does, and what the
block keeps for a pair.
-/

namespace Sys2Proof.Machine

/-! ## An MPORT access in service -/

theorem InService.not_held {s : State} (h : InService s) : s.held = false := h.1.1
theorem InService.power_st {s : State} (h : InService s) : s.power.st = .p0 := h.1.2
theorem InService.init_done {s : State} (h : InService s) : s.init.done = true := h.2

/-- A register access outside a held block leaves its effect. -/
theorem runBus_of_ok {ok : Bool} {s : State} (f : State → State) (h : ok = true) (hh : s.held = false) :
    runBus ok s f = .next (after s (f s)) := by
  have hb : s.pins.bist = false := by
    simp only [State.held, Bool.or_eq_false_iff] at hh
    exact hh.2
  simp [runBus, h, hb]

/-- An access that is not DENIED is answered OK with what it reads. -/
theorem regAccess_served {s : State} {a : Nat} (write : Bool) (v : Word) (f : State → Word × State) (h : s.power.st = .p0)
    (hd : s.denied a = false) : regAccess s .mport a write v f =
      mpAnswer (if write && a != A.secRplReq then keyBreak (f s).2 else (f s).2) false (f s).1 := by
  simp [regAccess, mpServe_p0 a _ _ _ h, hd]

/-! ## Writes of registers without a rule of their own -/

theorem writeReg_plain {s : State} {m : Master} {a : Nat} {v : Word} {r : RegRow} {is : List Nat}
    (hf : Reg.find a = some (r, is)) (hi : s.instOk r is = true) (h1 : Reg.pairBase a = false)
    (h2 : Reg.pairBase (a - 4) = false) (ha : actWrite s r.base (is.getD 0 0) v = none) :
    writeReg s m a v = plainWrite s r is a v := by
  simp only [writeReg, hf, hi, h1, h2, ha]
  simp

/-- SEC_RPL_REQ has a behaviour of its own (R433). -/
theorem ne_secRplReq {s : State} {a : Nat} {v : Word} {r : RegRow} {is : List Nat} (hf : Reg.find a = some (r, is))
    (ha : actWrite s r.base (is.getD 0 0) v = none) : a ≠ A.secRplReq := by
  rintro rfl
  have hr : Reg.find A.secRplReq = some (Reg.wo A.secRplReq [], []) := by decide
  obtain ⟨rfl, rfl⟩ := Prod.mk.inj (Option.some.inj (hr.symm.trans hf))
  have hact : actWrite s A.secRplReq 0 v = some (rplReq s v) := rfl
  exact absurd (hact.symm.trans ha) (by simp)

/-- A served MPORT write of a register without a rule of its own is the plain write, answered OK. -/
theorem exec_registerWrite_plain {s : State} {a : Nat} {v : Word} {r : RegRow} {is : List Nat} (hs : InService s)
    (hl : s.level ≠ 2) (h4 : a % 4 = 0) (hlt : a < 0x1000000) (hf : Reg.find a = some (r, is)) (hi : s.instOk r is = true)
    (ha : actWrite s r.base (is.getD 0 0) v = none) (h1 : Reg.pairBase a = false) (h2 : Reg.pairBase (a - 4) = false) :
    exec (.registerWrite .mport a v none) s = .next (after s (mpAnswer (keyBreak (plainWrite s r is a v)) false 0)) := by
  have hk : (a != A.secRplReq) = true := bne_iff_ne.2 (ne_secRplReq hf ha)
  have hok : offsetOk a = true := by simp [offsetOk, h4, hlt]
  rw [← writeReg_plain hf hi h1 h2 ha, ← accessWrite_mport v hs.power_st (denied_false a hs.init_done hl) hk]
  unfold exec
  exact runBus_of_ok _ hok hs.not_held

theorem plainWrite_ro {s : State} {r : RegRow} (is : List Nat) (a : Nat) (v : Word) (h : r.acc = .ro) :
    plainWrite s r is a v = s := by simp [plainWrite, h]

/-- A read-write register that arms no producer takes what R13 leaves of the value. -/
theorem plainWrite_rw {s : State} {r : RegRow} {is : List Nat} (a : Nat) (v : Word) (h : r.acc = .rw)
    (hq : s.qpRegOk r is = true) (h1 : r.base ≠ A.wglTempTh 0) (h2 : r.base ≠ A.wglRingCfg 0) :
    plainWrite s r is a v = applyWrite s r is a (s.fixWrite r is (s.applied a) v) := by
  simp [plainWrite, h, hq, h1, h2]

theorem applyWrite_immediate {s : State} {r : RegRow} (is : List Nat) (a : Nat) (v : Word) (h : r.bnd = .immediate) :
    applyWrite s r is a v = s.setReg a v := if_pos h

theorem applyWrite_waits {s : State} {r : RegRow} (is : List Nat) (a : Nat) (v : Word) (h : r.bnd ≠ .immediate) :
    applyWrite s r is a v =
      { s with pend := s.pend ++ [{ bnd := r.bnd, addr := a, val := v, left := s.boundaryOf r is }] } := if_neg h

/-- The last write that waits is the value a read returns (R27). -/
theorem applied_of_last {s : State} {l : List PendWrite} {p : PendWrite} (h : s.pend = l ++ [p]) (hp : p.act = false) :
    s.applied p.addr = p.val := by
  simp [State.applied, h, hp]

/-- Settles O21: the plain write of each access type and boundary, up to what follows every command. -/
theorem registerWriteTakesEffectAtItsBoundary : Obligations.RegisterWriteTakesEffectAtItsBoundary := by
  intro s a v r is hs hl h4 hlt hf hi ha h1 h2 u
  refine ⟨_, exec_registerWrite_plain hs hl h4 hlt hf hi ha h1 h2, fun hro => ?_, fun hrw hq hth hri hfix => ⟨fun hb => ?_, fun hb => ?_⟩⟩
  · rw [plainWrite_ro is a v hro]
    exact around_after rfl rfl
  · rw [plainWrite_rw a v hrw hq hth hri, hfix, applyWrite_immediate is a _ hb]
    exact around_after rfl rfl
  · rw [plainWrite_rw a v hrw hq hth hri, hfix, applyWrite_waits is a _ hb]
    exact ⟨around_after rfl rfl, applied_of_last (p := { bnd := r.bnd, addr := a, val := _, left := _ }) (after_pend s _) rfl⟩

/-! ## Register pairs (R15) -/

section
variable (s : State) (x : PairState)

@[simp] theorem State.setPair_build : (s.setPair x).build = s.build := rfl
@[simp] theorem State.setPair_reg (a : Nat) : (s.setPair x).reg a = s.reg a := rfl

end

/-! What is kept for a pair depends on nothing but the list of pairs. -/
section
variable (s t : State) (lo : Nat) (m : Master)

@[simp] theorem after_pairOf : (after s t).pairOf lo m = t.pairOf lo m := by simp only [State.pairOf, after_pairs]
@[simp] theorem mpAnswer_pairOf (b : Bool) (v : Word) : (mpAnswer s b v).pairOf lo m = s.pairOf lo m := rfl
@[simp] theorem keyBreak_pairOf : (keyBreak s).pairOf lo m = s.pairOf lo m := rfl
@[simp] theorem State.setReg_pairOf (a : Nat) (v : Word) : (s.setReg a v).pairOf lo m = s.pairOf lo m := rfl

end

/-! The register file outlasts an answer and a broken key. -/
section
variable (s : State) (a : Nat)

@[simp] theorem mpAnswer_build (b : Bool) (v : Word) : (mpAnswer s b v).build = s.build := rfl
@[simp] theorem mpAnswer_reg (b : Bool) (v : Word) : (mpAnswer s b v).reg a = s.reg a := rfl
@[simp] theorem keyBreak_build : (keyBreak s).build = s.build := rfl
@[simp] theorem keyBreak_reg : (keyBreak s).reg a = s.reg a := rfl

end

theorem State.pairOf_key (s : State) (lo : Nat) (m : Master) : (s.pairOf lo m).addr = lo ∧ (s.pairOf lo m).master = m := by
  unfold State.pairOf
  cases h : s.pairs.find? fun x => x.addr == lo && x.master == m with
  | none => exact ⟨rfl, rfl⟩
  | some x => simpa using List.find?_some h

/-- What is set for a pair and a master is what is kept for them. -/
theorem State.pairOf_setPair_self (s : State) {x : PairState} {lo : Nat} {m : Master} (ha : x.addr = lo) (hm : x.master = m) :
    (s.setPair x).pairOf lo m = x := by
  subst ha hm
  have hrest : (s.pairs.filter fun y => !(y.addr == x.addr && y.master == x.master)).find?
      (fun y => y.addr == x.addr && y.master == x.master) = none := by
    rw [List.find?_eq_none]
    intro y hy
    simpa [imp_iff_not_or] using (List.mem_filter.1 hy).2
  obtain ⟨addr, master, staged, capHi⟩ := x
  simp only [State.pairOf, State.setPair]
  split
  · rename_i hn
    simp only [Bool.and_eq_true, Option.isNone_iff_eq_none] at hn
    obtain ⟨rfl, rfl⟩ := hn
    rw [hrest]
    rfl
  · rw [List.find?_append, hrest]
    simp

/-- New contents for the halves of a pair are what is kept for it. -/
theorem State.pairOf_setPair_update (s : State) (lo : Nat) (m : Master) (st cap : Option Word) :
    (s.setPair { s.pairOf lo m with staged := st, capHi := cap }).pairOf lo m =
      { addr := lo, master := m, staged := st, capHi := cap } := by
  obtain ⟨ha, hm⟩ := s.pairOf_key lo m
  simp only [ha, hm]
  exact s.pairOf_setPair_self rfl rfl

theorem pairOf_pairStage (s : State) (lo : Nat) (m : Master) (v : Word) : (pairStage s lo m v).pairOf lo m =
    { addr := lo, master := m, staged := some v, capHi := (s.pairOf lo m).capHi } :=
  s.pairOf_setPair_update lo m _ _

theorem pairOf_pairReadLo (s : State) (lo : Nat) (m : Master) : (pairReadLo s lo m).2.pairOf lo m =
    { addr := lo, master := m, staged := (s.pairOf lo m).staged, capHi := some (s.readPair lo).2 } :=
  s.pairOf_setPair_update lo m _ _

/-- Another pair, or the same pair of the other master, is kept as it was. -/
theorem State.pairOf_setPair_ne (s : State) {x : PairState} {lo : Nat} {m : Master} (h : ¬(x.addr = lo ∧ x.master = m)) :
    (s.setPair x).pairOf lo m = s.pairOf lo m := by
  have hx : (x.addr == lo && x.master == m) = false := by simpa [Bool.eq_false_iff] using h
  have hrest : (s.pairs.filter fun y => !(y.addr == x.addr && y.master == x.master)).find? (fun y => y.addr == lo && y.master == m) =
      s.pairs.find? (fun y => y.addr == lo && y.master == m) := by
    have hy (y : PairState) : (!(y.addr == x.addr && y.master == x.master) && (y.addr == lo && y.master == m)) =
        (y.addr == lo && y.master == m) := by grind
    simp only [List.find?_filter, Bool.decide_and, Bool.decide_eq_true, hy]
  simp only [State.pairOf, State.setPair]
  split
  · rw [hrest]
  · rw [List.find?_append, hrest]
    simp [hx]

theorem pairOf_pairStage_ne (s : State) (lo : Nat) {m n : Master} (v : Word) (h : m ≠ n) :
    (pairStage s lo m v).pairOf lo n = s.pairOf lo n :=
  s.pairOf_setPair_ne fun hx => h ((s.pairOf_key lo m).2.symm.trans hx.2)

/-! ### Accesses of a half -/

/-- A write of _LO stages (R15). -/
theorem writeReg_pairLo {s : State} {lo : Nat} {r : RegRow} {is : List Nat} (m : Master) (v : Word)
    (hf : Reg.find lo = some (r, is)) (hi : s.instOk r is = true) (hp : Reg.pairBase lo = true) :
    writeReg s m lo v = pairStage s lo m v := by
  simp [writeReg, hf, hi, hp]

/-- A write of _HI commits (R15). -/
theorem writeReg_pairHi {s : State} {lo : Nat} {r : RegRow} {is : List Nat} (m : Master) (v : Word)
    (hf : Reg.find (lo + 4) = some (r, is)) (hi : s.instOk r is = true) (h4 : Reg.pairBase (lo + 4) = false)
    (hp : Reg.pairBase lo = true) : writeReg s m (lo + 4) v = pairCommit s lo m v := by
  simp [writeReg, hf, hi, h4, hp]

/-- A read of _HI returns the captured half, or the live one (R15). -/
theorem pairReadHi_data (s : State) (lo : Nat) (m : Master) :
    (pairReadHi s lo m).1 = (s.pairOf lo m).capHi.getD (s.readPair lo).2 := by
  cases h : (s.pairOf lo m).capHi <;> simp [pairReadHi, h]

/-- A read of _HI releases the capture (R15). -/
theorem pairReadHi_release (s : State) (lo : Nat) (m : Master) : ((pairReadHi s lo m).2.pairOf lo m).capHi = none := by
  cases h : (s.pairOf lo m).capHi with
  | none => simp only [pairReadHi, h]
  | some w =>
    simp only [pairReadHi, h]
    exact congrArg PairState.capHi (s.pairOf_setPair_update lo m _ none)

/-! ### The message addresses of the notification targets (R403) -/

/-- The rows of NTF_TGT_ADDR. -/
def ntfTgtAddrLoRow : RegRow := Reg.rw (A.ntfTgtAddrLo 0) [(64, 16)] 0 .immediate [Reg.f 2 30] true
def ntfTgtAddrHiRow : RegRow := Reg.rw (A.ntfTgtAddrLo 0 + 4) [(64, 16)] 0 .immediate [Reg.f 0 24] true

section
variable {k : Nat} (hk : k < 64)
include hk

theorem find_ntfTgtAddrLo : Reg.find (A.ntfTgtAddrLo k) = some (ntfTgtAddrLoRow, [k]) := by
  revert k; decide

theorem find_ntfTgtAddrHi : Reg.find (A.ntfTgtAddrLo k + 4) = some (ntfTgtAddrHiRow, [k]) := by
  revert k; decide

theorem pairBase_ntfTgtAddrLo : Reg.pairBase (A.ntfTgtAddrLo k) = true := by
  revert k; decide

theorem pairBase_ntfTgtAddrHi : Reg.pairBase (A.ntfTgtAddrLo k + 4) = false := by
  revert k; decide

/-- With INIT_DONE no level denies the message addresses (R61, R432). -/
theorem denied_ntfTgtAddr {s : State} {a : Nat} (hd : s.init.done = true)
    (ha : a = A.ntfTgtAddrLo k ∨ a = A.ntfTgtAddrLo k + 4) : s.denied a = false := by
  have hne : (a == A.secRplReq) = false := by
    rw [beq_eq_false_iff_ne]
    rcases ha with rfl | rfl <;> unfold A.ntfTgtAddrLo A.secRplReq <;> omega
  rcases ha with rfl | rfl
  · have hb : rowBase (A.ntfTgtAddrLo k) = some ntfTgtAddrLoRow.base := by simp [rowBase, find_ntfTgtAddrLo hk]
    exact denied_false' hd hne (by rw [hb]; rfl) (by rw [hb]; rfl)
  · have hb : rowBase (A.ntfTgtAddrLo k + 4) = some ntfTgtAddrHiRow.base := by simp [rowBase, find_ntfTgtAddrHi hk]
    exact denied_false' hd hne (by rw [hb]; rfl) (by rw [hb]; rfl)

/-- What follows a command leaves the message addresses alone. -/
theorem after_reg_ntfTgtAddr {s t : State} {a : Nat} (hb : t.build = s.build)
    (ha : a = A.ntfTgtAddrLo k ∨ a = A.ntfTgtAddrLo k + 4) : (after s t).reg a = t.reg a := by
  have hr : 0x046000 ≤ a ∧ a < 0x047000 := by unfold A.ntfTgtAddrLo at ha; omega
  refine after_reg hb (fun h => ?_) (fun h => ?_) (.inl (by omega))
  · unfold A.glbPwrCtl at h; omega
  · unfold A.hqArDropCnt at h; omega

/-- The value of the pair is that of its halves in effect: the block presents none of its own. -/
theorem readPair_ntfTgtAddr (s : State) :
    s.readPair (A.ntfTgtAddrLo k) = (s.reg (A.ntfTgtAddrLo k), s.reg (A.ntfTgtAddrLo k + 4)) := by
  have hlo : s.instOk ntfTgtAddrLoRow [k] = true ∧ s.status ntfTgtAddrLoRow.base [k] = none := ⟨rfl, rfl⟩
  have hhi : s.instOk ntfTgtAddrHiRow [k] = true ∧ s.status ntfTgtAddrHiRow.base [k] = none := ⟨rfl, rfl⟩
  simp [State.readPair, find_ntfTgtAddrLo hk, find_ntfTgtAddrHi hk, hlo, hhi]

/-- A read of _LO is no claim: it captures. -/
theorem readAccess_ntfTgtAddrLo (s : State) (m : Master) :
    readAccess s m (A.ntfTgtAddrLo k) = pairReadLo s (A.ntfTgtAddrLo k) m := by
  have hc : ¬(A.ntfClaim 0 ≤ A.ntfTgtAddrLo k ∧ A.ntfTgtAddrLo k < A.ntfClaim 64 ∧ A.ntfTgtAddrLo k % 64 = 0) := by
    unfold A.ntfClaim A.ntfTgtAddrLo; omega
  rw [readAccess, if_neg hc, if_pos (pairBase_ntfTgtAddrLo hk)]

/-- Both halves of a message address take effect at once, the staged low half where there is one. -/
theorem pairCommit_ntfTgtAddr (s : State) (m : Master) (v : Word) :
    pairCommit s (A.ntfTgtAddrLo k) m v =
      ((s.setPair { s.pairOf (A.ntfTgtAddrLo k) m with staged := none }).setReg (A.ntfTgtAddrLo k)
        ((s.pairOf (A.ntfTgtAddrLo k) m).staged.elim (s.reg (A.ntfTgtAddrLo k))
          (Reg.merge [Reg.f 2 30] (s.reg (A.ntfTgtAddrLo k))))).setReg (A.ntfTgtAddrLo k + 4)
        (Reg.merge [Reg.f 0 24] (s.reg (A.ntfTgtAddrLo k + 4)) v) := by
  have hopen : (s.setPair { s.pairOf (A.ntfTgtAddrLo k) m with staged := none }).pairOpen (A.ntfTgtAddrLo k) = true := by
    unfold State.pairOpen
    rw [if_neg, if_neg, if_neg] <;> unfold A.ntfTgtAddrLo
    · unfold A.hqBrBaseLo; omega
    · unfold A.hqArBaseLo; omega
    · unfold A.hqAqSqbLo A.hqAqCqbLo; omega
  simp only [pairCommit, find_ntfTgtAddrLo hk, find_ntfTgtAddrHi hk]
  rw [if_pos ⟨rfl, hopen⟩]
  cases (s.pairOf (A.ntfTgtAddrLo k) m).staged <;> rfl

end

section
variable {s : State} {k : Nat} (hs : InService s) (hk : k < 64)
include hs hk

/-- A served MPORT write of a half leaves what the register's write does, the answer OK, and no keyed pair. -/
theorem accessWrite_ntfTgtAddr {a : Nat} (v : Word) (ha : a = A.ntfTgtAddrLo k ∨ a = A.ntfTgtAddrLo k + 4) :
    accessWrite s .mport a v none = mpAnswer (keyBreak (writeReg s .mport a v)) false 0 := by
  have hne : (a != A.secRplReq) = true := by
    rw [bne_iff_ne]
    unfold A.ntfTgtAddrLo at ha; unfold A.secRplReq; omega
  exact accessWrite_mport v hs.power_st (denied_ntfTgtAddr hk hs.init_done ha) hne

theorem exec_pairLoWrite_ntfTgtAddr (v : Word) : exec (.registerPairLoWrite .mport (A.ntfTgtAddrLo k) v) s =
    .next (after s (mpAnswer (keyBreak (pairStage s (A.ntfTgtAddrLo k) .mport v)) false 0)) := by
  rw [← writeReg_pairLo .mport v (find_ntfTgtAddrLo hk) rfl (pairBase_ntfTgtAddrLo hk), ← accessWrite_ntfTgtAddr hs hk v (.inl rfl)]
  unfold exec
  exact runBus_of_ok _ (pairBase_ntfTgtAddrLo hk) hs.not_held

theorem exec_pairHiWrite_ntfTgtAddr (v : Word) : exec (.registerPairHiWrite .mport (A.ntfTgtAddrLo k + 4) v) s =
    .next (after s (mpAnswer (keyBreak (pairCommit s (A.ntfTgtAddrLo k) .mport v)) false 0)) := by
  rw [← writeReg_pairHi .mport v (find_ntfTgtAddrHi hk) rfl (pairBase_ntfTgtAddrHi hk) (pairBase_ntfTgtAddrLo hk),
    ← accessWrite_ntfTgtAddr hs hk v (.inr rfl)]
  unfold exec
  exact runBus_of_ok _ (by simp [pairBase_ntfTgtAddrLo hk]) hs.not_held

theorem exec_pairLoRead_ntfTgtAddr : exec (.registerPairLoRead .mport (A.ntfTgtAddrLo k)) s =
    .next (after s (mpAnswer (pairReadLo s (A.ntfTgtAddrLo k) .mport).2 false (pairReadLo s (A.ntfTgtAddrLo k) .mport).1)) := by
  have hok : offsetOk (A.ntfTgtAddrLo k) = true := by
    simp only [offsetOk, Bool.and_eq_true, decide_eq_true_eq, beq_iff_eq]
    unfold A.ntfTgtAddrLo; omega
  have hacc : access s .mport (A.ntfTgtAddrLo k) false 0 = _ :=
    regAccess_served false 0 _ hs.power_st (denied_ntfTgtAddr hk hs.init_done (.inl rfl))
  simp only [Bool.false_and, Bool.false_eq_true, if_false, readAccess_ntfTgtAddrLo hk] at hacc
  rw [← hacc]
  unfold exec
  exact runBus_of_ok _ hok hs.not_held

theorem exec_pairHiRead_ntfTgtAddr : exec (.registerPairHiRead .mport (A.ntfTgtAddrLo k + 4)) s =
    .next (after s (mpAnswer (pairReadHi s (A.ntfTgtAddrLo k) .mport).2 false (pairReadHi s (A.ntfTgtAddrLo k) .mport).1)) := by
  have hacc := regAccess_served false 0 (fun t => pairReadHi t (A.ntfTgtAddrLo k) .mport) hs.power_st
    (denied_ntfTgtAddr hk hs.init_done (.inr rfl))
  simp only [Bool.false_and, Bool.false_eq_true, if_false] at hacc
  rw [← hacc]
  unfold exec
  exact runBus_of_ok _ (by simp [pairBase_ntfTgtAddrLo hk]) hs.not_held

end

/-- Settles O23: each of the four accesses is one operation on what is kept for the pair, which `pairOf_setPair_self` reads back. -/
theorem registerPairsStageAndCapture : Obligations.RegisterPairsStageAndCapture := by
  intro s k v hs hk lo merged
  refine ⟨⟨_, exec_pairLoWrite_ntfTgtAddr hs hk v, ?_, ?_, ?_, ?_⟩, ⟨_, exec_pairHiWrite_ntfTgtAddr hs hk v, ?_, ?_, ?_⟩,
    ⟨_, exec_pairLoRead_ntfTgtAddr hs hk, ?_, ?_⟩, ⟨_, exec_pairHiRead_ntfTgtAddr hs hk, ?_, ?_⟩⟩
  -- _LO is written
  · simp [lo, pairOf_pairStage]
  · exact after_reg_ntfTgtAddr hk rfl (.inl rfl)
  · exact after_reg_ntfTgtAddr hk rfl (.inr rfl)
  · simp [lo, pairOf_pairStage_ne]
  -- _HI is written
  · rw [pairCommit_ntfTgtAddr hk]
    simp [lo, State.pairOf_setPair_update]
  · rw [pairCommit_ntfTgtAddr hk, after_reg_ntfTgtAddr hk (by simp) (.inr rfl)]
    simp [lo]
  · rw [pairCommit_ntfTgtAddr hk, after_reg_ntfTgtAddr hk (by simp) (.inl rfl)]
    cases (s.pairOf lo .mport).staged <;> simp [lo, merged, State.reg_setReg_ne]
  -- _LO is read
  · rw [after_answer, mpAnswer, pairReadLo, readPair_ntfTgtAddr hk]
  · simp [lo, pairOf_pairReadLo, readPair_ntfTgtAddr hk]
  -- _HI is read
  · simp [lo, pairReadHi_release]
  · rw [after_answer, mpAnswer, pairReadHi_data, readPair_ntfTgtAddr hk]

end Sys2Proof.Machine
end

section
/-!
SUPPORT. Fields of a register value (R12): what a field holds after another, or the same, was replaced.
-/

namespace Sys2Proof.Machine

/-! ## Fields of a register value -/

/-- The three parts of a value with a field replaced: what lies above the field, the field, and what lies below it. -/
theorem toNat_setFld (v : Word) {lo w : Nat} (n : Nat) (h : lo + w ≤ 32) :
    (setFld v lo w n).toNat = 2 ^ (lo + w) * (v.toNat / 2 ^ (lo + w)) + (2 ^ lo * (n % 2 ^ w) + v.toNat % 2 ^ lo) := by
  have hsplit : v.toNat = 2 ^ (lo + w) * (v.toNat / 2 ^ (lo + w)) + (2 ^ lo * (v.toNat / 2 ^ lo % 2 ^ w) + v.toNat % 2 ^ lo) := by
    have h1 := Nat.div_add_mod v.toNat (2 ^ lo)
    have h2 := Nat.div_add_mod (v.toNat / 2 ^ lo) (2 ^ w)
    rw [Nat.div_div_eq_div_mul, ← Nat.pow_add] at h2
    rw [Nat.pow_add, Nat.mul_assoc, ← Nat.add_assoc, ← Nat.mul_add, ← Nat.pow_add, h2, h1]
  have hlow : v.toNat % 2 ^ lo < 2 ^ lo := Nat.mod_lt _ (Nat.two_pow_pos lo)
  have hfld : 2 ^ lo * (n % 2 ^ w) + 2 ^ lo ≤ 2 ^ (lo + w) := by
    rw [Nat.pow_add, ← Nat.mul_succ]
    exact Nat.mul_le_mul_left _ (Nat.mod_lt n (Nat.two_pow_pos w))
  have hhigh : 2 ^ (lo + w) * (v.toNat / 2 ^ (lo + w)) + 2 ^ (lo + w) ≤ 2 ^ 32 := by
    have hp : 2 ^ 32 = 2 ^ (lo + w) * 2 ^ (32 - (lo + w)) := by rw [← Nat.pow_add, Nat.add_sub_cancel' h]
    have hlt : v.toNat < 2 ^ (lo + w) * 2 ^ (32 - (lo + w)) := hp ▸ v.isLt
    rw [← Nat.mul_succ, hp]
    exact Nat.mul_le_mul_left _ (Nat.div_lt_of_lt_mul hlt)
  have hbits : bits v.toNat lo w * 2 ^ lo = 2 ^ lo * (v.toNat / 2 ^ lo % 2 ^ w) := by
    rw [bits, Nat.shiftRight_eq_div_pow, Nat.mul_comm]
  rw [setFld, BitVec.toNat_ofNat, Nat.mod_eq_of_lt] <;> rw [hbits, Nat.mul_comm (n % 2 ^ w)] <;> omega

/-- Bit `i` of a value with a field replaced. -/
theorem testBit_setFld (v : Word) {lo w : Nat} (n i : Nat) (h : lo + w ≤ 32) : (setFld v lo w n).toNat.testBit i =
    if lo ≤ i ∧ i < lo + w then n.testBit (i - lo) else v.toNat.testBit i := by
  have hlow : v.toNat % 2 ^ lo < 2 ^ lo := Nat.mod_lt _ (Nat.two_pow_pos lo)
  have hfld : 2 ^ lo * (n % 2 ^ w) + v.toNat % 2 ^ lo < 2 ^ (lo + w) := by
    have : 2 ^ lo * (n % 2 ^ w) + 2 ^ lo ≤ 2 ^ (lo + w) := by
      rw [Nat.pow_add, ← Nat.mul_succ]
      exact Nat.mul_le_mul_left _ (Nat.mod_lt n (Nat.two_pow_pos w))
    omega
  rw [toNat_setFld v n h, Nat.testBit_two_pow_mul_add _ hfld, Nat.testBit_two_pow_mul_add _ hlow]
  by_cases h1 : i < lo + w
  · by_cases h2 : i < lo
    · simp [h1, h2, Nat.testBit_mod_two_pow]
    · have h3 : i - lo < w := by omega
      simp [h1, h2, h3, Nat.testBit_mod_two_pow, Nat.le_of_not_lt h2]
  · have h3 : lo + w + (i - (lo + w)) = i := by omega
    simp only [h1, if_false, Nat.testBit_div_two_pow, and_false]
    rw [Nat.add_comm, h3]

/-- The field that was replaced holds the new value. -/
theorem fld_setFld_self (v : Word) {lo w : Nat} (n : Nat) (h : lo + w ≤ 32) : fld (setFld v lo w n) lo w = n % 2 ^ w := by
  refine Nat.eq_of_testBit_eq fun i => ?_
  simp only [fld, bits, Nat.testBit_mod_two_pow, Nat.testBit_shiftRight, testBit_setFld v n _ h]
  by_cases hi : i < w <;> simp [hi]

/-- Any other field is left. -/
theorem fld_setFld_ne (v : Word) {lo w lo' w' : Nat} (n : Nat) (h : lo + w ≤ 32) (hd : lo' + w' ≤ lo ∨ lo + w ≤ lo') :
    fld (setFld v lo w n) lo' w' = fld v lo' w' := by
  refine Nat.eq_of_testBit_eq fun i => ?_
  simp only [fld, bits, Nat.testBit_mod_two_pow, Nat.testBit_shiftRight, testBit_setFld v n _ h]
  by_cases hi : i < w'
  · rw [if_neg (by omega)]
  · simp [hi]

theorem fld_lt (v : Word) (lo w : Nat) : fld v lo w < 2 ^ w := Nat.mod_lt _ (Nat.two_pow_pos w)

theorem State.fldOf_setFldOf_self (s : State) (a : Nat) {lo w : Nat} (n : Nat) (h : lo + w ≤ 32) :
    (s.setFldOf a lo w n).fldOf a lo w = n % 2 ^ w := by
  rw [State.fldOf, State.setFldOf, State.reg_setReg_self, fld_setFld_self _ n h]

theorem State.fldOf_setFldOf_ne (s : State) (a : Nat) {lo w lo' w' : Nat} (n : Nat) (h : lo + w ≤ 32)
    (hd : lo' + w' ≤ lo ∨ lo + w ≤ lo') : (s.setFldOf a lo w n).fldOf a lo' w' = s.fldOf a lo' w' := by
  rw [State.fldOf, State.setFldOf, State.reg_setReg_self, fld_setFld_ne _ n h hd, State.fldOf]

end Sys2Proof.Machine
end

section
/-!
SUPPORT. What a boundary does with the writes that wait for it (R29 to R36).
-/

namespace Sys2Proof.Machine

/-! ## Writes taken at a boundary -/

theorem takeNow_pend (s : State) (p : PendWrite → Bool) : (takeNow s p).pend = s.pend.filter fun x => !p x := by
  have h : ∀ (l : List PendWrite) (t : State), (l.foldl (fun st x => st.setReg x.addr x.val) t).pend = t.pend := fun l => by
    induction l with
    | nil => exact fun _ => rfl
    | cons x l ih => exact fun t => (ih _).trans rfl
  exact h _ _

theorem takeNow_build (s : State) (p : PendWrite → Bool) : (takeNow s p).build = s.build := by
  have h : ∀ (l : List PendWrite) (t : State), (l.foldl (fun st x => st.setReg x.addr x.val) t).build = t.build := fun l => by
    induction l with
    | nil => exact fun _ => rfl
    | cons x l ih => exact fun t => (ih _).trans rfl
  exact h _ _

/-- The last of the writes taken is the one in effect (R35). -/
theorem takeNow_reg_last {s : State} {p : PendWrite → Bool} {l : List PendWrite} {x : PendWrite} (h : s.pend = l ++ [x])
    (hx : p x = true) : (takeNow s p).reg x.addr = x.val := by
  have hl : s.pend.filter p = l.filter p ++ [x] := by simp [h, hx]
  rw [takeNow, hl, List.foldl_append]
  exact State.reg_setReg_self _ _ _

/-- What place `k` leaves waiting once it has passed. -/
def passed (s : State) (b : Boundary) (k : Nat) : List PendWrite :=
  s.pend.map fun x => if x.bnd == b then { x with left := x.left.filter (· != k) } else x

/-- The writes that place `k` is the last to pass have acted. -/
def released (s : State) (b : Boundary) (k : Nat) : State :=
  (lastOnly ((passed s b k).filter fun x => x.left.isEmpty)).foldl takeOne { s with pend := (passed s b k).filter fun x => !x.left.isEmpty }

/-- Beyond the writes it releases, a boundary touches only the tracking units. -/
theorem passBound_eq (s : State) (b : Boundary) (k : Nat) :
    ∃ l, passBound s b k = { released s b k with rlv := { (released s b k).rlv with units := l } } := by
  change ∃ l, (if s.tracking k && !(released s b k).tracking k then _ else released s b k) = _
  split
  · exact ⟨_, rfl⟩
  · exact ⟨_, rfl⟩

/-- Where tracking is on after the boundary its record is kept. -/
theorem passBound_of_tracking {s : State} {b : Boundary} {k : Nat} (h : (released s b k).tracking k = true) :
    passBound s b k = released s b k := by
  change (if s.tracking k && !(released s b k).tracking k then _ else released s b k) = _
  simp [h]

/-- A boundary at which no write waits changes nothing. -/
theorem passBound_of_noneWaits {s : State} {k : Nat} (b : Boundary) (h : NoneWaits s k) : passBound s b k = s := by
  have hp : passed s b k = s.pend := by
    refine (List.map_congr_left fun x hx => ?_).trans (List.map_id _)
    have hk : x.left.filter (· != k) = x.left := List.filter_eq_self.2 fun y hy => by
      simpa using fun hyk : y = k => (h x hx).2 (hyk ▸ hy)
    simp [hk]
  have hr : released s b k = s := by
    have h1 : s.pend.filter (fun x => x.left.isEmpty) = [] := List.filter_eq_nil_iff.2 fun x hx => by simpa using (h x hx).1
    have h2 : s.pend.filter (fun x => !x.left.isEmpty) = s.pend := List.filter_eq_self.2 fun x hx => by simpa using (h x hx).1
    rw [released, hp, h1, h2]
    rfl
  change (if s.tracking k && !(released s b k).tracking k then _ else released s b k) = _
  rw [hr]
  simp

theorem passInstr_of_noneWaits {s : State} {ch : Nat} (h : NoneWaits s ch) : passInstr s ch = s := passBound_of_noneWaits _ h
theorem passCw_of_noneWaits {s : State} {k : Nat} (h : NoneWaits s k) : passCw s k = s := passBound_of_noneWaits _ h

/-! ## The boundaries of WRITE_TAKES_EFFECT -/

theorem exec_writeTakesEffect_fetch {s : State} (h : s.held = false) :
    exec (.writeTakesEffect .fetch) s = .next (after s (passFetch s)) := by
  unfold exec
  exact run_of_ok _ rfl h

theorem exec_writeTakesEffect_instr {s : State} (ch : Nat) (h : s.held = false) :
    exec (.writeTakesEffect (.instr ch)) s = .next (after s (passInstr s ch)) := by
  unfold exec
  exact run_of_ok _ rfl h

theorem exec_writeTakesEffect_codeword {s : State} (c : Nat) (h : s.held = false) :
    exec (.writeTakesEffect (.codeword c)) s = .next (after s (passCw s c)) := by
  unfold exec
  exact run_of_ok _ rfl h

section
variable {s : State} {a ch : Nat} {v w : Word}

theorem released_one (b : Boundary) (h : s.pend = [{ bnd := b, addr := a, val := v, left := [ch] }]) :
    released s b ch = { s with pend := [] }.setReg a v := by
  simp [released, passed, h, lastOnly, takeOne]

/-- Of two writes of one register that are released together the last alone acts (R31). -/
theorem released_two (b : Boundary) (h : s.pend = [{ bnd := b, addr := a, val := w, left := [ch] }, { bnd := b, addr := a, val := v, left := [ch] }]) :
    released s b ch = { s with pend := [] }.setReg a v := by
  simp [released, passed, h, lastOnly, takeOne]

/-- A write that another place still has to pass is not released (R31). -/
theorem released_shared {c d : Nat} (b : Boundary) (hcd : c ≠ d) (h : s.pend = [{ bnd := b, addr := a, val := v, left := [c, d] }]) :
    released s b c = { s with pend := [{ bnd := b, addr := a, val := v, left := [d] }] } := by
  simp [released, passed, h, lastOnly, hcd.symm]

/-- EN, TSEL and VOLUME of a waiting CH_CTL write act at the channel's boundary (R198). -/
theorem released_chCtl (h : s.pend = [{ bnd := .instr, addr := A.chCtl ch, val := v, left := [ch], act := true }]) :
    released s .instr ch = chCtlTake { s with pend := [] } ch v := by
  have ha : 0x100000 ≤ A.chCtl ch ∧ (A.chCtl ch - 0x100000) / 0x2000 = ch := by unfold A.chCtl A.ch; omega
  simp [released, passed, h, lastOnly, takeOne, actNow, ha]

end

/-- A register outside what follows a command is as the boundary's release left it. -/
theorem passBound_reg {s t : State} (b : Boundary) {k a : Nat} (ht : released s b k = t) (hb : t.build = s.build)
    (h1 : a ≠ A.glbPwrCtl) (h2 : a ≠ A.hqArDropCnt) (h3 : a < 0x050000 ∨ 0x050600 ≤ a) :
    (after s (passBound s b k)).reg a = t.reg a := by
  obtain ⟨l, hl⟩ := passBound_eq s b k
  rw [ht] at hl
  rw [after_reg (by rw [hl]; exact hb) (fun h => absurd h h1) h2 h3, hl]
  rfl

end Sys2Proof.Machine
end

section
/-!
SUPPORT. EN, TSEL and VOLUME of CH_CTL at the channel's boundary (R198), and the boundaries' statement.
-/

namespace Sys2Proof.Machine

/-! ## EN, TSEL and VOLUME of CH_CTL (R198) -/

section
variable (s : State) (ch t : Nat) (on : Bool) (v : Word)

@[simp] theorem setEn_build : (setEn s ch on).build = s.build := by unfold setEn; split <;> rfl
@[simp] theorem setEn_pend : (setEn s ch on).pend = s.pend := by unfold setEn; split <;> rfl
@[simp] theorem setEn_slots : (setEn s ch on).slots = s.slots := by unfold setEn; split <;> rfl
@[simp] theorem setEn_ops : (setEn s ch on).ops = s.ops := by unfold setEn; split <;> rfl
/-- A write of TSEL sets the field, relocks the PLL besides, or is a reserved encoding (R200). -/
theorem setTsel_cases : setTsel s ch t = s.setFldOf (A.chCtl ch) 1 3 t ∨ setTsel s ch t = relock (s.setFldOf (A.chCtl ch) 1 3 t) ch ∨
    setTsel s ch t = s := by
  unfold setTsel
  simp only
  split
  · exact .inl rfl
  · split
    · exact .inr (.inl rfl)
    · exact .inr (.inr rfl)

@[simp] theorem setTsel_build : (setTsel s ch t).build = s.build := by obtain h | h | h := setTsel_cases s ch t <;> rw [h] <;> rfl
@[simp] theorem setTsel_pend : (setTsel s ch t).pend = s.pend := by obtain h | h | h := setTsel_cases s ch t <;> rw [h] <;> rfl
@[simp] theorem setTsel_slots : (setTsel s ch t).slots = s.slots := by obtain h | h | h := setTsel_cases s ch t <;> rw [h] <;> rfl
@[simp] theorem setTsel_ops : (setTsel s ch t).ops = s.ops := by obtain h | h | h := setTsel_cases s ch t <;> rw [h] <;> rfl

@[simp] theorem State.updChan_fldOf (f : Chan → Chan) (a lo w : Nat) : (s.updChan ch f).fldOf a lo w = s.fldOf a lo w := rfl

/-- EN is as written. -/
theorem setEn_fldOf_en : (setEn s ch on).fldOf (A.chCtl ch) 0 1 = on.toNat := by
  have hlt := fld_lt (s.reg (A.chCtl ch)) 0 1
  unfold setEn
  split
  · rename_i h
    rw [beq_iff_eq, State.en, State.fldOf, beq_eq_decide] at h
    rw [State.fldOf, ← h]
    interval_cases fld (s.reg (A.chCtl ch)) 0 1 <;> rfl
  · rw [State.updChan_fldOf, State.fldOf_setFldOf_self _ _ _ (by decide)]
    cases on <;> rfl

/-- A write of EN leaves the other fields of CH_CTL. -/
theorem setEn_fldOf_ne {lo w : Nat} (h : 1 ≤ lo) : (setEn s ch on).fldOf (A.chCtl ch) lo w = s.fldOf (A.chCtl ch) lo w := by
  unfold setEn
  split
  · rfl
  · rw [State.updChan_fldOf, State.fldOf_setFldOf_ne _ _ _ (by decide) (.inr h)]

/-- A write of EN leaves every other register. -/
theorem setEn_reg_ne {a : Nat} (h : a ≠ A.chCtl ch) : (setEn s ch on).reg a = s.reg a := by
  unfold setEn
  split
  · rfl
  · exact s.reg_setFldOf_ne _ _ _ h

/-- A change of EN stops the PLL. -/
theorem setEn_pll (h : s.en ch ≠ on) : ((setEn s ch on).chan ch).pll = false := by
  unfold setEn
  rw [if_neg (by simpa using h), State.chan_updChan_self]
  exact fun _ => rfl

/-- A write of TSEL leaves the other fields of CH_CTL. -/
theorem setTsel_fldOf_ne {lo w : Nat} (h : lo + w ≤ 1 ∨ 4 ≤ lo) :
    (setTsel s ch t).fldOf (A.chCtl ch) lo w = s.fldOf (A.chCtl ch) lo w := by
  obtain hs | hs | hs := setTsel_cases s ch t <;> rw [hs]
  · exact s.fldOf_setFldOf_ne _ _ (by decide) h
  · exact s.fldOf_setFldOf_ne _ _ (by decide) h

/-- A set with the selected RATE is selected (R200). -/
theorem setTsel_tsel (ht : t < 8) (h : s.fldAt ch (A.chTset ch t 0) 0 28 = s.rateOf ch) : (setTsel s ch t).tsel ch = t := by
  unfold setTsel
  simp only [h, beq_self_eq_true, if_true]
  rw [State.tsel, s.fldOf_setFldOf_self _ _ (by decide), Nat.mod_eq_of_lt (by exact ht)]

/-- A write of TSEL never starts the PLL. -/
theorem setTsel_pll (h : (s.chan ch).pll = false) : ((setTsel s ch t).chan ch).pll = false := by
  obtain hs | hs | hs := setTsel_cases s ch t <;> rw [hs]
  · exact h
  · rw [relock, State.chan_updChan_self]
    exact fun _ => rfl
  · exact h

theorem chCtlTake_build : (chCtlTake s ch v).build = s.build := by simp [chCtlTake]
theorem chCtlTake_pend : (chCtlTake s ch v).pend = s.pend := by simp [chCtlTake]
theorem chCtlTake_slots : (chCtlTake s ch v).slots = s.slots := by simp [chCtlTake]
theorem chCtlTake_ops : (chCtlTake s ch v).ops = s.ops := by simp [chCtlTake]

theorem chCtlTake_fldOf_en : (chCtlTake s ch v).fldOf (A.chCtl ch) 0 1 = (fld v 0 1 == 1).toNat := by
  rw [chCtlTake, State.fldOf_setFldOf_ne _ _ _ (by decide) (.inl (by decide)), setTsel_fldOf_ne _ _ _ (.inl (by decide)), setEn_fldOf_en]

theorem chCtlTake_fldOf_volume : (chCtlTake s ch v).fldOf (A.chCtl ch) 6 1 = fld v 6 1 := by
  rw [chCtlTake, State.fldOf_setFldOf_self _ _ _ (by decide), Nat.mod_eq_of_lt (fld_lt v 6 1)]

/-- WP_REL and LIVE act from the write on, not at the boundary (R201, R202). -/
theorem chCtlTake_fldOf_ne {lo : Nat} (h : 4 ≤ lo) (h6 : lo + 1 ≤ 6) :
    (chCtlTake s ch v).fldOf (A.chCtl ch) lo 1 = s.fldOf (A.chCtl ch) lo 1 := by
  rw [chCtlTake, State.fldOf_setFldOf_ne _ _ _ (by decide) (.inl h6), setTsel_fldOf_ne _ _ _ (.inr h), setEn_fldOf_ne _ _ _ (by omega)]

theorem chCtlTake_pll (h : fld v 0 1 ≠ (s.en ch).toNat) : ((chCtlTake s ch v).chan ch).pll = false := by
  refine setTsel_pll _ _ _ (setEn_pll s ch _ fun he => h ?_)
  have hlt := fld_lt v 0 1
  rw [he]
  interval_cases fld v 0 1 <;> rfl

end

/-- Where only actions wait every place is governed by the register. -/
theorem State.fldAt_of_acts {s : State} (h : ∀ x ∈ s.pend, x.act = true) (k a lo w : Nat) : s.fldAt k a lo w = s.fldOf a lo w := by
  have hf : ∀ (l : List PendWrite) (acc : Option Word), (∀ x ∈ l, x.act = true) →
      l.foldl (fun acc p => if p.addr = a ∧ p.bnd ≠ .fetch ∧ !p.act ∧ k ∉ p.left then some p.val else acc) acc = acc := fun l => by
    induction l with
    | nil => exact fun _ _ => rfl
    | cons x l ih =>
      intro acc hl
      rw [List.foldl_cons, ih _ fun y hy => hl y (List.mem_cons_of_mem _ hy), if_neg]
      simp [hl x List.mem_cons_self]
  rw [State.fldAt, State.regAt, hf _ _ h, State.fldOf, Option.getD_none]

theorem State.rateOf_of_acts {s : State} (h : ∀ x ∈ s.pend, x.act = true) (ch : Nat) :
    s.rateOf ch = s.fldOf (A.chTset ch (s.tsel ch) 0) 0 28 := s.fldAt_of_acts h ..

theorem chCtlTake_tsel {s : State} {ch : Nat} {v : Word} (hp : s.pend = []) (h : s.fldOf (A.chTset ch (fld v 1 3) 0) 0 28 = s.rateOf ch) :
    (chCtlTake s ch v).tsel ch = fld v 1 3 := by
  have hne (i : Nat) : A.chTset ch i 0 ≠ A.chCtl ch := by unfold A.chTset A.chCtl A.ch; omega
  have hnil (u : State) (hu : u.pend = []) : ∀ x ∈ u.pend, x.act = true := by simp [hu]
  have hts : (setEn s ch (fld v 0 1 == 1)).tsel ch = s.tsel ch := setEn_fldOf_ne s ch _ (by decide)
  have hsame : (setEn s ch (fld v 0 1 == 1)).fldAt ch (A.chTset ch (fld v 1 3) 0) 0 28 = (setEn s ch (fld v 0 1 == 1)).rateOf ch := by
    have hu := hnil (setEn s ch (fld v 0 1 == 1)) (by simp [hp])
    rw [State.rateOf_of_acts hu, State.fldAt_of_acts hu, hts, State.fldOf, setEn_reg_ne _ _ _ (hne _), State.fldOf, setEn_reg_ne _ _ _ (hne _)]
    rw [State.rateOf_of_acts (hnil s hp)] at h
    exact h
  rw [chCtlTake, State.tsel, State.fldOf_setFldOf_ne _ _ _ (by decide) (.inl (by decide))]
  exact setTsel_tsel _ ch _ (fld_lt v 1 3) hsame

/-- Settles O22: each boundary's release is one write in effect, none, or the CH_CTL fields, and what the boundary does beyond
it touches no register (`passBound_reg`). -/
theorem boundaryTakesPendingWrites : Obligations.BoundaryTakesPendingWrites := by
  refine ⟨fun s a v hh h3 h2 h1 => ⟨fun l hl => ?_, fun ch hp => ?_, fun ch w hp => ?_, fun c d hcd hp _ _ => ?_⟩, fun s ch v hh hch hp => ?_⟩
  · refine ⟨_, exec_writeTakesEffect_fetch hh, ?_, ?_⟩
    · rw [passFetch, after_reg (takeNow_build s _) (fun h => absurd h h1) h2 h3]
      exact takeNow_reg_last hl rfl
    · rw [after_pend, passFetch, takeNow_pend]
      rfl
  · refine ⟨_, exec_writeTakesEffect_instr ch hh, ?_, ?_⟩
    · rw [passInstr, passBound_reg .instr (released_one .instr hp) rfl h1 h2 h3]
      exact State.reg_setReg_self _ _ _
    · obtain ⟨l, hl⟩ := passBound_eq s .instr ch
      rw [after_pend, passInstr, hl, released_one .instr hp]
      rfl
  · refine ⟨_, exec_writeTakesEffect_instr ch hh, ?_, ?_, ?_⟩
    · rw [passInstr, passBound_reg .instr (released_two .instr hp) rfl h1 h2 h3]
      exact State.reg_setReg_self _ _ _
    · obtain ⟨l, hl⟩ := passBound_eq s .instr ch
      rw [after_pend, passInstr, hl, released_two .instr hp]
      rfl
    · rintro rfl hv
      have hon : (released s .instr ch).tracking ch = true := by
        rw [released_two .instr hp, State.tracking, State.fldAt_of_acts (by simp), State.fldOf, State.reg_setReg_self, hv]
        rfl
      rw [after_rlv, passInstr, passBound_of_tracking hon, released_two .instr hp]
      rfl
  · refine ⟨_, exec_writeTakesEffect_codeword c hh, ?_, ?_⟩
    · rw [passCw, passBound_reg .codeword (released_shared .codeword hcd hp) rfl h1 h2 h3]
      rfl
    · obtain ⟨l, hl⟩ := passBound_eq s .codeword c
      rw [after_pend, passCw, hl, released_shared .codeword hcd hp]
  · have hr := released_chCtl hp
    obtain ⟨l, hl⟩ := passBound_eq s .instr ch
    rw [hr] at hl
    have hreg : (after s (passInstr s ch)).reg (A.chCtl ch) = (chCtlTake { s with pend := [] } ch v).reg (A.chCtl ch) := by
      refine passBound_reg .instr hr (chCtlTake_build _ _ _) ?_ ?_ (.inr ?_)
      · unfold A.chCtl A.ch A.glbPwrCtl; omega
      · unfold A.chCtl A.ch A.hqArDropCnt; omega
      · unfold A.chCtl A.ch; omega
    have hfld (lo w : Nat) : (after s (passInstr s ch)).fldOf (A.chCtl ch) lo w =
        (chCtlTake { s with pend := [] } ch v).fldOf (A.chCtl ch) lo w := by rw [State.fldOf, hreg, State.fldOf]
    refine ⟨_, exec_writeTakesEffect_instr ch hh, ?_, ?_, ?_, ?_, ?_, ?_, ?_, fun h => ?_, fun h => ?_⟩
    · rw [after_pend, passInstr, hl]
      exact chCtlTake_pend _ _ _
    · rw [State.en, hfld, chCtlTake_fldOf_en]
      by_cases h : fld v 0 1 = 1 <;> simp [h]
    · rw [State.volume, hfld, chCtlTake_fldOf_volume]
      rfl
    · rw [State.live, hfld, chCtlTake_fldOf_ne _ _ _ (by decide) (by decide)]
      rfl
    · rw [State.wpRel, hfld, chCtlTake_fldOf_ne _ _ _ (by decide) (by decide)]
      rfl
    · rw [after_slots, passInstr, hl]
      exact chCtlTake_slots _ _ _
    · rw [after_ops, passInstr, hl]
      exact chCtlTake_ops _ _ _
    · have hact : ∀ x ∈ s.pend, x.act = true := by simp [hp]
      rw [State.rateOf_of_acts hact] at h
      rw [State.tsel, hfld]
      exact chCtlTake_tsel (s := { s with pend := [] }) rfl (h.trans (State.rateOf_of_acts (s := { s with pend := [] }) (by simp) ch).symm)
    · have hpll := chCtlTake_pll { s with pend := [] } ch v h
      simpa [State.chan, passInstr, hl] using hpll

end Sys2Proof.Machine
end

section
/-!
SUPPORT. The contexts of a channel and its branch cache (R227, R232).
-/

namespace Sys2Proof.Machine

/-- The value put at a key of a list of pairs is the one there. -/
theorem assoc_putBy_self {β : Type} (k : Nat) (v : β) (l : List (Nat × β)) : assoc (putBy Prod.fst (k, v) l) k = some v := by
  rw [assoc, show getBy Prod.fst k (putBy Prod.fst (k, v) l) = some (k, v) from getBy_putBy_self Prod.fst (k, v) l, Option.map_some]

/-! ## The contexts of a channel -/

theorem Chan.ctx_id {c : Chan} {k : Nat} {x : Ctx} (h : c.ctx k = some x) : x.id = k := getBy_key h

/-- A context after an update that keeps numbers. -/
theorem Chan.ctx_updBy (c : Chan) (p : Ctx → Bool) (f : Ctx → Ctx) (hf : ∀ x, (f x).id = x.id) (k : Nat) :
    Chan.ctx { c with ctxs := updBy p f c.ctxs } k = (c.ctx k).map fun x => if p x then f x else x :=
  getBy_updBy Ctx.id p f hf k c.ctxs

@[simp] theorem wakeCtx_id (rb : Bool) (x : Ctx) : (wakeCtx rb x).id = x.id := by unfold wakeCtx; split <;> rfl

theorem putCtx_chan (s : State) (ch : Nat) (x : Ctx) :
    (putCtx s ch x).chan ch = { s.chan ch with ctxs := putBy Ctx.id x (s.chan ch).ctxs } :=
  s.chan_updChan_self ch _ fun _ => rfl

/-- The context that was put is there, and the others are as before. -/
theorem putCtx_ctx_self (s : State) (ch : Nat) (x : Ctx) : ((putCtx s ch x).chan ch).ctx x.id = some x := by
  rw [putCtx_chan]
  exact getBy_putBy_self Ctx.id x _

theorem putCtx_ctx_ne (s : State) (ch : Nat) {x : Ctx} {k : Nat} (h : k ≠ x.id) :
    ((putCtx s ch x).chan ch).ctx k = (s.chan ch).ctx k := by
  rw [putCtx_chan]
  exact getBy_putBy_ne Ctx.id _ h

@[simp] theorem after_chan (s t : State) (ch : Nat) : (after s t).chan ch = t.chan ch := by rw [State.chan, after_chans]; rfl
@[simp] theorem State.bump_chan (s : State) (a n ch : Nat) : (s.bump a n).chan ch = s.chan ch := rfl

/-! ## The branch cache (R232) -/

/-- The branch cache after an address is reached with word `w` there. -/
def Chan.reached (c : Chan) (a : Nat) (w : BitVec 132) : Chan :=
  match c.cache.find? fun e => e.1 == a with
  | some e => { c with cache := e :: c.cache.filter (fun y => y.1 != a), lastHit := true }
  | none => { c with cache := ((a, w) :: c.cache).take 16, lastHit := false }

theorem enterAt_chan (s : State) (ch a : Nat) :
    (enterAt s ch a).chan ch = (s.chan ch).reached a (s.csWord (ch / 8) (s.fetchAddr (ch / 8) a).1) := by
  cases h : (s.chan ch).cache.find? fun e => e.1 == a with
  | some e =>
    simp only [enterAt, Chan.reached, h, State.bump_chan]
    exact s.chan_updChan_self ch _ fun _ => rfl
  | none =>
    simp only [enterAt, Chan.reached, h, State.bump_chan]
    exact s.chan_updChan_self ch _ fun _ => rfl

theorem Chan.reached_keeps (c : Chan) (a : Nat) (w : BitVec 132) :
    (c.reached a w).run = c.run ∧ (∀ k, (c.reached a w).ctx k = c.ctx k) ∧ (c.reached a w).frozen = c.frozen := by
  unfold Chan.reached
  split <;> exact ⟨rfl, fun _ => rfl, rfl⟩

theorem enterAt_run (s : State) (ch a : Nat) : ((enterAt s ch a).chan ch).run = (s.chan ch).run := by
  rw [enterAt_chan, (Chan.reached_keeps _ _ _).1]

theorem enterAt_ctx (s : State) (ch a k : Nat) : ((enterAt s ch a).chan ch).ctx k = (s.chan ch).ctx k := by
  rw [enterAt_chan, (Chan.reached_keeps _ _ _).2.1]

theorem enterAt_of_hit {s : State} {ch a : Nat} {e : Nat × BitVec 132} (h : (s.chan ch).cache.find? (fun e => e.1 == a) = some e) :
    enterAt s ch a = (s.updChan ch fun c =>
      { c with cache := e :: c.cache.filter (fun y => y.1 != a), lastHit := true }).bump (A.seqBcHitCnt ch) := by
  simp only [enterAt, h]

theorem enterAt_of_miss {s : State} {ch a : Nat} (h : (s.chan ch).cache.find? (fun e => e.1 == a) = none) :
    enterAt s ch a = (s.updChan ch fun c =>
      { c with cache := ((a, s.csWord (ch / 8) (s.fetchAddr (ch / 8) a).1) :: c.cache).take 16, lastHit := false }).bump (A.seqBcMissCnt ch) := by
  simp only [enterAt, h]

/-! ## A counter outside what follows a command -/

/-- A counter that a command counts last reads one more after it. -/
theorem after_regN_bump {s u : State} {a : Nat} (hb : u.build = s.build) (h1 : a ≠ A.glbPwrCtl) (h2 : a ≠ A.hqArDropCnt)
    (h3 : a < 0x050000 ∨ 0x050600 ≤ a) (n : Nat) : (after s (u.bump a n)).regN a = min (u.regN a + n) (2 ^ 32 - 1) := by
  rw [State.regN, after_reg (by exact hb) (fun h => absurd h h1) h2 h3]
  exact u.regN_bump a n

end Sys2Proof.Machine
end

section
/-!
SUPPORT. How segments start and contexts wake (R189, R228, R229).
-/

namespace Sys2Proof.Machine

/-! ## Segments (R228, R229) -/

/-- The context `x` as its segment starts on channel `ch`: a routine that is entered samples the timing-set selection (R33). -/
def State.entered (s : State) (ch : Nat) (x : Ctx) : Ctx :=
  { (if x.fresh then { x with fresh := false, tset := s.tsel ch, start := s.aclk } else x) with ready := false, asleep := false }

@[simp] theorem State.entered_id (s : State) (ch : Nat) (x : Ctx) : (s.entered ch x).id = x.id := by
  unfold State.entered; split <;> rfl

/-- The segment of `y` starts on channel `ch` of `t`, at the address of `x`. -/
def startSeg (t : State) (ch : Nat) (y : Ctx) : State :=
  enterAt ((putCtx t ch y).updChan ch fun c => { c with run := some y.id }) ch y.pc

section
variable (t : State) (ch : Nat) (y : Ctx)

theorem startSeg_run : ((startSeg t ch y).chan ch).run = some y.id := by
  rw [startSeg, enterAt_run, State.chan_updChan_self]
  exact fun _ => rfl

theorem startSeg_ctx_self : ((startSeg t ch y).chan ch).ctx y.id = some y := by
  rw [startSeg, enterAt_ctx, State.chan_updChan_self]
  · exact putCtx_ctx_self t ch y
  · exact fun _ => rfl

theorem startSeg_ctx_ne {k : Nat} (h : k ≠ y.id) : ((startSeg t ch y).chan ch).ctx k = (t.chan ch).ctx k := by
  rw [startSeg, enterAt_ctx, State.chan_updChan_self]
  · exact putCtx_ctx_ne t ch h
  · exact fun _ => rfl

end

/-- The channel stands where a segment may start: a switch point in P0 (R229). -/
def State.atSwitch (s : State) (ch : Nat) : Prop :=
  (s.chan ch).frozen = false ∧ (s.chan ch).pll = true ∧ (s.chan ch).ceLow = none ∧ (s.chan ch).op = none ∧ s.power.st = .p0 ∧
    (s.store (ch / 8)).restoring = false

section
variable {s : State} {ch : Nat} {x z : Ctx}

theorem segmentStart_at_switch (h : s.atSwitch ch) (hx : s.bestReady (s.chan ch) = some x) : segmentStart s ch =
    match (s.chan ch).run.bind (s.chan ch).ctx with
    | none => startSeg s ch (s.entered ch x)
    | some z => if s.segBefore x z then startSeg (putCtx s ch { z with ready := true }) ch (s.entered ch x) else s := by
  obtain ⟨hf, hp, hc, ho, hst, hr⟩ := h
  have hid : (s.entered ch x).id = x.id ∧ (s.entered ch x).pc = x.pc := by unfold State.entered; split <;> exact ⟨rfl, rfl⟩
  simp only [startSeg, hid]
  simp only [segmentStart, hf, hp, hc, ho, hst, hr, hx]
  rfl

/-- Off a switch point, and without a ready context, no segment starts. -/
theorem segmentStart_off_switch (h : (s.chan ch).frozen = true ∨ (s.chan ch).pll = false ∨ (s.chan ch).ceLow.isSome = true ∨
    s.bestReady (s.chan ch) = none) : segmentStart s ch = s := by
  unfold segmentStart
  simp only
  split
  · rfl
  · rename_i hoff
    simp only [Bool.not_eq_true, Bool.or_eq_false_iff] at hoff
    rcases h with h | h | h | h
    · simp [h] at hoff
    · simp [h] at hoff
    · simp [h] at hoff
    · rw [h]

theorem exec_segmentStart (hh : s.held = false) (hch : ch < 32) : exec (.segmentStart ch) s = .next (after s (segmentStart s ch)) := by
  unfold exec
  exact run_of_ok _ (decide_eq_true hch) hh

theorem exec_contextWake {k : Nat} (hh : s.held = false) (hch : ch < 32) (hk : k < 64) (hd : (s.chan ch).resetDue.contains k = false) :
    exec (.contextWake ch k) s = .next (after s (s.updChan ch fun c => { c with
      ctxs := updBy (fun x => x.id == k && (s.sleepOver ch x || s.wakeDue ch x)) (wakeCtx false) c.ctxs })) := by
  have hok : (decide (ch < 32) && decide (k < 64)) = true := by simp [hch, hk]
  have hr := run_of_ok (fun s => if (s.chan ch).resetDue.contains k then resetEnd s (64 * ch + k)
    else s.updChan ch fun c => { c with ctxs := updBy (fun x => x.id == k && (s.sleepOver ch x || s.wakeDue ch x)) (wakeCtx false) c.ctxs }) hok hh
  rw [hd] at hr
  unfold exec
  exact hr

/-- The ready/busy input `i` of channel `ch` reads high. -/
def rbRaised (s : State) (ch i : Nat) : State :=
  { s with pins := { s.pins with rb := putBy Prod.fst (ch, (assoc s.pins.rb ch).getD 0 ||| 2 ^ i) s.pins.rb } }

theorem rbRaised_bit (s : State) (ch i : Nat) : bit ((assoc (rbRaised s ch i).pins.rb ch).getD 0) i = true := by
  rw [rbRaised, assoc_putBy_self, Option.getD_some, bit, Nat.testBit_or, Nat.testBit_two_pow_self, Bool.or_true]

theorem exec_rbNHigh {i : Nat} (hh : s.held = false) (hch : ch < 32) (hi : i < 4) :
    exec (.rbNHigh ch i) s = .next (after s ((rbRaised s ch i).updChan ch fun c => { c with
      ctxs := updBy (fun x => s.rbMode (64 * ch + x.id) && fld (s.dmA (64 * ch + x.id)) 25 2 == i) (wakeCtx true) c.ctxs })) := by
  have hok : (decide (ch < 32) && decide (i < 4)) = true := by simp [hch, hi]
  unfold exec
  exact run_of_ok _ hok hh

end

/-! ### What the address of a start finds in the branch cache (R232) -/

theorem startSeg_hit {s : State} {ch : Nat} {y : Ctx} {e : Nat × BitVec 132}
    (h : (s.chan ch).cache.find? (fun e => e.1 == y.pc) = some e) :
    ((startSeg s ch y).chan ch).lastHit = true ∧ ∃ u : State, startSeg s ch y = u.bump (A.seqBcHitCnt ch) ∧ u.build = s.build ∧ u.regs = s.regs := by
  have hc : (((putCtx s ch y).updChan ch fun c => { c with run := some y.id }).chan ch).cache.find? (fun e => e.1 == y.pc) = some e := by
    rw [State.chan_updChan_self _ _ _ (by exact fun _ => rfl), putCtx_chan]
    exact h
  refine ⟨?_, _, enterAt_of_hit hc, rfl, rfl⟩
  rw [startSeg, enterAt_chan, Chan.reached, hc]

theorem startSeg_miss {s : State} {ch : Nat} {y : Ctx} (h : (s.chan ch).cache.find? (fun e => e.1 == y.pc) = none) :
    ((startSeg s ch y).chan ch).lastHit = false ∧
    ((startSeg s ch y).chan ch).cache.head? = some (y.pc, s.csWord (ch / 8) (s.fetchAddr (ch / 8) y.pc).1) ∧
    ∃ u : State, startSeg s ch y = u.bump (A.seqBcMissCnt ch) ∧ u.build = s.build ∧ u.regs = s.regs := by
  have hc : (((putCtx s ch y).updChan ch fun c => { c with run := some y.id }).chan ch).cache.find? (fun e => e.1 == y.pc) = none := by
    rw [State.chan_updChan_self _ _ _ (by exact fun _ => rfl), putCtx_chan]
    exact h
  refine ⟨?_, ?_, _, enterAt_of_miss hc, rfl, rfl⟩ <;> rw [startSeg, enterAt_chan, Chan.reached, hc]
  rfl

/-- The branch cache counters follow no command. -/
theorem after_regN_seqBc {s u : State} {ch : Nat} (hch : ch < 32) (hb : u.build = s.build) (hr : u.regs = s.regs) {a : Nat}
    (ha : a = A.seqBcHitCnt ch ∨ a = A.seqBcMissCnt ch) : (after s (u.bump a)).regN a = min (s.regN a + 1) (2 ^ 32 - 1) := by
  have hn : u.regN a = s.regN a := by rw [State.regN, State.regN, State.reg, State.reg, hb, hr]
  unfold A.seqBcHitCnt A.seqBcMissCnt at ha
  rw [← hn]
  exact after_regN_bump hb (by unfold A.glbPwrCtl; omega) (by unfold A.hqArDropCnt; omega) (by omega) 1

/-- Settles O48: a start is `startSeg` on the state with the running context saved, and a wake is one update of the channel's contexts. -/
theorem segmentsStartAndContextsWake : Obligations.SegmentsStartAndContextsWake := by
  intro s ch hh hch c inPlace entered
  have hpc (x : Ctx) : (s.entered ch x).pc = x.pc := by unfold State.entered; split <;> rfl
  refine ⟨fun hrun hin x hx => ?_, fun k z x hrun hz hin hx hne => ?_, fun hoff => ?_, fun k x hk hx hdue => ?_, fun i hi => ?_⟩
  · have hs : segmentStart s ch = startSeg s ch (s.entered ch x) := by
      rw [segmentStart_at_switch hin hx, show (s.chan ch).run = none from hrun]
      rfl
    refine ⟨_, _, exec_segmentStart hh hch, ?_, ?_, rfl, fun e he => ?_, fun he => ?_⟩ <;> rw [hs]
    · rw [after_chan]
      exact (startSeg_run s ch _).trans (by rw [State.entered_id])
    · rw [after_chan, ← s.entered_id ch x]
      exact startSeg_ctx_self s ch _
    · rw [← hpc x] at he
      obtain ⟨hlast, u, hu, hb, hr⟩ := startSeg_hit he
      rw [after_chan]
      refine ⟨hlast, ?_⟩
      rw [hu]
      exact after_regN_seqBc hch hb hr (.inl rfl)
    · rw [← hpc x] at he
      obtain ⟨hlast, hhead, u, hu, hb, hr⟩ := startSeg_miss he
      rw [after_chan]
      refine ⟨hlast, hhead.trans (by rw [hpc]), ?_⟩
      rw [hu]
      exact after_regN_seqBc hch hb hr (.inr rfl)
  · have hs := segmentStart_at_switch hin hx
    rw [show (s.chan ch).run = some k from hrun, Option.bind_some, show (s.chan ch).ctx k = some z from hz] at hs
    refine ⟨fun hb => ?_, fun hb => ?_⟩
    · simp only [hb, if_true] at hs
      refine ⟨_, exec_segmentStart hh hch, ?_⟩
      rw [hs, after_chan]
      refine ⟨(startSeg_run _ ch _).trans (by rw [State.entered_id]), ?_, ?_⟩
      · rw [← s.entered_id ch x]
        exact startSeg_ctx_self _ ch _
      · have hzk : z.id = k := Chan.ctx_id hz
        refine (startSeg_ctx_ne _ ch _ (by rw [State.entered_id]; exact Ne.symm hne)).trans ?_
        subst hzk
        exact putCtx_ctx_self s ch { z with ready := true }
    · simp only [hb] at hs
      refine ⟨_, exec_segmentStart hh hch, ?_⟩
      rw [hs]
      exact around_after rfl rfl
  · refine ⟨_, exec_segmentStart hh hch, ?_⟩
    rw [segmentStart_off_switch hoff]
    exact around_after rfl rfl
  · refine ⟨_, exec_contextWake hh hch hk hdue, ?_⟩
    obtain rfl : x.id = k := Chan.ctx_id hx
    rw [after_chan, State.chan_updChan_self _ _ _ (by exact fun _ => rfl), Chan.ctx_updBy _ _ _ (wakeCtx_id false),
      show (s.chan ch).ctx x.id = some x from hx, Option.map_some, beq_self_eq_true, Bool.true_and]
    cases ha : x.asleep <;> cases s.sleepOver ch x || s.wakeDue ch x <;> simp [ha, wakeCtx]
  · refine ⟨_, exec_rbNHigh hh hch hi, ?_, fun k x hx ha hrb => ?_⟩
    · rw [after_pins]
      exact rbRaised_bit s ch i
    · obtain rfl : x.id = k := Chan.ctx_id hx
      rw [after_chan, State.chan_updChan_self _ _ _ (by exact fun _ => rfl), Chan.ctx_updBy _ _ _ (wakeCtx_id true),
        show ((rbRaised s ch i).chan ch).ctx x.id = some x from hx, Option.map_some, hrb, Bool.true_and]
      exact ⟨fun he => by simp [he, ha, wakeCtx], fun he => by simp [he]⟩

end Sys2Proof.Machine
end

section
/-!
SUPPORT. A condition of R138 is met: what that changes, and what it leaves.
-/

namespace Sys2Proof.Machine

/-! ## Absent keys -/

theorem getBy_eq_none {α : Type} {key : α → Nat} {k : Nat} {l : List α} : getBy key k l = none ↔ ∀ x ∈ l, key x ≠ k := by
  induction l with
  | nil => simp
  | cons y ys ih =>
    by_cases h : key y = k
    · simp [getBy, h]
    · simp [getBy, h, ih]

/-- A key that is absent is absent from a part of the list. -/
theorem getBy_none_of_sublist {α : Type} {key : α → Nat} {k : Nat} {l l' : List α} (hs : l'.Sublist l) (h : getBy key k l = none) :
    getBy key k l' = none :=
  getBy_eq_none.2 fun x hx => getBy_eq_none.1 h x (hs.subset hx)

@[simp] theorem State.cw_setCw_self (s : State) (c : Cw) : (s.setCw c).cw c.id = some c := getBy_putBy_self Cw.id c s.cws
@[simp] theorem State.cw_delCw_self (s : State) (k : Nat) : (s.delCw k).cw k = none := getBy_delBy_self Cw.id k s.cws

@[simp] theorem after_slot (s t : State) (n : Nat) : (after s t).slot n = t.slot n := by rw [State.slot, after_slots]; rfl
@[simp] theorem after_cw (s t : State) (n : Nat) : (after s t).cw n = t.cw n := by rw [State.cw, after_cws]; rfl
@[simp] theorem after_unit (s t : State) (n : Nat) : (after s t).unit n = t.unit n := by rw [State.unit, after_units]; rfl
@[simp] theorem after_asked (s t : State) (p : Nat) : (after s t).asked p = t.asked p := by
  rw [State.asked, State.port, after_ports]; rfl
@[simp] theorem after_met (s t : State) (n : Nat) (st : Status) : (after s t).met n st ↔ t.met n st := by
  rw [State.met, State.met, after_slot]

/-! ## A condition of R138 is met -/

/-- Writes that have not left a port are taken back: the ports and the count of the command's bytes are all that changes. -/
theorem unsend_eq (s : State) (n : Nat) : ∃ ps, unsend s n = { s with ports := ps } ∨
    ∃ k, unsend s n = { s with ports := ps }.updSlot n fun y => { y with bytesOut := y.bytesOut - k } := by
  unfold unsend
  simp only
  split
  · exact ⟨s.ports, .inl rfl⟩
  · exact ⟨_, .inr ⟨_, rfl⟩⟩

/-- The command as it takes the condition `st`: after items 1 to 5 it writes nothing more. -/
def Slot.meets (st : Status) (y : Slot) : Slot :=
  { y with conds := if y.conds.contains st then y.conds else y.conds ++ [st], outq := if itemOf st ≤ 5 then [] else y.outq }

theorem Slot.mem_conds_meets (st : Status) (y : Slot) : st ∈ (y.meets st).conds := by
  unfold Slot.meets
  by_cases h : st ∈ y.conds <;> simp [h]

/-- A condition that a command still takes ends what it has queued, and after items 1 to 5 takes back its writes. -/
theorem hit_of_open {s : State} {n : Nat} {x : Slot} (st : Status) (h : s.slot n = some x)
    (ho : (x.phase == .posting || x.phase == .fullHeld || x.phase == .faultHeld || x.reject.isSome) = false) :
    hit s n st = if itemOf st ≤ 5 then unsend (stopOps (s.updSlot n (Slot.meets st)) n) n else stopOps (s.updSlot n (Slot.meets st)) n := by
  simp only [hit, h, ho]
  rfl

theorem hit_of_closed {s : State} {n : Nat} (st : Status) (h : ∀ x, s.slot n = some x →
    (x.phase == .posting || x.phase == .fullHeld || x.phase == .faultHeld || x.reject.isSome) = true) : hit s n st = s := by
  cases hs : s.slot n with
  | none => simp only [hit, hs]
  | some x => simp only [hit, hs, h x hs, if_true]

theorem hit_cases (s : State) (n : Nat) (st : Status) : hit s n st = s ∨ hit s n st = stopOps (s.updSlot n (Slot.meets st)) n ∨
    hit s n st = unsend (stopOps (s.updSlot n (Slot.meets st)) n) n := by
  by_cases h : ∃ x, s.slot n = some x ∧ (x.phase == .posting || x.phase == .fullHeld || x.phase == .faultHeld || x.reject.isSome) = false
  · obtain ⟨x, hx, ho⟩ := h
    rw [hit_of_open st hx ho]
    split
    · exact .inr (.inr rfl)
    · exact .inr (.inl rfl)
  · exact .inl (hit_of_closed st fun x hx => (Bool.not_eq_false _).mp fun ho => h ⟨x, hx, ho⟩)

/-- Meeting a condition changes the command, ends what it has queued and takes back its writes. -/
theorem hit_eq (s : State) (n : Nat) (st : Status) : ∃ sl os rs cs us ps,
    hit s n st = { s with slots := sl, ops := os, recov := rs, cws := cs, units := us, ports := ps } ∧ cs.Sublist s.cws := by
  obtain h | h | h := hit_cases s n st
  · exact ⟨_, _, _, _, _, _, h, List.Sublist.refl _⟩
  · exact ⟨_, _, _, _, _, _, h, List.filter_sublist⟩
  · obtain ⟨ps, hu | ⟨k, hu⟩⟩ := unsend_eq (stopOps (s.updSlot n (Slot.meets st)) n) n
    · exact ⟨_, _, _, _, _, _, h.trans hu, List.filter_sublist⟩
    · exact ⟨_, _, _, _, _, _, h.trans hu, List.filter_sublist⟩

section
variable (s : State) (n : Nat) (st : Status)

@[simp] theorem hit_pend : (hit s n st).pend = s.pend := by obtain ⟨_, _, _, _, _, _, h, -⟩ := hit_eq s n st; rw [h]
@[simp] theorem hit_xtsTurn : (hit s n st).xtsTurn = s.xtsTurn := by obtain ⟨_, _, _, _, _, _, h, -⟩ := hit_eq s n st; rw [h]

theorem hit_cw_none {k : Nat} (h : s.cw k = none) : (hit s n st).cw k = none := by
  obtain ⟨_, _, _, cs, _, _, he, hc⟩ := hit_eq s n st
  rw [he]
  exact getBy_none_of_sublist hc h

end

theorem unsend_slot (s : State) (n m : Nat) : ((unsend s n).slot m).map Slot.conds = (s.slot m).map Slot.conds := by
  obtain ⟨ps, hu | ⟨k, hu⟩⟩ := unsend_eq s n <;> rw [hu]
  · rfl
  · rw [State.slot_updSlot _ n m (fun y => { y with bytesOut := y.bytesOut - k }) fun _ => rfl, Option.map_map]
    refine congrArg (Option.map · (s.slot m)) (funext fun x => ?_)
    simp only [Function.comp]
    split <;> rfl

theorem stopOps_slot (s : State) (n m : Nat) : (stopOps s n).slot m = (s.updSlot n fun x => { x with todo := [] }).slot m := rfl

/-- A running command that has passed its checks takes the condition. -/
theorem met_hit {s : State} {n : Nat} {x : Slot} (st : Status) (h : s.slot n = some x) (hp : x.phase = .running) (hr : x.reject = none) :
    (hit s n st).met n st := by
  have hs : (stopOps (s.updSlot n (Slot.meets st)) n).slot n = some { x.meets st with todo := [] } := by
    rw [stopOps_slot]
    exact State.slot_updSlot_self (fun x => { x with todo := [] }) (fun _ => rfl) (State.slot_updSlot_self (Slot.meets st) (fun _ => rfl) h)
  have hc : ((hit s n st).slot n).map Slot.conds = some (x.meets st).conds := by
    rw [hit_of_open st h (by simp [hp, hr])]
    split
    · rw [unsend_slot, hs]; rfl
    · rw [hs]; rfl
  obtain ⟨y, hy, hyc⟩ := Option.map_eq_some_iff.1 hc
  exact ⟨y, hy, hyc ▸ x.mem_conds_meets st⟩

end Sys2Proof.Machine
end

section
/-!
SUPPORT. Requests of a port, and what output to the host changes (R44 to R48, R118).
-/

namespace Sys2Proof.Machine

/-! ## Requests of a port (R44 to R48) -/

/-- A request without its tag and times. -/
def Req.bare (r : Req) : Req := { r with tag := 0, sent := 0, tfab := 0 }

theorem State.asked_eq (s : State) (p : Nat) : s.asked p = ((s.port p).out ++ (s.port p).wait).map Req.bare := rfl

/-- Transferring requests keeps them in their order. -/
theorem transfer_asked (now tfab : Nat) (l : List Req) (x : Port) :
    ((transfer now tfab l x).out ++ (transfer now tfab l x).wait).map Req.bare = (x.out ++ l).map Req.bare := by
  induction l generalizing x with
  | nil => rfl
  | cons r l ih =>
    simp only [transfer]
    split
    · split
      · rw [ih]
        simp [Req.bare]
      · rfl
    · rfl

/-- What pumping a port changes: the port, and the count of poisoned beats that left. -/
theorem pump_cases (s : State) (p : Nat) (x : Port) :
    pump s p x = s.setPort p (pumpPort s.aclk (fld (s.reg (A.movTfab p)) 0 20) x) ∨
    ∃ k, pump s p x = (s.setPort p (pumpPort s.aclk (fld (s.reg (A.movTfab p)) 0 20) x)).bump A.movPsnCnt k := by
  unfold pump
  simp only
  split
  · exact .inl rfl
  · exact .inr ⟨_, rfl⟩

theorem asked_pump (s : State) {p : Nat} (x : Port) (hp : p < 4) : (pump s p x).asked p = (x.out ++ x.wait).map Req.bare := by
  have h : (s.setPort p (pumpPort s.aclk (fld (s.reg (A.movTfab p)) 0 20) x)).asked p = (x.out ++ x.wait).map Req.bare := by
    rw [State.asked_eq, State.port_setPort_self _ _ hp]
    exact transfer_asked _ _ _ _
  obtain h' | ⟨k, h'⟩ := pump_cases s p x <;> rw [h']
  · exact h
  · exact h

/-- A request that is issued comes after those asked before. -/
theorem asked_issue {s : State} {p : Nat} (r : Req) (hp : p < 4) (hs : s.stopped = false) :
    (issue s p r).asked p = s.asked p ++ [r.bare] := by
  unfold issue
  rw [hs]
  refine (asked_pump s _ hp).trans ?_
  simp [State.asked_eq]

/-! ## What output to the host changes -/

/-- A command as output leaves it: what is queued, the bytes written and the place of the last write may differ. -/
def Slot.outputOf (x y : Slot) : Prop :=
  ∃ q b l p d, y = { x with outq := q, bytesOut := b, lastLine := l, lastPort := p, psnDel := d }

theorem Slot.outputOf.refl (x : Slot) : x.outputOf x := ⟨_, _, _, _, _, rfl⟩
theorem Slot.outputOf.trans {x y z : Slot} (h : x.outputOf y) (k : y.outputOf z) : x.outputOf z := by
  obtain ⟨_, _, _, _, _, rfl⟩ := h
  obtain ⟨_, _, _, _, _, rfl⟩ := k
  exact ⟨_, _, _, _, _, rfl⟩

/-- Output of command `n` leads from `s` to `t`: the ports, the command and the count of poisoned beats are all that changes. -/
def Outputs (n : Nat) (s t : State) : Prop :=
  (∃ rs ps sl, t = { s with regs := rs, ports := ps, slots := sl }) ∧ (∀ a, a ≠ A.movPsnCnt → t.reg a = s.reg a) ∧
  ∀ x, s.slot n = some x → ∃ y, t.slot n = some y ∧ x.outputOf y

theorem Outputs.refl (n : Nat) (s : State) : Outputs n s s := ⟨⟨_, _, _, rfl⟩, fun _ _ => rfl, fun x h => ⟨x, h, .refl x⟩⟩

theorem Outputs.trans {n : Nat} {s t u : State} (h : Outputs n s t) (k : Outputs n t u) : Outputs n s u := by
  obtain ⟨⟨_, _, _, rfl⟩, hr, hs⟩ := h
  obtain ⟨⟨_, _, _, rfl⟩, kr, ks⟩ := k
  refine ⟨⟨_, _, _, rfl⟩, fun a ha => (kr a ha).trans (hr a ha), fun x hx => ?_⟩
  obtain ⟨y, hy, hxy⟩ := hs x hx
  obtain ⟨z, hz, hyz⟩ := ks y hy
  exact ⟨z, hz, hxy.trans hyz⟩

theorem Outputs.each {α : Type} {n : Nat} (f : State → α → State) (h : ∀ s x, Outputs n s (f s x)) (l : List α) (s : State) :
    Outputs n s (s.each l f) := by
  induction l generalizing s with
  | nil => exact .refl n s
  | cons x l ih => exact (h s x).trans (ih _)

/-- An update of the command that only concerns output is output. -/
theorem Outputs.updSlot (n : Nat) (s : State) (f : Slot → Slot) (hid : ∀ x, (f x).id = x.id) (h : ∀ x : Slot, x.outputOf (f x)) :
    Outputs n s (s.updSlot n f) :=
  ⟨⟨_, _, _, rfl⟩, fun _ _ => rfl, fun x hx => ⟨f x, State.slot_updSlot_self f hid hx, h x⟩⟩

theorem Outputs.issue (n : Nat) (s : State) (p : Nat) (r : Req) : Outputs n s (issue s p r) := by
  unfold Machine.issue
  split
  · exact .refl n s
  · obtain h | ⟨k, h⟩ := pump_cases s p { s.port p with wait := (s.port p).wait ++ [r] }
    · simp only [h]
      exact ⟨⟨_, _, _, rfl⟩, fun _ _ => rfl, fun x hx => ⟨x, hx, .refl x⟩⟩
    · simp only [h]
      exact ⟨⟨_, _, _, rfl⟩, fun a ha => State.reg_bump_ne _ _ ha, fun x hx => ⟨x, hx, .refl x⟩⟩

theorem Outputs.writeSpan (n : Nat) (s : State) (p a : Nat) (l : List Byte) (dur psn : Bool) (why : Purpose) :
    Outputs n s (writeSpan s p a l dur psn why) := .each _ (fun _ _ => .issue ..) _ s

theorem Outputs.writePiece (n : Nat) (s : State) (a : Nat) (l : List Byte) (psn : Bool) (why : Purpose) (count : Bool) :
    Outputs n s (writePiece s n a l psn why count) := by
  unfold Machine.writePiece
  split
  · exact .refl n s
  · exact (Outputs.writeSpan ..).trans (.updSlot n _ _ (fun _ => rfl) fun _ => ⟨_, _, _, _, _, rfl⟩)

/-- The command with one more piece of output queued. -/
def Slot.queued (off : Nat) (l : List Byte) (psn : Bool) (x : Slot) : Slot := { x with outq := x.outq ++ [(off, l, psn)] }

/-- The command with only the output that ends past `k` still queued. -/
def Slot.keptPast (k : Nat) (x : Slot) : Slot := { x with outq := x.outq.filter fun z => !decide (z.1 + z.2.1.length ≤ k) }

theorem Outputs.flushOut (n : Nat) (s : State) : Outputs n s (flushOut s n) := by
  unfold Machine.flushOut
  split
  · exact .refl n s
  next x _ =>
    exact (Outputs.updSlot n s (Slot.keptPast x.known) (fun _ => rfl) fun _ => ⟨_, _, _, _, _, rfl⟩).trans
      (.each _ (fun _ _ => .each _ (fun _ _ => .writePiece ..) _ _) _ _)

theorem Outputs.deliver (n : Nat) (s : State) (off : Nat) (l : List Byte) (psn : Bool) : Outputs n s (deliver s n off l psn) := by
  unfold Machine.deliver
  split
  · exact .refl n s
  · split
    · exact .refl n s
    · exact (Outputs.updSlot n s (Slot.queued off l psn) (fun _ => rfl) fun _ => ⟨_, _, _, _, _, rfl⟩).trans (.flushOut n _)

theorem Outputs.deliverBad (n : Nat) (s : State) (off b : Nat) (l : List Byte) : Outputs n s (deliverBad s n off b l) :=
  ((Outputs.deliver ..).trans (.deliver ..)).trans (.deliver ..)

theorem Outputs.deliverMeta (n : Nat) (s : State) (i : Nat) (l : List Byte) : Outputs n s (deliverMeta s n i l) := by
  unfold Machine.deliverMeta
  split
  · exact .refl n s
  · split
    · exact .refl n s
    · exact .writePiece ..

section
variable {n : Nat} {s t : State} (h : Outputs n s t)
include h

theorem Outputs.build : t.build = s.build := by obtain ⟨⟨_, _, _, rfl⟩, -⟩ := h; rfl
theorem Outputs.pend : t.pend = s.pend := by obtain ⟨⟨_, _, _, rfl⟩, -⟩ := h; rfl
theorem Outputs.cws : t.cws = s.cws := by obtain ⟨⟨_, _, _, rfl⟩, -⟩ := h; rfl
theorem Outputs.stopped : t.stopped = s.stopped := by obtain ⟨⟨_, _, _, rfl⟩, -⟩ := h; rfl
theorem Outputs.portOf (x : Slot) : t.portOf x = s.portOf x := by obtain ⟨⟨_, _, _, rfl⟩, -⟩ := h; rfl

end

/-! ## Output at a single known span -/

/-- The requests of a span are asked for in the order of its pieces. -/
theorem asked_writeSpan {s : State} {p : Nat} (a : Nat) (l : List Byte) (dur psn : Bool) (why : Purpose) (hp : p < 4) (hs : s.stopped = false) :
    (writeSpan s p a l dur psn why).asked p =
      s.asked p ++ (pieces a l.length).map fun x => mkWrite x.1 ((l.drop (x.1 - a)).take x.2) dur psn why := by
  have h : ∀ (q : List (Nat × Nat)) (u : State), u.stopped = false →
      (u.each q fun st x => issue st p (mkWrite x.1 ((l.drop (x.1 - a)).take x.2) dur psn why)).asked p =
        u.asked p ++ q.map fun x => mkWrite x.1 ((l.drop (x.1 - a)).take x.2) dur psn why := fun q => by
    induction q with
    | nil => simp [State.each]
    | cons x q ih =>
      intro u hu
      have hi := (Outputs.issue 0 u p (mkWrite x.1 ((l.drop (x.1 - a)).take x.2) dur psn why)).stopped
      refine (ih _ (hi.trans hu)).trans ?_
      rw [asked_issue _ hp hu, List.map_cons, List.append_assoc]
      rfl
  exact h _ s hs

/-- The command as a piece of its output has left. -/
def Slot.wrote (x : Slot) (p a : Nat) (l : List Byte) (psn count : Bool) : Slot :=
  { x with bytesOut := if count then x.bytesOut + l.length else x.bytesOut, lastLine := some ((a + l.length - 1) / 64 * 64, psn),
           lastPort := p, psnDel := x.psnDel || psn }

theorem writePiece_eq {s : State} {n : Nat} {x : Slot} (a : Nat) (l : List Byte) (psn : Bool) (why : Purpose) (count : Bool)
    (h : s.slot n = some x) : writePiece s n a l psn why count =
      (writeSpan s (s.portOf x) a l x.entry.durable psn why).updSlot n fun y => y.wrote (s.portOf x) a l psn count := by
  simp only [writePiece, h]
  rfl

/-- Output that lies in the one span of a command leaves at once. -/
theorem deliver_one_span {s : State} {n : Nat} {x : Slot} {a len off : Nat} {l : List Byte} (psn : Bool) (h : s.slot n = some x)
    (hw : s.mayWrite x = true) (hq : x.outq = []) (hs : x.spans = [(a, len)]) (hl : l ≠ []) (hlen : off + l.length ≤ len) :
    ∃ u, Outputs n s u ∧ u.slot n = some x ∧ u.ports = s.ports ∧ deliver s n off l psn = writePiece u n (a + off) l psn (.dataWrite n) true := by
  have hknown : (x.queued off l psn).known = len := by simp [Slot.queued, Slot.known, hs]
  have hoq : (x.queued off l psn).outq = [(off, l, psn)] := by simp [Slot.queued, hq]
  have h1 : (s.updSlot n (Slot.queued off l psn)).slot n = some (x.queued off l psn) := State.slot_updSlot_self _ (fun _ => rfl) h
  have h2 : ((s.updSlot n (Slot.queued off l psn)).updSlot n (Slot.keptPast len)).slot n = some x := by
    rw [State.slot_updSlot_self (Slot.keptPast len) (fun _ => rfl) h1]
    refine congrArg some ?_
    rw [Slot.keptPast, hoq]
    cases x
    simp_all [Slot.queued]
  have hpos : 0 < l.length := List.length_pos_iff.2 hl
  have hpieces : spanPieces x.spans 0 off l.length = [(a + off, off, l.length)] := by
    rw [hs]
    simp only [spanPieces, Nat.zero_add, Nat.zero_max, Nat.min_eq_right hlen, List.append_nil, Nat.sub_zero]
    rw [if_pos (by omega), Nat.add_sub_cancel_left]
  refine ⟨(s.updSlot n (Slot.queued off l psn)).updSlot n (Slot.keptPast len), ?_, h2, rfl, ?_⟩
  · exact (Outputs.updSlot n s (Slot.queued off l psn) (fun _ => rfl) fun _ => ⟨_, _, _, _, _, rfl⟩).trans
      (.updSlot n _ (Slot.keptPast len) (fun _ => rfl) fun _ => ⟨_, _, _, _, _, rfl⟩)
  · have hd : deliver s n off l psn = flushOut (s.updSlot n (Slot.queued off l psn)) n := by
      simp only [deliver, h, hw]
      rw [if_neg (by simpa using hl)]
      rfl
    have hf : flushOut (s.updSlot n (Slot.queued off l psn)) n =
        ((s.updSlot n (Slot.queued off l psn)).updSlot n (Slot.keptPast len)).each [(off, l, psn)]
          fun st y => st.each (spanPieces x.spans 0 y.1 y.2.1.length) fun st2 p =>
            writePiece st2 n p.1 ((y.2.1.drop (p.2.1 - y.1)).take p.2.2) y.2.2 (.dataWrite n) true := by
      simp only [flushOut, h1]
      rw [hknown, hoq, List.filter_cons_of_pos (by simpa using hlen)]
      rfl
    rw [hd, hf]
    simp only [State.each, List.foldl_cons, List.foldl_nil, hpieces, Nat.sub_self, List.drop_zero, List.take_length]

end Sys2Proof.Machine
end

section
/-!
SUPPORT. The XTS engines and the staging notices (R23, R263, R369, R371).
-/

namespace Sys2Proof.Machine

section
variable {s : State} {n : Nat} {c : Cw} {x : Slot}

theorem State.cwSlot_cmd (hc : c.owner = .cmd n) (h : s.slot n = some x) : s.cwSlot c = some x := by
  simp only [State.cwSlot, hc, h]

/-! ## XTS engines (R23) -/

/-- The channel, or the mover as 32, that the next free engine serves. -/
def State.xtsNext (s : State) : Option Nat :=
  match s.xtsWaiting.find? fun y => decide (s.xtsTurn < y) with
  | some y => some y
  | none => s.xtsWaiting.head?

/-- An engine serves channel `t`, or the mover. -/
def State.serveXts (s : State) (t : Nat) : State :=
  let s1 := { s with xtsTurn := t }
  if t = 32 then
    match s.slots.find? fun x => !(s.encWaits x).isEmpty with
    | some x => (match s.encWaits x with | i :: _ => encryptItem s1 x i | [] => s1)
    | none => s1
  else match s.cws.find? fun (c : Cw) => c.stage == .xtsWait && c.ch == t with
    | some c => decrypt s1 c
    | none => s1

theorem xtsGrant_eq (s : State) : xtsGrant s = match s.xtsNext with | none => s | some t => s.serveXts t := rfl

theorem xtsGrant_of_none (h : s.xtsWaiting = []) : xtsGrant s = s := by
  have hn : s.xtsNext = none := by simp [State.xtsNext, h]
  rw [xtsGrant_eq, hn]

theorem xtsGrant_of_channel (h : s.xtsNext = some c.ch) (hch : c.ch < 32)
    (hc : s.cws.find? (fun d => d.stage == .xtsWait && d.ch == c.ch) = some c) :
    xtsGrant s = decrypt { s with xtsTurn := c.ch } c := by
  have hne : c.ch ≠ 32 := by omega
  rw [xtsGrant_eq, h]
  simp only [State.serveXts, hne, if_false, hc]

theorem decrypt_xtsTurn (s : State) (c : Cw) : (decrypt s c).xtsTurn = s.xtsTurn := by
  unfold decrypt
  split
  · rfl
  · simp only
    split
    · simp
    · split
      · simp
      · rfl

/-- A codeword whose key slot holds a key enters the staging queue decrypted. -/
theorem decrypt_of_key {key : List Byte} (hc : s.cwSlot c = some x) (hb : s.keyBad x.entry.kslot = false)
    (hk : assoc s.keys x.entry.kslot = some key) :
    decrypt s c = stage s c (xtsDec key (x.entry.tweak c.idx c.paddr) (c.data.take 4096) ++ c.data.drop 4096) := by
  simp [decrypt, hc, hb, hk]

theorem decrypt_of_no_key (hc : s.cwSlot c = some x) (hb : s.keyBad x.entry.kslot = false)
    (hk : assoc s.keys x.entry.kslot = none) : decrypt s c = hit (s.delCw c.id) x.id St.keySlotEmpty := by
  simp [decrypt, hc, hb, hk]

theorem stage_cw (s : State) (c : Cw) (data : List Byte) :
    (stage s c data).cw c.id = some { c with stage := .decoded, data := data, passed := s.cwNo } :=
  s.cw_setCw_self { c with stage := .decoded, data := data, passed := s.cwNo }

theorem exec_xtsGrant (h : s.held = false) : exec .xtsGrant s = .next (after s (xtsGrant s)) := by
  unfold exec
  exact run_of_ok _ rfl h

/-! ## Staging notices (R371) -/

/-- A codeword has left its staging queue, and the queue's counter counts it. -/
def State.unstaged (s : State) (c : Cw) : State := (s.delCw c.id).bumpWrap (A.movSqCwCnt c.ch)

@[simp] theorem State.unstaged_cw (s : State) (c : Cw) : (s.unstaged c).cw c.id = none := s.cw_delCw_self c.id
@[simp] theorem State.unstaged_slot (s : State) (c : Cw) (m : Nat) : (s.unstaged c).slot m = s.slot m := rfl

theorem State.unstaged_regN (s : State) (c : Cw) : (s.unstaged c).regN (A.movSqCwCnt c.ch) = (s.regN (A.movSqCwCnt c.ch) + 1) % 2 ^ 32 :=
  (s.delCw c.id).regN_setRegN_self _ _

/-- The boundaries of a queue and of the mover, for which no write waits, leave the codeword's consumer as it is. -/
theorem exec_stagingNotice {k : Nat} (h : s.held = false) (hk : s.cw k = some c) (hd : c.stage = .decoded) (hp : (notice s c).pend = s.pend)
    (hq : NoneWaits s (stQueue c.ch)) (hm : NoneWaits s stMover) :
    exec (.stagingNotice k) s = .next (after s (notice s c)) := by
  have hn : passCw (passCw (notice s c) (stQueue c.ch)) stMover = notice s c := by
    rw [passCw_of_noneWaits (k := stQueue c.ch) (by rwa [NoneWaits, hp]), passCw_of_noneWaits (by rwa [NoneWaits, hp])]
  unfold exec
  refine (run_of_ok _ rfl h).trans ?_
  simp only [hk, hd, beq_self_eq_true, if_true, hn]

theorem notice_of_mute (hc : c.owner = .cmd n) (h : s.slot n = some x) (hm : x.mute = true) : notice s c = s.delCw c.id := by
  simp [notice, hc, h, hm]

theorem notice_of_read (hc : c.owner = .cmd n) (h : s.slot n = some x) (hm : x.mute = false) (hr : x.entry.opc = Opc.read) :
    notice s c = mediaOut (s.unstaged c) n x c := by
  simp [notice, hc, h, hm, hr, Opc.read, Opc.scan, Opc.copy, Opc.logRead, State.unstaged]

theorem notice_of_scan (hc : c.owner = .cmd n) (h : s.slot n = some x) (hm : x.mute = false) (hr : x.entry.opc = Opc.scan) (hb : c.bad = none) :
    notice s c = match takeSegment s n c.idx (pDie c.paddr) (c.data.take 4096) with | some t => t.unstaged c | none => s := by
  simp only [notice, hc, h, hm, hr, hb]
  rfl

/-- Only a GATHER that packs its elements puts an item elsewhere than at its number. -/
theorem destOff_of_read (hr : x.entry.opc = Opc.read) (i : Nat) : destOff x i = 4096 * i := by
  simp [destOff, hr, Opc.read, Opc.gather]

/-- Stored poison ends the command after what the codeword holds was delivered. -/
theorem mediaOut_of_bad {b : Nat} (hb : c.bad = some b) :
    ∃ u, Outputs n s u ∧ mediaOut s n x c = hit u n St.internalPoison := by
  refine ⟨deliverMeta (deliverBad s n (destOff x c.idx) b (c.data.take 4096)) n c.idx ((c.data.drop 4096).take 16),
    (Outputs.deliverBad ..).trans (.deliverMeta ..), ?_⟩
  simp only [mediaOut, hb]

/-- Metadata go nowhere for a command without them. -/
theorem deliverMeta_of_none (h : s.slot n = some x) (hm : x.entry.hasMeta = false) (i : Nat) (l : List Byte) : deliverMeta s n i l = s := by
  simp [deliverMeta, h, hm]

/-- The data of a good codeword of a READ that has one known span leave at once to their place in it. -/
theorem mediaOut_one_span {len : Nat} (h : s.slot n = some x) (hr : x.entry.opc = Opc.read) (hw : s.mayWrite x = true)
    (hm : x.entry.hasMeta = false) (hb : c.bad = none) (hq : x.outq = []) (hs : x.spans = [(x.entry.haddr, len)])
    (hlen : 4096 * (c.idx + 1) ≤ len) (hd : 4096 ≤ c.data.length) :
    ∃ u, Outputs n s u ∧ u.slot n = some x ∧ u.ports = s.ports ∧
      mediaOut s n x c = writePiece u n (x.entry.haddr + 4096 * c.idx) (c.data.take 4096) false (.dataWrite n) true := by
  have hl : (c.data.take 4096).length = 4096 := by simpa using hd
  obtain ⟨u, hu, hx, hp, hdel⟩ := deliver_one_span (off := 4096 * c.idx) (l := c.data.take 4096) false h hw hq hs
    (List.length_pos_iff.1 (by omega)) (by omega)
  refine ⟨u, hu, hx, hp, ?_⟩
  obtain ⟨y, hy, ⟨_, _, _, _, _, rfl⟩⟩ := (Outputs.writePiece n u (x.entry.haddr + 4096 * c.idx) (c.data.take 4096) false (.dataWrite n) true).2.2 x hx
  simp only [mediaOut, hb, destOff_of_read hr, hdel]
  exact deliverMeta_of_none hy hm _ _

end

theorem issue_slots (s : State) (p : Nat) (r : Req) : (issue s p r).slots = s.slots := by
  unfold issue
  split
  · rfl
  · obtain h | ⟨k, h⟩ := pump_cases s p { s.port p with wait := (s.port p).wait ++ [r] } <;> simp [h]

theorem writeSpan_slot (s : State) (p a : Nat) (l : List Byte) (dur psn : Bool) (why : Purpose) (m : Nat) :
    (writeSpan s p a l dur psn why).slot m = s.slot m := by
  unfold writeSpan
  generalize pieces a l.length = q
  induction q generalizing s with
  | nil => rfl
  | cons y q ih => exact (ih _).trans (congrArg (getBy Slot.id m) (issue_slots ..))

theorem takeSegment_of_no_unit {s : State} {n i : Nat} {x : Slot} (h : s.slot n = some x) (ho : x.rgOut (x.rgOfCw i).1 = false)
    (hu : s.rgUnit n (x.rgOfCw i).1 = none) (d : Nat) (l : List Byte) : takeSegment s n i d l = none := by
  simp [takeSegment, h, ho, hu]

theorem takeSegment_of_sound {s : State} {n i : Nat} {x : Slot} {u : CombUnit} (h : s.slot n = some x) (ho : x.rgOut (x.rgOfCw i).1 = false)
    (hu : s.rgUnit n (x.rgOfCw i).1 = some u) (d : Nat) {l : List Byte}
    (hr : Seg.reason (leNat l) (x.group (x.rgOfCw i).1) (x.rgOfCw i).2 = 0) :
    takeSegment s n i d l = some (s.setUnit { u with segs := u.segs ++ [((x.rgOfCw i).2, l)] }) := by
  simp [takeSegment, h, ho, hu, hr]

section
variable {s : State} {n k : Nat} {c : Cw} {x : Slot} (hh : s.held = false) (hc : c.owner = .cmd n) (h : s.slot n = some x)
include hh hc h

/-- The grant of an engine to a channel (R23, R263). -/
theorem xtsGrant_decrypts (hch : c.ch < 32) (hn : s.xtsNext = some c.ch)
    (hf : s.cws.find? (fun d => d.stage == .xtsWait && d.ch == c.ch) = some c) : ∃ t, exec .xtsGrant s = .next t ∧ t.xtsTurn = c.ch ∧
      (∀ key, s.keyBad x.entry.kslot = false → assoc s.keys x.entry.kslot = some key → ∃ d, t.cw c.id = some d ∧ d.stage = .decoded ∧
        d.data = xtsDec key (x.entry.tweak c.idx c.paddr) (c.data.take 4096) ++ c.data.drop 4096) ∧
      (s.keyBad x.entry.kslot = false → assoc s.keys x.entry.kslot = none → x.phase = .running → x.reject = none →
        t.cw c.id = none ∧ t.met n St.keySlotEmpty) := by
  have hs : ({ s with xtsTurn := c.ch } : State).cwSlot c = some x := State.cwSlot_cmd hc h
  have hid : x.id = n := getBy_key h
  refine ⟨_, exec_xtsGrant hh, ?_, fun key hb hk => ?_, fun hb hk hp hr => ?_⟩ <;> rw [xtsGrant_of_channel hn hch hf]
  · rw [after_xtsTurn, decrypt_xtsTurn]
  · rw [decrypt_of_key hs hb hk, after_cw]
    exact ⟨_, stage_cw _ _ _, rfl, rfl⟩
  · rw [decrypt_of_no_key hs hb hk, after_cw, after_met, hid]
    exact ⟨hit_cw_none _ _ _ (State.cw_delCw_self _ _), met_hit _ h hp hr⟩

variable (hk : s.cw k = some c) (hd : c.stage = .decoded) (hch : c.ch < 32) (hq : NoneWaits s (stQueue c.ch)) (hm : NoneWaits s stMover)
include hk hd hq hm

/-- A codeword of a command that writes nothing more is dropped. -/
theorem stagingNotice_of_mute (hx : x.mute = true) : ∃ t, exec (.stagingNotice k) s = .next t ∧ t.cw k = none ∧ t.ports = s.ports ∧ t.slots = s.slots := by
  have hid : c.id = k := getBy_key hk
  have hn := notice_of_mute hc h hx
  refine ⟨_, exec_stagingNotice hh hk hd (by rw [hn]; rfl) hq hm, ?_⟩
  rw [hn, after_cw, after_ports, after_slots, hid]
  exact ⟨State.cw_delCw_self _ _, rfl, rfl⟩

/-- Stored poison of a READ's codeword ends the command (R369). -/
theorem stagingNotice_of_bad (hr : x.entry.opc = Opc.read) (hx : x.mute = false) (hb : c.bad.isSome = true) (hp : x.phase = .running)
    (hj : x.reject = none) : ∃ t, exec (.stagingNotice k) s = .next t ∧ t.cw k = none ∧ t.met n St.internalPoison := by
  have hid : c.id = k := getBy_key hk
  obtain ⟨b, hb⟩ := Option.isSome_iff_exists.1 hb
  obtain ⟨u, hu, hout⟩ := mediaOut_of_bad (s := s.unstaged c) (n := n) (x := x) hb
  have hn : notice s c = hit u n St.internalPoison := (notice_of_read hc h hx hr).trans hout
  obtain ⟨y, hy, ⟨_, _, _, _, _, rfl⟩⟩ := hu.2.2 x h
  refine ⟨_, exec_stagingNotice hh hk hd (by rw [hn, hit_pend]; exact hu.pend) hq hm, ?_⟩
  rw [hn, after_cw, after_met]
  refine ⟨hit_cw_none _ _ _ ?_, met_hit _ hy hp hj⟩
  rw [State.cw, hu.cws, ← hid]
  exact s.unstaged_cw c

include hch in
/-- A codeword of a READ is written to its place in the one span that it needs (R118, R371). -/
theorem stagingNotice_of_read {len : Nat} (hr : x.entry.opc = Opc.read) (hx : x.mute = false) (hw : x.noWrite = false) (hs : s.stopped = false)
    (hmeta : x.entry.hasMeta = false) (hb : c.bad = none) (ho : x.outq = []) (hsp : x.spans = [(x.entry.haddr, len)])
    (hlen : 4096 * (c.idx + 1) ≤ len) (hdat : 4096 ≤ c.data.length) (hport : s.portOf x < 4) :
    ∃ t z, exec (.stagingNotice k) s = .next t ∧ t.cw k = none ∧ t.regN (A.movSqCwCnt c.ch) = (s.regN (A.movSqCwCnt c.ch) + 1) % 2 ^ 32 ∧
      t.slot n = some z ∧ z.bytesOut = x.bytesOut + 4096 ∧
      t.asked (s.portOf x) = s.asked (s.portOf x) ++ (pieces (x.entry.haddr + 4096 * c.idx) 4096).map fun y =>
        mkWrite y.1 (((c.data.take 4096).drop (y.1 - (x.entry.haddr + 4096 * c.idx))).take y.2) x.entry.durable false (.dataWrite n) := by
  have hid : c.id = k := getBy_key hk
  have hl : (c.data.take 4096).length = 4096 := by simpa using hdat
  have hmay : (s.unstaged c).mayWrite x = true := by
    change (!x.mute && !x.noWrite && !s.stopped) = true
    simp [hx, hw, hs]
  obtain ⟨u, hu, hux, hup, hout⟩ := mediaOut_one_span (s := s.unstaged c) h hr hmay hmeta hb ho hsp hlen hdat
  have hn := (notice_of_read hc h hx hr).trans hout
  have hpiece := Outputs.writePiece n u (x.entry.haddr + 4096 * c.idx) (c.data.take 4096) false (.dataWrite n) true
  have hall := hu.trans hpiece
  have hpo : u.portOf x = s.portOf x := hu.portOf x
  have hregs : A.movSqCwCnt c.ch = 0x061008 + 32 * c.ch := rfl
  have hw' := writePiece_eq (x.entry.haddr + 4096 * c.idx) (c.data.take 4096) false (.dataWrite n) true hux
  rw [hpo] at hw'
  rw [hw'] at hn
  refine ⟨_, x.wrote (s.portOf x) (x.entry.haddr + 4096 * c.idx) (c.data.take 4096) false true,
    exec_stagingNotice hh hk hd (by rw [hn, ← hw']; exact hall.pend) hq hm, ?_, ?_, ?_, ?_, ?_⟩
  · rw [hn, ← hw', after_cw, State.cw, hall.cws, ← hid]
    exact s.unstaged_cw c
  · rw [hn, ← hw', State.regN, after_reg (by exact hall.build) (fun e => absurd e (by rw [hregs, A.glbPwrCtl]; omega)) (by rw [hregs, A.hqArDropCnt]; omega)
      (.inr (by omega)), hall.2.1 _ (by rw [hregs, A.movPsnCnt]; omega)]
    exact s.unstaged_regN c
  · rw [hn, after_slot]
    exact State.slot_updSlot_self (fun y => y.wrote (s.portOf x) (x.entry.haddr + 4096 * c.idx) (c.data.take 4096) false true) (fun _ => rfl) ((writeSpan_slot ..).trans hux)
  · simp [Slot.wrote, hl]
  · rw [hn, after_asked]
    refine (asked_writeSpan _ _ _ _ _ hport (hu.stopped.trans hs)).trans ?_
    rw [hl, State.asked, State.port, hup]
    rfl

/-- A segment of a SCAN whose row group has no unit stays (R344). -/
theorem stagingNotice_of_no_unit (hr : x.entry.opc = Opc.scan) (hx : x.mute = false) (hb : c.bad = none) (ho : x.rgOut (x.rgOfCw c.idx).1 = false)
    (hu : s.rgUnit n (x.rgOfCw c.idx).1 = none) : ∃ t, exec (.stagingNotice k) s = .next t ∧ Around s t := by
  have hn : notice s c = s := by rw [notice_of_scan hc h hx hr hb, takeSegment_of_no_unit h ho hu]
  exact ⟨_, exec_stagingNotice hh hk hd (by rw [hn]) hq hm, by rw [hn]; exact around_after rfl rfl⟩

/-- A sound segment of a SCAN enters the window of the unit that holds its row group (R325, R344). -/
theorem stagingNotice_of_unit {u : CombUnit} (hr : x.entry.opc = Opc.scan) (hx : x.mute = false) (hb : c.bad = none)
    (ho : x.rgOut (x.rgOfCw c.idx).1 = false) (hu : s.rgUnit n (x.rgOfCw c.idx).1 = some u)
    (hs : Seg.reason (leNat (c.data.take 4096)) (x.group (x.rgOfCw c.idx).1) (x.rgOfCw c.idx).2 = 0) :
    ∃ t, exec (.stagingNotice k) s = .next t ∧ t.cw k = none ∧
      t.unit u.u = { u with segs := u.segs ++ [((x.rgOfCw c.idx).2, c.data.take 4096)] } := by
  have hid : c.id = k := getBy_key hk
  have hn : notice s c = (s.setUnit { u with segs := u.segs ++ [((x.rgOfCw c.idx).2, c.data.take 4096)] }).unstaged c := by
    rw [notice_of_scan hc h hx hr hb, takeSegment_of_sound h ho hu _ hs]
  refine ⟨_, exec_stagingNotice hh hk hd (by rw [hn]; rfl) hq hm, ?_⟩
  rw [hn, after_cw, after_unit, ← hid]
  exact ⟨State.unstaged_cw _ _, s.unit_setUnit_self { u with segs := u.segs ++ [((x.rgOfCw c.idx).2, c.data.take 4096)] }⟩

end

end Sys2Proof.Machine
end

section
/-!
SUPPORT. How staged codewords are decrypted and delivered (R23, R344, R371).
-/

namespace Sys2Proof.Machine

/-- Settles O52: an engine decrypts the codeword of the channel in turn, and a staged codeword goes to its command's consumer, as no
write waits for the boundaries it passes. -/
theorem stagedCodewordsAreDecryptedAndDelivered : Obligations.StagedCodewordsAreDecryptedAndDelivered := by
  unfold Obligations.StagedCodewordsAreDecryptedAndDelivered
  intro s n c x hh hc h
  refine ⟨fun hw => ?_, fun hch hn hf => xtsGrant_decrypts hh hc h hch hn hf, fun k hk hd hch hq hm => ⟨?_, ?_, ?_, ?_⟩⟩
  · exact ⟨_, exec_xtsGrant hh, by rw [xtsGrant_of_none hw]; exact around_after rfl rfl⟩
  · exact stagingNotice_of_mute hh hc h hk hd hq hm
  · intro len hr hx hw hs hmeta hb ho hsp hlen hdat hport
    exact stagingNotice_of_read hh hc h hk hd hch hq hm hr hx hw hs hmeta hb ho hsp hlen hdat hport
  · exact stagingNotice_of_bad hh hc h hk hd hq hm
  · exact fun hr hx hb ho => ⟨stagingNotice_of_no_unit hh hc h hk hd hq hm hr hx hb ho,
      fun u hu => stagingNotice_of_unit hh hc h hk hd hq hm hr hx hb ho hu⟩

end Sys2Proof.Machine
end

section
/-!
SUPPORT. The end of a soft decode, and a write that waits for the boundary which follows it (R21, R29, R281).
-/

namespace Sys2Proof.Machine

/-- A codeword that waits for its hard decode keeps its page from the next step of recovery (R278). -/
theorem recoverPage_of_raw {s : State} {c : Cw} (h : c ∈ s.cws) (hr : c.stage = .raw) : recoverPage s c.owner (pageOf c.paddr) = s := by
  have hany : ((s.pageCws c.owner (pageOf c.paddr)).any fun c => c.stage == .raw || c.stage == .softWait || c.stage == .softRun) = true :=
    List.any_eq_true.2 ⟨c, by simpa [State.pageCws] using h, by simp [hr]⟩
  unfold recoverPage
  simp only [hany, Bool.true_or, if_true]

/-- A soft decode that found nothing leaves the codeword failed. -/
theorem softDone_of_none (s : State) (c : Cw) :
    softDone s c none = recoverPage ((s.bump A.rlvSoftCnt).setCw { c with stage := .failed }) c.owner (pageOf c.paddr) := by
  unfold softDone
  cases c.bad.isSome <;> rfl

theorem exec_softDecodeDone {s : State} {k : Nat} {c : Cw} (found : Option (List Byte)) (h : s.held = false) (hk : s.cw k = some c)
    (hc : c.stage = .softRun) : exec (.softDecodeDone k found) s = .next (after s (passCw (softDone s c found) stSoft)) := by
  unfold exec
  refine (run_of_ok _ rfl h).trans ?_
  simp only [hk, hc, beq_self_eq_true, if_true]

/-- A codeword of page 0 of the command in slot 0. -/
def pageCw (id : Nat) (st : CwStage) : Cw :=
  { id := id, owner := .cmd 0, ch := 0, paddr := 0, idx := id, cfg := { fmt := 0, reg := 0, salt := 0, laya := 0, layb := 0 }, stage := st, first := true, hard := [],
    raw := [], reads := [], data := [], be := 0, lad := none, passed := 0, bad := none }

/-- A READ in slot 0, all else of its entry 0. -/
def slot0Read : Slot :=
  newSlot 0 0 5 0 { parseEntry (zeros 64) with opc := Opc.read }
    { cls := List.replicate 8 0, bound := 0, susp := 0, age := 0, twr := 0, trb := 0, clks := 0, turns := 0 }

/-- A soft decode of slot 0's READ runs, another codeword of its page waits for its hard decode, and a write of the value 7 to RLV_SOFT_CNT
waits for the boundary of the soft decoders. -/
def softCntWaits : State :=
  { State.reset with
    pins := Pins.reset, slots := [slot0Read], cws := [pageCw 0 .softRun, pageCw 1 .raw],
    pend := [{ bnd := .codeword, addr := A.rlvSoftCnt, val := 7, left := [stSoft] }] }

theorem softDone_softCntWaits : softDone softCntWaits (pageCw 0 .softRun) none =
    (softCntWaits.bump A.rlvSoftCnt).setCw { pageCw 0 .softRun with stage := .failed } := by
  rw [softDone_of_none]
  exact recoverPage_of_raw (c := pageCw 1 .raw) (by simp [softCntWaits, State.setCw, putBy, pageCw]) rfl

/-- The one write that waits for a boundary alone is what its register holds after the command at whose end the boundary passes. -/
theorem reg_after_passBound {s u : State} {a k : Nat} {v : Word} (b : Boundary) (h : s.pend = [{ bnd := b, addr := a, val := v, left := [k] }])
    (hb : s.build = u.build) (h1 : a ≠ A.glbPwrCtl) (h2 : a ≠ A.hqArDropCnt) (h3 : a < 0x050000 ∨ 0x050600 ≤ a) :
    (after u (passBound s b k)).reg a = v := by
  obtain ⟨l, hl⟩ := passBound_eq s b k
  rw [released_one b h] at hl
  rw [hl, after_reg (by exact hb) (fun e => absurd e h1) h2 h3]
  exact State.reg_setReg_self { s with pend := [] } a v

/-- The write that waits takes effect after the decode was counted. -/
theorem rlvSoftCnt_after_softDecodeDone :
    (after softCntWaits (passCw (softDone softCntWaits (pageCw 0 .softRun) none) stSoft)).reg A.rlvSoftCnt = 7 := by
  rw [softDone_softCntWaits, passCw]
  exact reg_after_passBound .codeword rfl rfl (by decide) (by decide) (by decide)

/-- Refutes O51: the clause on the count of soft decodes has no premise on the writes that wait for the boundary of the soft decoders
(the others have `NoneWaits`), and a write of RLV_SOFT_CNT that waits there sets the count to its own value, 7, where the clause says 1. -/
theorem not_decodingDecidesCodewords : ¬ Obligations.DecodingDecidesCodewords := by
  unfold Obligations.DecodingDecidesCodewords
  intro h
  obtain ⟨-, -, -, hsoft⟩ := h softCntWaits 0 0 (pageCw 0 .softRun) slot0Read rfl rfl rfl rfl
  obtain ⟨t, ht, hcnt, -⟩ := hsoft rfl none
  rw [exec_softDecodeDone none rfl rfl rfl] at ht
  cases ht
  rw [State.regN, rlvSoftCnt_after_softDecodeDone] at hcnt
  revert hcnt
  decide

end Sys2Proof.Machine
end

section
/-!
SUPPORT. One instruction, the codewords that a data burst brings, and a flush at a codeword boundary (R219, R226, R263, R372).
-/

namespace Sys2Proof.Machine

/-! ## One instruction (R226) -/

theorem finish_cws {u : State} {ch w k : Nat} {x0 y : Ctx} (hs : Wd.sop w = 0) (hr : Wd.rop w = 0) (hy : y.cust = none)
    (hp : NoneWaits u ch) : (finish ch w k x0 u y).cws = u.cws := by
  have hrep : report (ceTime u ch k) w y = (ceTime u ch k, y) := by simp [report, hr]
  have hreach : ∀ a, (aluStep w x0 y).reaches a = true := fun a => by
    have hc : (aluStep w x0 y).cust = none := by
      unfold aluStep
      simp only
      split
      · exact hy
      · split
        · exact hy
        · unfold Ctx.put
          split <;> exact hy
    simp [Ctx.reaches, hc]
  have hq : seqOp (ceTime u ch k) ch x0 (aluStep w x0 y) w =
      (putCtx (ceTime u ch k) ch { aluStep w x0 y with pc := ((aluStep w x0 y).pc + 1) % 16384 }).updChan ch fun c => { c with lastHit := false } := by
    simp only [seqOp, hs, continueAt, hreach]
    rfl
  unfold finish
  simp only [hrep, hq]
  split
  · rw [passInstr_of_noneWaits (by exact hp)]
    rfl
  · rw [passInstr_of_noneWaits (by exact hp)]
    rfl

/-- A word that may execute does its bus operation; where that goes on, the rest of the instruction follows. -/
theorem seqStep_of_go {s t : State} {ch op : Nat} {x y : Ctx} {bus : State → Ctx → Nat → BusEnd} (h : Executing s ch x op)
    (hb : bus s (s.latched ch x) (s.wordAt ch x).toNat = .go t y) :
    seqStep s ch op bus = finish ch (s.wordAt ch x).toNat (s.instrK ch x (s.wordAt ch x).toNat) (s.latched ch x) t y := by
  obtain ⟨-, -, hrun, hctx, hfr, hpll, hce, hmay, hst, hbad, hres, hbop, hfetch, hcust⟩ := h
  have hpl : (x.cust.isSome && s.smoking) = false := by
    cases hx : x.cust.isSome
    · rfl
    · simp [(hcust hx).1]
  have hm : (x.cust.isNone && ((s.fetchAddr (ch / 8) x.pc).2 || Wd.reserved (s.wordAt ch x).toNat)) = false := by
    cases hx : x.cust.isNone
    · rfl
    · simp [hfetch hx, hres]
  have hf : (x.cust.isSome && (Wd.reserved (s.wordAt ch x).toNat || Wd.forbidden (s.wordAt ch x).toNat)) = false := by
    cases hx : x.cust.isSome
    · rfl
    · simp [(hcust hx).2.1, hres]
  have hq : (x.cust.isSome && Wd.badPost (s.wordAt ch x).toNat) = false := by
    cases hx : x.cust.isSome
    · rfl
    · simp [(hcust hx).2.2]
  have hrc : (s.chan ch).run.bind (s.chan ch).ctx = some x := by rw [hrun]; exact hctx
  rw [State.latched] at hb
  unfold seqStep
  simp only [hrc, hfr, hpll, hce, hst, hpl, hbad, hm, hf, hq, hbop, hmay, hb, bne_self_eq_false, Bool.not_true, Bool.or_false, Bool.false_eq_true, if_false]
  rfl

/-! ## Bursts from a die (R219, R263) -/

/-- A context after a whole burst that brought the bytes `l`. -/
def Ctx.received (x : Ctx) (l : List Byte) : Ctx := { x.moves l.length l.length with got := x.got ++ l, moved := x.moved + l.length }

/-- What leaves a transfer record leaves its routine as it is. -/
theorem takeItems_cust (f : Nat) (s : State) (x : Ctx) (n : Nat) : (takeItems f s x n).2.cust = x.cust := by
  induction f generalizing s x with
  | zero => rfl
  | succ f ih =>
    unfold takeItems
    split
    · rfl
    · split
      · rfl
      · split
        · rfl
        · exact ih ..

/-- A burst that no transfer ends early brings its bytes to the transfer record, from which whole codewords leave. -/
theorem busDin_of_read {s : State} {ch w : Nat} {x : Ctx} {o : Op} {data : List Byte} (ho : x.op.bind s.op = some o) (hc : x.cust = none)
    (hk : o.kind = .read) (hb : s.burstOk o = true) (hr : s.stageRoom ch o (Wd.len w) = true) (hn : data.length = Wd.len w) :
    ∃ y, busDin s ch x w data = .go (flushCheck (takeItems ((x.received data).got.length / 288 + 1)
      (s.updOp o.id fun y => { y with burst := false }) (x.received data) (s.fmtAt ch o.fmt).len).1 ch) y ∧ y.cust = none := by
  have hm : s.burstLen ch x x.moved (Wd.len w) data.length = Wd.len w := by simp [State.burstLen, hn]
  have hl : s.fitBytes (Wd.len w) data = data := by simp [State.fitBytes, ← hn]
  simp only [busDin, ho, hb, hr, hc, hk, hm, hl]
  simp only [← hn, Nat.sub_self]
  exact ⟨_, rfl, (takeItems_cust ..).trans hc⟩

section
variable {s : State} {x : Ctx} {o : Op} (f : Nat) {n : Nat}

theorem takeItems_of_nil (ho : x.op.bind s.op = some o) (hc : o.cws = []) : (takeItems (f + 1) s x n).1 = s := by
  simp [takeItems, ho, hc]

theorem takeItems_of_cons {i p : Nat} {l : List (Nat × Nat)} (ho : x.op.bind s.op = some o) (hc : o.cws = (i, p) :: l) (hn : n ≤ x.got.length) :
    takeItems (f + 1) s x n =
      takeItems f (arrive (s.updOp o.id fun z => { z with cws := l }) o i p (x.got.take n)) { x with got := x.got.drop n } n := by
  simp [takeItems, ho, hc, Nat.not_lt.2 hn]

end

/-- The first read of a codeword brings a new one, under the number that is next once the entry's boundary has passed. -/
theorem arrive_of_first {s : State} {o : Op} {i p : Nat} {raw : List Byte} (hf : ∀ c ∈ s.cws, c.stage ≠ .failed) (hs : o.step = .first)
    (hq : ((passCw s (pChan p)).chan (pChan p)).flushing = false) :
    ∃ c : Cw, c.id = (passCw s (pChan p)).cwNo ∧ c.owner = o.owner ∧ c.ch = pChan p ∧ c.stage = .raw ∧
      arrive s o i p raw = { (passCw s (pChan p)).setCw c with cwNo := (passCw s (pChan p)).cwNo + 1 } := by
  have hnone : (s.cws.find? fun c => c.owner == o.owner && c.idx == i && c.paddr == p && c.stage == .failed) = none :=
    List.find?_eq_none.2 fun c hc => by simp [hf c hc]
  simp only [arrive, hnone, hs, bne_self_eq_false, Bool.false_eq_true, if_false]
  rw [if_neg (by exact ne_true_of_eq_false hq)]
  exact ⟨_, rfl, rfl, rfl, rfl, rfl⟩

theorem flushCheck_cws (s : State) (ch : Nat) : (flushCheck s ch).cws = s.cws := by
  unfold flushCheck
  split <;> rfl

theorem flushCheck_pend (s : State) (ch : Nat) : (flushCheck s ch).pend = s.pend := by
  unfold flushCheck
  split <;> rfl

theorem exec_busDin {s : State} {ch : Nat} (data : List Byte) (hc : ch < 32) (h : s.held = false) :
    exec (.busDin ch data) s = .next (after s (seqStep s ch 3 fun st x w => busDin st ch x w data)) := by
  unfold exec
  exact run_of_ok _ (by simpa using hc) h

/-! ## A flush at the boundary of another channel (R29, R372) -/

theorem actNow_of_flush (s : State) {p : PendWrite} {ch : Nat} (hch : ch < 32) (h : p.addr = A.movSqCtl ch) : actNow s p = flushQueue s ch := by
  simp only [actNow, h, A.movSqCtl, A.rlvTblLg, A.rlvTblData, A.rlvSmokeDie, A.rlvLwRo]
  rw [if_neg (by omega), if_neg (by omega), if_neg (by omega), if_neg (by omega), if_neg (by omega), if_pos (by omega)]
  congr 1
  omega

/-- A flush that waits for place `k` alone takes effect as it passes. -/
theorem released_flush {s : State} {ch k : Nat} {v : Word} (hch : ch < 32)
    (h : s.pend = [{ bnd := .codeword, addr := A.movSqCtl ch, val := v, left := [k], act := true }]) :
    released s .codeword k = flushQueue { s with pend := [] } ch := by
  refine Eq.trans ?_ (actNow_of_flush { s with pend := [] }
    (p := { bnd := .codeword, addr := A.movSqCtl ch, val := v, left := [], act := true }) hch rfl)
  simp [released, passed, h, lastOnly, takeOne]

/-- The flush of a queue that holds one codeword of a slot without a command leaves it empty. -/
theorem flushQueue_of_one {s : State} {c : Cw} {n : Nat} (h : s.cws = [c]) (ho : c.owner = .cmd n) (hs : s.slot n = none) :
    ∃ b, flushQueue s c.ch = ((s.delCw c.id).bump (A.movSqFlushCnt c.ch)).updChan c.ch fun x => { x with flushing := b } := by
  have hl : loseCw s c = (s.delCw c.id).bump (A.movSqFlushCnt c.ch) := by
    simp only [loseCw, ho]
    exact hit_of_closed _ fun x hx => by cases hs.symm.trans hx
  refine ⟨((s.delCw c.id).bump (A.movSqFlushCnt c.ch)).arriving c.ch, ?_⟩
  simp only [flushQueue, h, List.filter_cons, beq_self_eq_true, if_true, List.filter_nil, State.each, List.foldl_cons, List.foldl_nil, hl]

end Sys2Proof.Machine
end

section
/-!
SUPPORT. A burst that brings codewords of two channels while a flush waits (R29, R219, R372).
-/

namespace Sys2Proof.Machine

/-! ## A burst that brings codewords of two channels while a flush waits -/

/-- DIN of one byte, nothing after it. -/
def dinWord : BitVec 132 := withParity (BitVec.ofNat 128 (3 * 2 ^ 124))

/-- A read's routine at its data burst: one more byte completes the record of two codewords of 4,640 bytes. -/
def dinCtx : Ctx :=
  { id := 0, pc := 0, g := [], c := [], sr := 0, srValid := false, zero := false, neg := false, part := false, wokeRb := false, stack := [], asleep := false, sidx := 0,
    ready := false, urgent := false, op := some 0, cust := none, moved := 0, post := 0, got := List.replicate 9279 0, badSt := 0, events := 0, fresh := false,
    last := 0xE0, burst := true }

/-- Its operation brings a codeword of channel 0 and one of channel 1. -/
def dinOp : Op := { mkOp (.cmd 0) .read 7 5 0 0 1 [(0, 0), (1, 2 ^ 38)] with stage := .confirmed, ready := true }

/-- The routine runs on channel 0, and a flush of that channel's queue waits for a codeword boundary of channel 1 alone. -/
def dinState : State :=
  { State.reset with
    pins := Pins.reset, ops := [dinOp],
    chans := [{ Chan.reset 0 with pll := true, ceLow := some 0, run := some 0, ctxs := [dinCtx], cache := [(0, dinWord)], lastHit := true }],
    pend := [{ bnd := .codeword, addr := A.movSqCtl 0, val := 1, left := [1], act := true }] }

theorem dinState_wordAt : dinState.wordAt 0 dinCtx = dinWord := rfl

theorem dinState_noneWaits : NoneWaits dinState 0 := by
  intro p hp
  obtain rfl : p = _ := List.mem_singleton.1 hp
  decide

theorem dinState_executing : Executing dinState 0 dinCtx 3 := by
  unfold Executing
  rw [dinState_wordAt]
  refine ⟨rfl, by decide, rfl, rfl, rfl, rfl, rfl, ?_, rfl, ?_, ?_, ?_, ?_, ?_⟩
  · decide +kernel
  · decide +kernel
  · decide +kernel
  · decide +kernel
  · intro _
    decide +kernel
  · intro h
    cases h

theorem dinState_burstOk : dinState.burstOk dinOp = true := by decide +kernel
theorem dinState_len : (dinState.fmtAt 0 dinOp.fmt).len = 4640 := by decide +kernel

theorem dinCtx_got_length : dinCtx.got.length = 9279 := List.length_replicate

theorem stagedBytes_of_one {s : State} {ch : Nat} {x : Ctx} (hc : s.cws = []) (hx : (s.chan ch).ctxs = [x]) : s.stagedBytes ch = x.got.length := by
  simp [State.stagedBytes, hc, hx]

theorem dinState_stageRoom : dinState.stageRoom 0 dinOp 1 = true := by
  have h : dinState.stagedBytes 0 = 9279 := (stagedBytes_of_one rfl rfl).trans dinCtx_got_length
  simp [State.stageRoom, h, stagingBytes]

/-- The transfer record once the byte has come. -/
def dinFull : Ctx := (dinState.latched 0 dinCtx).received [0]

theorem dinFull_got_length : dinFull.got.length = 9280 := by
  change (dinCtx.got ++ [0]).length = 9280
  rw [List.length_append, dinCtx_got_length]
  rfl

/-- The operation once its first codeword has left the record. -/
def dinOp1 : Op := { dinOp with cws := [(1, 2 ^ 38)] }

/-- The block once the codeword `c` has arrived. -/
def dinArrived (c : Cw) : State := { dinState with ops := [dinOp1], cws := [c], cwNo := 1 }

/-- The first codeword arrives at channel 0, for which no write waits. -/
theorem dinState_first (raw : List Byte) : ∃ c : Cw, c.id = 0 ∧ c.owner = .cmd 0 ∧ c.ch = 0 ∧ c.stage = .raw ∧
    arrive (dinState.updOp dinOp.id fun z => { z with cws := [(1, 2 ^ 38)] }) dinOp 0 0 raw = dinArrived c := by
  have hp : passCw (dinState.updOp dinOp.id fun z => { z with cws := [(1, 2 ^ 38)] }) (pChan 0) = { dinState with ops := [dinOp1] } :=
    passCw_of_noneWaits (by exact dinState_noneWaits)
  obtain ⟨c, hid, ho, hc, hs, ha⟩ := arrive_of_first (s := dinState.updOp dinOp.id fun z => { z with cws := [(1, 2 ^ 38)] }) (o := dinOp) (i := 0) (p := 0)
    (raw := raw) (by exact fun c hc => absurd hc List.not_mem_nil) rfl (by rw [hp]; rfl)
  rw [hp] at hid ha
  exact ⟨c, hid, ho, hc, hs, ha⟩

/-- The boundary of channel 1 lets the flush of channel 0 act: the codeword there is lost. -/
theorem passCw_dinArrived {c : Cw} (ho : c.owner = .cmd 0) (hc : c.ch = 0) :
    let t := passCw ((dinArrived c).updOp dinOp1.id fun z => { z with cws := [] }) 1
    t.pend = [] ∧ t.ops = [{ dinOp1 with cws := [] }] ∧ t.cws = [] ∧ t.cwNo = 1 ∧ (t.chan 1).flushing = false := by
  have hr : released ((dinArrived c).updOp dinOp1.id fun z => { z with cws := [] }) .codeword 1 =
      flushQueue { (dinArrived c).updOp dinOp1.id fun z => { z with cws := [] } with pend := [] } 0 := released_flush (by decide) rfl
  obtain ⟨l, hl⟩ := passBound_eq ((dinArrived c).updOp dinOp1.id fun z => { z with cws := [] }) .codeword 1
  obtain ⟨b, hb⟩ := flushQueue_of_one (s := { (dinArrived c).updOp dinOp1.id fun z => { z with cws := [] } with pend := [] }) rfl ho rfl
  rw [hc] at hb
  rw [hr, hb] at hl
  intro t
  have ht : t = _ := hl
  rw [ht]
  refine ⟨rfl, rfl, ?_, rfl, rfl⟩
  change delBy Cw.id c.id [c] = []
  simp [delBy]

/-- The second codeword arrives at channel 1, and is then the only one. -/
theorem dinState_second {c : Cw} (raw : List Byte) (ho : c.owner = .cmd 0) (hc : c.ch = 0) (hs : c.stage = .raw) :
    let t := arrive ((dinArrived c).updOp dinOp1.id fun z => { z with cws := [] }) dinOp1 1 (2 ^ 38) raw
    t.pend = [] ∧ t.ops = [{ dinOp1 with cws := [] }] ∧ ∃ d : Cw, d.id = 1 ∧ t.cws = [d] := by
  obtain ⟨hpend, hops, hcws, hno, hfl⟩ := passCw_dinArrived ho hc
  have hch : pChan (2 ^ 38) = 1 := by decide
  obtain ⟨d, hid, -, -, -, ha⟩ := arrive_of_first (s := (dinArrived c).updOp dinOp1.id fun z => { z with cws := [] }) (o := dinOp1) (i := 1) (p := 2 ^ 38)
    (raw := raw) (fun e he => by rw [List.mem_singleton.1 he, hs]; decide) rfl (by rw [hch]; exact hfl)
  rw [hch] at hid ha
  intro t
  have ht : t = _ := ha
  rw [ht]
  refine ⟨hpend, hops, d, hid.trans hno, ?_⟩
  change putBy Cw.id d (passCw _ 1).cws = [d]
  rw [hcws]
  rfl

/-- What a record of two codewords gives: that of channel 1 alone, under the number that comes after the first one's. -/
theorem takeItems_dinState {x : Ctx} (hx : x.op = some 0) (hl : x.got.length = 9280) : let t := (takeItems (x.got.length / 288 + 1) dinState x 4640).1
    t.pend = [] ∧ ∃ d : Cw, d.id = 1 ∧ t.cws = [d] := by
  have hf : x.got.length / 288 + 1 = 30 + 1 + 1 + 1 := by rw [hl]
  have hop : ∀ s : State, x.op.bind s.op = s.op 0 := fun s => by rw [hx]; rfl
  obtain ⟨c, -, ho, hc, hs, ha⟩ := dinState_first (x.got.take 4640)
  obtain ⟨hpend, hops, d, hid, hd⟩ := dinState_second ((x.got.drop 4640).take 4640) ho hc hs
  have h1 := takeItems_of_cons (s := dinState) (x := x) (o := dinOp) (30 + 1 + 1) (n := 4640) (hop _) rfl (by omega)
  have h2 := takeItems_of_cons (s := dinArrived c) (x := { x with got := x.got.drop 4640 }) (o := dinOp1) (30 + 1) (n := 4640) (hop _) rfl
    (by rw [List.length_drop]; omega)
  have h3 := takeItems_of_nil (s := arrive ((dinArrived c).updOp dinOp1.id fun z => { z with cws := [] }) dinOp1 1 (2 ^ 38) ((x.got.drop 4640).take 4640))
    (x := { x with got := (x.got.drop 4640).drop 4640 }) (o := { dinOp1 with cws := [] }) 30 (n := 4640) ((hop _).trans (by rw [State.op, hops]; rfl)) rfl
  rw [hf, h1, ha, h2, h3]
  exact ⟨hpend, d, hid, hd⟩

theorem dinState_len_word : Wd.len (dinState.wordAt 0 dinCtx).toNat = 1 := by
  rw [dinState_wordAt]
  decide +kernel

theorem dinState_sop : Wd.sop (dinState.wordAt 0 dinCtx).toNat = 0 := by
  rw [dinState_wordAt]
  decide +kernel

theorem dinState_rop : Wd.rop (dinState.wordAt 0 dinCtx).toNat = 0 := by
  rw [dinState_wordAt]
  decide +kernel

/-- The burst goes on with the record's codewords taken from it. -/
theorem busDin_dinState : ∃ y, busDin dinState 0 (dinState.latched 0 dinCtx) (dinState.wordAt 0 dinCtx).toNat [0] =
    .go (flushCheck (takeItems (dinFull.got.length / 288 + 1) dinState dinFull 4640).1 0) y ∧ y.cust = none := by
  have hu : dinState.updOp dinOp.id (fun y => { y with burst := false }) = dinState := rfl
  obtain ⟨y, hy, hcust⟩ := busDin_of_read (s := dinState) (ch := 0) (w := (dinState.wordAt 0 dinCtx).toNat)
    (x := dinState.latched 0 dinCtx) (o := dinOp) (data := [0]) rfl rfl rfl dinState_burstOk (by rw [dinState_len_word]; exact dinState_stageRoom) dinState_len_word.symm
  rw [hu, dinState_len, ← dinFull] at hy
  exact ⟨y, hy, hcust⟩

/-- After the burst no codeword has the number that was next before it. -/
theorem cws_after_dinState : ∀ c ∈ (after dinState (seqStep dinState 0 3 fun st x w => busDin st 0 x w [0])).cws, c.id = 1 := by
  obtain ⟨y, hy, hcust⟩ := busDin_dinState
  obtain ⟨hpend, d, hid, hd⟩ := takeItems_dinState (x := dinFull) rfl dinFull_got_length
  generalize (takeItems (dinFull.got.length / 288 + 1) dinState dinFull 4640).1 = u at hy hpend hd
  have hwait : NoneWaits (flushCheck u 0) 0 := fun p hp => by
    rw [flushCheck_pend, hpend] at hp
    cases hp
  intro c hc
  rw [seqStep_of_go (bus := fun st x w => busDin st 0 x w [0]) dinState_executing hy, after_cws,
    finish_cws dinState_sop dinState_rop hcust hwait, flushCheck_cws, hd] at hc
  rw [List.mem_singleton.1 hc, hid]

theorem dinRecord_length (n : Nat) : 4640 ≤ (dinCtx.got ++ [0].take n).length := by
  rw [List.length_append, dinCtx_got_length]
  omega

/-- Refutes O49: the clause on the codeword that a burst brings has no premise on the operation's further items. Where the next one is of another
channel, and a flush of the first channel's queue waits for a codeword boundary of that other channel alone (`NoneWaits` is about the first),
the flush discards the codeword that came. -/
theorem not_instructionsExecute : ¬ Obligations.InstructionsExecute := by
  unfold Obligations.InstructionsExecute
  intro h
  obtain ⟨-, -, -, -, -, -, -, -, -, hdin, -⟩ := h dinState 0 dinCtx
  obtain ⟨t, ht, -, hop⟩ := hdin dinState_executing [0]
  rw [exec_busDin [0] (by decide) rfl] at ht
  have hcws := cws_after_dinState
  rw [Host.Outcome.next.inj ht] at hcws
  obtain ⟨-, -, -, hread⟩ := hop dinOp rfl
  obtain ⟨-, hnew⟩ := hread 0 0 [(1, 2 ^ 38)] dinState_burstOk (by rw [dinState_len_word]; exact dinState_stageRoom)
    ⟨dinState_sop, dinState_rop.trans_le (Nat.zero_le 1), rfl, dinState_noneWaits⟩ (by rw [dinState_len_word]; decide) rfl rfl
  obtain ⟨c, hc, hid, -⟩ := hnew (by rw [dinState_len]; exact dinRecord_length _) rfl (by decide) rfl fun c hc => absurd hc List.not_mem_nil
  have h1 : c.id = 1 := hcws c hc
  rw [hid] at h1
  exact absurd h1 (by decide)

end Sys2Proof.Machine
end

section
/-!
SUPPORT. The resets (R72 to R74): what a reset pin leaves, and how a block leaves reset.
-/

namespace Sys2Proof.Machine

/-! ## What follows a command with the ring producers off -/

/-- With the ring producers off every register is as the command left it. -/
theorem after_off_reg {s u : State} (hb : u.build = s.build) (h : RingsOff u) (a : Nat) : (after s u).reg a = u.reg a := by
  rw [after_off_eq s h]
  obtain ⟨n, hn, -⟩ := settle_eq { u with pending := s.pending, build := s.build }
  rw [hn, State.reg, State.reg, hb]

/-- The ring producers are off where their registers hold the reset values (R409). -/
theorem ringsOff_of_reset {u : State} (h : ∀ k < 4, u.reg (A.wglRingCfg k) = Reg.resetValue u.build (A.wglRingCfg k)) : RingsOff u := by
  have hr (b : Build) : ∀ k < 4, fld (Reg.resetValue b (A.wglRingCfg k)) 16 16 = 0 := by cases b <;> decide
  intro k hk
  rw [State.fldOf, h k hk]
  exact hr _ k hk

/-- With no source live and none recorded there is nothing for the controller to evaluate (R394). -/
theorem settle_of_quiet {s : State} (hn : s.ntf = Ntf.reset) (hl : s.liveSrcs = []) : settle s = s := by
  have h : s.settledNtf = s.ntf := by simp [State.settledNtf, hl, hn, Ntf.reset, liveTgts]
  rw [settle, h, ite_self]

/-! ## PORST_N (R72) -/

theorem resetOf_liveSrcs (b : Build) : (State.resetOf b).liveSrcs = [] := by cases b <;> decide

/-- What PORST_N leaves is at the fixed point of all that follows a command. -/
theorem after_porstAssert (s : State) : after s (porstAssert s) = { porstAssert s with pending := s.pending } := by
  have hoff : RingsOff (porstAssert s) := ringsOff_of_reset fun _ _ => rfl
  rw [after_off_eq s hoff]
  exact settle_of_quiet rfl (resetOf_liveSrcs s.build)

/-- Settles O1: what PORST_N leaves is written out, and nothing follows it. -/
theorem porstAssertLosesAllState : Obligations.PorstAssertLosesAllState := by
  intro s
  exact congrArg Host.Outcome.next (after_porstAssert s)

/-- No source is raised: no unit holds a level, no latch is set, and the one CQ is empty. -/
theorem reset_raised (n : Nat) : State.reset.raised n = false := by
  have h3 : (State.reset.fldOf A.memSts 1 1 == 1) = false := by decide
  have h4 : (State.reset.alert.tail != State.reset.arHead) = false := by decide
  have hq : State.reset.qp (n - 64) = if 0 = n - 64 then some (QP.fresh 0) else none := rfl
  unfold State.raised
  rw [h3, h4, hq]
  by_cases h : 0 = n - 64 <;> simp [h, State.smoking, State.src, State.reset, State.resetOf, Smoke.reset, Ntf.reset, QP.fresh]

/-- Settles O59: the reset state is written out, and none of its sources is raised. -/
theorem resetStateIsSettled : Obligations.ResetStateIsSettled :=
  ⟨settle_of_quiet rfl (resetOf_liveSrcs .fc32), fun _ => rfl, rfl, rfl, rfl, rfl, rfl, rfl, rfl, rfl, rfl, fun _ => ⟨rfl, rfl⟩, reset_raised⟩

/-! ## SRST_N (R73) -/

theorem srstAssert_low {s : State} (h : s.pins.porst = true) : srstAssert s = { s with pins := { s.pins with srst := true } } := if_pos h

/-- With PORST_N high SRST_N resets all but what R73 and R423 name. -/
theorem srstAssert_high {s : State} (h : s.pins.porst = false) : srstAssert s =
    { (resetAll s).setReg A.glbOptFailCnt (s.reg A.glbOptFailCnt) with
      pins := { s.pins with temp := [], tdo := [], srst := true }, mem := { Mem.reset with spares := s.mem.spares },
      init := { Init.reset with optAck := s.init.optAck, area := s.init.area, rplSec := s.init.rplSec, raised := s.init.raised, kek := s.init.kek, pll := s.init.pll } } :=
  if_neg (by simp [h])

/-- Of the registers SRST_N keeps the count of failed loads alone. -/
theorem srstAssert_reg {s : State} (h : s.pins.porst = false) (a : Nat) :
    (srstAssert s).reg a = if a = A.glbOptFailCnt then s.reg A.glbOptFailCnt else Reg.resetValue s.build a := by
  have hr : (srstAssert s).reg a = ((resetAll s).setReg A.glbOptFailCnt (s.reg A.glbOptFailCnt)).reg a := by rw [srstAssert_high h]; rfl
  rw [hr]
  split
  next ha => rw [ha, State.reg_setReg_self]
  next ha => rw [State.reg_setReg_ne _ _ ha]; rfl

/-- Settles O2: nothing that follows the pin's fall touches what it leaves. -/
theorem srstAssertKeepsAreaRepairLevelAndLock : Obligations.SrstAssertKeepsAreaRepairLevelAndLock := by
  refine fun s => ⟨fun hp => ⟨_, rfl, ?_⟩, fun hp => ⟨_, rfl, ?_⟩⟩
  · have hb : (srstAssert s).build = s.build := by rw [srstAssert_high hp]; rfl
    have hoff : RingsOff (srstAssert s) := ringsOff_of_reset fun k hk => by
      rw [srstAssert_reg hp, if_neg, hb]
      unfold A.wglRingCfg A.glbOptFailCnt; omega
    have hreg : ∀ a, (after s (srstAssert s)).reg a = _ := fun a => (after_off_reg hb hoff a).trans (srstAssert_reg hp a)
    have hlevel : (after s (srstAssert s)).level = s.level := by
      rw [State.level, after_init, srstAssert_high hp]; rfl
    simp only [hreg, hlevel, if_true]
    rw [srstAssert_high hp]
    simp only [after_init, after_mem, after_pins, after_keys, after_scanCtx, after_slots, after_qps, after_chans, after_ops, after_rlv,
      after_stores, after_ports, after_target, after_aclk]
    exact ⟨trivial, trivial, trivial, trivial, trivial, trivial, fun a ha => if_neg ha, rfl, rfl, rfl, rfl, rfl, rfl, rfl, rfl, rfl, rfl, rfl, rfl, rfl⟩
  · rw [srstAssert_low hp]
    exact around_after rfl rfl

/-! ## Leaving reset (R48, R73, R74, R422) -/

/-- With PLOSS_N high a block that leaves reset starts at the load, or at the fill. -/
theorem leaveReset_eq {s : State} (hh : s.held = false) (hp : s.pins.ploss = false) : leaveReset s =
    { s with ports := s.ports.map fun (p : Port) => { p with rdGrant := 64, wrGrant := 64 },
             init := if s.init.area.isNone ∨ s.init.pll = false then s.init.stepOne else { s.init with phase := 5 } } := by
  have hpll : (!s.init.pll) = true ↔ s.init.pll = false := by simp
  rw [leaveReset, if_neg (by simp [hh])]
  simp only [hpll]
  by_cases h : s.init.area.isNone ∨ s.init.pll = false
  · simp only [if_pos h]
    exact if_neg (by simpa [startLoad, optRequest] using hp)
  · simp only [if_neg h]
    exact if_neg (by simpa using hp)

theorem exec_porstNRelease {s : State} (h : s.pins.porst = true) :
    exec .porstNRelease s = .next (after s (leaveReset { s with pins := { s.pins with porst := false } })) := by
  change Host.Outcome.next (after s (if s.pins.porst then porstRelease s else s)) = _
  rw [if_pos h, porstRelease]

theorem exec_srstNRelease {s : State} (h : s.pins.srst = true) :
    exec .srstNRelease s = .next (after s (leaveReset { s with pins := { s.pins with srst := false } })) := by
  change Host.Outcome.next (after s (if s.pins.srst then srstRelease s else s)) = _
  rw [if_pos h, srstRelease]

/-- Settles O3: either pin's release is `leaveReset` on the pin's new level. -/
theorem resetReleaseStartsLoadOrFill : Obligations.ResetReleaseStartsLoadOrFill := by
  refine fun s hbist hploss => ⟨fun hp hs => ⟨_, exec_porstNRelease hp, ?_⟩, fun hs hp => ⟨_, exec_srstNRelease hs, ?_⟩⟩
  · rw [leaveReset_eq (by simp [State.held, hs, hbist]) (by exact hploss)]
    exact around_after rfl rfl
  · rw [leaveReset_eq (by simp [State.held, hp, hbist]) (by exact hploss)]
    exact around_after rfl rfl

end Sys2Proof.Machine
end

section
/-!
SUPPORT. A held block (R74, R470), and the test port (R75).
-/

namespace Sys2Proof.Machine

/-! ## The frame of each command -/

/-- A command that is no pin's level has the frame of a register access, or the frame of every other meaning. -/
theorem exec_frame (c : Instr) (s : State) (h : isPin c = false) :
    (isBus c = true ∧ ∃ ok f, exec c s = runBus ok s f) ∨ (isBus c = false ∧ ∃ ok f, exec c s = run ok s f) := by
  cases c with
  | porstNAssert | porstNRelease | srstNAssert | srstNRelease | optAckRise | optAckFall | smokeSequence | plossNRise | tgtIdleChange => cases h
  | registerWrite | registerPairLoWrite | registerPairHiWrite | registerPairLoRead | registerPairHiRead | ntfClaim | ntfComplete
  | rplRaise | rplLowerRequest | reload | powerStateRequest | alertRingEnable | alertRingHeadWrite | hqAqCfgWrite | qpEnable | qpDisable
  | wglFire | wglTmrStart | wglTmrStop | kick | bufferRingEnable | bufferRingDisable | movAbort | movRelease | flush | restore | bcinv
  | unfreeze | logStreamEnable | smokeRegionEnable | rlvTblDataWrite | rlvTblLgWrite | liveWrite | tselWrite => unfold exec; exact .inl ⟨rfl, _, _, rfl⟩
  | _ => unfold exec; exact .inr ⟨rfl, _, _, rfl⟩

/-- A frame that answered a next state on a held block left the block as it was. -/
theorem run_held {ok : Bool} {s t : State} {f : State → State} (hh : s.held = true) (h : run ok s f = .next t) : t = s := by
  unfold run at h
  split at h
  · exact (Host.Outcome.next.inj h).symm
  · cases h

theorem runBus_bist {ok : Bool} {s t : State} {f : State → State} (hb : s.pins.bist = true) (h : runBus ok s f = .next t) : t = s := by
  unfold runBus at h
  split at h
  · exact (Host.Outcome.next.inj h).symm
  · cases h

/-- A held block does nothing at a command that is neither a pin's level nor, before a self-test, a register access. -/
theorem exec_of_held {c : Instr} {s : State} (hh : s.held = true) (hw : c.wf s.build = true) (hp : isPin c = false)
    (hb : isBus c = false ∨ s.pins.bist = true) : exec c s = .next s := by
  obtain ⟨t, ht, -⟩ := (exec_completes c s).1 hw
  have hts : t = s := by
    obtain ⟨hbus, ok, f, hf⟩ | ⟨-, ok, f, hf⟩ := exec_frame c s hp
    · exact runBus_bist (hb.resolve_left (by simp [hbus])) (hf ▸ ht)
    · exact run_held hh (hf ▸ ht)
  rw [ht, hts]

/-! ## MPORT before INIT_DONE (R61, R74) -/

/-- A register access is answered while no self-test has run. -/
theorem runBus_of_not_bist {ok : Bool} {s : State} (f : State → State) (h : ok = true) (hb : s.pins.bist = false) :
    runBus ok s f = .next (after s (f s)) := by simp [runBus, h, hb]

/-- Before INIT_DONE every region but GLB and SEC is closed (R61). -/
theorem denied_of_not_done {s : State} {a : Nat} (hd : s.init.done = false) (ha : 0x020000 ≤ a) (hr : inRegion a = true) : s.denied a = true := by
  simp [State.denied, hd, ha, hr]

/-- GLB and SEC are open below RPL2 (R61, R432). -/
theorem denied_below {s : State} {a : Nat} (ha : a < 0x020000) (hl : s.level ≠ 2) : s.denied a = false := by
  simp [State.denied, Nat.not_le.2 ha, hl]

/-- An MPORT write that is not DENIED is answered OK. -/
theorem accessWrite_answer {s : State} {a : Nat} (v : Word) (hp : s.power.st = .p0) (hd : s.denied a = false) :
    (accessWrite s .mport a v none).answer = { refused := false, data := 0 } := by
  rw [accessWrite, regAccess_served true v _ hp hd]; rfl

theorem accessWrite_denied {s : State} {a : Nat} (v : Word) (hp : s.power.st = .p0) (hd : s.denied a = true) :
    accessWrite s .mport a v none = mpAnswer s true 0 := by
  simp [accessWrite, regAccess, mpServe_p0 a _ _ _ hp, hd]

theorem access_read_denied {s : State} {a : Nat} (hp : s.power.st = .p0) (hd : s.denied a = true) :
    access s .mport a false 0 = mpAnswer s true 0 := by
  simp [access, regAccess, mpServe_p0 a _ _ _ hp, hd]

/-- GLB and SEC have no pair, and no claim: a read has no side effect. -/
theorem readAccess_below {s : State} (m : Master) {a : Nat} (ha : a < 0x020000) : readAccess s m a = (s.readReg a, s) := by
  have hp (x : Nat) (hx : x < 0x020000) : Reg.pairBase x = false := by
    simp [Reg.pairBase, A.hqAqSqbLo, A.hqAqCqbLo, A.hqArBaseLo, A.wglCalPaddrLo, A.eccWseqLo, A.rlvFgPosLo, A.rlvFgTotalLo, A.hqBrBaseLo, A.ntfTgtAddrLo]
    omega
  have hc : ¬(A.ntfClaim 0 ≤ a ∧ a < A.ntfClaim 64 ∧ a % 64 = 0) := by unfold A.ntfClaim; omega
  simp [readAccess, hc, hp a ha, hp (a - 4) (by omega)]

theorem access_read_below {s : State} {a : Nat} (hp : s.power.st = .p0) (ha : a < 0x020000) (hl : s.level ≠ 2) :
    access s .mport a false 0 = mpAnswer s false (s.readReg a) := by
  rw [access, regAccess_served false 0 _ hp (denied_below ha hl)]
  simp [readAccess_below .mport ha]

/-- A register write of a block in reset that has run no self-test is an MPORT access (R74). -/
theorem exec_registerWrite {s : State} {a : Nat} (m : Master) (v : Word) (w : Option Word) (ha : offsetOk a = true) (hb : s.pins.bist = false) :
    exec (.registerWrite m a v w) s = .next (after s (accessWrite s m a v w)) := by
  unfold exec
  exact runBus_of_not_bist _ ha hb

theorem exec_registerPairLoRead {s : State} {a : Nat} (m : Master) (ha : offsetOk a = true) (hb : s.pins.bist = false) :
    exec (.registerPairLoRead m a) s = .next (after s (access s m a false 0)) := by
  unfold exec
  exact runBus_of_not_bist _ ha hb

/-- Settles O6: every command has one of two frames, and the MPORT access of a block in reset is DENIED or served. -/
theorem heldBlockDoesNothing : Obligations.HeldBlockDoesNothing := by
  refine ⟨fun c s hh hw hp hb => exec_of_held hh hw hp hb, fun a v s _ hbist hdone hp0 hoff => ⟨fun ha hr => ?_, fun ha hl => ?_⟩⟩
  · have hd := denied_of_not_done hdone ha hr
    refine ⟨⟨_, exec_registerWrite _ v _ hoff hbist, ?_⟩, ⟨_, exec_registerPairLoRead _ hoff hbist, ?_⟩⟩
    · rw [accessWrite_denied v hp0 hd]
      exact around_after rfl rfl
    · rw [access_read_denied hp0 hd]
      exact around_after rfl rfl
  · refine ⟨⟨_, exec_registerWrite _ v _ hoff hbist, ?_⟩, ⟨_, exec_registerPairLoRead _ hoff hbist, ?_⟩⟩
    · rw [after_answer]
      exact accessWrite_answer v hp0 (denied_below ha hl)
    · rw [access_read_below hp0 ha hl]
      exact around_after rfl rfl

/-! ## The test port (R75, R470) -/

theorem exec_memoryBist {s : State} (hh : s.held = false) (u : TestUse) : exec (.memoryBist u) s = .next (after s (testUse s u)) := by
  unfold exec
  exact run_of_ok _ rfl hh

/-- At RPL2 the boundary scan alone is open. -/
theorem testUse_rpl2 {s : State} {u : TestUse} (hl : s.level = 2) (hu : u ≠ .boundaryScan) : testUse s u = s := by
  cases u with
  | boundaryScan => exact absurd rfl hu
  | memoryBist rows => exact if_pos hl
  | debugStore g a => exact if_pos hl
  | debugContext c => exact if_pos hl
  | phy ch => exact if_pos hl

/-- Settles O7: what each use of the test port leaves, by its case. -/
theorem memorySelfTestRequiresReset : Obligations.MemorySelfTestRequiresReset := by
  refine fun s hh => ⟨fun u => ⟨_, exec_memoryBist hh u, fun hl hu => ?_⟩, fun rows hl => ⟨_, exec_memoryBist hh _, ?_⟩,
    ⟨_, exec_memoryBist hh _, around_after rfl rfl⟩, fun g a hl => ⟨_, exec_memoryBist hh _, ?_⟩, fun c hl => ⟨_, exec_memoryBist hh _, ?_⟩⟩
  · rw [testUse_rpl2 hl hu]
    exact around_after rfl rfl
  · rw [testUse, if_neg hl]
    exact ⟨by simp [State.held, testOut], by rw [after_pins]; exact around_after rfl rfl⟩
  · rw [testUse, if_neg hl]
    exact around_after rfl rfl
  · rw [testUse, if_neg (by omega), if_pos hl]
    exact around_after rfl rfl

end Sys2Proof.Machine
end

section
/-!
SUPPORT. The option port and its area (R64 to R66, R422 to R425).
-/

namespace Sys2Proof.Machine

/-! ## A failed check (R423) -/

/-- The block after a load has failed with `e`: the sequence stands in its phase, and the failure is counted. -/
def loadFailed (s : State) (e : Nat) : State :=
  ({ s with init := { s.init with err := e, optReq := 0, want := 0, loading := false, header := [] } }).bump A.glbOptFailCnt

theorem State.not_lowering {s : State} (h : s.init.lowering = .none) : s.lowering = false := by simp [State.lowering, h]

/-- Outside a lowering a failed load stops the sequence. -/
theorem loadFail_eq {s : State} (e : Nat) (h : s.init.lowering = .none) : loadFail s e = loadFailed s e := by
  have hl : (s.bump A.glbOptFailCnt).init = s.init := rfl
  simp only [loadFail, State.not_lowering h, hl]
  rfl

/-! ## OPT_ACK (R64, R66) -/

section
variable {s : State} (hh : s.held = false)
include hh

theorem exec_optAckRise : exec .optAckRise s = .next (after s (ackRise s)) := by
  have h : ackPin s true = ackRise s := by simp [ackPin, hh]
  rw [← h]
  unfold exec
  rfl

theorem exec_optAckFall : exec .optAckFall s = .next (after s (ackFall s)) := by
  have h : ackPin s false = ackFall s := by simp [ackPin, hh]
  rw [← h]
  unfold exec
  rfl

theorem exec_optionHeaderTaken (l : List Byte) : exec (.optionHeaderTaken l) s = .next (after s (headerTaken s l)) := by
  unfold exec
  exact run_of_ok _ rfl hh

theorem exec_optionAreaLoaded (l : List Byte) : exec (.optionAreaLoaded l) s = .next (after s (areaLoaded s l)) := by
  unfold exec
  exact run_of_ok _ rfl hh

end

section
variable {s : State} (hl : s.init.lowering = .none)
include hl

/-- The acknowledge of a load request starts the bytes (R64). -/
theorem ackRise_load (h0 : s.init.optAck = false) (ha : s.init.armed = true) (hr : s.init.optReq = 1) :
    ackRise s = { s with init := { s.init with optAck := true, loading := true, header := [], phase := 2 } } := by
  simp [ackRise, h0, ha, hr, State.lowering, hl]

/-- An acknowledge that falls before the last byte fails the load (R66). -/
theorem ackFall_loading (h : s.init.loading = true) :
    ackFall s = loadFailed { s with init := { s.init with optAck := false, armed := true } } 5 := by
  simp only [ackFall, h]
  exact loadFail_eq 5 hl

/-! ## The area (R425) -/

/-- MAGIC is checked before LENGTH, and bytes that pass both are kept. -/
theorem headerTaken_eq (h : s.init.loading = true) (he : s.init.header = []) {l : List Byte} (h8 : l.length = 8) :
    headerTaken s l =
      if leAt l 0 4 ≠ 0x314F4347 then loadFailed s 1
      else if leAt l 4 2 < 164 ∨ 4096 < leAt l 4 2 ∨ leAt l 4 2 % 4 ≠ 0 then loadFailed s 2
      else { s with init := { s.init with header := l } } := by
  rw [headerTaken, if_neg (by simp [h, he, h8])]
  simp only [loadFail_eq (s := { s with init := { s.init with header := l } }) _ hl]
  rfl

section
variable {rest : List Byte} (h : s.init.loading = true) (he : s.init.header ≠ []) (hlen : 8 + rest.length = leAt s.init.header 4 2)
include h he hlen

/-- No part of a bad area is used. -/
theorem areaLoaded_bad (hbad : areaErr (Config.groups s.build) (s.init.header ++ rest) ≠ 0) :
    areaLoaded s rest = loadFailed s (areaErr (Config.groups s.build) (s.init.header ++ rest)) := by
  rw [areaLoaded, if_neg (by simp [h, he, hlen])]
  simp only [if_pos hbad]
  exact loadFail_eq _ hl

/-- A good area is in use, and the sequence goes on at step 4, or at step 5 with the PLL locked (log entry 127). -/
theorem areaLoaded_good (hok : areaErr (Config.groups s.build) (s.init.header ++ rest) = 0) :
    areaLoaded s rest =
      let a := mkArea (Config.groups s.build) (s.init.header ++ rest)
      { s with init := { s.init with area := some a, rplSec := a.rpl, kek := deriveKek a.idRow, optReq := 0, loading := false,
                                     phase := if s.init.pll then 5 else 4, pllAt := s.aclk } } := by
  rw [areaLoaded, if_neg (by simp [h, he, hlen])]
  simp [hok, State.not_lowering hl]

end
end

/-- Settles O4: each step of a load is one equation, and nothing that follows a command touches what it leaves. -/
theorem optionLoadChecksHeaderThenArea : Obligations.OptionLoadChecksHeaderThenArea := by
  refine fun s hh hl => ⟨fun h0 ha hr => ⟨_, exec_optAckRise hh, ?_⟩, fun h => ⟨_, exec_optAckFall hh, ?_⟩,
    fun h he l h8 => ⟨_, exec_optionHeaderTaken hh l, ?_⟩,
    fun h he rest hlen => ⟨_, exec_optionAreaLoaded hh rest, fun hbad => ?_, fun hok => ?_⟩⟩
  · rw [ackRise_load hl h0 ha hr]
    exact around_after rfl rfl
  · rw [ackFall_loading hl h]
    exact around_after rfl rfl
  · rw [headerTaken_eq hl h he h8]
    refine around_after ?_ ?_ <;> split_ifs <;> rfl
  · rw [areaLoaded_bad hl h he hlen hbad]
    exact around_after rfl rfl
  · rw [areaLoaded_good hl h he hlen hok]
    refine ⟨by simp, by simp, by simp, by simp, ?_, _, around_after rfl rfl⟩
    rw [State.level, after_init]

end Sys2Proof.Machine
end

section
/-!
SUPPORT. The side-band pins (R26, R68 to R70).
-/

namespace Sys2Proof.Machine

/-! ## TEMP_IN (R26, R69) -/

theorem Fires.tempCheck (s : State) (g : Nat) : Fires s (tempCheck s g) := by
  unfold Machine.tempCheck
  split
  · exact .refl s
  · exact (Fires.levelProducer s _ _ _).trans (.levelProducer _ _ _ _)

theorem Fires.pins {s t : State} (h : Fires s t) : t.pins = s.pins := by obtain ⟨⟨_, _, _, _, _, rfl⟩, -⟩ := h; rfl
theorem Fires.pending {s t : State} (h : Fires s t) : t.pending = s.pending := by obtain ⟨⟨_, _, _, _, _, rfl⟩, -⟩ := h; rfl
theorem Fires.build {s t : State} (h : Fires s t) : t.build = s.build := by obtain ⟨⟨_, _, _, _, _, rfl⟩, -⟩ := h; rfl

theorem State.tempIn_congr {s t : State} (g : Nat) (h : t.pins.temp = s.pins.temp) : t.tempIn g = s.tempIn g := by
  rw [State.tempIn, State.tempIn, h]

/-- The block with byte `v` accepted for group `g`. -/
def State.withTemp (s : State) (g : Nat) (v : Byte) : State :=
  { s with pins := { s.pins with temp := putBy Prod.fst (g, v) s.pins.temp }, rlv := { s.rlv with tIn := addN g s.rlv.tIn } }

theorem State.tempIn_withTemp_self (s : State) (g : Nat) (v : Byte) : (s.withTemp g v).tempIn g = v.toInt := by
  have h : getBy Prod.fst g (putBy Prod.fst (g, v) s.pins.temp) = some (g, v) := getBy_putBy_self Prod.fst (g, v) s.pins.temp
  simp [State.tempIn, State.withTemp, assoc, h]

theorem State.tempIn_withTemp_ne (s : State) {g h : Nat} (v : Byte) (hne : h ≠ g) : (s.withTemp g v).tempIn h = s.tempIn h := by
  have hg : getBy Prod.fst h (putBy Prod.fst (g, v) s.pins.temp) = getBy Prod.fst h s.pins.temp :=
    getBy_putBy_ne Prod.fst (x := (g, v)) s.pins.temp hne
  simp [State.tempIn, State.withTemp, assoc, hg]

/-- Before a byte has been accepted the temperature is 35 °C (R69). -/
theorem State.tempIn_of_none {s : State} {g : Nat} (h : assoc s.pins.temp g = none) : s.tempIn g = 35 := by rw [State.tempIn, h]

/-- A byte but 0x80 is recorded, and the temperature producers look at it (R408). -/
theorem tempAccept_eq {s : State} {g : Nat} {v : Byte} (hg : g < Config.groups s.build) (hv : v ≠ 0x80) :
    tempAccept s g v = tempCheck (s.withTemp g v) g := if_neg (not_or.2 ⟨hv, Nat.not_le.2 hg⟩)

theorem tempAccept_none (s : State) (g : Nat) : tempAccept s g 0x80 = s := if_pos (.inl rfl)

theorem exec_tempInAccept {s : State} {g : Nat} (v : Byte) (hh : s.held = false) (hg : g < Config.groups s.build) :
    exec (.tempInAccept g v) s = .next (after s (tempAccept s g v)) := by
  unfold exec
  exact run_of_ok _ (decide_eq_true (lt_of_groupOk (decide_eq_true hg))) hh

/-! ## TGT_IDLE (R68) -/

/-- One bit of TGT_IDLE is set to the level, every other stays. -/
theorem bit_tgtIdleSet (s : State) (k : Nat) (level : Bool) (j : Nat) :
    bit (tgtIdleSet s k level).pins.tgtIdle j = if j = k then level else bit s.pins.tgtIdle j := by
  have hlow : s.pins.tgtIdle % 2 ^ k < 2 ^ k := Nat.mod_lt _ (Nat.two_pow_pos k)
  have hmid : 2 ^ k * level.toNat + s.pins.tgtIdle % 2 ^ k < 2 ^ (k + 1) := by
    have := level.toNat_le
    rw [Nat.pow_succ]
    calc 2 ^ k * level.toNat + s.pins.tgtIdle % 2 ^ k < 2 ^ k * level.toNat + 2 ^ k := by omega
      _ ≤ 2 ^ k * 1 + 2 ^ k := by gcongr
      _ = 2 ^ k * 2 := by omega
  have hsum : (tgtIdleSet s k level).pins.tgtIdle =
      2 ^ (k + 1) * (s.pins.tgtIdle / 2 ^ (k + 1)) + (2 ^ k * level.toNat + s.pins.tgtIdle % 2 ^ k) := by
    simp only [tgtIdleSet, Nat.mul_comm]
    omega
  rw [bit, hsum, Nat.testBit_two_pow_mul_add _ hmid, Nat.testBit_two_pow_mul_add _ hlow]
  rcases Nat.lt_trichotomy j k with h | rfl | h
  · rw [if_pos (by omega), if_pos h, if_neg (by omega), Nat.testBit_mod_two_pow, bit]
    simp [h]
  · cases level <;> simp
  · rw [if_neg (by omega), if_neg (by omega), Nat.testBit_div_two_pow, bit, Nat.sub_add_cancel h]

theorem exec_tgtIdleChange {s : State} {k : Nat} (level : Bool) (hk : k < 64) :
    exec (.tgtIdleChange k level) s = .next (after s (tgtIdleSet s k level)) := by
  unfold exec
  exact if_pos hk

theorem exec_plossNRise (s : State) :
    exec .plossNRise s = .next (after s (rearm { s with pins := { s.pins with ploss := false } } [40])) := by
  unfold exec
  rfl

/-- Settles O8: each pin's command changes its own input, and the producers that look at it fire channels only. -/
theorem sidebandPinsUpdateTheirInputs : Obligations.SidebandPinsUpdateTheirInputs := by
  refine fun s hh => ⟨fun g v hg => ⟨_, exec_tempInAccept v hh hg, ?_⟩, fun g h => State.tempIn_of_none h,
    fun k level hk => ⟨_, exec_tgtIdleChange level hk, ?_, fun j hj => ?_, ?_⟩,
    ⟨_, exec_plossNRise s, by simp [rearm], by simp [rearm], _, around_after rfl rfl⟩⟩
  · by_cases hv : v = 0x80
    · rw [hv, tempAccept_none]
      have ht (k : Nat) : (after s s).tempIn k = s.tempIn k := State.tempIn_congr k (by rw [after_pins])
      exact ⟨fun h => absurd rfl h, fun _ => ht g, fun k _ => ht k, _, _, around_after (u := s) rfl rfl⟩
    · rw [tempAccept_eq hg hv]
      have hf := Fires.tempCheck (s.withTemp g v) g
      have ht (k : Nat) : (after s (tempCheck (s.withTemp g v) g)).tempIn k = (s.withTemp g v).tempIn k :=
        State.tempIn_congr k (by rw [after_pins, hf.pins])
      refine ⟨fun _ => (ht g).trans (s.tempIn_withTemp_self g v), fun h => absurd h hv, fun k hk => (ht k).trans (s.tempIn_withTemp_ne v hk), _, _,
        Around.of_fires (u := s.withTemp g v) hf (around_after hf.pending hf.build)⟩
  · rw [after_pins, bit_tgtIdleSet, if_pos rfl]
  · rw [after_pins, bit_tgtIdleSet, if_neg hj]
  · rw [after_pins]
    exact around_after rfl rfl

end Sys2Proof.Machine
end

section
/-!
SUPPORT. What a port does when its credits or its tags change (R44 to R48, R53, R55).
-/

namespace Sys2Proof.Machine

/-! ## What follows a command -/

@[simp] theorem after_port (s t : State) (p : Nat) : (after s t).port p = t.port p := by rw [State.port, after_ports]; rfl
@[simp] theorem after_qp (s t : State) (q : Nat) : (after s t).qp q = t.qp q := by rw [State.qp, after_qps]; rfl

/-- What a target serves and the state of its message write outlast what follows a command. -/
theorem after_tgt {s t : State} (hp : t.pending = s.pending) (hb : t.build = s.build) (k : Nat) : ((after s t).tgt k).stack = (t.tgt k).stack ∧
    ((after s t).tgt k).msgErr = (t.tgt k).msgErr ∧ ((after s t).tgt k).out = (t.tgt k).out := by
  obtain ⟨-, -, -, -, -, -, -, -, -, -, h, -⟩ := around_after hp hb
  exact h k

/-- A counter outside the waggle fabric is as the command left it. -/
theorem after_regN {s t : State} (hb : t.build = s.build) {a : Nat} (h1 : a ≠ A.glbPwrCtl) (h2 : a ≠ A.hqArDropCnt)
    (h3 : a < 0x050000 ∨ 0x050600 ≤ a) : (after s t).regN a = t.regN a := by
  rw [State.regN, after_reg hb (fun h => absurd h h1) h2 h3, State.regN]

/-! ## Transfers -/

@[simp] theorem transfer_quar (now tfab : Nat) (l : List Req) (x : Port) : (transfer now tfab l x).quar = x.quar := by
  induction l generalizing x with
  | nil => rfl
  | cons r l ih =>
    simp only [transfer]
    split
    · split
      · rw [ih]
      · rfl
    · rfl

/-- Without a request credit every request waits. -/
theorem transfer_of_no_credit (now tfab : Nat) (l : List Req) {x : Port} (h : x.rqCrd = 0) : transfer now tfab l x = { x with wait := l } := by
  cases l with
  | nil => rfl
  | cons r l =>
    simp only [transfer, h]
    split <;> rfl

/-- With a credit and a free tag the first request leaves. -/
theorem transfer_cons (now tfab : Nat) (r : Req) (l : List Req) {x : Port} {tag : Nat} (ht : freeTag x = some tag) (hc : 0 < x.rqCrd) :
    transfer now tfab (r :: l) x = transfer now tfab l
      { x with rqCrd := x.rqCrd - 1, out := x.out ++ [{ r with tag := tag, sent := now, tfab := tfab }],
               beats := if r.write then x.beats ++ [(tag, r.beats)] else x.beats } := by
  simp only [transfer, ht, if_pos hc]

@[simp] theorem pumpPort_quar (now tfab : Nat) (x : Port) : (pumpPort now tfab x).quar = x.quar := transfer_quar ..

/-- A port with nothing to send moves nothing. -/
theorem pumpPort_idle (now tfab : Nat) {x : Port} (hw : x.wait = []) (hb : x.beats = []) : pumpPort now tfab x = x := by
  cases x
  simp_all [pumpPort, transfer, sendBeats]

/-- Of the requests that wait the first leaves with the one credit, and no more. -/
theorem pumpPort_one (now tfab : Nat) {x : Port} {r : Req} {l : List Req} {tag : Nat} (hw : x.wait = r :: l) (hc : x.rqCrd = 1)
    (ht : freeTag x = some tag) : (pumpPort now tfab x).out = x.out ++ [{ r with tag := tag, sent := now, tfab := tfab }] ∧
      (pumpPort now tfab x).wait = l ∧ (pumpPort now tfab x).rqCrd = 0 := by
  unfold pumpPort
  rw [hw, transfer_cons now tfab r l ht (by omega), transfer_of_no_credit now tfab l (by simp [hc])]
  exact ⟨rfl, rfl, by simp [hc]⟩

/-! ## Pumping a port -/

/-- The port itself after it has moved what its credits allow. -/
theorem pump_port (s : State) {p : Nat} (x : Port) (hp : p < 4) :
    (pump s p x).port p = pumpPort s.aclk (fld (s.reg (A.movTfab p)) 0 20) x := by
  obtain h | ⟨k, h⟩ := pump_cases s p x <;> rw [h]
  · exact s.port_setPort_self _ hp
  · exact s.port_setPort_self _ hp

/-- Beyond the ports a pump changes registers alone, and of those the count of poisoned beats. -/
theorem pump_frame (s : State) (p : Nat) (x : Port) : ∃ rs ps, pump s p x = { s with regs := rs, ports := ps } := by
  obtain h | ⟨k, h⟩ := pump_cases s p x <;> exact ⟨_, _, h⟩

theorem pump_reg (s : State) (p : Nat) (x : Port) {a : Nat} (h : a ≠ A.movPsnCnt) : (pump s p x).reg a = s.reg a := by
  obtain hp | ⟨k, hp⟩ := pump_cases s p x <;> rw [hp]
  · rfl
  · exact State.reg_bump_ne _ _ h

/-- A port with nothing to send becomes what it was given. -/
theorem pump_idle (s : State) (p : Nat) {x : Port} (hw : x.wait = []) (hb : x.beats = []) : pump s p x = s.setPort p x := by
  rw [pump, pumpPort_idle _ _ hw hb]
  simp

section
variable (s : State) (p tag : Nat)

@[simp] theorem pump_pending (x : Port) : (pump s p x).pending = s.pending := by obtain ⟨_, _, h⟩ := pump_frame s p x; rw [h]
@[simp] theorem pump_build (x : Port) : (pump s p x).build = s.build := by obtain ⟨_, _, h⟩ := pump_frame s p x; rw [h]
@[simp] theorem pump_slots (x : Port) : (pump s p x).slots = s.slots := by obtain ⟨_, _, h⟩ := pump_frame s p x; rw [h]
@[simp] theorem pump_qps (x : Port) : (pump s p x).qps = s.qps := by obtain ⟨_, _, h⟩ := pump_frame s p x; rw [h]
@[simp] theorem pump_mover (x : Port) : (pump s p x).mover = s.mover := by obtain ⟨_, _, h⟩ := pump_frame s p x; rw [h]
@[simp] theorem pump_ntf (x : Port) : (pump s p x).ntf = s.ntf := by obtain ⟨_, _, h⟩ := pump_frame s p x; rw [h]

@[simp] theorem retire_pending : (retire s p tag).pending = s.pending := pump_pending ..
@[simp] theorem retire_build : (retire s p tag).build = s.build := pump_build ..
@[simp] theorem retire_slots : (retire s p tag).slots = s.slots := pump_slots ..
@[simp] theorem retire_qps : (retire s p tag).qps = s.qps := pump_qps ..
@[simp] theorem retire_mover : (retire s p tag).mover = s.mover := pump_mover ..
@[simp] theorem retire_ntf : (retire s p tag).ntf = s.ntf := pump_ntf ..
@[simp] theorem retire_slot (n : Nat) : (retire s p tag).slot n = s.slot n := by rw [State.slot, retire_slots]; rfl
@[simp] theorem retire_qp (q : Nat) : (retire s p tag).qp q = s.qp q := by rw [State.qp, retire_qps]; rfl
@[simp] theorem retire_tgt (k : Nat) : (retire s p tag).tgt k = s.tgt k := by rw [State.tgt, retire_ntf]; rfl

theorem retire_reg {a : Nat} (h : a ≠ A.movPsnCnt) : (retire s p tag).reg a = s.reg a := pump_reg s p _ h

end

/-! ## Credits (R44, R48, R58) -/

theorem exec_gfpCreditReturn {s : State} {p : Nat} (c : GfpChan) (hh : s.held = false) (hp : p < 5) :
    exec (.gfpCreditReturn p c) s = .next (after s (creditReturn s p c)) := by
  unfold exec
  exact run_of_ok _ (decide_eq_true hp) hh

/-- Before INIT_DONE no credit counts (R74). -/
theorem creditReturn_not_done {s : State} (p : Nat) (c : GfpChan) (h : s.init.done = false) : creditReturn s p c = s := by
  simp [creditReturn, h]

section
variable {s : State} (hd : s.init.done = true)
include hd

theorem creditReturn_request {p : Nat} (hp : p < 4) :
    creditReturn s p .request = pump s p { s.port p with rqCrd := min 64 ((s.port p).rqCrd + 1) } := by
  rw [creditReturn, if_neg (by simp [hd]), if_neg (by omega)]

theorem creditReturn_writeData {p : Nat} (hp : p < 4) :
    creditReturn s p .writeData = pump s p { s.port p with wdCrd := min 64 ((s.port p).wdCrd + 1) } := by
  rw [creditReturn, if_neg (by simp [hd]), if_neg (by omega)]

theorem creditReturn_readAnswer : creditReturn s 4 .readData =
    { s with target := if 0 < s.target.rdDue then { s.target with rdDue := s.target.rdDue - 1 } else { s.target with rdCrd := min 64 (s.target.rdCrd + 1) } } := by
  simp [creditReturn, hd]

theorem creditReturn_writeAnswer : creditReturn s 4 .writeResponse =
    { s with target := if 0 < s.target.wrDue then { s.target with wrDue := s.target.wrDue - 1 } else { s.target with wrCrd := min 64 (s.target.wrCrd + 1) } } := by
  simp [creditReturn, hd]

end

/-- Settles O16: a returned credit pumps its port, or counts at the target port. -/
theorem creditReturnReleasesWaitingRequest : Obligations.CreditReturnReleasesWaitingRequest := by
  refine fun s hh => ⟨fun hd p hp c => ⟨_, exec_gfpCreditReturn c hh hp, ?_⟩, fun hd p hp => ⟨fun hw hb => ⟨_, exec_gfpCreditReturn _ hh (by omega), ?_⟩,
    fun hw hb => ⟨_, exec_gfpCreditReturn _ hh (by omega), ?_⟩, fun r l tag hw hc ht => ⟨_, exec_gfpCreditReturn _ hh (by omega), ?_⟩⟩,
    fun hd => ⟨_, exec_gfpCreditReturn _ hh (by omega), fun h0 => ?_, fun h1 => ?_⟩,
    fun hd => ⟨_, exec_gfpCreditReturn _ hh (by omega), fun h0 => ?_, fun h1 => ?_⟩⟩
  · rw [creditReturn_not_done p c hd]
    exact around_after rfl rfl
  · rw [creditReturn_request hd hp, pump_idle s p (by exact hw) (by exact hb)]
    exact around_after rfl rfl
  · rw [creditReturn_writeData hd hp, pump_idle s p (by exact hw) (by exact hb)]
    exact around_after rfl rfl
  · rw [creditReturn_request hd hp, after_port, pump_port s _ hp]
    exact pumpPort_one _ _ hw (by simp [hc]) ht
  · rw [creditReturn_readAnswer hd, if_neg (by omega)]
    exact around_after rfl rfl
  · rw [creditReturn_readAnswer hd, if_pos h1]
    exact around_after rfl rfl
  · rw [creditReturn_writeAnswer hd, if_neg (by omega)]
    exact around_after rfl rfl
  · rw [creditReturn_writeAnswer hd, if_pos h1]
    exact around_after rfl rfl

end Sys2Proof.Machine
end

section
/-!
SUPPORT. The responses of the fabric (R47, R49, R50, R54, R55).
-/

namespace Sys2Proof.Machine

/-! ## The commands -/

section
variable {s : State} {p tag : Nat} (hh : s.held = false) (hp : p < 4) (ht : tag < 256)
include hh hp ht

theorem exec_gfpReadComplete {beats : List RdBeat} (hb : (beats.all fun b => b.data.length == 64) = true) :
    exec (.gfpReadComplete p tag beats) s = .next (after s (gfpRead s p tag beats)) := by
  unfold exec
  exact run_of_ok _ (by rw [hb]; simp [hp, ht]) hh

theorem exec_gfpWriteResponse (ok : Bool) : exec (.gfpWriteResponse p tag ok) s = .next (after s (gfpWrite s p tag ok)) := by
  unfold exec
  exact run_of_ok _ (by simp [hp, ht]) hh

theorem exec_gfpRequestTimeout : exec (.gfpRequestTimeout p tag) s = .next (after s (gfpTimeout s p tag)) := by
  unfold exec
  exact run_of_ok _ (by simp [hp, ht]) hh

end

/-! ## Stray and late responses (R55) -/

/-- A late response releases its tag. -/
theorem lateResponse_quar (s : State) {p : Nat} (tag : Nat) (hp : p < 4) : ∀ q ∈ ((lateResponse s p tag).port p).quar, q.tag ≠ tag := by
  have h : ((lateResponse s p tag).port p).quar = (s.port p).quar.filter fun q => q.tag != tag :=
    (congrArg Port.quar (pump_port s _ hp)).trans (pumpPort_quar ..)
  rw [h]
  intro q hq
  simpa using (List.mem_filter.1 hq).2

/-- A late response is counted. -/
theorem lateResponse_count (s : State) {p : Nat} (tag : Nat) (hp : p < 4) :
    (after s (lateResponse s p tag)).regN (A.movLateCnt p) = min (s.regN (A.movLateCnt p) + 1) (2 ^ 32 - 1) := by
  have ha : A.movLateCnt p ≠ A.glbPwrCtl ∧ A.movLateCnt p ≠ A.hqArDropCnt ∧ 0x050600 ≤ A.movLateCnt p ∧ A.movLateCnt p ≠ A.movPsnCnt := by
    unfold A.movLateCnt A.glbPwrCtl A.hqArDropCnt A.movPsnCnt; omega
  obtain ⟨h1, h2, h3, h4⟩ := ha
  rw [after_regN (by simp [lateResponse]) h1 h2 (.inr h3), lateResponse, State.regN_bump]
  rw [State.regN, pump_reg s p _ h4, State.regN]

theorem gfpRead_stray {s : State} {p tag : Nat} (beats : List RdBeat) (hf : (s.port p).find tag false = none)
    (hq : (s.port p).quarantined tag false = false) : gfpRead s p tag beats = s.bump (A.movStrayCnt p) := by
  simp [gfpRead, hf, hq, strayResponse]

theorem gfpRead_late {s : State} {p tag : Nat} {beats : List RdBeat} (hf : (s.port p).find tag false = none)
    (hq : (s.port p).quarantined tag false = true) (hb : (s.port p).quar.any (fun q => q.tag == tag && q.beats == beats.length) = true) :
    gfpRead s p tag beats = lateResponse s p tag := by
  simp only [gfpRead, hf, hq, hb, if_true]

theorem gfpWrite_stray {s : State} {p tag : Nat} (ok : Bool) (hf : (s.port p).find tag true = none)
    (hq : (s.port p).quarantined tag true = false) : gfpWrite s p tag ok = s.bump (A.movStrayCnt p) := by
  simp [gfpWrite, hf, hq, strayResponse]

theorem gfpWrite_late {s : State} {p tag : Nat} (ok : Bool) (hf : (s.port p).find tag true = none)
    (hq : (s.port p).quarantined tag true = true) : gfpWrite s p tag ok = lateResponse s p tag := by
  simp only [gfpWrite, hf, hq, if_true]

/-- Settles O17: a response without a request is stray or late, and either is one operation on the port. -/
theorem strayAndLateResponsesAreCounted : Obligations.StrayAndLateResponsesAreCounted := by
  refine fun s p tag hh hp ht => ⟨fun beats hb hf => ⟨fun hq => ⟨_, exec_gfpReadComplete hh hp ht hb, ?_⟩,
      fun hn hq => ⟨_, exec_gfpReadComplete hh hp ht hb, ?_⟩⟩,
    fun ok hf => ⟨fun hq => ⟨_, exec_gfpWriteResponse hh hp ht ok, ?_⟩, fun hq => ⟨_, exec_gfpWriteResponse hh hp ht ok, ?_⟩⟩⟩
  · rw [gfpRead_stray beats hf hq]
    exact around_after rfl rfl
  · rw [gfpRead_late hf hq hn, after_port]
    exact ⟨lateResponse_quar s tag hp, lateResponse_count s tag hp⟩
  · rw [gfpWrite_stray ok hf hq]
    exact around_after rfl rfl
  · rw [gfpWrite_late ok hf hq, after_port]
    exact ⟨lateResponse_quar s tag hp, lateResponse_count s tag hp⟩

/-! ## Responses of requests (R49, R50, R54) -/

theorem ostTake_none {s : State} (h : s.mover.ostPend = none) : ostTake s = s := by simp [ostTake, h]

/-- A read with a beat that is not OK has failed (R50). -/
theorem readEnd_failed {beats : List RdBeat} (h : (beats.any fun b => b.resp != .ok) = true) : readEnd beats = .err ∨ readEnd beats = .poison := by
  have hall : (beats.all fun b => b.resp == .ok) = false := by simpa using h
  unfold readEnd
  rw [hall]
  simp only [Bool.false_eq_true, if_false]
  split
  · exact .inl rfl
  · exact .inr rfl

theorem gfpRead_found {s : State} {p tag : Nat} {r : Req} {beats : List RdBeat} (hf : (s.port p).find tag false = some r)
    (hb : beats.length = r.beats) : gfpRead s p tag beats = ostTake (readDone (retire s p tag) r (readEnd beats) beats) := by
  simp only [gfpRead, hf, if_pos hb]

theorem gfpWrite_found {s : State} {p tag : Nat} {r : Req} (ok : Bool) (hf : (s.port p).find tag true = some r) :
    gfpWrite s p tag ok = ostTake (writeEnd (retire s p tag) r (if ok then .ok else .err)) := by
  simp only [gfpWrite, hf]

/-! ### Queue faults (R98) -/

theorem turnCheck_eq (s : State) : ∃ b, turnCheck s = { s with turnOn := b } := by
  unfold turnCheck
  split
  · split
    · exact ⟨_, rfl⟩
    · exact ⟨_, rfl⟩
  · exact ⟨_, rfl⟩

/-- The queue pair with a fault of a kind: 0 an SQ read, 1 a CQ write. -/
def QP.faulted (kind : Nat) (x : QP) : QP := { x with fault := true, cqFault := x.cqFault || kind == 1 }

/-- Beyond the queue pair a queue fault changes the alert ring, the registers and the turn. -/
theorem queueFault_eq (s : State) (q : QP) (kind resp addr : Nat) : ∃ r w n a p b,
    queueFault s q kind resp addr = { s.updQp q.qid (QP.faulted kind) with regs := r, wgl := w, ntf := n, alert := a, power := p, turnOn := b } := by
  obtain ⟨⟨r, w, n, a, p, h⟩, -⟩ := Fires.raise (s.updQp q.qid (QP.faulted kind))
    10 q.qid (kind + resp * 2 + q.port * 8) addr (if kind = 0 then q.head else q.tail)
  obtain ⟨b, hb⟩ := turnCheck_eq ((s.updQp q.qid (QP.faulted kind)).raise
    10 q.qid (kind + resp * 2 + q.port * 8) addr (if kind = 0 then q.head else q.tail))
  have hq : queueFault s q kind resp addr = turnCheck ((s.updQp q.qid (QP.faulted kind)).raise
    10 q.qid (kind + resp * 2 + q.port * 8) addr (if kind = 0 then q.head else q.tail)) := rfl
  exact ⟨r, w, n, a, p, b, hq.trans (hb.trans (by rw [h]))⟩

section
variable (s : State) (q : QP) (kind resp addr : Nat)

theorem queueFault_qp (k : Nat) : (queueFault s q kind resp addr).qp k = (s.updQp q.qid (QP.faulted kind)).qp k := by
  obtain ⟨_, _, _, _, _, _, h⟩ := queueFault_eq s q kind resp addr; rw [h]; rfl
theorem queueFault_slots : (queueFault s q kind resp addr).slots = s.slots := by
  obtain ⟨_, _, _, _, _, _, h⟩ := queueFault_eq s q kind resp addr; rw [h]; rfl
theorem queueFault_mover : (queueFault s q kind resp addr).mover = s.mover := by
  obtain ⟨_, _, _, _, _, _, h⟩ := queueFault_eq s q kind resp addr; rw [h]; rfl

end

/-- A failed read of a submission queue faults the queue pair that had no fault. -/
theorem readDone_sqRead_failed {s : State} {r : Req} {e : RdEnd} {q i n : Nat} {x : QP} (beats : List RdBeat) (hr : r.purpose = .sqRead q i n)
    (he : e = .err ∨ e = .poison) (hq : s.qp q = some x) (hf : x.fault = false) : readDone s r e beats = queueFault s x 0 e.code r.addr := by
  rcases he with rfl | rfl <;> simp [readDone, hr, hq, hf]

/-! ### Failures on the host side (R367) -/

/-- A running command after it has taken a condition: its count of bytes and its further pages may have shrunk. -/
theorem hit_slot {s : State} {n : Nat} {x : Slot} (st : Status) (h : s.slot n = some x) (hp : x.phase = .running) (hr : x.reject = none) :
    ∃ k, (hit s n st).slot n = some { x.meets st with todo := [], bytesOut := k } := by
  have hs : (stopOps (s.updSlot n (Slot.meets st)) n).slot n = some { x.meets st with todo := [] } := by
    rw [stopOps_slot]
    exact State.slot_updSlot_self (fun x => { x with todo := [] }) (fun _ => rfl) (State.slot_updSlot_self (Slot.meets st) (fun _ => rfl) h)
  rw [hit_of_open st h (by simp [hp, hr])]
  split
  · obtain ⟨ps, hu | ⟨k, hu⟩⟩ := unsend_eq (stopOps (s.updSlot n (Slot.meets st)) n) n
    · exact ⟨_, by rw [hu]; exact hs⟩
    · exact ⟨_, by rw [hu]; exact State.slot_updSlot_self (fun y => { y with bytesOut := y.bytesOut - k }) (fun _ => rfl) hs⟩
  · exact ⟨_, hs⟩

/-- Taking writes back leaves what is outstanding. -/
theorem unsend_port (s : State) (n p : Nat) : ((unsend s n).port p).out = (s.port p).out ∧ ((unsend s n).port p).quar = (s.port p).quar := by
  unfold unsend
  simp only
  split
  · exact ⟨rfl, rfl⟩
  · have h := List.getD_map (l := s.ports) (n := p) (d := Port.reset) fun x : Port => { x with wait := x.wait.filter fun r => !r.purpose.writesData n }
    have hp : ∀ f, (({ s with ports := s.ports.map fun x : Port => { x with wait := x.wait.filter fun r => !r.purpose.writesData n } } : State).updSlot n f).port p =
        { s.port p with wait := (s.port p).wait.filter fun r => !r.purpose.writesData n } := fun _ => h
    rw [hp]
    exact ⟨rfl, rfl⟩

theorem hit_port (s : State) (n : Nat) (st : Status) (p : Nat) :
    ((hit s n st).port p).out = (s.port p).out ∧ ((hit s n st).port p).quar = (s.port p).quar := by
  obtain h | h | h := hit_cases s n st <;> rw [h]
  · exact ⟨rfl, rfl⟩
  · exact ⟨rfl, rfl⟩
  · exact unsend_port _ n p

/-- The command with the stage, ring and reason of its first failure on the host side (R367). -/
def Slot.failedAt (stage ring reason : Nat) (x : Slot) : Slot :=
  if x.conds.any fun c => itemOf c == 5 then x else { x with stageNo := stage, ringNo := ring, reason := reason }

theorem Slot.failedAt_eq (stage ring reason : Nat) (x : Slot) : ∃ a b c, x.failedAt stage ring reason = { x with stageNo := a, ringNo := b, reason := c } := by
  unfold Slot.failedAt
  split
  · exact ⟨_, _, _, rfl⟩
  · exact ⟨_, _, _, rfl⟩

theorem hostFail_eq (s : State) (n : Nat) (st : Status) (stage ring reason : Nat) :
    hostFail s n st stage ring reason = hit (s.updSlot n (Slot.failedAt stage ring reason)) n st := rfl

/-- A host-side failure is a condition of the running command. -/
theorem hostFail_slot {s : State} {n : Nat} {x : Slot} (st : Status) (stage ring reason : Nat) (h : s.slot n = some x) (hp : x.phase = .running)
    (hr : x.reject = none) : ∃ y, (hostFail s n st stage ring reason).slot n = some y ∧ st ∈ y.conds ∧ y.noWrite = x.noWrite := by
  obtain ⟨a, b, c, he⟩ := x.failedAt_eq stage ring reason
  have hid (z : Slot) : (z.failedAt stage ring reason).id = z.id := by
    obtain ⟨_, _, _, hz⟩ := z.failedAt_eq stage ring reason
    rw [hz]
  have hs := State.slot_updSlot_self (Slot.failedAt stage ring reason) hid h
  rw [he] at hs
  obtain ⟨k, hk⟩ := hit_slot st hs hp hr
  exact ⟨_, hk, Slot.mem_conds_meets st { x with stageNo := a, ringNo := b, reason := c }, rfl⟩

/-- Beyond the command and its work a host-side failure changes nothing. -/
theorem hostFail_frame (s : State) (n : Nat) (st : Status) (stage ring reason : Nat) : ∃ sl os rs cs us ps,
    hostFail s n st stage ring reason = { s with slots := sl, ops := os, recov := rs, cws := cs, units := us, ports := ps } := by
  obtain ⟨sl, os, rs, cs, us, ps, h, -⟩ := hit_eq (s.updSlot n (Slot.failedAt stage ring reason)) n st
  exact ⟨sl, os, rs, cs, us, ps, by rw [hostFail_eq, h]; rfl⟩

section
variable (s : State) (n : Nat) (st : Status) (stage ring reason : Nat)

@[simp] theorem hostFail_mover : (hostFail s n st stage ring reason).mover = s.mover := by
  obtain ⟨_, _, _, _, _, _, h⟩ := hostFail_frame s n st stage ring reason; rw [h]
@[simp] theorem hostFail_build : (hostFail s n st stage ring reason).build = s.build := by
  obtain ⟨_, _, _, _, _, _, h⟩ := hostFail_frame s n st stage ring reason; rw [h]
@[simp] theorem hostFail_reg (a : Nat) : (hostFail s n st stage ring reason).reg a = s.reg a := by
  obtain ⟨_, _, _, _, _, _, h⟩ := hostFail_frame s n st stage ring reason; rw [h]; rfl

theorem hostFail_port (p : Nat) : ((hostFail s n st stage ring reason).port p).out = (s.port p).out ∧
    ((hostFail s n st stage ring reason).port p).quar = (s.port p).quar := hit_port _ n st p

end

/-! ### Timeouts (R54, R55) -/

/-- The port on which the request `r` with `tag` has run out. -/
def Port.expired (x : Port) (tag : Nat) (r : Req) : Port :=
  { x with out := x.out.filter fun q => q.tag != tag, quar := x.quar ++ [{ tag := tag, write := r.write, beats := r.beats }] }

theorem gfpTimeout_dataRead {s : State} {p tag n off : Nat} {r : Req}
    (hf : (s.port p).out.find? (fun q => q.tag == tag && decide (q.tfab ≤ s.aclk - q.sent)) = some r) (hw : r.write = false)
    (hr : r.purpose = .dataRead n off) : ∃ stage, gfpTimeout s p tag =
      ostTake (hostFail ((s.setPort p ((s.port p).expired tag r)).bump (A.movToCnt p)) n St.hostReadTimeout stage 0 0) := by
  simp only [gfpTimeout, hf, hw, readDone, hr, Bool.false_eq_true, if_false]
  exact ⟨_, by rw [← hw]; rfl⟩

/-- Before T_FAB nothing expires. -/
theorem gfpTimeout_early {s : State} {p tag : Nat} (h : ∀ q ∈ (s.port p).out, q.tag = tag → s.aclk - q.sent < q.tfab) : gfpTimeout s p tag = s := by
  have hf : (s.port p).out.find? (fun q => q.tag == tag && decide (q.tfab ≤ s.aclk - q.sent)) = none :=
    List.find?_eq_none.2 fun q hq => by simpa using h q hq
  rw [gfpTimeout]
  simp only [hf]

theorem filter_tag_ne {l : List Req} {tag : Nat} : ∀ q ∈ l.filter fun q => q.tag != tag, q.tag ≠ tag := fun q hq => by
  simpa using (List.mem_filter.1 hq).2

/-- The command with no further host write. -/
def Slot.silenced (x : Slot) : Slot := { x with noWrite := true }

/-- A failed data write fails its command. -/
theorem gfpWrite_dataWrite_failed {s : State} {p tag n : Nat} {r : Req} (hf : (s.port p).find tag true = some r) (hr : r.purpose = .dataWrite n) :
    gfpWrite s p tag false = ostTake (hostFail ((retire s p tag).updSlot n Slot.silenced) n St.hostWriteError 0 0 0) := by
  rw [gfpWrite_found false hf, writeEnd]
  simp only [hr]
  rfl

/-- A data write that is answered OK is over. -/
theorem gfpWrite_dataWrite_ok {s : State} {p tag n : Nat} {r : Req} (hf : (s.port p).find tag true = some r) (hr : r.purpose = .dataWrite n) :
    gfpWrite s p tag true = ostTake (retire s p tag) := by
  rw [gfpWrite_found true hf, writeEnd]
  simp only [hr]
  rfl

/-- Settles O18: each answer reaches the owner of its request, and with no output-store size pending nothing follows it. -/
theorem failedRequestsFailTheirOwners : Obligations.FailedRequestsFailTheirOwners := by
  refine fun s p tag hh hp ht hm => ⟨fun r q x beats hf hb h64 hbad ⟨i, n, hr⟩ hq hx => ?_,
    fun r n x hs hrun hrej => ⟨fun hf hr => ?_, fun hf hw ⟨off, hr⟩ => ?_⟩,
    fun he => ⟨_, exec_gfpRequestTimeout hh hp ht, ?_⟩, fun r n hf hr hwait hbeats => ⟨_, exec_gfpWriteResponse hh hp ht true, ?_⟩⟩
  · have hkey : x.qid = q := getBy_key hq
    have hstep : gfpRead s p tag beats = queueFault (retire s p tag) x 0 (readEnd beats).code r.addr := by
      rw [gfpRead_found hf hb, readDone_sqRead_failed beats hr (readEnd_failed hbad) ((retire_qp s p tag q).trans hq) hx, ostTake_none]
      rw [queueFault_mover, retire_mover, hm]
    refine ⟨_, x.faulted 0, exec_gfpReadComplete hh hp ht h64, ?_, rfl, Bool.or_false _, ?_⟩ <;> rw [hstep]
    · rw [after_qp, queueFault_qp, hkey]
      exact State.qp_updQp_self (QP.faulted 0) (fun _ => rfl) ((retire_qp s p tag q).trans hq)
    · rw [after_slots, queueFault_slots, retire_slots]
  · have hsil := State.slot_updSlot_self (s := retire s p tag) Slot.silenced (fun _ => rfl) ((retire_slot s p tag n).trans hs)
    obtain ⟨y, hy, hcond, hno⟩ := hostFail_slot St.hostWriteError 0 0 0 hsil hrun hrej
    refine ⟨_, y, exec_gfpWriteResponse hh hp ht false, ?_, hcond, hno⟩
    rw [gfpWrite_dataWrite_failed hf hr, ostTake_none (by simpa using hm), after_slot, hy]
  · obtain ⟨stage, htime⟩ := gfpTimeout_dataRead hf hw hr
    have hport := State.port_setPort_self s ((s.port p).expired tag r) hp
    obtain ⟨y, hy, hcond, -⟩ := hostFail_slot (s := (s.setPort p ((s.port p).expired tag r)).bump (A.movToCnt p)) St.hostReadTimeout stage 0 0 hs hrun hrej
    obtain ⟨hout, hquar⟩ := hostFail_port ((s.setPort p ((s.port p).expired tag r)).bump (A.movToCnt p)) n St.hostReadTimeout stage 0 0 p
    rw [ostTake_none (by simpa using hm)] at htime
    refine ⟨_, y, exec_gfpRequestTimeout hh hp ht, ?_, hcond, ?_, ?_, ?_⟩ <;> rw [htime]
    · rw [after_slot, hy]
    · have ha : A.movToCnt p ≠ A.glbPwrCtl ∧ A.movToCnt p ≠ A.hqArDropCnt ∧ 0x050600 ≤ A.movToCnt p := by
        unfold A.movToCnt A.glbPwrCtl A.hqArDropCnt; omega
      obtain ⟨h1, h2, h3⟩ := ha
      rw [after_regN (by simp) h1 h2 (.inr h3), State.regN, hostFail_reg]
      exact State.regN_bump _ _ 1
    · rw [after_port, hquar]
      refine ⟨{ tag := tag, write := r.write, beats := r.beats }, ?_, rfl, hw⟩
      change _ ∈ ((s.setPort p _).port p).quar
      rw [hport]
      exact List.mem_append_right _ (List.mem_singleton_self _)
    · rw [after_port, hout]
      change ∀ q ∈ ((s.setPort p _).port p).out, q.tag ≠ tag
      rw [hport]
      exact filter_tag_ne
  · rw [gfpTimeout_early he]
    exact around_after rfl rfl
  · rw [gfpWrite_dataWrite_ok hf hr, ostTake_none (by simpa using hm), retire, pump_idle s p (by exact hwait) (by exact hbeats)]
    exact around_after rfl rfl

end Sys2Proof.Machine
end

section
/-!
SUPPORT. Notification messages (R46, R398) and refused accesses (R57, R61).
-/

namespace Sys2Proof.Machine

/-! ## A message leaves -/

/-- A lone request leaves a port that waits for nothing and has a credit and a tag. -/
theorem pumpPort_lone (now tfab : Nat) {x : Port} {r : Req} {tag : Nat} (hw : x.wait = [r]) (hc : 0 < x.rqCrd) (ht : freeTag x = some tag) :
    (pumpPort now tfab x).out = x.out ++ [{ r with tag := tag, sent := now, tfab := tfab }] := by
  unfold pumpPort
  rw [hw, transfer_cons now tfab r [] ht hc]
  rfl

theorem exec_notificationMessage {s : State} {k : Nat} (hh : s.held = false) (hk : k < 64) :
    exec (.notificationMessage k) s = .next (after s (sendMessage s k)) := by
  unfold exec
  exact run_of_ok _ (decide_eq_true hk) hh

/-- A target whose message is on its way, and counted. -/
def State.messageSent (s : State) (k : Nat) : State := (s.setTgt { s.tgt k with due := false, out := true }).bump A.ntfMsgCnt

theorem sendMessage_due {s : State} {k : Nat} (hdue : (s.tgt k).due = true) (hout : (s.tgt k).out = false) (herr : (s.tgt k).msgErr = false)
    (hst : s.stopped = false) (hp : s.power.st = .p0) : sendMessage s k =
      pump (s.messageSent k) 0 { s.port 0 with wait := (s.port 0).wait ++ [messageReq 0 k (s.pair (A.ntfTgtAddrLo k)) (s.regN (A.ntfTgtData k))] } := by
  rw [sendMessage, if_neg (by simp [hdue, hout, herr, hst, hp])]
  exact if_neg (Bool.eq_false_iff.1 hst)

theorem messageSent_tgt_out (s : State) (k : Nat) : ((s.messageSent k).tgt k).out = true := by
  have h := s.tgt_setTgt_self { s.tgt k with due := false, out := true }
  rw [show ({ s.tgt k with due := false, out := true } : Tgt).t = k from s.tgt_t k] at h
  exact congrArg Tgt.out h

/-! ## The response of a message -/

/-- The target after its message has been answered. -/
def Tgt.answered (x : Tgt) (ok : Bool) : Tgt := { x with out := false, msgErr := x.msgErr || !ok }

theorem messageEnd_tgt (s : State) (k : Nat) (ok : Bool) : (messageEnd s k ok).tgt k = (s.tgt k).answered ok := by
  have h : (s.setTgt ((s.tgt k).answered ok)).tgt k = (s.tgt k).answered ok := by
    have h := s.tgt_setTgt_self ((s.tgt k).answered ok)
    rwa [show ((s.tgt k).answered ok).t = k from s.tgt_t k] at h
  cases ok with
  | true => exact h
  | false => exact h

theorem messageEnd_count (s : State) (k : Nat) (ok : Bool) : (messageEnd s k ok).regN A.ntfMsgErrCnt =
    if ok then s.regN A.ntfMsgErrCnt else min (s.regN A.ntfMsgErrCnt + 1) (2 ^ 32 - 1) := by
  cases ok with
  | true => rfl
  | false => exact State.regN_bump _ _ 1

/-- Beyond the target and its count of errors the response changes nothing. -/
theorem messageEnd_frame (s : State) (k : Nat) (ok : Bool) : ∃ n rs, messageEnd s k ok = { s with ntf := n, regs := rs } := by
  cases ok with
  | true => exact ⟨_, _, rfl⟩
  | false => exact ⟨_, _, rfl⟩

theorem gfpWrite_message {s : State} {p tag k : Nat} {r : Req} (ok : Bool) (hm : s.mover.ostPend = none) (hf : (s.port p).find tag true = some r)
    (hr : r.purpose = .message k) : gfpWrite s p tag ok = messageEnd (retire s p tag) k ok := by
  have he : writeEnd (retire s p tag) r (if ok then .ok else .err) = messageEnd (retire s p tag) k ok := by
    simp only [writeEnd, hr]
    cases ok with
    | true => rfl
    | false => rfl
  obtain ⟨n, rs, h⟩ := messageEnd_frame (retire s p tag) k ok
  rw [gfpWrite_found ok hf, he, ostTake_none]
  rw [h]
  simpa using hm

/-- Settles O27: a due message is one request on port 0, and its response ends it. -/
theorem messageWriteHasNotifyForm : Obligations.MessageWriteHasNotifyForm := by
  refine fun s k ⟨hh, hp0⟩ hk => ⟨fun hdue hout herr hst hw hc tag ht => ⟨_, exec_notificationMessage hh hk, ?_⟩,
    fun p tag r ok hp htag hm hf hr => ⟨_, exec_gfpWriteResponse hh hp htag ok, ?_⟩⟩
  · rw [sendMessage_due hdue hout herr hst hp0]
    refine ⟨?_, ?_, ?_⟩
    · rw [(after_tgt (by simp [State.messageSent]) (by simp [State.messageSent]) k).2.2, State.tgt, pump_ntf]
      exact messageSent_tgt_out s k
    · rw [after_regN (by simp [State.messageSent]) (by decide) (by decide) (by decide), State.regN, pump_reg _ _ _ (by decide)]
      exact State.regN_bump _ _ 1
    · have hreg : (s.messageSent k).reg (A.movTfab 0) = s.reg (A.movTfab 0) := State.reg_bump_ne _ 1 (by decide)
      rw [after_port, pump_port _ _ (by omega), hreg]
      exact pumpPort_lone (r := messageReq 0 k _ _) _ _ (by rw [hw]; rfl) hc ht
  · rw [gfpWrite_message ok hm hf hr]
    obtain ⟨n, rs, he⟩ := messageEnd_frame (retire s p tag) k ok
    have hpend : (messageEnd (retire s p tag) k ok).pending = s.pending := by rw [he]; exact retire_pending s p tag
    have hbuild : (messageEnd (retire s p tag) k ok).build = s.build := by rw [he]; exact retire_build s p tag
    obtain ⟨-, herr, hout⟩ := after_tgt hpend hbuild k
    rw [hout, herr, messageEnd_tgt, retire_tgt, after_regN hbuild (by decide) (by decide) (by decide), messageEnd_count, State.regN,
      retire_reg s p tag (by decide)]
    exact ⟨rfl, rfl, rfl⟩

end Sys2Proof.Machine
end

section
/-!
SUPPORT. Accesses without effect: of the target port (R57) and of the management port (R61).
-/

namespace Sys2Proof.Machine

/-! ## The target port (R44, R57) -/

theorem exec_targetPortErr {s : State} (off len be : Nat) (write : Bool) (hh : s.held = false) : exec (.targetPortErr off write len be) s =
    .next (after s (if s.tpDefined (off % 0x2000000) len be then (if write then s else tpRequest s (off % 0x2000000) false 0)
      else tpServe s 0x440000 write 0 fun t => tpErr t write)) := by
  unfold exec
  exact run_of_ok _ rfl hh

/-- With INIT_DONE a request that reaches the target port in P0 is served. -/
theorem tpServe_p0 {s : State} (o : Nat) (write : Bool) (v : Word) (f : State → State) (hd : s.init.done = true) (hp : s.power.st = .p0) :
    tpServe s o write v f = f s := by
  simp [tpServe, hd, hp, leaveP1_of_ne]

/-- The two doorbells of a queue pair that exists are defined locations (R56). -/
theorem tpDefined_bell {s : State} {q o be : Nat} {x : QP} (hq : q < 1024) (hx : s.qp q = some x) (ho : o = 0 ∨ o = 8) (hb : be = 15 <<< o) :
    s.tpDefined (0x1000 * q + o) 0 be = true := by
  have h1 : (0x1000 * q + o) % 0x1000 = o := by omega
  have h2 : (0x1000 * q + o) / 0x1000 = q := by omega
  have h3 : (0x1000 * q + o) % 64 = o := by omega
  have h4 : (0x1000 * q + o) % 4 = 0 := by omega
  have h5 : 0x1000 * q + o < 0x400000 := by omega
  simp [State.tpDefined, h1, h2, h3, h4, h5, hx, hb, ho]

/-- A read of a doorbell is answered with the value recorded. -/
theorem tpRequest_bell {s : State} {q o : Nat} {x : QP} (hd : s.init.done = true) (hp : s.power.st = .p0) (hq : q < 1024) (hx : s.qp q = some x)
    (ho : o < 0x1000) : tpRequest s (0x1000 * q + o) false 0 =
      tpRespond s false false (BitVec.ofNat 32 (if o == 0 then x.bell else x.cqHead)) := by
  have h1 : (0x1000 * q + o) % 0x1000 = o := by omega
  have h2 : (0x1000 * q + o) / 0x1000 = q := by omega
  rw [tpRequest, if_pos (by omega), tpServe_p0 _ _ _ _ hd hp, if_neg (by simp), h1, h2, bellRead, hx]

theorem exec_bell {s : State} {q o be : Nat} {x : QP} (hh : s.held = false) (hd : s.init.done = true) (hp : s.power.st = .p0) (hq : q < 1024)
    (hx : s.qp q = some x) (ho : o = 0 ∨ o = 8) (hb : be = 15 <<< o) : exec (.targetPortErr (0x1000 * q + o) false 0 be) s =
      .next (after s (tpRespond s false false (BitVec.ofNat 32 (if o == 0 then x.bell else x.cqHead)))) := by
  rw [exec_targetPortErr _ _ _ _ hh, Nat.mod_eq_of_lt (by omega), if_pos (tpDefined_bell hq hx ho hb), if_neg (by simp),
    tpRequest_bell hd hp hq hx (by omega)]

/-! ## Offsets without a register (R61) -/

/-- Where there is no register nothing is DENIED, at RPL2 neither. -/
theorem denied_of_no_register {s : State} {a : Nat} (hd : s.init.done = true) (hf : Reg.find a = none) : s.denied a = false := by
  have hne : a ≠ A.secRplReq := by
    rintro rfl
    exact absurd hf (by decide)
  exact denied_false' hd (by simpa using hne) (by simp [rowBase, hf]) (by simp [rowBase, hf])

theorem accessWrite_no_register {s : State} {a : Nat} (v : Word) (hd : s.init.done = true) (hp : s.power.st = .p0) (hf : Reg.find a = none) :
    accessWrite s .mport a v none = mpAnswer (keyBreak s) false 0 := by
  have hne : (a != A.secRplReq) = true := by
    rw [bne_iff_ne]
    rintro rfl
    exact absurd hf (by decide)
  rw [accessWrite_mport v hp (denied_of_no_register hd hf) hne, writeReg, hf]

/-- Settles O20: each access that is refused, and each read of a doorbell, is its answer and no more. -/
theorem refusedAccessesHaveNoEffect : Obligations.RefusedAccessesHaveNoEffect := by
  refine fun s ⟨hh, hp⟩ => ⟨fun off len be write hd ht => ⟨_, exec_targetPortErr off len be write hh, ?_⟩,
    fun q x hd hq hx => ⟨⟨_, exec_bell (o := 0) hh hd hp hq hx (.inl rfl) rfl, around_after rfl rfl⟩,
      ⟨_, exec_bell (o := 8) hh hd hp hq hx (.inr rfl) (by decide), around_after rfl rfl⟩⟩,
    fun a v h4 ha => ?_⟩
  · rw [if_neg (by simp [ht]), tpServe_p0 _ _ _ _ hd hp]
    exact around_after rfl rfl
  · have hoff : offsetOk a = true := by simp [offsetOk, ha, h4]
    have hb : s.pins.bist = false := by
      simp only [State.held, Bool.or_eq_false_iff] at hh
      exact hh.2
    refine ⟨fun hd hr h2 => ⟨_, exec_registerWrite _ v _ hoff hb, ?_⟩, fun hd hf => ⟨_, exec_registerWrite _ v _ hoff hb, ?_⟩⟩
    · rw [accessWrite_denied v hp (denied_of_not_done hd h2 hr)]
      exact around_after rfl rfl
    · rw [accessWrite_no_register v hd hp hf]
      exact around_after rfl rfl

end Sys2Proof.Machine
end

section
/-!
SUPPORT. Completions and their status (R51, R83, R91, R128, R138, R368).
-/

namespace Sys2Proof.Machine

/-! ## What a request that is issued leaves unchanged -/

theorem issue_frame (s : State) (p : Nat) (r : Req) : ∃ rs ps, issue s p r = { s with regs := rs, ports := ps } := by
  unfold issue
  split
  · exact ⟨_, _, rfl⟩
  · exact pump_frame ..

theorem issue_reg (s : State) (p : Nat) (r : Req) {a : Nat} (h : a ≠ A.movPsnCnt) : (issue s p r).reg a = s.reg a := by
  unfold issue
  split
  · rfl
  · exact pump_reg _ _ _ h

section
variable (s : State) (p : Nat) (r : Req)

theorem issue_slot (n : Nat) : (issue s p r).slot n = s.slot n := by obtain ⟨_, _, h⟩ := issue_frame s p r; rw [h]; rfl
theorem issue_qp (q : Nat) : (issue s p r).qp q = s.qp q := by obtain ⟨_, _, h⟩ := issue_frame s p r; rw [h]; rfl
theorem issue_alert : (issue s p r).alert = s.alert := by obtain ⟨_, _, h⟩ := issue_frame s p r; rw [h]

end

/-! ## The status of a finished command (R138) -/

theorem itemOf_mem (st : Status) : itemOf st ∈ [1, 2, 3, 4, 5, 6] := by
  unfold itemOf
  split_ifs <;> decide

/-- Of conditions taken item by item in rising order the first has the least item. -/
theorem head_byItem_le {l : List Status} {f c : Status} (hc : c ∈ l) : ∀ {is : List Nat}, is.Pairwise (· < ·) → itemOf c ∈ is →
    (is.flatMap fun i => l.filter fun d => itemOf d == i).head? = some f → f ∈ l ∧ itemOf f ≤ itemOf c
  | [], _, hm, _ => by cases hm
  | i :: is, hs, hm, hf => by
    obtain ⟨hi, hs⟩ := List.pairwise_cons.1 hs
    rw [List.flatMap_cons] at hf
    cases hfil : l.filter fun d => itemOf d == i with
    | nil =>
      rw [hfil, List.nil_append] at hf
      have hne : itemOf c ≠ i := fun h => by
        have := List.filter_eq_nil_iff.1 hfil c hc
        simp [h] at this
      exact head_byItem_le hc hs ((List.mem_cons.1 hm).resolve_left hne) hf
    | cons d ds =>
      have hd : d ∈ l.filter fun d => itemOf d == i := hfil ▸ List.mem_cons_self
      rw [hfil] at hf
      obtain rfl := Option.some.inj hf
      obtain ⟨hl, hitem⟩ := List.mem_filter.1 hd
      have hdi : itemOf d = i := by simpa using hitem
      refine ⟨hl, hdi ▸ ?_⟩
      obtain h | h := List.mem_cons.1 hm
      · exact h.ge
      · exact (hi _ h).le

/-- The condition reported is one of those met, of the highest item. -/
theorem firstCond_spec {l : List Status} {c : Status} (hc : c ∈ l) (hmin : ∀ d ∈ l, itemOf c ≤ itemOf d) :
    ∃ f, firstCond l = some f ∧ f ∈ l ∧ itemOf f = itemOf c := by
  cases hf : firstCond l with
  | none =>
    have hnil : ([1, 2, 3, 4, 5, 6].flatMap fun i => l.filter fun d => itemOf d == i) = [] := List.head?_eq_none_iff.1 hf
    have := List.flatMap_eq_nil_iff.1 hnil _ (itemOf_mem c)
    exact absurd (beq_self_eq_true _) (List.filter_eq_nil_iff.1 this c hc)
  | some f =>
    obtain ⟨hfl, hle⟩ := head_byItem_le hc (by decide) (itemOf_mem c) hf
    exact ⟨f, rfl, hfl, le_antisymm hle (hmin f hfl)⟩

theorem finalStatus_reject {x : Slot} {st : Status} (h : x.reject = some st) : x.finalStatus = st := by simp [Slot.finalStatus, h]

theorem finalStatus_cond {x : Slot} {c : Status} (hc : c ∈ x.conds) (hr : x.reject = none) (hmin : ∀ d ∈ x.conds, itemOf c ≤ itemOf d) :
    x.finalStatus ∈ x.conds ∧ itemOf x.finalStatus = itemOf c := by
  obtain ⟨f, hf, hfl, hi⟩ := firstCond_spec hc hmin
  have : x.finalStatus = f := by simp [Slot.finalStatus, hr, hf]
  rw [this]
  exact ⟨hfl, hi⟩

/-- Without a condition the outcomes decide. -/
theorem finalStatus_soft {x : Slot} (hr : x.reject = none) (hc : x.conds = []) : x.finalStatus = softStatus x := by
  simp [Slot.finalStatus, hr, hc, firstCond]

/-- Neither a gather nor a SCAN replaces the status of its outcomes. -/
theorem softStatus_plain {x : Slot} (hg : x.entry.opc ≠ Opc.gather) (hs : x.entry.opc ≠ Opc.scan) : softStatus x =
    if St.mediaUncorrectable ∈ x.outc then St.mediaUncorrectable else if St.boundReached ∈ x.outc then St.boundReached
    else if St.okErased ∈ x.outc then St.okErased else if St.okRetried ∈ x.outc then St.okRetried
    else if 0x01 ∈ x.outc then St.okWarn else St.ok := by
  simp only [softStatus, beq_eq_false_iff_ne.2 hg, beq_eq_false_iff_ne.2 hs, Bool.false_and, Bool.false_eq_true, if_false,
    List.contains_iff_mem]
  rfl

/-- The status of every finished command. -/
theorem finalStatus_spec (x : Slot) : (∀ st, x.reject = some st → x.finalStatus = st) ∧
    (∀ c ∈ x.conds, x.reject = none → (∀ d ∈ x.conds, itemOf c ≤ itemOf d) → x.finalStatus ∈ x.conds ∧ itemOf x.finalStatus = itemOf c) ∧
    (x.reject = none → x.conds = [] → x.entry.opc ≠ Opc.gather → x.entry.opc ≠ Opc.scan →
      (St.mediaUncorrectable ∈ x.outc → x.finalStatus = St.mediaUncorrectable) ∧
      (St.mediaUncorrectable ∉ x.outc → St.boundReached ∈ x.outc → x.finalStatus = St.boundReached) ∧
      (St.mediaUncorrectable ∉ x.outc → St.boundReached ∉ x.outc → St.okErased ∈ x.outc → x.finalStatus = St.okErased) ∧
      (St.mediaUncorrectable ∉ x.outc → St.boundReached ∉ x.outc → St.okErased ∉ x.outc → St.okRetried ∈ x.outc → x.finalStatus = St.okRetried) ∧
      (x.outc = [] → x.finalStatus = St.ok)) := by
  refine ⟨fun st => finalStatus_reject, fun c hc hr hmin => finalStatus_cond hc hr hmin, fun hr hc hg hs => ?_⟩
  rw [finalStatus_soft hr hc, softStatus_plain hg hs]
  exact ⟨fun h => if_pos h, fun h1 h2 => by rw [if_neg h1, if_pos h2], fun h1 h2 h3 => by rw [if_neg h1, if_neg h2, if_pos h3],
    fun h1 h2 h3 h4 => by rw [if_neg h1, if_neg h2, if_neg h3, if_pos h4], fun h => by simp [h]⟩

/-! ## The read-back (R368) -/

theorem exec_durableReadback {s : State} {n : Nat} {x : Slot} (hh : s.held = false) (hn : n < Config.slotCount) (hx : s.slot n = some x) :
    exec (.durableReadback n) s =
      .next (after s (if s.finished x && !s.aggDue x && s.readbackDue x && x.readback == 0 && !s.stopped then readBack s n else s)) := by
  have h : exec (.durableReadback n) s = .next (after s (match s.slot n with
      | none => s
      | some x => if s.finished x && !s.aggDue x && s.readbackDue x && x.readback == 0 && !s.stopped then readBack s n else s)) := by
    unfold exec
    exact run_of_ok _ (decide_eq_true hn) hh
  rw [h, hx]

/-- The command whose read-back is outstanding. -/
def Slot.readingBack (x : Slot) : Slot := { x with readback := 1 }

theorem readBack_eq {s : State} {n a : Nat} {bad : Bool} {x : Slot} (hx : s.slot n = some x) (hl : x.lastLine = some (a, bad)) :
    readBack s n = issue (s.updSlot n Slot.readingBack) x.lastPort (mkRead a 64 true (.readback n)) := by
  simp only [readBack, hx, hl]
  rfl

/-! ## The completion (R51, R83, R91) -/

/-- The command held as the `k`-th completion that became ready, for want of space in its CQ. -/
def Slot.heldFull (x : Slot) (k : Nat) : Slot := { x with ready := k, phase := .fullHeld, cqHeld := true }

/-- What is found under a key is in the list. -/
theorem mem_of_getBy {α : Type} {key : α → Nat} {k : Nat} {x : α} : ∀ {l : List α}, getBy key k l = some x → x ∈ l
  | [], h => by cases h
  | y :: l, h => by
    simp only [getBy] at h
    split at h
    · exact List.mem_cons.2 (.inl (Option.some.inj h).symm)
    · exact List.mem_cons_of_mem y (mem_of_getBy h)

theorem exec_completionWrite {s : State} {n : Nat} (hh : s.held = false) (hn : n < Config.slotCount) :
    exec (.completionWrite n) s = .next (after s (completionWrite s n)) := by
  unfold exec
  exact run_of_ok _ (decide_eq_true hn) hh

section
variable {s : State} {n : Nat} {x : Slot} (hst : s.stopped = false) (hsm : s.smoking = false) (hp : s.power.st ≠ .p2) (hx : s.slot n = some x)
  (hr : purgeRings s = s) (hpo : s.slotPoisoned n = false) (hc : s.calibrating n = false)
include hst hsm hp hx hr hpo hc

/-- With no unit to purge, no calibration and no poison, nothing happens to a command that has not finished. -/
theorem completionWrite_unfinished (hfin : s.finished x = false) : completionWrite s n = s := by
  have hguard : ¬(s.stopped || s.power.st == .p2 || (s.smoking && s.smoke.step != 8)) = true := by simp [hst, hsm, hp]
  rw [completionWrite, if_neg hguard]
  simp [hr, hx, hc, hpo, hfin]

/-- Then a finished command that needs neither results, read-back nor record is complete. -/
theorem completionWrite_finished (hfin : s.finished x = true) (hagg : s.aggDue x = false) (hdue : s.readbackDue x = false)
    (hrec : (recordOf x).isNone = true) (hrep : x.report = false) : completionWrite s n = completeCmd s x := by
  have hguard : ¬(s.stopped || s.power.st == .p2 || (s.smoking && s.smoke.step != 8)) = true := by simp [hst, hsm, hp]
  rw [completionWrite, if_neg hguard]
  simp [hr, hx, hc, hpo, hfin, hagg, hdue, Option.isNone_iff_eq_none.1 hrec, hrep]

end

/-- The command `x` with its status, result and latency settled, and what it held at admission given back. -/
def State.completed (s : State) (x : Slot) : Slot :=
  { x with status := x.finalStatus, res0 := s.finalRes0 x x.finalStatus, latu := s.latuOf x, charged := false, credits := [],
           entry := { x.entry with cid := s.cleanField x.id 2 2 x.entry.cid, tag := s.cleanField x.id 0x38 4 x.entry.tag } }

/-- A completion settles its command, counts a breached bound, and frees what sanitizes and calibrations hold. -/
theorem completeCmd_eq (s : State) (x : Slot) : ∃ rs sn rv, completeCmd s x =
      ostTake (postReady { s.setSlot (s.completed x) with regs := rs, san := sn, rlv := rv } x.id) ∧
    ∀ a, a ≠ A.admBreachCnt x.entry.lcls → ({ s with regs := rs } : State).reg a = s.reg a := by
  by_cases hb : x.outc.contains St.boundReached = true <;>
  by_cases hs : (x.entry.opc == Opc.sanitize && x.reject.isNone && x.phase == Phase.running) = true
  all_goals simp only [completeCmd, hb, hs, if_true, Bool.false_eq_true, if_false]
  · exact ⟨_, _, _, rfl, fun a ha => State.reg_bump_ne s 1 ha⟩
  · exact ⟨_, _, _, rfl, fun a ha => State.reg_bump_ne s 1 ha⟩
  · exact ⟨_, _, _, rfl, fun a ha => rfl⟩
  · exact ⟨_, _, _, rfl, fun a ha => rfl⟩

/-- Taking the size of the output store changes the mover's pending size and its register. -/
theorem ostTake_eq (s : State) : ∃ m rs, ostTake s = { s with mover := m, regs := rs } ∧
    ∀ a, a ≠ A.movOstoreCfg → (ostTake s).reg a = s.reg a := by
  unfold ostTake
  split
  · exact ⟨_, _, rfl, fun _ _ => rfl⟩
  · split
    · exact ⟨_, _, rfl, fun _ _ => rfl⟩
    · simp only
      split
      · exact ⟨_, _, rfl, fun a ha => State.reg_setReg_ne _ _ ha⟩
      · exact ⟨_, _, rfl, fun _ _ => rfl⟩

section
variable (s : State)

theorem ostTake_slot (n : Nat) : (ostTake s).slot n = s.slot n := by obtain ⟨_, _, h, -⟩ := ostTake_eq s; rw [h]; rfl
theorem ostTake_qp (q : Nat) : (ostTake s).qp q = s.qp q := by obtain ⟨_, _, h, -⟩ := ostTake_eq s; rw [h]; rfl
theorem ostTake_asked (p : Nat) : (ostTake s).asked p = s.asked p := by obtain ⟨_, _, h, -⟩ := ostTake_eq s; rw [h]; rfl
theorem ostTake_qps : (ostTake s).qps = s.qps := by obtain ⟨_, _, h, -⟩ := ostTake_eq s; rw [h]
theorem ostTake_ports : (ostTake s).ports = s.ports := by obtain ⟨_, _, h, -⟩ := ostTake_eq s; rw [h]
theorem ostTake_build : (ostTake s).build = s.build := by obtain ⟨_, _, h, -⟩ := ostTake_eq s; rw [h]
theorem ostTake_reg {a : Nat} (ha : a ≠ A.movOstoreCfg) : (ostTake s).reg a = s.reg a := by
  obtain ⟨_, _, -, h⟩ := ostTake_eq s
  exact h a ha

end

/-- No completion of a queue pair is held while the command's own is not: to complete it changes no phase. -/
theorem cqHolds_setSlot {s : State} {y : Slot} {q : Nat} (h : s.cqHolds q = false) (hy : (y.qid == q && y.phase == .fullHeld) = false) :
    (s.setSlot y).cqHolds q = false := by
  rw [State.cqHolds, List.any_eq_false] at h ⊢
  intro z hz
  obtain rfl | hz := mem_putBy hz
  · simpa using hy
  · exact h z hz

section
variable {s : State} {n : Nat} {x : Slot} {q : QP} (hx : s.slot n = some x) (hq : s.qp x.qid = some q) (hb : s.cqHalfBad x.qid = false)
  (hf : q.cqFault = false) (hc : s.cqHolds x.qid = false)
include hx hq hb hf hc

/-- A completion with room in the CQ is written. -/
theorem postReady_write (hfull : q.cqFull = false) :
    postReady s n = writeCq { s with readyNo := s.readyNo + 1 } { x with ready := s.readyNo } q false := by
  have hkey : q.qid = x.qid := getBy_key hq
  simp only [postReady, hx, hq, hkey, hb, hf, hc, hfull, Bool.false_eq_true, if_false]

/-- A completion without room in the CQ is held, and counted. -/
theorem postReady_full (hfull : q.cqFull = true) : postReady s n = turnCheck
    ((({ s with readyNo := s.readyNo + 1 } : State).setSlot (x.heldFull s.readyNo)).bump (A.hqQpCqfullCnt x.qid)) := by
  have hkey : q.qid = x.qid := getBy_key hq
  simp only [postReady, hx, hq, hkey, hb, hf, hc, hfull, Bool.false_eq_true, if_false, if_true]
  rfl

/-- What a completion that is held leaves. -/
theorem postReady_full_spec (hfull : q.cqFull = true) : (postReady s n).slot n = some (x.heldFull s.readyNo) ∧ (postReady s n).qps = s.qps ∧
    (postReady s n).ports = s.ports ∧ (postReady s n).build = s.build ∧
    (postReady s n).regN (A.hqQpCqfullCnt x.qid) = min (s.regN (A.hqQpCqfullCnt x.qid) + 1) (2 ^ 32 - 1) := by
  obtain rfl : x.id = n := getBy_key hx
  obtain ⟨b, h⟩ := turnCheck_eq ((({ s with readyNo := s.readyNo + 1 } : State).setSlot (x.heldFull s.readyNo)).bump (A.hqQpCqfullCnt x.qid))
  rw [postReady_full hx hq hb hf hc hfull, h]
  exact ⟨State.slot_setSlot_self s (x.heldFull s.readyNo), rfl, rfl, rfl,
    State.regN_bump (({ s with readyNo := s.readyNo + 1 } : State).setSlot (x.heldFull s.readyNo)) (A.hqQpCqfullCnt x.qid) 1⟩

end

/-- The queue pair after an entry has been written to its CQ (R82). -/
def QP.wrote (q : QP) : QP :=
  if q.tail + 1 = q.cqSize then { q with tail := 0, wphase := !q.wphase } else { q with tail := q.tail + 1 }

theorem QP.wrote_spec (q : QP) : q.wrote.qid = q.qid ∧ q.wrote.tail = (if q.tail + 1 = q.cqSize then 0 else q.tail + 1) ∧
    q.wrote.wphase = (if q.tail + 1 = q.cqSize then !q.wphase else q.wphase) := by
  unfold QP.wrote
  split
  · exact ⟨rfl, rfl, rfl⟩
  · exact ⟨rfl, rfl, rfl⟩

/-- The command whose entry is on its way to index `i` of its CQ. -/
def Slot.posting (x : Slot) (i : Nat) (held : Bool) : Slot := { x with phase := .posting, cqIdx := i, cqHeld := x.cqHeld || held }

/-- A write of a CQ entry is one request, from a state in which the command and the queue pair have moved on. -/
theorem writeCq_eq (s : State) (x : Slot) (q : QP) (held : Bool) : ∃ rs, writeCq s x q held =
    issue { (s.setSlot (x.posting q.tail held)).setQp q.wrote with regs := rs } q.port
      (mkWrite (q.cqBase + 32 * q.tail) (cqBytes (x.posting q.tail held) q.head q.wphase) false false (.cqWrite q.qid q.tail x.id)) := by
  by_cases h : s.isLate x = true
  · exact ⟨_, by rw [writeCq]; simp only [h, if_true]; rfl⟩
  · exact ⟨_, by rw [writeCq]; simp only [h]; rfl⟩

/-- What the write of a CQ entry leaves of the command, the queue pair and the port. -/
theorem writeCq_spec {s : State} (x : Slot) {q : QP} (held : Bool) (hst : s.stopped = false) (hp : q.port < 4) :
    (writeCq s x q held).slot x.id = some (x.posting q.tail held) ∧ (writeCq s x q held).qp q.qid = some q.wrote ∧
    (writeCq s x q held).asked q.port = s.asked q.port ++
      [mkWrite (q.cqBase + 32 * q.tail) (cqBytes (x.posting q.tail held) q.head q.wphase) false false (.cqWrite q.qid q.tail x.id)] := by
  obtain ⟨rs, h⟩ := writeCq_eq s x q held
  rw [h]
  refine ⟨?_, ?_, asked_issue _ hp hst⟩
  · rw [issue_slot]
    exact State.slot_setSlot_self s (x.posting q.tail held)
  · rw [issue_qp]
    have := getBy_putBy_self QP.qid q.wrote s.qps
    rwa [q.wrote_spec.1] at this

/-- A completion becomes ready in a state that has the settled command and is otherwise as before for its queue pair. -/
theorem completeCmd_ready {s : State} {n : Nat} {x : Slot} (hx : s.slot n = some x) (hc : s.cqHolds x.qid = false) : ∃ u, completeCmd s x = ostTake (postReady u n) ∧ u.slot n = some (s.completed x) ∧ u.cqHolds x.qid = false ∧
    (∃ rs sn rv, u = { s.setSlot (s.completed x) with regs := rs, san := sn, rlv := rv }) ∧
    ∀ a, a ≠ A.admBreachCnt x.entry.lcls → u.regN a = s.regN a := by
  obtain rfl : x.id = n := getBy_key hx
  obtain ⟨rs, sn, rv, he, hreg⟩ := completeCmd_eq s x
  have hphase : (x.qid == x.qid && x.phase == .fullHeld) = false := Bool.eq_false_iff.2 (List.any_eq_false.1 hc x (mem_of_getBy hx))
  refine ⟨_, he, State.slot_setSlot_self s (s.completed x), cqHolds_setSlot hc hphase, ⟨rs, sn, rv, rfl⟩, fun a ha => ?_⟩
  exact congrArg BitVec.toNat (hreg a ha)

section
variable {s : State} {n : Nat} {x : Slot} {q : QP} (hx : s.slot n = some x) (hq : s.qp x.qid = some q) (hb : s.cqHalfBad x.qid = false)
  (hf : q.cqFault = false) (hc : s.cqHolds x.qid = false)
include hx hq hb hf hc

/-- A completion with room in the CQ is written (R83). -/
theorem completeCmd_write (hst : s.stopped = false) (hp : q.port < 4) (hfull : q.cqFull = false) : ∃ k,
    let y := ({ s.completed x with ready := k } : Slot).posting q.tail false
    (completeCmd s x).slot n = some y ∧ (completeCmd s x).qp x.qid = some q.wrote ∧ (completeCmd s x).asked q.port = s.asked q.port ++
      [mkWrite (q.cqBase + 32 * q.tail) (cqBytes y q.head q.wphase) false false (.cqWrite x.qid q.tail n)] := by
  obtain ⟨u, he, hxu, hcu, ⟨rs, sn, rv, hu⟩, -⟩ := completeCmd_ready hx hc
  have hqu : u.qp (s.completed x).qid = some q := by rw [hu]; exact hq
  have hbu : u.cqHalfBad (s.completed x).qid = false := by rw [hu]; exact hb
  have hau : u.asked q.port = s.asked q.port := by rw [hu]; rfl
  have hid : x.id = n := getBy_key hx
  have hqid : q.qid = x.qid := getBy_key hq
  obtain ⟨hslot, hqp, hask⟩ := writeCq_spec (s := { u with readyNo := u.readyNo + 1 }) { s.completed x with ready := u.readyNo } false
    (q := q) (by rw [hu]; exact hst) hp
  refine ⟨u.readyNo, ?_⟩
  rw [he, postReady_write hxu hqu hbu hf hcu hfull, ostTake_slot, ostTake_qp, ostTake_asked, ← hqid, ← hid, ← hau]
  exact ⟨hslot, hqp, hask⟩

/-- A completion without room in the CQ is held (R91). -/
theorem completeCmd_full (hlt : x.qid < 1024) (hfull : q.cqFull = true) : ∃ k,
    (completeCmd s x).slot n = some ((s.completed x).heldFull k) ∧ (completeCmd s x).qps = s.qps ∧ (completeCmd s x).ports = s.ports ∧
    (completeCmd s x).build = s.build ∧
    (completeCmd s x).regN (A.hqQpCqfullCnt x.qid) = min (s.regN (A.hqQpCqfullCnt x.qid) + 1) (2 ^ 32 - 1) := by
  obtain ⟨u, he, hxu, hcu, ⟨rs, sn, rv, hu⟩, hreg⟩ := completeCmd_ready hx hc
  have hqu : u.qp (s.completed x).qid = some q := by rw [hu]; exact hq
  have hbu : u.cqHalfBad (s.completed x).qid = false := by rw [hu]; exact hb
  have hne : A.hqQpCqfullCnt x.qid ≠ A.movOstoreCfg ∧ A.hqQpCqfullCnt x.qid ≠ A.admBreachCnt x.entry.lcls := by
    unfold A.hqQpCqfullCnt A.movOstoreCfg A.admBreachCnt; omega
  obtain ⟨hslot, hqps, hports, hbuild, hcount⟩ := postReady_full_spec hxu hqu hbu hf hcu hfull
  rw [he, ostTake_slot, ostTake_qps, ostTake_ports, ostTake_build, State.regN, ostTake_reg _ hne.1, ← hreg _ hne.2]
  exact ⟨u.readyNo, hslot, hqps.trans (by rw [hu]; rfl), hports.trans (by rw [hu]; rfl), hbuild.trans (by rw [hu]; rfl), hcount⟩

end

end Sys2Proof.Machine
end

section
/-!
SUPPORT. The records of the alert ring (R104, R105), and the statement on completions and records.
-/

namespace Sys2Proof.Machine

theorem exec_alertRecordWrite {s : State} (hh : s.held = false) : exec .alertRecordWrite s = .next (after s (alertWrite s)) := by
  unfold exec
  exact run_of_ok _ rfl hh

/-- With no ring producer configured the alert ring is as the command left it. -/
theorem after_off_alert (s : State) {u : State} (h : RingsOff u) : (after s u).alert = u.alert := by
  rw [after_off_eq s h]
  obtain ⟨n, hn, -⟩ := settle_eq { u with pending := s.pending, build := s.build }
  rw [hn]

/-- The configuration of the ring producers is in their registers alone. -/
theorem RingsOff.congr {s u : State} (h : RingsOff s) (hr : ∀ k < 4, u.reg (A.wglRingCfg k) = s.reg (A.wglRingCfg k)) : RingsOff u := fun k hk => by
  rw [State.fldOf, hr k hk]
  exact h k hk

/-- The alert ring with record `r` on its way and `l` behind it. -/
def AlertRing.sending (a : AlertRing) (r : Record) (l : List Record) : AlertRing := { a with queue := l, out := some r, lost := false }

/-- The alert ring with its first record dropped and `l` behind it. -/
def AlertRing.dropping (a : AlertRing) (l : List Record) : AlertRing := { a with queue := l, lost := true }

/-- The end of a record reaches its command alone. -/
theorem recordEnd_eq (s : State) (owner : Option Nat) (ok : Bool) : ∃ sl, s.recordEnd owner ok = { s with slots := sl } := by
  cases owner with
  | none => exact ⟨_, rfl⟩
  | some n => exact ⟨_, rfl⟩

section
variable {s : State} {r : Record} {l : List Record} (hst : s.stopped = false) (hp : s.power.st ≠ .p2) (ho : s.alert.out = none)
  (hq : s.alert.queue = r :: l)
include hst hp ho hq

/-- The next record is written where the ring is enabled and has room. -/
theorem alertWrite_write (he : s.arEn = true) (hroom : (s.alert.tail + 1) % s.arSize ≠ s.arHead) : alertWrite s =
    issue { s with alert := s.alert.sending r l } (s.fldOf A.hqArCfg 4 2)
      (mkWrite (s.pair A.hqArBaseLo + 32 * s.alert.tail) (recordBytes r s.alert.lost s.alert.wphase) false false .alert) := by
  have hguard : ¬(s.alert.out.isSome || s.stopped || s.power.st == .p2) = true := by simp [ho, hst, hp]
  have hok : ¬(!s.arEn || (s.alert.tail + 1) % s.arSize == s.arHead) = true := by simp [he, hroom]
  rw [alertWrite, if_neg hguard, hq]
  exact if_neg hok

/-- The next record is dropped where the ring is disabled or full. -/
theorem alertWrite_drop (h : s.arEn = false ∨ (s.alert.tail + 1) % s.arSize = s.arHead) (ht : r.typ ≠ 7) : alertWrite s =
    (({ s with alert := s.alert.dropping l } : State).bump A.hqArDropCnt).recordEnd r.owner false := by
  have hguard : ¬(s.alert.out.isSome || s.stopped || s.power.st == .p2) = true := by simp [ho, hst, hp]
  have hdrop : (!s.arEn || (s.alert.tail + 1) % s.arSize == s.arHead) = true := by
    obtain h | h := h <;> simp [h]
  rw [alertWrite, if_neg hguard, hq]
  refine (if_pos hdrop).trans ?_
  rw [calDone, if_neg (by simp [ht])]
  rfl

/-- What the drop of a record leaves. -/
theorem alertWrite_drop_spec (h : s.arEn = false ∨ (s.alert.tail + 1) % s.arSize = s.arHead) (ht : r.typ ≠ 7) :
    (alertWrite s).alert = s.alert.dropping l ∧ (alertWrite s).ports = s.ports ∧ (alertWrite s).build = s.build ∧
    ∀ a, (alertWrite s).reg a = (s.bump A.hqArDropCnt).reg a := by
  obtain ⟨sl, hend⟩ := recordEnd_eq (({ s with alert := s.alert.dropping l } : State).bump A.hqArDropCnt) r.owner false
  rw [alertWrite_drop hst hp ho hq h ht, hend]
  exact ⟨rfl, rfl, rfl, fun _ => rfl⟩

end

/-- Settles O56: each of the commands does the one step that its state calls for, and the status of R138 is a fact about the command. -/
theorem completionsAndRecordsAreWritten : Obligations.CompletionsAndRecordsAreWritten := by
  refine ⟨fun s n x hh hst hsm hpw hn hx => ⟨fun a bad hfin hagg hdue hrb hl hport => ⟨_, exec_durableReadback hh hn hx, ?_⟩,
      fun hno => ⟨_, exec_durableReadback hh hn hx, ?_⟩, fun hr hpo hcal => ⟨fun hfin => ⟨_, exec_completionWrite hh hn, ?_⟩,
        fun q hfin hagg hdue hrec hrep hq hlt hb hf hc hport => ?_⟩⟩,
    finalStatus_spec, fun s r l hh hst hpw hoff ho hq => ⟨fun he hroom => ⟨_, exec_alertRecordWrite hh, ?_⟩,
      fun hfull ht => ⟨_, exec_alertRecordWrite hh, ?_⟩⟩⟩
  · rw [if_pos (by simp [hfin, hagg, hdue, hrb, hst]), readBack_eq hx hl, after_slot, issue_slot, after_asked]
    exact ⟨State.slot_updSlot_self Slot.readingBack (fun _ => rfl) hx, asked_issue _ hport hst⟩
  · rw [if_neg (by obtain h | h := hno <;> simp [h])]
    exact around_after rfl rfl
  · rw [completionWrite_unfinished hst hsm hpw hx hr hpo hcal hfin]
    exact around_after rfl rfl
  · have hstep := completionWrite_finished hst hsm hpw hx hr hpo hcal hfin hagg hdue hrec hrep
    cases hfull : q.cqFull with
    | false =>
      obtain ⟨k, hslot, hqp, hask⟩ := completeCmd_write hx hq hb hf hc hst hport hfull
      refine ⟨_, ({ s.completed x with ready := k } : Slot).posting q.tail false, exec_completionWrite hh hn, ?_, rfl, rfl,
        fun _ => ⟨rfl, rfl, ?_, q.wrote, ?_, q.wrote_spec.2⟩, fun h => by cases h⟩ <;> rw [hstep]
      · rw [after_slot, hslot]
      · rw [after_asked, hask]
      · rw [after_qp, hqp]
    | true =>
      obtain ⟨k, hslot, hqps, hports, hbuild, hcount⟩ := completeCmd_full hx hq hb hf hc hlt hfull
      have hne : A.hqQpCqfullCnt x.qid ≠ A.glbPwrCtl ∧ A.hqQpCqfullCnt x.qid ≠ A.hqArDropCnt ∧ A.hqQpCqfullCnt x.qid < 0x050000 := by
        unfold A.hqQpCqfullCnt A.glbPwrCtl A.hqArDropCnt; omega
      refine ⟨_, (s.completed x).heldFull k, exec_completionWrite hh hn, ?_, rfl, rfl, fun h => (by cases h), fun _ => ⟨rfl, rfl, ?_⟩⟩ <;> rw [hstep]
      · rw [after_slot, hslot]
      · rw [after_qps, after_ports, after_regN hbuild hne.1 hne.2.1 (.inl hne.2.2)]
        exact ⟨hqps, hports, hcount⟩
  · have heq := alertWrite_write hst hpw ho hq he hroom
    have hoff' : RingsOff (alertWrite s) := hoff.congr fun k hk => by
      rw [heq]
      exact issue_reg _ _ _ (by unfold A.wglRingCfg A.movPsnCnt; omega)
    rw [after_off_alert s hoff', heq, issue_alert]
    refine ⟨rfl, rfl, rfl, ?_⟩
    intro p
    rw [after_asked]
    exact asked_issue _ (fld_lt _ _ 2) hst
  · obtain ⟨halert, hports, hbuild, hreg⟩ := alertWrite_drop_spec hst hpw ho hq hfull ht
    have hoff' : RingsOff (alertWrite s) := hoff.congr fun k hk => by
      rw [hreg]
      exact State.reg_bump_ne s 1 (by unfold A.wglRingCfg A.hqArDropCnt; omega)
    rw [after_off_alert s hoff', halert, after_ports, hports, State.regN, after_off_reg hbuild hoff', hreg]
    exact ⟨ho, rfl, rfl, rfl, State.regN_bump s A.hqArDropCnt 1⟩

end Sys2Proof.Machine
end

section
/-!
SUPPORT. What no register access touches: the target port, the input pins and, outside P1, the power state.
-/

namespace Sys2Proof.Machine

/-- From `s` to `t` the target port, the input pins and, outside P1, the power state stay. -/
def Keeps (s t : State) : Prop := t.target = s.target ∧ t.pins = s.pins ∧ (s.power.st ≠ .p1 → t.power = s.power)

/-! ## Rules -/

theorem Keeps.refl (s : State) : Keeps s s := ⟨rfl, rfl, fun _ => rfl⟩

theorem Keeps.same {s t : State} (h1 : t.target = s.target) (h2 : t.pins = s.pins) (h3 : t.power = s.power) : Keeps s t := ⟨h1, h2, fun _ => h3⟩

theorem Keeps.trans {s t u : State} (h : Keeps s t) (k : Keeps t u) : Keeps s u := by
  obtain ⟨h1, h2, h3⟩ := h
  obtain ⟨k1, k2, k3⟩ := k
  refine ⟨k1.trans h1, k2.trans h2, fun hp => ?_⟩
  have hw := h3 hp
  exact (k3 (by rwa [hw])).trans hw

/-- A further change of other fields. -/
theorem Keeps.then {s t u : State} (h : Keeps s t) (h1 : u.target = t.target) (h2 : u.pins = t.pins) (h3 : u.power = t.power) : Keeps s u :=
  h.trans (.same h1 h2 h3)

theorem Keeps.foldl {α : Type} {f : State → α → State} (h : ∀ s x, Keeps s (f s x)) (l : List α) (s : State) : Keeps s (l.foldl f s) := by
  induction l generalizing s with
  | nil => exact .refl s
  | cons x l ih => exact (h s x).trans (ih _)

theorem Keeps.each {α : Type} {f : State → α → State} (h : ∀ s x, Keeps s (f s x)) (l : List α) (s : State) : Keeps s (s.each l f) := .foldl h l s

theorem Keeps.ite {s t u : State} {p : Prop} [Decidable p] (h : Keeps s t) (k : Keeps s u) : Keeps s (if p then t else u) := by
  split
  · exact h
  · exact k

theorem Keeps.of_fires {s t : State} (h : Fires s t) : Keeps s t := by
  obtain ⟨⟨r, w, n, a, p, he⟩, -, -, -, -, -, -, hp, -⟩ := h
  exact ⟨by rw [he], by rw [he], hp⟩

/-! ## Operations that several registers share -/

theorem Keeps.ostTake (s : State) : Keeps s (ostTake s) := by
  obtain ⟨m, rs, h, -⟩ := ostTake_eq s
  rw [h]
  exact .same rfl rfl rfl

theorem Keeps.turnCheck (s : State) : Keeps s (turnCheck s) := by
  obtain ⟨b, h⟩ := turnCheck_eq s
  rw [h]
  exact .same rfl rfl rfl

theorem Keeps.issue (s : State) (p : Nat) (r : Req) : Keeps s (issue s p r) := by
  obtain ⟨rs, ps, h⟩ := issue_frame s p r
  rw [h]
  exact .same rfl rfl rfl

theorem Keeps.hit (s : State) (n : Nat) (st : Status) : Keeps s (hit s n st) := by
  obtain ⟨sl, os, rs, cs, us, ps, h, -⟩ := hit_eq s n st
  rw [h]
  exact .same rfl rfl rfl

theorem Keeps.failUnit (s : State) (r reason : Nat) (u : BrUnit) : Keeps s (failUnit s r reason u) := by
  obtain ⟨sl, os, rs, cs, us, ps, h⟩ := hostFail_frame (freeStore s u) u.slot St.outputRingFault (if reason = 5 then 0 else 2) r reason
  rw [Machine.failUnit, h]
  exact .same rfl rfl rfl

theorem Keeps.takeNow (s : State) (p : PendWrite → Bool) : Keeps s (takeNow s p) := by
  refine .trans (t := { s with pend := s.pend.filter fun x => !p x }) (.same rfl rfl rfl) ?_
  exact .foldl (by intro _ _; exact .same rfl rfl rfl) _ _

theorem Keeps.passFetch (s : State) : Keeps s (passFetch s) := .takeNow s _

/-! ### The ledgers (R308 to R311) -/

theorem Keeps.wearAlarm (s : State) (x : Ledger) (kind line : Nat) : Keeps s (wearAlarm s x kind line) := .of_fires (.raise ..)

theorem Keeps.wearCheck (s : State) (x : Ledger) : Keeps s (wearCheck s x).2 := by
  unfold Machine.wearCheck
  split
  · refine .trans (.wearAlarm s { x with alarm := true } 1 0) ?_
    simp only
    split
    · exact .same rfl rfl rfl
    · exact .refl _
  · exact .refl s

theorem Keeps.markEntry (sx : Ledger × State) (line : Nat) : Keeps sx.2 (markEntry sx line).2 := by
  unfold Machine.markEntry
  simp only
  split
  · exact .refl _
  · split
    · exact .trans (t := setReadOnly sx.2 sx.1.die) (.same rfl rfl rfl) (.wearAlarm ..)
    · split
      · exact .trans (t := setReadOnly sx.2 sx.1.die) (.same rfl rfl rfl) (.wearAlarm ..)
      · exact .refl _

theorem Keeps.markEntries (l : List Nat) (sx : Ledger × State) : Keeps sx.2 (l.foldl Machine.markEntry sx).2 := by
  induction l generalizing sx with
  | nil => exact .refl _
  | cons n l ih => exact (Keeps.markEntry sx n).trans (ih _)

theorem Keeps.ledgerLoaded (s : State) (die seg : Nat) (got : Option (List Byte)) : Keeps s (ledgerLoaded s die seg got) := by
  unfold Machine.ledgerLoaded
  split
  · exact .refl s
  next x _ =>
    split
    · exact .refl s
    · simp only
      have h1 : Keeps s (if (got.bind (parseLedger die seg x.stream)).isSome then s else s.bump A.rlvLwLossCnt) :=
        .ite (.refl s) (.same rfl rfl rfl)
      generalize (if (got.bind (parseLedger die seg x.stream)).isSome then s else s.bump A.rlvLwLossCnt) = s1 at h1 ⊢
      generalize (got.bind (parseLedger die seg x.stream)).getD { Ledger.fresh die seg x.stream with loaded := true } = y
      have h2 : Keeps s (if x.count = 0 then (y, s1) else Machine.wearCheck s1 { y with count := min (y.count + x.count) (2 ^ 32 - 1) }).2 := by
        split
        · exact h1
        · exact h1.trans (.wearCheck ..)
      generalize (if x.count = 0 then (y, s1) else Machine.wearCheck s1 { y with count := min (y.count + x.count) (2 ^ 32 - 1) }) = sx at h2 ⊢
      have h3 := h2.trans (Keeps.markEntries x.failed sx)
      split
      · exact h3.then rfl rfl rfl
      · exact h3.then rfl rfl rfl

theorem Keeps.ledgerReread (s : State) (stream die seg : Nat) : Keeps s (ledgerReread s stream die seg) := by
  unfold Machine.ledgerReread
  split
  · exact .ite (.same rfl rfl rfl) (.same rfl rfl rfl)
  · unfold ledgerRead
    split
    · exact .same rfl rfl rfl
    · exact .same rfl rfl rfl

/-! ### Channels -/

theorem Keeps.setLive (s : State) (ch : Nat) : Keeps s (setLive s ch) := by
  unfold Machine.setLive
  simp only
  split
  · exact .refl s
  · split
    · exact .same rfl rfl rfl
    · exact .same rfl rfl rfl

theorem Keeps.setEn (s : State) (ch : Nat) (on : Bool) : Keeps s (setEn s ch on) := .ite (.refl s) (.same rfl rfl rfl)

theorem Keeps.setTsel (s : State) (ch t : Nat) : Keeps s (setTsel s ch t) := by
  obtain h | h | h := setTsel_cases s ch t <;> rw [h]
  · exact .same rfl rfl rfl
  · exact .same rfl rfl rfl
  · exact .refl s

theorem Keeps.chCtlTake (s : State) (ch : Nat) (v : Word) : Keeps s (chCtlTake s ch v) :=
  ((Keeps.setEn s ch _).trans (.setTsel _ ch _)).then rfl rfl rfl

theorem Keeps.chCtlNow (s : State) (ch : Nat) (v : Word) : Keeps s (chCtlNow s ch v) := by
  have h : Keeps s (setWpRel s ch (fld v 4 1 == 1)) := by
    unfold setWpRel
    simp only
    split
    · exact .same rfl rfl rfl
    · exact .ite (.same rfl rfl rfl) (.same rfl rfl rfl)
  exact .ite (h.trans (.setLive ..)) (h.then rfl rfl rfl)

theorem Keeps.clearCaches (s : State) (g : Nat) : Keeps s (clearCaches s g) := .each (by intro _ _; exact .same rfl rfl rfl) _ s

/-! ### Writes at a boundary (R27, R29) -/

theorem Keeps.loseCw (s : State) (c : Cw) : Keeps s (loseCw s c) := by
  have h : Keeps s ((s.delCw c.id).bump (A.movSqFlushCnt c.ch)) := .same rfl rfl rfl
  unfold Machine.loseCw
  simp only
  split
  · exact h.trans (.hit ..)
  · exact h.then rfl rfl rfl
  · exact h.trans (.ledgerLoaded ..)
  · exact h

theorem Keeps.flushQueue (s : State) (ch : Nat) : Keeps s (flushQueue s ch) := (Keeps.each Keeps.loseCw _ s).then rfl rfl rfl

theorem Keeps.tblDataWrite (s : State) (key w : Nat) (v : Word) : Keeps s (tblDataWrite s key w v) := by
  refine .trans (t := clearPoison s 3 0 (tblKey (key / 64) (key / 4 % 16) (key % 4) (4 * w)) 4) (.same rfl rfl rfl) ?_
  unfold Machine.tblDataWrite
  exact (Keeps.each (f := fun st i => st.setTbl (key / 64) (key / 4 % 16) (key % 4) (4 * w + i) (sbyte (fld v (8 * i) 8)))
    (fun _ _ => .same rfl rfl rfl) _ _).then rfl rfl rfl

theorem Keeps.tblLgWrite (s : State) (key : Nat) (v : Word) : Keeps s (tblLgWrite s key v) := .each (by intro _ _; exact .same rfl rfl rfl) _ s

theorem Keeps.actNow (s : State) (p : PendWrite) : Keeps s (actNow s p) :=
  .ite (.chCtlTake ..) (.ite (.tblLgWrite ..) (.ite (.tblDataWrite ..) (.ite (.ite (.same rfl rfl rfl) (.refl s))
    (.ite (.same rfl rfl rfl) (.ite (.flushQueue ..) (.refl s))))))

theorem Keeps.takeOne (s : State) (p : PendWrite) : Keeps s (takeOne s p) := .ite (.actNow s p) (.same rfl rfl rfl)

theorem Keeps.passBound (s : State) (b : Boundary) (k : Nat) : Keeps s (passBound s b k) := by
  have h (l l' : List PendWrite) : Keeps s (l.foldl Machine.takeOne { s with pend := l' }) :=
    .trans (t := { s with pend := l' }) (.same rfl rfl rfl) (.foldl Keeps.takeOne l _)
  exact .ite ((h _ _).then rfl rfl rfl) (h _ _)

theorem Keeps.applyAct (s : State) (b : Boundary) (k a sel : Nat) (v : Word) (now : Bool) : Keeps s (applyAct s b k a sel v now) := by
  unfold Machine.applyAct
  simp only
  split
  · exact .trans (t := { s with pend := _ }) (.same rfl rfl rfl) (.passBound ..)
  · exact .same rfl rfl rfl

/-! ## The registers with a rule of their own -/

theorem Keeps.rplReq (s : State) (v : Word) : Keeps s (rplReq s v) := by
  unfold Machine.rplReq
  split
  · exact .refl s
  · split
    · simp only
      split
      · exact .same rfl rfl rfl
      · exact .same rfl rfl rfl
    · refine .ite ?_ (.same rfl rfl rfl)
      unfold rplJudge
      repeat' apply Keeps.ite
      all_goals exact .same rfl rfl rfl

theorem Keeps.aqCfg (s : State) (v : Word) : Keeps s (aqCfg s v) := by
  have h := Keeps.passFetch s
  unfold Machine.aqCfg
  simp only
  split
  · exact h
  · split
    · exact h.then rfl rfl rfl
    · exact h.then rfl rfl rfl

theorem Keeps.arCfg (s : State) (v : Word) : Keeps s (arCfg s v) :=
  .ite (.same rfl rfl rfl) (.ite (.same rfl rfl rfl) (.same rfl rfl rfl))

theorem Keeps.arHeadWrite (s : State) (v : Word) : Keeps s (arHeadWrite s v) := .ite (.same rfl rfl rfl) (.same rfl rfl rfl)

theorem Keeps.setQpEn (s : State) (qid : Nat) (on : Bool) : Keeps s (setQpEn s qid on) := by
  have h := Keeps.passFetch s
  unfold Machine.setQpEn
  simp only
  split
  · exact h
  · split
    · exact h.then rfl rfl rfl
    · exact .trans (h.then rfl rfl rfl) (.turnCheck _)

theorem Keeps.lsCtlWrite (s : State) (n : Nat) (v : Word) : Keeps s (lsCtlWrite s n v) := by
  have h := Keeps.passFetch s
  unfold Machine.lsCtlWrite
  simp only
  split
  · exact h.then rfl rfl rfl
  · split
    · exact .trans (h.then rfl rfl rfl) (.each (by intro _ _; exact .ledgerReread ..) _ _)
    · exact h.then rfl rfl rfl

theorem Keeps.brCfg (s : State) (r : Nat) (v : Word) : Keeps s (brCfg s r v) := by
  have drop (t : State) (l : List BrUnit) (h : Keeps s t) : Keeps s (t.each l fun st u => Machine.failUnit st r 6 u) :=
    h.trans (.each (by intro _ _; exact .failUnit ..) l t)
  exact .ite (.same rfl rfl rfl) (.ite (.ite (drop _ _ (.same rfl rfl rfl)) (drop _ _ (.same rfl rfl rfl))) (.same rfl rfl rfl))

theorem Keeps.kickRing (s : State) (r : Nat) : Keeps s (kickRing s r) := by
  refine .ite (.refl s) (.ite (.same rfl rfl rfl) ?_)
  unfold ringRead
  simp only
  split
  · exact .refl s
  · split
    · exact .refl s
    · exact .trans (.same rfl rfl rfl) (.issue ..)

theorem Keeps.complete (s : State) (t n : Nat) : Keeps s (complete s t n) := by
  unfold Machine.complete
  split
  · exact .ite (.same rfl rfl rfl) (.same rfl rfl rfl)
  · exact .same rfl rfl rfl

theorem Keeps.fireWrite (s : State) (v : Word) : Keeps s (fireWrite s v) :=
  .of_fires (.foldl _ _ (fun _ hc st => .fireChan true st (List.mem_range.1 (List.mem_filter.1 hc).1)) s)

theorem Keeps.timerWrite (s : State) (k : Nat) (v : Word) : Keeps s (timerWrite s k v) :=
  .ite (.same rfl rfl rfl) (.ite (.same rfl rfl rfl) (.refl s))

theorem Keeps.movAbort (s : State) : Keeps s (movAbort s) := by
  unfold Machine.movAbort
  split
  · exact .refl s
  · extract_lets s1 s2 keepOp qp0 s3 s4 s5
    have h1 : Keeps s s1 := .each (by intro _ _; exact .same rfl rfl rfl) _ s
    have h2 : Keeps s s2 := h1.trans (.each (by intro _ _; exact .same rfl rfl rfl) _ s1)
    have h3 : Keeps s s3 := h2.trans (.each (by intro _ _; exact .same rfl rfl rfl) _ s2)
    have h4 : Keeps s s4 := h3.trans (.each (by intro _ _; exact .same rfl rfl rfl) _ s3)
    exact .trans (h4.then rfl rfl rfl) (.ostTake _)

theorem Keeps.movCtlWrite (s : State) (v : Word) : Keeps s (movCtlWrite s v) := by
  have h : Keeps s (if bit v.toNat 0 then Machine.movAbort s else s) := .ite (.movAbort s) (.refl s)
  exact .ite (h.then rfl rfl rfl) h

theorem Keeps.ostoreWrite (s : State) (v : Word) : Keeps s (ostoreWrite s v) := .trans (.same rfl rfl rfl) (.ostTake _)

theorem Keeps.seqCtlWrite (s : State) (g : Nat) (v : Word) : Keeps s (seqCtlWrite s g v) := by
  have hr : Keeps s (restoreRom s g) := by
    unfold restoreRom
    split
    · refine .trans ?_ (.clearCaches ..)
      exact .same rfl rfl rfl
    · exact .refl s
  have h : Keeps s (if bit v.toNat 0 then restoreRom s g else s) := .ite hr (.refl s)
  exact .ite (h.trans (.clearCaches ..)) h

theorem Keeps.chCtlWrite (s : State) (ch : Nat) (v : Word) : Keeps s (chCtlWrite s ch v) :=
  .ite (.refl s) ((Keeps.applyAct ..).trans (.chCtlNow ..))

theorem Keeps.chOpWrite (s : State) (ch : Nat) (v : Word) : Keeps s (chOpWrite s ch v) :=
  .ite (.refl s) (.ite (.same rfl rfl rfl) (.ite (.same rfl rfl rfl) (.same rfl rfl rfl)))

/-- Each state that may result keeps what `Keeps` names. -/
def KeepsAny (s : State) (o : Option State) : Prop := ∀ t, o = some t → Keeps s t

theorem KeepsAny.some {s t : State} (h : Keeps s t) : KeepsAny s (some t) := by
  rintro _ ⟨⟩
  exact h

theorem KeepsAny.none (s : State) : KeepsAny s none := fun _ h => by cases h

theorem KeepsAny.ite {s : State} {o q : Option State} {p : Prop} [Decidable p] (h : KeepsAny s o) (k : KeepsAny s q) : KeepsAny s (if p then o else q) := by
  split
  · exact h
  · exact k

/-- A write of a register with a rule of its own, in the order of `actWrite`. -/
theorem KeepsAny.actWrite (s : State) (base i : Nat) (v : Word) : KeepsAny s (actWrite s base i v) := by
  unfold Machine.actWrite
  exact .ite (.some (.ite (.ite (.refl s) (.same rfl rfl rfl)) (.refl s))) <| .ite (.some (.same rfl rfl rfl)) <|
    .ite (.some (.ite (.ite (.same rfl rfl rfl) (.refl s)) (.refl s))) <| .ite (.some (.rplReq ..)) <| .ite (.some (.aqCfg ..)) <|
    .ite (.some (.arCfg ..)) <| .ite (.some (.arHeadWrite ..)) <| .ite (.some (.setQpEn ..)) <| .ite (.some (.lsCtlWrite ..)) <|
    .ite (.some (.brCfg ..)) <| .ite (.some (.ite (.kickRing ..) (.refl s))) <| .ite (.some (.complete ..)) <|
    .ite (.some (.ite (.same rfl rfl rfl) (.refl s))) <| .ite (.some (.fireWrite ..)) <| .ite (.some (.timerWrite ..)) <|
    .ite (.some (.movCtlWrite ..)) <| .ite (.some (.ostoreWrite ..)) <| .ite (.some (.ite (.ite (.refl s) (.applyAct ..)) (.refl s))) <|
    .ite (.some (.ite (.same rfl rfl rfl) (.refl s))) <| .ite (.some (.ite (.same rfl rfl rfl) (.refl s))) <| .ite (.some (.applyAct ..)) <|
    .ite (.some (.applyAct ..)) <| .ite (.some (.applyAct ..)) <| .ite (.some (.applyAct ..)) <| .ite (.some (.seqCtlWrite ..)) <|
    .ite (.some (.ite (.ite (.same rfl rfl rfl) (.refl s)) (.refl s))) <| .ite (.some (.chCtlWrite ..)) <| .ite (.some (.chOpWrite ..)) <| .none s

/-! ## Every access -/

theorem Keeps.applyWrite (s : State) (r : RegRow) (is : List Nat) (a : Nat) (v : Word) : Keeps s (applyWrite s r is a v) :=
  .ite (.same rfl rfl rfl) (.same rfl rfl rfl)

theorem Keeps.plainWrite (s : State) (r : RegRow) (is : List Nat) (a : Nat) (v : Word) : Keeps s (plainWrite s r is a v) := by
  unfold Machine.plainWrite
  split
  · split
    · exact .refl s
    · have h := Keeps.applyWrite s r is a (s.fixWrite r is (s.applied a) v)
      exact .ite (.trans (h.then rfl rfl rfl) (.of_fires (.tempCheck ..))) (.ite (h.then rfl rfl rfl) h)
  · exact .same rfl rfl rfl
  · exact .refl s
  · exact .refl s
  · exact .refl s

theorem Keeps.pairCommit (s : State) (lo : Nat) (m : Master) (v : Word) : Keeps s (pairCommit s lo m v) := by
  unfold Machine.pairCommit
  simp only
  split
  · split
    · exact .trans (.trans (t := s.setPair { s.pairOf lo m with staged := none }) (.same rfl rfl rfl) (.applyWrite ..)) (.applyWrite ..)
    · exact .same rfl rfl rfl
  · exact .same rfl rfl rfl

/-- A register write. -/
theorem Keeps.writeReg (s : State) (m : Master) (a : Nat) (v : Word) : Keeps s (writeReg s m a v) := by
  unfold Machine.writeReg
  split
  · exact .refl s
  next r is _ =>
    refine .ite (.refl s) (.ite (.same rfl rfl rfl) (.ite (.pairCommit ..) ?_))
    split
    next t h => exact KeepsAny.actWrite s _ _ v t h
    · exact .plainWrite ..

theorem Keeps.claim (s : State) (t : Nat) : Keeps s (claim s t).2 := by
  unfold Machine.claim
  split
  · exact .same rfl rfl rfl
  · exact .same rfl rfl rfl

/-- A register read. -/
theorem Keeps.readAccess (s : State) (m : Master) (a : Nat) : Keeps s (readAccess s m a).2 := by
  unfold Machine.readAccess
  split
  · exact .claim ..
  · split
    · exact .same rfl rfl rfl
    · split
      · unfold pairReadHi
        simp only
        split
        · exact .same rfl rfl rfl
        · exact .refl s
      · exact .refl s

/-- An MPORT access that is served answers OK, to a write without data, and keeps the rest. -/
theorem access_mport_served {s : State} {a : Nat} (write : Bool) (v : Word) (hp : s.power.st = .p0) (hd : s.denied a = false) :
    Keeps s (access s .mport a write v) ∧ (access s .mport a write v).answer.refused = false ∧
    (write = true → (access s .mport a write v).answer.data = 0) := by
  rw [access, regAccess_served write v _ hp hd]
  cases write with
  | false => exact ⟨(Keeps.readAccess s .mport a).then rfl rfl rfl, rfl, fun h => by cases h⟩
  | true =>
    exact ⟨.trans (.writeReg s .mport a v) (.ite (.same rfl rfl rfl) (.refl _)), rfl, fun _ => rfl⟩

end Sys2Proof.Machine
end

section
/-!
SUPPORT. The wake (R62, R438): the request that starts it, and what its end leaves.
-/

namespace Sys2Proof.Machine

/-! ## The request that starts a wake -/

/-- In P2 nothing follows a command. -/
theorem after_p2 {s u : State} (hp : u.power.st = .p2) (h1 : u.pending = s.pending) (h2 : u.build = s.build) : after s u = u := by
  rw [after, ringCheck, if_pos hp, ← h1, ← h2, settle, if_neg (by rw [hp]; decide)]

/-- The block with an MPORT request held (R62). -/
def State.holding (s : State) (r : Nat × Bool × Word) : State := { s with power := { s.power with mpHeld := some r } }

/-- A wake begins where the clocks run. -/
theorem startWake_running {s : State} (hp : s.power.st = .p2) (hw : s.power.waking = false) (hc : s.power.clkStop = false) : startWake s =
    { s with power := { s.power with waking := true, waitClk := false, filled := false }, init := { s.init with phase := 8 } } := by
  simp [startWake, hp, hw, hc]

/-- A wake waits for clocks that are stopped. -/
theorem startWake_stopped {s : State} (hp : s.power.st = .p2) (hw : s.power.waking = false) (hc : s.power.clkStop = true) : startWake s =
    { s with power := { s.power with waitClk := true } } := by
  simp [startWake, hp, hw, hc]

/-- In P2 an MPORT access is held, and starts the wake. -/
theorem regAccess_holding {s : State} (a : Nat) (write : Bool) (v : Word) (f : State → Word × State) (hp : s.power.st = .p2)
    (hm : s.power.mpHeld = none) : regAccess s .mport a write v f = startWake (s.holding (a, write, v)) := by
  rw [regAccess, mpServe_p2 a write v _ hp, hm]
  rfl

/-- Each of the three forms of a request is held in P2 as the access it carries. -/
theorem exec_holds {s : State} {a : Nat} {v : Word} (hh : s.held = false) (hp : s.power.st = .p2) (ha : offsetOk a = true) (hm : s.power.mpHeld = none) :
    ∀ c ∈ [(Instr.mportWake, 0, false, (0 : Word)), (.registerPairLoRead .mport a, a, false, 0), (.registerWrite .mport a v none, a, true, v)],
      exec c.1 s = .next (after s (startWake (s.holding c.2))) := by
  have hb : s.pins.bist = false := by
    simp only [State.held, Bool.or_eq_false_iff] at hh
    exact hh.2
  simp only [List.forall_mem_cons]
  refine ⟨?_, ?_, ?_, by simp⟩
  · have h : exec .mportWake s = .next (after s (if s.power.st = .p2 then access s .mport 0 false 0 else s)) := by
      unfold exec
      exact run_of_ok _ rfl hh
    rw [h, if_pos hp, access, regAccess_holding _ _ _ _ hp hm]
  · rw [exec_registerPairLoRead _ ha hb, access, regAccess_holding _ _ _ _ hp hm]
  · rw [exec_registerWrite _ v _ ha hb, accessWrite, regAccess_holding _ _ _ _ hp hm]

theorem exec_kclkRestart {s : State} (hh : s.held = false) (hw : s.power.waitClk = true) :
    exec .kclkRestart s = .next (after s (startWake { s with power := { s.power with clkStop := false } })) := by
  have h : exec .kclkRestart s = .next (after s (if s.power.waitClk then startWake { s with power := { s.power with clkStop := false } }
      else { s with power := { s.power with clkStop := false } })) := by
    unfold exec
    exact run_of_ok _ rfl hh
  rw [h, if_pos hw]

/-! ## The fast paths (R213) -/

/-- Beyond the channels, the registers, the free values and the read levels `t` is `s`. -/
def Trains (s t : State) : Prop := ∃ rs cs fr rv, t = { s with regs := rs, chans := cs, free := fr, rlv := rv }

theorem Trains.refl (s : State) : Trains s s := ⟨_, _, _, _, rfl⟩

theorem Trains.trans {s t u : State} (h : Trains s t) (k : Trains t u) : Trains s u := by
  obtain ⟨_, _, _, _, rfl⟩ := h
  obtain ⟨_, _, _, _, rfl⟩ := k
  exact ⟨_, _, _, _, rfl⟩

theorem Trains.each {α : Type} {f : State → α → State} (h : ∀ s x, Trains s (f s x)) (l : List α) (s : State) : Trains s (s.each l f) := by
  induction l generalizing s with
  | nil => exact .refl s
  | cons x l ih => exact (h s x).trans (ih _)

theorem Trains.ite {s t u : State} {p : Prop} [Decidable p] (h : Trains s t) (k : Trains s u) : Trains s (if p then t else u) := by
  split
  · exact h
  · exact k

theorem Trains.updChan (s : State) (ch : Nat) (f : Chan → Chan) : Trains s (s.updChan ch f) := ⟨_, _, _, _, rfl⟩
theorem Trains.setFldOf (s : State) (a lo w n : Nat) : Trains s (s.setFldOf a lo w n) := ⟨_, _, _, _, rfl⟩
theorem Trains.useFree (s : State) (n : Nat) : Trains s (s.useFree n) := ⟨_, _, _, _, rfl⟩

theorem Trains.zqEnd (s : State) (g ohm : Nat) : Trains s (zqEnd s g ohm) := by
  unfold Machine.zqEnd
  extract_lets ok s1
  have h1 : Trains s s1 := .each (by
    intro t c
    exact .ite ((Trains.updChan ..).trans (.updChan ..)) (.updChan ..)) _ s
  exact .ite (h1.trans (.useFree ..)) h1

theorem Trains.selectVolume (s : State) (ch t : Nat) : Trains s (selectVolume s ch t) := .ite (.refl s) ((Trains.updChan ..).trans (.updChan ..))

theorem Trains.writeTrims (s : State) (ch sets k : Nat) (tx : Bool) (masks : List Nat) : Trains s (writeTrims s ch sets k tx masks) := by
  refine .each (fun t j => .each (fun u l => ?_) _ t) _ s
  split
  · exact .setFldOf ..
  · exact .refl u

theorem Trains.setLive (s : State) (ch : Nat) : Trains s (setLive s ch) :=
  .ite (.refl s) (.ite ⟨_, _, _, _, rfl⟩ (.updChan ..))

theorem Trains.fastPath (s : State) (ch : Nat) (e : EyeScan) : Trains s (fastPath s ch e) := by
  unfold Machine.fastPath
  extract_lets c s0 rx set nw vw t h s2
  have h0 : Trains s s0 := .trans (.updChan ..) (.each (by intro t k; exact .selectVolume ..) _ _)
  have h2 : Trains s s2 := .ite (h0.trans (.updChan ..)) (h0.trans ((Trains.writeTrims ..).trans (.updChan ..)))
  exact (h2.trans (.useFree ..)).trans (.setLive ..)

theorem Trains.fastPaths (s : State) (w : WakeEnd) : Trains s (fastPaths s w) := by
  unfold Machine.fastPaths
  exact .trans (.each (by intro t g; exact .zqEnd ..) _ s) (.each (by intro t ch; exact (Trains.setFldOf ..).trans (.fastPath ..)) _ _)

/-! ## The restore of the controller and the held records (R404, R419) -/

/-- Beyond the notification controller, the alert ring and its count of dropped records `t` is `s`. -/
def Restores (s t : State) : Prop := (∃ n a rs, t = { s with ntf := n, alert := a, regs := rs }) ∧ ∀ x, x ≠ A.hqArDropCnt → t.reg x = s.reg x

theorem Restores.trans {s t u : State} (h : Restores s t) (k : Restores t u) : Restores s u := by
  obtain ⟨⟨_, _, _, rfl⟩, hr⟩ := h
  obtain ⟨⟨_, _, _, rfl⟩, kr⟩ := k
  exact ⟨⟨_, _, _, rfl⟩, fun x hx => (kr x hx).trans (hr x hx)⟩

theorem Restores.each {α : Type} {f : State → α → State} (h : ∀ s x, Restores s (f s x)) (l : List α) (s : State) : Restores s (s.each l f) := by
  induction l generalizing s with
  | nil => exact ⟨⟨_, _, _, rfl⟩, fun _ _ => rfl⟩
  | cons x l ih => exact (h s x).trans (ih _)

theorem Restores.ntfRestore (s : State) : Restores s (ntfRestore s) :=
  .each (by intro t n; exact ⟨⟨_, _, _, rfl⟩, fun _ _ => rfl⟩) _ s

theorem Restores.loopRaise (s : State) (r : Record) : Restores s (loopRaise s r) := by
  unfold Machine.loopRaise
  split
  · exact ⟨⟨_, _, _, rfl⟩, fun _ _ => rfl⟩
  · exact ⟨⟨_, _, _, rfl⟩, fun x hx => State.reg_bump_ne { s with alert := { s.alert with lost := true } } 1 hx⟩

/-! ## The end of a wake (R62, R438) -/

theorem exec_wakeComplete {s : State} (w : WakeEnd) (hh : s.held = false) (hw : s.power.waking = true) (hf : s.power.filled = true) :
    exec (.wakeComplete w) s = .next (after s (wakeDone s w)) := by
  have h : exec (.wakeComplete w) s = .next (after s (if s.power.waking ∧ s.power.filled then wakeDone s w else s)) := by
    unfold exec
    exact run_of_ok _ rfl hh
  rw [h, if_pos ⟨hw, hf⟩]

/-- The block `u` is `s` in P0 again, before it serves what was held. -/
def Woken (s u : State) : Prop :=
  u.power = Power.reset ∧ u.init = { s.init with phase := 7 } ∧ u.pwrReq = 0 ∧ u.target = s.target ∧ u.pins = s.pins ∧ u.build = s.build

/-- The block serves the MPORT request and the target-port request that it held, and starts the smoke sequence where PLOSS_N is low. -/
def serveHeld (u : State) (r : Option (Nat × Bool × Word)) : State :=
  let t := tpReplay (mpReplay { u with power := { u.power with mpHeld := r } })
  if t.pins.ploss then smokeStart t else t

/-- Where no task was held the end of a wake is what was held, served by the woken block. -/
theorem wakeDone_eq {s : State} (w : WakeEnd) (hT : s.wgl.heldT = []) : ∃ u, wakeDone s w = serveHeld u s.power.mpHeld ∧ Woken s u := by
  unfold wakeDone
  extract_lets t i s1 s2 g s3 s4
  obtain ⟨rs, cs, fr, rv, ht⟩ : Trains s t := .fastPaths s w
  obtain ⟨⟨n, a, rs', hs2⟩, hreg2⟩ : Restores s1 s2 := .ntfRestore s1
  have hheld : s2.wgl.heldT = [] := by
    rw [hs2]
    change t.wgl.heldT = []
    rw [ht]
    exact hT
  have hs4 : Restores s3 s4 := by
    change Restores s3 ((s3.each s2.wgl.loopRec loopRaise).each s2.wgl.heldT taskTake)
    rw [hheld]
    exact .each Restores.loopRaise _ s3
  obtain ⟨⟨n', a', rs'', hs4⟩, hreg4⟩ := hs4
  refine ⟨s4, rfl, ?_, ?_, ?_, ?_, ?_, ?_⟩
  · rw [hs4]; change s2.power = _; rw [hs2]; rfl
  · rw [hs4]; change s2.init = _; rw [hs2]; change { t.init with phase := 7 } = _; rw [ht]
  · rw [State.pwrReq, State.fldOf, hreg4 _ (by decide)]
    change fld (s2.reg A.glbPwrCtl) 0 2 = 0
    rw [hreg2 _ (by decide)]
    exact State.fldOf_setFldOf_self _ A.glbPwrCtl 0 (by decide)
  · rw [hs4]; change s2.target = _; rw [hs2]; change t.target = _; rw [ht]
  · rw [hs4]; change s2.pins = _; rw [hs2]; change t.pins = _; rw [ht]
  · rw [hs4]; change s2.build = _; rw [hs2]; change t.build = _; rw [ht]

/-- With no request held the woken block goes on as it is. -/
theorem serveHeld_none {u : State} (hp : u.power = Power.reset) (ht : u.target.held = none) (hl : u.pins.ploss = false) : serveHeld u none = u := by
  have hu : ({ u with power := { u.power with mpHeld := none } } : State) = u := by
    have : ({ u.power with mpHeld := none } : Power) = u.power := by rw [hp]; rfl
    rw [this]
  have hm : mpReplay u = u := by simp [mpReplay, hp, Power.reset]
  have htp : tpReplay u = u := by simp [tpReplay, ht]
  rw [serveHeld, hu, hm, htp]
  simp [hl]

/-- A held MPORT request is served by the woken block. -/
theorem serveHeld_some {u : State} (r : Nat × Bool × Word) (hp : u.power = Power.reset) (ht : u.target.held = none) (hl : u.pins.ploss = false)
    (hd : u.denied r.1 = false) : (serveHeld u (some r)).power = Power.reset ∧ (serveHeld u (some r)).answer.refused = false ∧
      (r.2.1 = true → (serveHeld u (some r)).answer.data = 0) := by
  obtain ⟨a, write, v⟩ := r
  have hm : mpReplay { u with power := { u.power with mpHeld := some (a, write, v) } } =
      access { u with power := { u.power with mpHeld := none } } .mport a write v := rfl
  have hu : ({ u with power := { u.power with mpHeld := none } } : State) = u := by
    have : ({ u.power with mpHeld := none } : Power) = u.power := by rw [hp]; rfl
    rw [this]
  obtain ⟨⟨htarget, hpins, hpower⟩, href, hdata⟩ := access_mport_served (s := u) (a := a) write v (by rw [hp]; rfl) hd
  have htp : tpReplay (access u .mport a write v) = access u .mport a write v := by simp [tpReplay, htarget, ht]
  have hs : serveHeld u (some (a, write, v)) = access u .mport a write v := by
    rw [serveHeld, hm, hu, htp]
    simp [hpins, hl]
  rw [hs]
  exact ⟨(hpower (by rw [hp]; decide)).trans hp, href, hdata⟩

/-- Outside P1 what follows a command leaves the power state. -/
theorem after_power (s : State) {t : State} (h : t.power.st ≠ .p1) : (after s t).power = t.power := by
  obtain ⟨-, -, -, -, -, -, -, hp, -⟩ := Fires.ringCheck t
  obtain ⟨n, hn, -⟩ := settle_eq { ringCheck t with pending := s.pending, build := s.build }
  rw [after, hn]
  exact hp h

/-- Settles O11: a request in P2 is held and starts the wake, whose end serves it. -/
theorem wakeRunsFillAndReturnsToP0 : Obligations.WakeRunsFillAndReturnsToP0 := by
  refine fun s hh hp => ⟨fun a v ha hm hw c hc => ⟨fun hclk => ?_, fun hclk => ?_⟩, fun hw hwait => ?_, fun hw hf hT ht hl w => ?_⟩
  · rw [exec_holds hh hp ha hm c hc, startWake_running (by exact hp) (by exact hw) (by exact hclk)]
    exact congrArg Host.Outcome.next (after_p2 (by exact hp) rfl rfl)
  · rw [exec_holds hh hp ha hm c hc, startWake_stopped (by exact hp) (by exact hw) (by exact hclk)]
    exact congrArg Host.Outcome.next (after_p2 (by exact hp) rfl rfl)
  · rw [exec_kclkRestart hh hwait, startWake_running (by exact hp) (by exact hw) rfl]
    exact congrArg Host.Outcome.next (after_p2 (by exact hp) rfl rfl)
  · obtain ⟨u, hdone, hpow, hinit, hreq, htarget, hpins, hbuild⟩ := wakeDone_eq w hT
    have ht' : u.target.held = none := by rw [htarget, ht]
    have hl' : u.pins.ploss = false := by rw [hpins, hl]
    refine ⟨_, exec_wakeComplete w hh hw hf, fun hnone => ?_, fun r hr hd hlev => ?_⟩ <;> rw [hdone]
    · have hst : u.power.st ≠ .p1 := by rw [hpow]; decide
      rw [hnone, serveHeld_none hpow ht' hl', after_power s hst, after_init, hinit, State.pwrReq, State.fldOf,
        after_reg hbuild (fun _ => hst) (by decide) (by decide)]
      exact ⟨hpow, rfl, hreq, rfl⟩
    · have hden : u.denied r.1 = false := denied_false r.1 (by rw [hinit]; exact hd) (by rw [State.level, hinit]; exact hlev)
      obtain ⟨hpw, href, hdata⟩ := serveHeld_some r hpow ht' hl' hden
      rw [hr, after_power s (by rw [hpw]; decide), after_answer, hpw]
      exact ⟨rfl, href, hdata⟩

end Sys2Proof.Machine
end

section
/-!
SUPPORT. The doorbells (R84 to R86).
-/

namespace Sys2Proof.Machine

/-! ## Queue pairs of the state -/

@[simp] theorem State.qp_setQp_self (s : State) (x : QP) : (s.setQp x).qp x.qid = some x := getBy_putBy_self QP.qid x s.qps

theorem State.qp_setQp_of_qid (s : State) {x : QP} {q : Nat} (h : x.qid = q) : (s.setQp x).qp q = some x := h ▸ s.qp_setQp_self x

theorem State.qp_setQp_ne (s : State) {x : QP} {r : Nat} (h : r ≠ x.qid) : (s.setQp x).qp r = s.qp r := getBy_putBy_ne QP.qid s.qps h

theorem State.qp_qid {s : State} {q : Nat} {x : QP} (h : s.qp q = some x) : x.qid = q := getBy_key h

/-! ## The commands -/

theorem exec_sqTailDoorbell {s : State} {q : Nat} {x : QP} (v : Word) (hs : InService s) (hq : q < 1024) (hx : s.qp q = some x) :
    exec (.sqTailDoorbell q v) s = .next (after s (tpRespond (sqDoorbell s x v) true false 0)) := by
  unfold exec
  refine (run_of_ok _ (decide_eq_true hq) hs.not_held).trans ?_
  rw [tpServe_p0 _ _ _ _ hs.init_done hs.power_st, doorbell, hx]
  rfl

theorem exec_cqHeadDoorbell {s : State} {q : Nat} {x : QP} (v : Word) (hs : InService s) (hq : q < 1024) (hx : s.qp q = some x) :
    exec (.cqHeadDoorbell q v) s = .next (after s (tpRespond (cqDoorbell s x v) true false 0)) := by
  unfold exec
  refine (run_of_ok _ (decide_eq_true hq) hs.not_held).trans ?_
  rw [tpServe_p0 _ _ _ _ hs.init_done hs.power_st, doorbell, hx]
  rfl

/-- Counting a doorbell that is not recorded (R84, R85). -/
theorem after_doorbell_count (s : State) : (after s (tpRespond (s.bump A.hqDbErrCnt) true false 0)).regN A.hqDbErrCnt =
    min (s.regN A.hqDbErrCnt + 1) (2 ^ 32 - 1) :=
  (after_regN (t := tpRespond (s.bump A.hqDbErrCnt) true false 0) rfl (by decide) (by decide) (.inl (by decide))).trans (s.regN_bump A.hqDbErrCnt 1)

/-! ## The tail of a submission ring (R84, R86) -/

theorem sqDoorbell_refused {s : State} {x : QP} {v : Word} (h : x.sqSize ≤ fld v 0 16) : sqDoorbell s x v = s.bump A.hqDbErrCnt := if_pos h

/-- The queue pair with `d` recorded: a stalled fetch goes on. -/
def QP.rung (x : QP) (d : Nat) : QP := { x with bell := d, stall := false }

/-- A tail below the ring size is recorded, and nothing else of the queue pairs changes. -/
theorem sqDoorbell_recorded {s : State} {x : QP} {v : Word} (h : fld v 0 16 < x.sqSize) :
    (sqDoorbell s x v).qp x.qid = some (x.rung (fld v 0 16)) ∧ (∀ r, r ≠ x.qid → (sqDoorbell s x v).qp r = s.qp r) ∧
    (sqDoorbell s x v).slots = s.slots ∧ (sqDoorbell s x v).ports = s.ports := by
  rw [sqDoorbell, if_neg (Nat.not_le.2 h)]
  exact ⟨State.qp_setQp_self s (x.rung (fld v 0 16)), fun r hr => State.qp_setQp_ne s (x := x.rung (fld v 0 16)) hr, rfl, rfl⟩

/-! ## The head of a completion ring (R85, R91) -/

/-- The write of a completion entry moves the tail alone. -/
theorem writeCq_cqHead (s : State) (x : Slot) {q : QP} (held : Bool) : ∃ y, (writeCq s x q held).qp q.qid = some y ∧ y.cqHead = q.cqHead := by
  obtain ⟨rs, h⟩ := writeCq_eq s x q held
  refine ⟨q.wrote, ?_, ?_⟩
  · rw [h, issue_qp, ← q.wrote_spec.1]
    exact State.qp_setQp_self _ q.wrote
  · unfold QP.wrote
    split <;> rfl

/-- Posting what was held leaves the recorded head. -/
theorem postHeld_cqHead (f : Nat) : ∀ {s : State} {q : Nat} {x : QP}, s.qp q = some x → ∃ y, (postHeld f s q).qp q = some y ∧ y.cqHead = x.cqHead := by
  induction f with
  | zero => exact fun h => ⟨_, h, rfl⟩
  | succ f ih =>
    intro s q x h
    obtain rfl : x.qid = q := State.qp_qid h
    cases hy : s.firstHeld x.qid with
    | none => exact ⟨x, by simp only [postHeld, h, hy], rfl⟩
    | some y =>
      simp only [postHeld, h, hy]
      split
      · exact ⟨x, h, rfl⟩
      · split
        · exact ⟨_, State.qp_setQp_self s { x with fault := true, cqFault := true }, rfl⟩
        · obtain ⟨z, hz, hhead⟩ := writeCq_cqHead s y (q := x) true
          rw [← hhead]
          exact ih hz

/-- A queue pair that holds no completion has none to post. -/
theorem State.firstHeld_eq_none {s : State} {q : Nat} (h : ∀ y ∈ s.slots, y.qid = q → y.phase ≠ .fullHeld) : s.firstHeld q = none := by
  have hnil : s.slots.filter (fun y => y.qid == q && y.phase == .fullHeld) = [] :=
    List.filter_eq_nil_iff.2 fun y hy => by simpa using h y hy
  rw [State.firstHeld, hnil]
  rfl

theorem postHeld_of_none {s : State} {q : Nat} (f : Nat) (h : s.firstHeld q = none) : postHeld f s q = s := by
  cases f with
  | zero => rfl
  | succ f => simp [postHeld, h]

/-- A head from the recorded head forward to T (R85). -/
def QP.headLegal (x : QP) (h : Nat) : Prop := h < x.cqSize ∧ (h + x.cqSize - x.cqHead) % x.cqSize ≤ (x.tail + x.cqSize - x.cqHead) % x.cqSize

/-- The queue pair with head `h` recorded. -/
def QP.atHead (x : QP) (h : Nat) : QP := { x with cqHead := h }

/-- The block with head `h` of a queue pair recorded in its context. -/
def State.recordHead (s : State) (x : QP) (h : Nat) : State :=
  clearPoison (s.setQp (x.atHead h)) 6 0 (256 * x.qid + 128 + Config.ctxByte 1 % 127) 2

theorem State.qp_recordHead (s : State) (x : QP) (h : Nat) : (s.recordHead x h).qp x.qid = some (x.atHead h) := State.qp_setQp_self s (x.atHead h)

theorem cqDoorbell_refused {s : State} {x : QP} {v : Word} (h : ¬x.headLegal (fld v 0 16)) : cqDoorbell s x v = s.bump A.hqDbErrCnt := by
  unfold QP.headLegal at h
  exact if_pos (by omega)

theorem cqDoorbell_recorded {s : State} {x : QP} {v : Word} (h : x.headLegal (fld v 0 16)) :
    cqDoorbell s x v = postHeld (s.slots.length + 1) (s.recordHead x (fld v 0 16)) x.qid := by
  unfold QP.headLegal at h
  exact if_neg (by omega)

/-- Settles O19: a legal value is recorded, any other counted, and a head that is recorded posts what was held. -/
theorem doorbellsRecordLegalValues : Obligations.DoorbellsRecordLegalValues := by
  intro s q x v hs hq hx
  obtain rfl : x.qid = q := State.qp_qid hx
  refine ⟨⟨_, exec_sqTailDoorbell v hs hq hx, after_tpAnswer .., ?_⟩, ⟨_, exec_cqHeadDoorbell v hs hq hx, after_tpAnswer .., ?_⟩⟩
  · rw [after_slots, after_ports, after_qps]
    simp only [after_qp]
    by_cases hv : fld v 0 16 < x.sqSize
    · obtain ⟨hself, hother, hslots, hports⟩ := sqDoorbell_recorded (s := s) hv
      exact ⟨hslots, hports, fun _ => hself, fun h => absurd hv (Nat.not_lt.2 h), hother⟩
    · rw [sqDoorbell_refused (Nat.not_lt.1 hv)]
      exact ⟨rfl, rfl, fun h => absurd h hv, fun _ => ⟨rfl, after_doorbell_count s⟩, fun _ _ => rfl⟩
  · simp only [after_qp, after_qps, after_slots]
    by_cases hl : x.headLegal (fld v 0 16)
    · rw [cqDoorbell_recorded hl]
      refine ⟨fun _ => postHeld_cqHead _ (s.qp_recordHead x _), fun _ hno => ?_, fun h => absurd hl h⟩
      rw [postHeld_of_none _ (State.firstHeld_eq_none (s := s.recordHead x (fld v 0 16)) hno)]
      exact ⟨s.qp_recordHead x _, rfl⟩
    · rw [cqDoorbell_refused hl]
      exact ⟨fun h => absurd h hl, fun h => absurd h hl, fun _ => ⟨rfl, rfl, after_doorbell_count s⟩⟩

end Sys2Proof.Machine
end

section
/-!
SUPPORT. The registers of the queue pairs and of the alert ring that have a rule of their own (R93, R95, R103).
-/

namespace Sys2Proof.Machine

/-! ## Fields of a merged value (R13) -/

theorem merge_cons (x : Fld) (fs : List Fld) (old new : Word) : Reg.merge (x :: fs) old new =
    Reg.merge fs (if x.rule.ok (fld new x.lo x.w) then setFld old x.lo x.w (fld new x.lo x.w) else old) new := rfl

/-- Two fields that share no bit. -/
def Fld.apart (x y : Fld) : Prop := x.lo + x.w ≤ y.lo ∨ y.lo + y.w ≤ x.lo

/-- A field apart from every field written keeps its value. -/
theorem fld_merge_of_apart {y : Fld} {fs : List Fld} (h : ∀ x ∈ fs, x.lo + x.w ≤ 32 ∧ y.apart x) (old new : Word) :
    fld (Reg.merge fs old new) y.lo y.w = fld old y.lo y.w := by
  induction fs generalizing old with
  | nil => rfl
  | cons x fs ih =>
    rw [merge_cons, ih fun z hz => h z (List.mem_cons_of_mem _ hz)]
    obtain ⟨h32, hap⟩ := h x List.mem_cons_self
    split
    · exact fld_setFld_ne old _ h32 hap
    · rfl

/-- A field written takes its new value where that is no reserved encoding. -/
theorem fld_merge_of_mem {y : Fld} {fs : List Fld} (h32 : ∀ x ∈ fs, x.lo + x.w ≤ 32) (hp : fs.Pairwise Fld.apart) (hy : y ∈ fs) (old new : Word) :
    fld (Reg.merge fs old new) y.lo y.w = if y.rule.ok (fld new y.lo y.w) then fld new y.lo y.w else fld old y.lo y.w := by
  induction fs generalizing old with
  | nil => cases hy
  | cons x fs ih =>
    obtain ⟨hx, hfs⟩ := List.pairwise_cons.1 hp
    have hrest : ∀ z ∈ fs, z.lo + z.w ≤ 32 := fun z hz => h32 z (List.mem_cons_of_mem _ hz)
    rw [merge_cons]
    obtain rfl | hmem := List.mem_cons.1 hy
    · rw [fld_merge_of_apart fun z hz => ⟨hrest z hz, hx z hz⟩]
      split
      · rw [fld_setFld_self old _ (h32 y List.mem_cons_self), Nat.mod_eq_of_lt (fld_lt new y.lo y.w)]
      · rfl
    · rw [ih hrest hfs hmem]
      obtain hap | hap := hx y hmem
      all_goals
        congr 1
        split
        · exact fld_setFld_ne old _ (h32 x List.mem_cons_self) (by omega)
        · rfl

/-- Writing a field with what it holds changes nothing. -/
theorem setFld_fld (v : Word) {lo w : Nat} (h : lo + w ≤ 32) : setFld v lo w (fld v lo w) = v := by
  refine BitVec.eq_of_toNat_eq (Nat.eq_of_testBit_eq fun i => ?_)
  rw [testBit_setFld v _ i h]
  split
  · next hi =>
    have hlt : i - lo < w := by omega
    have hadd : lo + (i - lo) = i := by omega
    simp [fld, bits, hlt, hadd]
  · rfl

/-! ## An MPORT write of a register with a rule of its own -/

/-- The block after an MPORT write whose effect is `t`: answered OK, and no keyed pair. -/
def State.written (t : State) : State := mpAnswer (keyBreak t) false 0

@[simp] theorem State.written_qps (t : State) : t.written.qps = t.qps := rfl
@[simp] theorem State.written_slots (t : State) : t.written.slots = t.slots := rfl
@[simp] theorem State.written_ports (t : State) : t.written.ports = t.ports := rfl
@[simp] theorem State.written_build (t : State) : t.written.build = t.build := rfl
@[simp] theorem State.written_pending (t : State) : t.written.pending = t.pending := rfl
@[simp] theorem State.written_reg (t : State) (a : Nat) : t.written.reg a = t.reg a := rfl

/-- A register of HQ is open once INIT_DONE is 1, at every level (R61, R432). -/
theorem denied_hq {s : State} {a : Nat} {r : RegRow} {is : List Nat} (hd : s.init.done = true) (hf : Reg.find a = some (r, is))
    (ha : 0x020000 ≤ a) (hr : r.base < 0x030000) : s.denied a = false := by
  have hrow : rowBase a = some r.base := by rw [rowBase, hf]; rfl
  have hne (b : Nat) (hb : 0x030000 ≤ b) : (rowBase a == some b) = false :=
    beq_eq_false_iff_ne.2 fun h => by have := Option.some.inj (hrow.symm.trans h); omega
  exact denied_false' hd (beq_eq_false_iff_ne.2 (by unfold A.secRplReq; omega)) (hne _ (by decide)) (hne _ (by decide))

/-- An MPORT write of such a register of HQ. -/
theorem accessWrite_hq {s t : State} {a : Nat} {v : Word} {r : RegRow} {is : List Nat} (hs : InService s) (hf : Reg.find a = some (r, is))
    (ha : 0x020000 ≤ a) (hr : r.base < 0x030000) (hi : s.instOk r is = true) (h1 : Reg.pairBase a = false)
    (h2 : (decide (4 ≤ a) && Reg.pairBase (a - 4)) = false) (ht : actWrite s r.base (is.getD 0 0) v = some t) :
    accessWrite s .mport a v none = t.written := by
  rw [accessWrite_mport v hs.power_st (denied_hq hs.init_done hf ha hr) (by rw [bne_iff_ne]; unfold A.secRplReq; omega),
    writeReg_act hf hi h1 h2 ht]
  rfl

/-- A register of HQ after the command is as the write left it, HQ_AR_DROP_CNT apart. -/
theorem after_written_reg {s t : State} {a : Nat} (hb : t.build = s.build) (ha : 0x020000 ≤ a) (hlt : a < 0x030000) (hd : a ≠ A.hqArDropCnt) :
    (after s t.written).reg a = t.reg a :=
  after_reg (t := t.written) hb (fun h => by unfold A.glbPwrCtl at h; omega) hd (.inl (by omega))

/-! ## The alert ring (R103) -/

/-- The fields of HQ_AR_CFG. -/
def hqArCfgFlds : List Fld := [Reg.fr 0 4 0 12, Reg.f 4 2, Reg.f 8 1]

theorem exec_alertRingEnable {s : State} {v : Word} (hs : InService s) (hv : fld v 8 1 = 1) :
    exec (.alertRingEnable v) s = .next (after s (arCfg s v).written) := by
  have hw : accessWrite s .mport A.hqArCfg v none = (arCfg s v).written :=
    accessWrite_hq (r := Reg.rw A.hqArCfg [] 0 .immediate hqArCfgFlds) (is := []) hs (by decide) (by decide) (by decide) rfl (by decide) (by decide) rfl
  unfold exec
  refine (runBus_of_ok _ rfl hs.not_held).trans ?_
  rw [if_pos hv, hw]

theorem exec_alertRingHeadWrite {s : State} (v : Word) (hs : InService s) :
    exec (.alertRingHeadWrite v) s = .next (after s (arHeadWrite s v).written) := by
  have hw : accessWrite s .mport A.hqArHead v none = (arHeadWrite s v).written :=
    accessWrite_hq (r := Reg.rw A.hqArHead [] 0 .immediate [Reg.f 0 16]) (is := []) hs (by decide) (by decide) (by decide) rfl (by decide) (by decide) rfl
  unfold exec
  refine (runBus_of_ok _ rfl hs.not_held).trans ?_
  rw [hw]

/-- The alert ring's registers, tail and phase after the command are as the write left them. -/
theorem after_written_alert {s t : State} (hp : t.pending = s.pending) (hb : t.build = s.build) :
    (after s t.written).alert.tail = t.alert.tail ∧ (after s t.written).alert.wphase = t.alert.wphase ∧
    (after s t.written).reg A.hqArCfg = t.reg A.hqArCfg ∧ (after s t.written).arHead = t.arHead ∧
    (after s t.written).regN A.hqDbErrCnt = t.regN A.hqDbErrCnt := by
  obtain ⟨-, -, -, htail, hphase, -⟩ := around_after (s := s) (u := t.written) hp hb
  have hreg {a : Nat} (ha : 0x020000 ≤ a) (hlt : a < 0x030000) (hd : a ≠ A.hqArDropCnt) : (after s t.written).reg a = t.reg a :=
    after_written_reg hb ha hlt hd
  refine ⟨htail, hphase, hreg (by decide) (by decide) (by decide), ?_, ?_⟩
  · rw [State.arHead, State.fldOf, hreg (by decide) (by decide) (by decide)]; rfl
  · rw [State.regN, hreg (by decide) (by decide) (by decide)]; rfl

/-- The value that a write of HQ_AR_CFG leaves while EN is 0. -/
def State.arCfgMerged (s : State) (v : Word) : Word := Reg.merge hqArCfgFlds (s.reg A.hqArCfg) v

theorem fld_arCfgMerged {y : Fld} (hy : y ∈ hqArCfgFlds) (s : State) (v : Word) : fld (s.arCfgMerged v) y.lo y.w =
    if y.rule.ok (fld v y.lo y.w) then fld v y.lo y.w else s.fldOf A.hqArCfg y.lo y.w :=
  fld_merge_of_mem (by decide) (by unfold Fld.apart; decide) hy _ v

/-- A rise of EN resets the ring (R103). -/
theorem arCfg_rise {s : State} {v : Word} (hv : fld v 8 1 = 1) (he : s.arEn = false) : arCfg s v =
    { (s.setReg A.hqArCfg (s.arCfgMerged v)).setReg A.hqArHead 0 with alert := { s.alert with tail := 0, wphase := true } } := by
  have hen : fld (s.arCfgMerged v) 8 1 = 1 := (fld_arCfgMerged (y := Reg.f 8 1) (by decide) s v).trans hv
  unfold arCfg
  rw [he]
  exact if_pos hen

theorem arCfg_rise_regs {s : State} {v : Word} (hv : fld v 8 1 = 1) (he : s.arEn = false) :
    (arCfg s v).reg A.hqArCfg = s.arCfgMerged v ∧ (arCfg s v).arHead = 0 := by
  rw [arCfg_rise hv he]
  have hcfg : ((s.setReg A.hqArCfg (s.arCfgMerged v)).setReg A.hqArHead 0).reg A.hqArCfg = s.arCfgMerged v :=
    (State.reg_setReg_ne _ _ (by decide)).trans (State.reg_setReg_self ..)
  have hhead : ((s.setReg A.hqArCfg (s.arCfgMerged v)).setReg A.hqArHead 0).arHead = 0 := by
    rw [State.arHead, State.fldOf, State.reg_setReg_self]; rfl
  exact ⟨hcfg, hhead⟩

/-- While EN is 1 a write of it changes nothing (R103). -/
theorem arCfg_on {s : State} {v : Word} (hv : fld v 8 1 = 1) (he : s.arEn = true) : arCfg s v = s.setReg A.hqArCfg (s.reg A.hqArCfg) := by
  have hen : fld (s.reg A.hqArCfg) 8 1 = fld v 8 1 := (beq_iff_eq.1 he).trans hv.symm
  rw [arCfg, he, if_pos rfl, State.setFldOf, ← hen, setFld_fld _ (by decide)]

/-- A head from HEAD forward to TAIL (R103). -/
def State.arHeadLegal (s : State) (h : Nat) : Prop :=
  h < s.arSize ∧ (h + s.arSize - s.arHead) % s.arSize ≤ (s.alert.tail + s.arSize - s.arHead) % s.arSize

theorem arHeadWrite_legal {s : State} {v : Word} (h : s.arHeadLegal (fld v 0 16)) : arHeadWrite s v = s.setRegN A.hqArHead (fld v 0 16) := by
  unfold State.arHeadLegal at h
  exact if_neg (by omega)

theorem arHeadWrite_refused {s : State} {v : Word} (h : ¬s.arHeadLegal (fld v 0 16)) : arHeadWrite s v = s.bump A.hqDbErrCnt := by
  unfold State.arHeadLegal at h
  exact if_pos (by omega)

/-- A 16-bit number written to a register is what its low half then holds. -/
theorem State.fldOf_setRegN (s : State) (a : Nat) {n : Nat} (h : n < 2 ^ 16) : (s.setRegN a n).fldOf a 0 16 = n := by
  rw [State.fldOf, State.setRegN, State.reg_setReg_self, fld, bits, BitVec.toNat_ofNat]
  simp only [Nat.shiftRight_zero]
  omega

/-- Settles O29: each write of the alert ring's registers is one of two, and what follows the command leaves the ring. -/
theorem alertRingEnableAndHeadWrites : Obligations.AlertRingEnableAndHeadWrites := by
  intro s v hs
  refine ⟨fun hv he => ⟨_, exec_alertRingEnable hs hv, ?_⟩, fun hv he => ⟨_, exec_alertRingEnable hs hv, ?_⟩, _, exec_alertRingHeadWrite v hs, ?_⟩
  · have heq := arCfg_rise hv he
    obtain ⟨hcfg, hhead⟩ := arCfg_rise_regs hv he
    obtain ⟨htail, hphase, hreg, harHead, -⟩ := after_written_alert (s := s) (t := arCfg s v) (by rw [heq]; rfl) (by rw [heq]; rfl)
    have hsize := fld_arCfgMerged (y := Reg.fr 0 4 0 12) (by decide) s v
    have hport := fld_arCfgMerged (y := Reg.f 4 2) (by decide) s v
    have hen := fld_arCfgMerged (y := Reg.f 8 1) (by decide) s v
    rw [State.arEn, htail, hphase, harHead, hhead]
    simp only [State.fldOf, hreg, hcfg]
    exact ⟨beq_iff_eq.2 (hen.trans hv), by rw [heq], by rw [heq], trivial, by simpa [Reg.fr, Rule.ok, State.fldOf] using hsize, hport⟩
  · have heq := arCfg_on hv he
    obtain ⟨htail, -, hreg, harHead, -⟩ := after_written_alert (s := s) (t := arCfg s v) (by rw [heq]; rfl) (by rw [heq]; rfl)
    have hsame (a : Nat) : (arCfg s v).reg a = s.reg a := by
      rw [heq]
      by_cases ha : a = A.hqArCfg
      · rw [ha, State.reg_setReg_self]
      · exact State.reg_setReg_ne _ _ ha
    rw [htail, harHead, hreg, State.arHead, State.fldOf, hsame, hsame]
    exact ⟨rfl, by rw [heq]; rfl, rfl⟩
  · by_cases hl : s.arHeadLegal (fld v 0 16)
    · rw [arHeadWrite_legal hl]
      obtain ⟨htail, -, -, harHead, -⟩ := after_written_alert (s := s) (t := s.setRegN A.hqArHead (fld v 0 16)) rfl rfl
      exact ⟨htail, fun _ => harHead.trans (s.fldOf_setRegN A.hqArHead (fld_lt v 0 16)), fun h => absurd hl h⟩
    · rw [arHeadWrite_refused hl]
      obtain ⟨htail, -, -, harHead, hcnt⟩ := after_written_alert (s := s) (t := s.bump A.hqDbErrCnt) rfl rfl
      have hhead : (s.bump A.hqDbErrCnt).arHead = s.arHead := by
        rw [State.arHead, State.fldOf, State.reg_bump_ne _ _ (by decide)]; rfl
      exact ⟨htail, fun h => absurd h hl, fun _ => ⟨harHead.trans hhead, hcnt.trans (s.regN_bump A.hqDbErrCnt 1)⟩⟩

end Sys2Proof.Machine
end

section
/-!
SUPPORT. HQ_AQ_CFG and HQ_QP_CTL (R93, R95).
-/

namespace Sys2Proof.Machine

/-! ## The fetch unit's boundary (R29) -/

/-- Writes taken at a boundary change registers and the list of what waits. -/
theorem takeNow_eq (s : State) (p : PendWrite → Bool) : ∃ rs l, takeNow s p = { s with regs := rs, pend := l } := by
  have h (l : List PendWrite) : ∀ t : State, ∃ rs, l.foldl (fun st x => st.setReg x.addr x.val) t = { t with regs := rs } := by
    induction l with
    | nil => exact fun t => ⟨t.regs, rfl⟩
    | cons x l ih => exact fun t => (ih (t.setReg x.addr x.val)).imp fun rs hrs => hrs.trans rfl
  obtain ⟨rs, hrs⟩ := h (s.pend.filter p) { s with pend := s.pend.filter fun x => !p x }
  exact ⟨rs, _, hrs⟩

theorem passFetch_eq (s : State) : ∃ rs l, passFetch s = { s with regs := rs, pend := l } := takeNow_eq s _

section
variable (s : State)

@[simp] theorem passFetch_qps : (passFetch s).qps = s.qps := by obtain ⟨_, _, h⟩ := passFetch_eq s; rw [h]
@[simp] theorem passFetch_slots : (passFetch s).slots = s.slots := by obtain ⟨_, _, h⟩ := passFetch_eq s; rw [h]
@[simp] theorem passFetch_ports : (passFetch s).ports = s.ports := by obtain ⟨_, _, h⟩ := passFetch_eq s; rw [h]
@[simp] theorem passFetch_build : (passFetch s).build = s.build := by obtain ⟨_, _, h⟩ := passFetch_eq s; rw [h]
@[simp] theorem passFetch_admSeq : (passFetch s).admSeq = s.admSeq := by obtain ⟨_, _, h⟩ := passFetch_eq s; rw [h]
@[simp] theorem passFetch_aclk : (passFetch s).aclk = s.aclk := by obtain ⟨_, _, h⟩ := passFetch_eq s; rw [h]
@[simp] theorem passFetch_qp (q : Nat) : (passFetch s).qp q = s.qp q := by obtain ⟨_, _, h⟩ := passFetch_eq s; rw [h]; rfl

end

/-! ## HQ_AQ_CFG (R95) -/

/-- The fields of HQ_AQ_CFG. -/
def hqAqCfgFlds : List Fld := [Reg.fr 0 4 0 12, Reg.fr 4 4 0 12, Reg.f 8 2]

theorem exec_hqAqCfgWrite {s : State} (v : Word) (hs : InService s) : exec (.hqAqCfgWrite v) s = .next (after s (aqCfg s v).written) := by
  have hw : accessWrite s .mport A.hqAqCfg v none = (aqCfg s v).written :=
    accessWrite_hq (r := Reg.rw A.hqAqCfg [] 0 .fetch hqAqCfgFlds) (is := []) hs (by decide) (by decide) (by decide) rfl (by decide) (by decide) rfl
  unfold exec
  refine (runBus_of_ok _ rfl hs.not_held).trans ?_
  rw [hw]

theorem aqCfg_busy {s : State} {v : Word} (h : (passFetch s).aqFree = false) : aqCfg s v = passFetch s := by
  rw [aqCfg, h]; rfl

/-- The value that a write of HQ_AQ_CFG leaves. -/
def State.aqCfgMerged (s : State) (v : Word) : Word := Reg.merge hqAqCfgFlds (s.applied A.hqAqCfg) v

/-- The block with HQ_AQ_CFG at `nv`, and without the completions that QP 0 held. -/
def State.aqSet (s : State) (nv : Word) : State :=
  { s.setReg A.hqAqCfg nv with slots := s.slots.filter fun x => !(x.qid == 0 && x.phase == .faultHeld) }

theorem State.pair_aqSet (s : State) (nv : Word) {lo : Nat} (h : lo ≠ A.hqAqCfg) (h4 : lo + 4 ≠ A.hqAqCfg) : (s.aqSet nv).pair lo = s.pair lo := by
  have hreg {a : Nat} (ha : a ≠ A.hqAqCfg) : (s.aqSet nv).regN a = s.regN a := congrArg BitVec.toNat (s.reg_setReg_ne nv ha)
  rw [State.pair, State.pair, hreg h, hreg h4]

theorem QP.setup_qid (x : QP) (sqBase cqBase sqCode cqCode port : Nat) : (x.setup sqBase cqBase sqCode cqCode port).qid = x.qid := rfl

/-- The rings of QP 0 come into use with HQ_AQ_CFG at `nv`. -/
def State.aqSetUp (s : State) (nv : Word) (x : QP) : State :=
  (cleanCtx (orphan s 0) 0).setQp (x.setup (s.pair A.hqAqSqbLo) (s.pair A.hqAqCqbLo) (fld nv 0 4) (fld nv 4 4) (fld nv 8 2))

theorem State.qp_aqSetUp (s : State) (nv : Word) {x : QP} (h : x.qid = 0) : (s.aqSetUp nv x).qp 0 =
    some (x.setup (s.pair A.hqAqSqbLo) (s.pair A.hqAqCqbLo) (fld nv 0 4) (fld nv 4 4) (fld nv 8 2)) :=
  State.qp_setQp_of_qid _ ((x.setup_qid ..).trans h)

/-- A write while QP 0 is disabled and idle sets its rings up. -/
theorem aqCfg_free {s : State} {v : Word} {x : QP} (h : (passFetch s).aqFree = true) (hx : (passFetch s).qp 0 = some x) :
    aqCfg s v = ((passFetch s).aqSet ((passFetch s).aqCfgMerged v)).aqSetUp ((passFetch s).aqCfgMerged v) x := by
  have hu : ((passFetch s).aqSet ((passFetch s).aqCfgMerged v)).qp 0 = some x := hx
  have heq : aqCfg s v = match ((passFetch s).aqSet ((passFetch s).aqCfgMerged v)).qp 0 with
      | none => (passFetch s).aqSet ((passFetch s).aqCfgMerged v)
      | some q => ((passFetch s).aqSet ((passFetch s).aqCfgMerged v)).aqSetUp ((passFetch s).aqCfgMerged v) q := by
    rw [aqCfg, h]; rfl
  rw [heq, hu]

theorem State.aqFree_qp {s : State} (h : s.aqFree = true) : ∃ x, s.qp 0 = some x := by
  unfold State.aqFree at h
  split at h
  · exact ⟨_, by assumption⟩
  · cases h

/-! ## HQ_QP_CTL (R93) -/

/-- The row of HQ_QP_CTL. -/
def hqQpCtlRow : RegRow := Reg.rw (A.hqQpCtl 0) [(1024, 4)] 0 .fetch [Reg.f 0 1]

/-- A row is found where it holds the address and no row before it does. -/
theorem search_append {l l' : List RegRow} {r : RegRow} {a : Nat} {is : List Nat} (hl : ∀ x ∈ l, Reg.rowIndex x a = none)
    (hr : Reg.rowIndex r a = some is) : Reg.search (l ++ r :: l') a = some (r, is) := by
  induction l with
  | nil => simp only [List.nil_append, Reg.search, hr]
  | cons x l ih =>
    simp only [List.cons_append, Reg.search, hl x List.mem_cons_self]
    exact ih fun y hy => hl y (List.mem_cons_of_mem _ hy)

/-- A single register holds its own address alone. -/
theorem rowIndex_single {x : RegRow} {a : Nat} (hd : x.dims = []) (hb : x.base < a) : Reg.rowIndex x a = none := by
  have hne : ¬(a - x.base == 0) = true := by rw [beq_iff_eq]; omega
  rw [Reg.rowIndex, if_pos (Nat.le_of_lt hb), hd, Reg.index, if_neg hne]

section
variable {q : Nat} (hq : q < 1024)
include hq

theorem find_hqQpCtl : Reg.find (A.hqQpCtl q) = some (hqQpCtlRow, [q]) := by
  have hregion : A.hqQpCtl q / 0x10000 = 2 := by unfold A.hqQpCtl; omega
  have hrows : Reg.rowsAt (A.hqQpCtl q) = Reg.hq := by simp only [Reg.rowsAt, hregion]
  have hsplit : Reg.hq = Reg.hq.take 15 ++ hqQpCtlRow :: Reg.hq.drop 16 := rfl
  have hbefore : ∀ x ∈ Reg.hq.take 15, x.dims = [] ∧ x.base < 0x021000 := by decide
  have hrow : Reg.rowIndex hqQpCtlRow (A.hqQpCtl q) = some [q] := by
    have h0 : A.hqQpCtl q - A.hqQpCtl 0 = 4 * q := by unfold A.hqQpCtl; omega
    have hle : A.hqQpCtl 0 ≤ A.hqQpCtl q := by unfold A.hqQpCtl; omega
    simp [Reg.rowIndex, Reg.index, hqQpCtlRow, Reg.rw, h0, hle, hq]
  rw [Reg.find, hrows, hsplit]
  refine search_append (fun x hx => ?_) hrow
  obtain ⟨hd, hb⟩ := hbefore x hx
  exact rowIndex_single hd (by unfold A.hqQpCtl; omega)

/-- No half of a pair lies at or just before the register. -/
theorem pairBase_hqQpCtl {a : Nat} (h : a = A.hqQpCtl q ∨ a + 4 = A.hqQpCtl q) : Reg.pairBase a = false := by
  unfold A.hqQpCtl at h
  simp [Reg.pairBase, A.hqAqSqbLo, A.hqAqCqbLo, A.hqArBaseLo, A.wglCalPaddrLo, A.eccWseqLo, A.rlvFgPosLo, A.rlvFgTotalLo, A.hqBrBaseLo, A.ntfTgtAddrLo]
  omega

theorem accessWrite_hqQpCtl {s : State} (hs : InService s) (v : Word) :
    accessWrite s .mport (A.hqQpCtl q) v none = (setQpEn s q (bit v.toNat 0)).written := by
  have ha : 4 ≤ A.hqQpCtl q := by unfold A.hqQpCtl; omega
  refine accessWrite_hq hs (find_hqQpCtl hq) (by unfold A.hqQpCtl; omega) (by decide) rfl (pairBase_hqQpCtl hq (.inl rfl)) ?_ rfl
  rw [pairBase_hqQpCtl hq (.inr (Nat.sub_add_cancel ha)), Bool.and_false]

theorem exec_qpEnable {s : State} (hs : InService s) : exec (.qpEnable q) s = .next (after s (setQpEn s q true).written) := by
  unfold exec
  exact (runBus_of_ok _ (decide_eq_true hq) hs.not_held).trans (by rw [accessWrite_hqQpCtl hq hs]; rfl)

theorem exec_qpDisable {s : State} (hs : InService s) : exec (.qpDisable q) s = .next (after s (setQpEn s q false).written) := by
  unfold exec
  exact (runBus_of_ok _ (decide_eq_true hq) hs.not_held).trans (by rw [accessWrite_hqQpCtl hq hs]; rfl)

/-- QP_EN after the command is as the write left it. -/
theorem after_written_qpEn {s t : State} (hb : t.build = s.build) : (after s t.written).qpEn q = t.qpEn q := by
  rw [State.qpEn, State.fldOf, after_written_reg hb (by unfold A.hqQpCtl; omega) (by unfold A.hqQpCtl; omega)
    (by unfold A.hqQpCtl A.hqArDropCnt; omega)]
  rfl

end

/-- A request with what it brings the queue pair dropped, where it is an SQ read of that queue pair. -/
def Req.dropSq (qid : Nat) (r : Req) : Req :=
  match r.purpose with
  | .sqRead q i _ => if q = qid then { r with purpose := .sqRead q i 0 } else r
  | _ => r

theorem Req.dropSq_brings_nothing {qid i n : Nat} {r : Req} (h : (r.dropSq qid).purpose = .sqRead qid i n) : n = 0 := by
  unfold Req.dropSq at h
  split at h
  · next q j k hp =>
    split at h
    · cases h; rfl
    · next hne => rw [hp] at h; cases h; exact absurd rfl hne
  · next hno => exact absurd h (hno qid i n)

/-- The port with what its SQ reads of a queue pair bring dropped. -/
def Port.dropSq (qid : Nat) (x : Port) : Port := { x with out := x.out.map (Req.dropSq qid), wait := x.wait.map (Req.dropSq qid) }

theorem Port.dropSq_brings_nothing {qid i n : Nat} {x : Port} {r : Req} (hr : r ∈ (x.dropSq qid).out ++ (x.dropSq qid).wait)
    (h : r.purpose = .sqRead qid i n) : n = 0 := by
  have hmem : r ∈ (x.out ++ x.wait).map (Req.dropSq qid) := by rw [List.map_append]; exact hr
  obtain ⟨r, -, rfl⟩ := List.mem_map.1 hmem
  exact Req.dropSq_brings_nothing h

theorem State.qpEn_setRegN (s : State) (q : Nat) (on : Bool) : (s.setRegN (A.hqQpCtl q) on.toNat).qpEn q = on := by
  rw [State.qpEn, State.fldOf, State.setRegN, State.reg_setReg_self]
  cases on <;> rfl

/-- A write of QP_EN for a queue pair that does not exist is no more than the fetch unit's boundary. -/
theorem setQpEn_none {s : State} {q : Nat} (on : Bool) (h : s.qp q = none) : setQpEn s q on = passFetch s := by
  have hu : (passFetch s).qp q = none := (passFetch_qp s q).trans h
  simp only [setQpEn, hu]

section
variable {s : State} {q : Nat} (h : (s.qp q).isSome = true)
include h

theorem setQpEn_on : setQpEn s q true = (passFetch s).setRegN (A.hqQpCtl q) 1 := by
  obtain ⟨x, hx⟩ := Option.isSome_iff_exists.1 h
  have hu : (passFetch s).qp q = some x := (passFetch_qp s q).trans hx
  simp only [setQpEn, hu]
  rfl

theorem setQpEn_off : setQpEn s q false =
    turnCheck { (passFetch s).setRegN (A.hqQpCtl q) 0 with ports := (passFetch s).ports.map (Port.dropSq q) } := by
  obtain ⟨x, hx⟩ := Option.isSome_iff_exists.1 h
  have hu : (passFetch s).qp q = some x := (passFetch_qp s q).trans hx
  simp only [setQpEn, hu]
  rfl

/-- QP_EN of a queue pair that exists is what was written, and queue pairs and commands stay. -/
theorem setQpEn_spec (on : Bool) : (setQpEn s q on).qpEn q = on ∧ (setQpEn s q on).qps = s.qps ∧ (setQpEn s q on).slots = s.slots ∧
    (setQpEn s q on).build = s.build := by
  have hreg := State.qpEn_setRegN (passFetch s) q on
  cases on with
  | true => rw [setQpEn_on h]; exact ⟨hreg, passFetch_qps s, passFetch_slots s, passFetch_build s⟩
  | false =>
    obtain ⟨b, ht⟩ := turnCheck_eq { (passFetch s).setRegN (A.hqQpCtl q) 0 with ports := (passFetch s).ports.map (Port.dropSq q) }
    rw [setQpEn_off h, ht]
    exact ⟨hreg, passFetch_qps s, passFetch_slots s, passFetch_build s⟩

theorem setQpEn_off_ports : (setQpEn s q false).ports = s.ports.map (Port.dropSq q) := by
  obtain ⟨b, ht⟩ := turnCheck_eq { (passFetch s).setRegN (A.hqQpCtl q) 0 with ports := (passFetch s).ports.map (Port.dropSq q) }
  rw [setQpEn_off h, ht]
  exact congrArg (List.map (Port.dropSq q)) (passFetch_ports s)

end

/-- A field of HQ_AQ_CFG takes a value that is not reserved. -/
theorem fld_aqCfgMerged {s : State} {v : Word} {y : Fld} (hy : y ∈ hqAqCfgFlds) (hok : y.rule.ok (fld v y.lo y.w) = true) :
    fld (s.aqCfgMerged v) y.lo y.w = fld v y.lo y.w := by
  rw [State.aqCfgMerged, fld_merge_of_mem (by decide) (by unfold Fld.apart; decide) hy, if_pos hok]

/-- A write of values that are not reserved, while QP 0 is disabled and idle. -/
theorem aqCfg_sets_up {s : State} {v : Word} (hsq : fld v 0 4 ≤ 12) (hcq : fld v 4 4 ≤ 12) (h : (passFetch s).aqFree = true) :
    ∃ x : QP, (aqCfg s v).qp 0 = some (x.setup ((passFetch s).pair A.hqAqSqbLo) ((passFetch s).pair A.hqAqCqbLo) (fld v 0 4) (fld v 4 4) (fld v 8 2)) := by
  obtain ⟨x, hx⟩ := State.aqFree_qp h
  have hid : x.qid = 0 := State.qp_qid hx
  have h0 : fld ((passFetch s).aqCfgMerged v) 0 4 = fld v 0 4 := fld_aqCfgMerged (y := Reg.fr 0 4 0 12) (by decide) (by simpa [Reg.fr, Rule.ok] using hsq)
  have h4 : fld ((passFetch s).aqCfgMerged v) 4 4 = fld v 4 4 := fld_aqCfgMerged (y := Reg.fr 4 4 0 12) (by decide) (by simpa [Reg.fr, Rule.ok] using hcq)
  have h8 : fld ((passFetch s).aqCfgMerged v) 8 2 = fld v 8 2 := fld_aqCfgMerged (y := Reg.f 8 2) (by decide) rfl
  refine ⟨x, ?_⟩
  rw [aqCfg_free h hx, State.qp_aqSetUp _ _ hid, State.pair_aqSet _ _ (by decide) (by decide), State.pair_aqSet _ _ (by decide) (by decide), h0, h4, h8]

/-- Settles O30: each write is one of two, and the fetch unit's boundary before it touches neither queue pairs nor commands. -/
theorem queuePairRegistersSetUpAndEnable : Obligations.QueuePairRegistersSetUpAndEnable := by
  intro s q v hs hq
  refine ⟨fun hsq hcq hfree => ?_, fun hbusy => ⟨_, exec_hqAqCfgWrite v hs, ?_⟩, fun hx => ⟨_, exec_qpEnable hq hs, ?_⟩,
    fun hx => ⟨_, exec_qpDisable hq hs, ?_⟩, fun hx => ⟨_, exec_qpEnable hq hs, ?_⟩⟩
  · obtain ⟨x, hx⟩ := aqCfg_sets_up hsq hcq hfree
    exact ⟨_, _, exec_hqAqCfgWrite v hs, (after_qp ..).trans hx, rfl, rfl, rfl, rfl, rfl, rfl, rfl, rfl, rfl, rfl, rfl, rfl, rfl⟩
  · rw [aqCfg_busy hbusy, after_qps, after_slots]
    exact ⟨passFetch_qps s, passFetch_slots s⟩
  · obtain ⟨hen, hqps, hslots, hbuild⟩ := setQpEn_spec hx true
    rw [after_written_qpEn hq hbuild, after_qps, after_slots]
    exact ⟨hen, hqps, hslots⟩
  · obtain ⟨hen, hqps, hslots, hbuild⟩ := setQpEn_spec hx false
    rw [after_written_qpEn hq hbuild, after_qps, after_slots, after_ports]
    refine ⟨hen, hqps, hslots, fun y hy r hr i n hp => ?_⟩
    obtain ⟨x, -, rfl⟩ := List.mem_map.1 (setQpEn_off_ports hx ▸ hy)
    exact Port.dropSq_brings_nothing hr hp
  · rw [setQpEn_none true hx, after_written_qpEn hq (passFetch_build s), after_qps]
    exact ⟨rfl, passFetch_qps s⟩

end Sys2Proof.Machine
end

section
/-!
SUPPORT. The commands on queue pairs and keys (R96, R97, R431, R435).
-/

namespace Sys2Proof.Machine

/-! ## The start of a command -/

/-- The command once it has started. -/
def Slot.started (x : Slot) : Slot := { x with phase := .running }

/-- The block with the command in `x` started. -/
def State.begun (s : State) (x : Slot) : State := s.setSlot x.started

section
variable {s : State} {n opc : Nat} {x : Slot} (h : Starting s n x opc)
include h

theorem Starting.id : x.id = n := getBy_key h.2.2.1

theorem Starting.slot_begun : (s.begun x).slot n = some x.started := by
  rw [← h.id]
  exact s.slot_setSlot_self x.started

/-- A command that is free to start runs, and its meaning acts. -/
theorem startCmd_starting (p : Entry → Bool) (f : State → Slot → State) (hp : p x.entry = true) :
    startCmd s n opc p f = f (s.begun x) x.started := by
  obtain ⟨-, -, hx, hphase, hopc, hfail, hsmoke, hstop, hpow, hpoison⟩ := h
  simp only [startCmd, hx, hphase, hopc, hfail, hsmoke, hstop, hp, hpoison]
  simp [hpow, State.begun, Slot.started]

/-- The frame of a command that is free to start. -/
theorem run_startCmd (p : Entry → Bool) (f : State → Slot → State) (hp : p x.entry = true) :
    run (n < Config.slotCount) s (fun s => startCmd s n opc p f) = .next (after s (f (s.begun x) x.started)) := by
  obtain ⟨hheld, hn, -⟩ := id h
  rw [run_of_ok _ (decide_eq_true hn) hheld, startCmd_starting h p f hp]

/-- A command that is free to start meets a condition as it starts. -/
theorem Starting.met_hit (st : Status) : (hit (s.begun x) x.started.id st).met n st := by
  have hid : x.started.id = n := h.id
  have hr : x.started.reject = none := by
    obtain ⟨-, -, -, -, -, hfail, -⟩ := h
    rw [Slot.failed, Bool.or_eq_false_iff] at hfail
    exact Option.isSome_eq_false_iff.1 hfail.1 |> Option.isNone_iff_eq_none.1
  rw [hid]
  exact Machine.met_hit st h.slot_begun rfl hr

end

theorem hit_qps (s : State) (n : Nat) (st : Status) : (hit s n st).qps = s.qps := by
  obtain ⟨_, _, _, _, _, _, h, -⟩ := hit_eq s n st
  rw [h]

/-! ## KEY_SLOT_CLEAR (R431) -/

theorem assoc_delBy {β : Type} (l : List (Nat × β)) (q k : Nat) : assoc (delBy Prod.fst q l) k = if k = q then none else assoc l k := by
  unfold assoc
  split
  · next h => rw [h, getBy_delBy_self]; rfl
  · next h => rw [getBy_delBy_ne _ _ h]

/-! ## CREATE_QP (R96) -/

/-- The registers of a queue pair that comes into existence. -/
def State.qpRegs (s : State) (q arb quota : Nat) : State :=
  ((((s.setRegN (A.hqQpCtl q) 1).setRegN (A.hqQpArb q) arb).setRegN (A.hqQpQuota q) quota).setRegN (A.hqQpCqfullCnt q) 0).setRegN (A.hqQpPhstallCnt q) 0

theorem State.qpRegs_reg (s : State) {q : Nat} (arb quota : Nat) : (s.qpRegs q arb quota).regN (A.hqQpCtl q) = 1 ∧
    (s.qpRegs q arb quota).regN (A.hqQpArb q) = arb % 2 ^ 32 ∧ (s.qpRegs q arb quota).regN (A.hqQpQuota q) = quota % 2 ^ 32 := by
  unfold State.qpRegs
  refine ⟨?_, ?_, ?_⟩
  all_goals
    unfold State.regN A.hqQpCtl A.hqQpArb A.hqQpQuota A.hqQpCqfullCnt A.hqQpPhstallCnt
    repeat rw [State.reg_setRegN_ne _ _ (by omega)]
    exact State.regN_setRegN_self ..

theorem createQp_exists {s : State} {x : Slot} (h : (s.qp (x.entry.x 0 10)).isSome = true) : createQp s x = hit s x.id St.invalidState := if_pos h

/-- The queue pair that CREATE_QP sets up. -/
def Entry.newQp (e : Entry) : QP := (QP.fresh (e.x 0 10)).setup e.aux0 e.aux1 (e.x 10 4) (e.x 14 4) (e.x 18 2)

theorem Entry.newQp_qid (e : Entry) : e.newQp.qid = e.x 0 10 := QP.setup_qid ..

theorem State.qpRegs_kept (s : State) (q arb quota : Nat) : (s.qpRegs q arb quota).build = s.build ∧ (s.qpRegs q arb quota).qps = s.qps := by
  simp only [State.qpRegs, State.setRegN_build, State.setRegN_qps, and_self]

/-- The block with a queue pair of clean context. -/
def State.addQp (s : State) (q : Nat) (z : QP) : State := (cleanCtx s q).setQp z

theorem State.addQp_build (s : State) (q : Nat) (z : QP) : (s.addQp q z).build = s.build := rfl

theorem State.addQp_regN (s : State) (q : Nat) (z : QP) (a : Nat) : (s.addQp q z).regN a = s.regN a := rfl

theorem State.addQp_qp_self (s : State) {q : Nat} {z : QP} (h : z.qid = q) : (s.addQp q z).qp q = some z := State.qp_setQp_of_qid _ h

theorem State.addQp_qp_ne (s : State) {q r : Nat} {z : QP} (h : z.qid = q) (hr : r ≠ q) : (s.addQp q z).qp r = s.qp r :=
  State.qp_setQp_ne _ (h ▸ hr)

theorem createQp_new {s : State} {x : Slot} (h : s.qp (x.entry.x 0 10) = none) : createQp s x =
    (s.qpRegs (x.entry.x 0 10) (bits x.entry.aux2 0 14) x.entry.count).addQp (x.entry.x 0 10) x.entry.newQp := by
  have hnone : ¬(s.qp (x.entry.x 0 10)).isSome = true := by simp [h]
  exact if_neg hnone

/-- The registers of a queue pair after the command are as it left them. -/
theorem after_qpRegs {s t : State} {q : Nat} (hb : t.build = s.build) (hq : q < 1024) {a : Nat}
    (ha : a = A.hqQpCtl q ∨ a = A.hqQpArb q ∨ a = A.hqQpQuota q) : (after s t).regN a = t.regN a := by
  unfold A.hqQpCtl A.hqQpArb A.hqQpQuota at ha
  exact after_regN hb (by unfold A.glbPwrCtl; omega) (by unfold A.hqArDropCnt; omega) (.inl (by omega))

/-! ## DELETE_QP (R97) -/

section
variable {α : Type} {key : α → Nat} {x y : α} {p : α → Bool}

/-- A test that the element put and the one it replaces answer alike is met by all as before. -/
theorem all_putBy {l : List α} (hx : getBy key (key y) l = some x) (hp : p y = p x) : (putBy key y l).all p = l.all p := by
  induction l with
  | nil => cases hx
  | cons z l ih =>
    simp only [putBy]
    split
    · rw [List.all_cons, hp]
      cases hpx : p x with
      | true => rfl
      | false => exact (List.all_eq_false.2 ⟨x, mem_of_getBy hx, by simp [hpx]⟩).symm
    · split
      · next hz =>
        rw [getBy, if_pos hz.symm] at hx
        rw [List.all_cons, List.all_cons, hp, Option.some.inj hx]
      · next hz =>
        rw [getBy, if_neg (Ne.symm hz)] at hx
        rw [List.all_cons, List.all_cons, ih hx]

/-- A filter that takes neither the element put nor the one it replaces takes what it took before. -/
theorem filter_putBy {l : List α} (hx : getBy key (key y) l = some x) (hy : p y = false) (hpx : p x = false) :
    (putBy key y l).filter p = l.filter p := by
  induction l with
  | nil => cases hx
  | cons z l ih =>
    simp only [putBy]
    split
    · rw [List.filter_cons_of_neg (by simp [hy])]
    · split
      · next hz =>
        rw [getBy, if_pos hz.symm] at hx
        rw [List.filter_cons_of_neg (by simp [hy]), List.filter_cons_of_neg (by simp [Option.some.inj hx, hpx])]
      · next hz =>
        rw [getBy, if_neg (Ne.symm hz)] at hx
        rw [List.filter_cons, List.filter_cons, ih hx]

/-- What a filter keeps is found as before. -/
theorem getBy_filter {l : List α} {k : Nat} (hx : getBy key k l = some x) (hp : p x = true) : getBy key k (l.filter p) = some x := by
  induction l with
  | nil => cases hx
  | cons z l ih =>
    rw [getBy] at hx
    split at hx
    · next hz =>
      obtain rfl := Option.some.inj hx
      rw [List.filter_cons_of_pos hp, getBy, if_pos hz]
    · next hz =>
      rw [List.filter_cons]
      split
      · rw [getBy, if_neg hz, ih hx]
      · exact ih hx

end

/-- A start leaves a queue pair idle or not: neither an admitted command nor a running one is held under R99. -/
theorem qpIdle_begun {s : State} {n opc : Nat} {x : Slot} (h : Starting s n x opc) (z : QP) : (s.begun x).qpIdle z = s.qpIdle z := by
  obtain ⟨-, -, hx, hphase, -⟩ := id h
  have hget : getBy Slot.id x.started.id s.slots = some x := by rw [show x.started.id = n from h.id]; exact hx
  have hall := all_putBy (p := fun y : Slot => y.qid != z.qid || (y.phase == Phase.faultHeld && z.fault)) hget
    (by simp only [Slot.started, hphase]; rfl)
  unfold State.qpIdle
  exact congrArg (!s.qpEn z.qid && !s.sqReading z.qid && ·) hall

/-- No admitted command belongs to an idle queue pair. -/
theorem qid_ne_of_qpIdle {s : State} {n : Nat} {x : Slot} {z : QP} (hx : s.slot n = some x) (hp : x.phase = .admitted) (h : s.qpIdle z = true) :
    x.qid ≠ z.qid := by
  simp only [State.qpIdle, Bool.and_eq_true] at h
  have := List.all_eq_true.1 h.2 x (mem_of_getBy hx)
  simpa [hp] using this

theorem deleteQp_busy {s : State} {x : Slot} {z : QP} (hz : s.qp (x.entry.x 0 10) = some z) (hi : s.qpIdle z = false) :
    deleteQp s x = hit s x.id St.invalidState := by
  simp only [deleteQp, hz, hi]
  rfl

/-- The command with the completions it discarded counted. -/
def Slot.counting (k : Nat) (y : Slot) : Slot := { y with res0 := k }

/-- The block without a queue pair and the completions it held. -/
def State.dropQp (s : State) (q : Nat) : State := { s with slots := s.slots.filter fun y => y.qid != q, qps := delBy QP.qid q s.qps }

theorem deleteQp_idle {s : State} {x : Slot} {z : QP} (hz : s.qp (x.entry.x 0 10) = some z) (hi : s.qpIdle z = true) :
    deleteQp s x = ((orphan (s.dropQp (x.entry.x 0 10)) (x.entry.x 0 10)).setRegN (A.hqQpCtl (x.entry.x 0 10)) 0).updSlot x.id
      (Slot.counting (s.slots.filter fun y => y.qid == x.entry.x 0 10).length) := by
  simp only [deleteQp, hz, hi]
  rfl

/-- What DELETE_QP of an idle queue pair leaves. -/
theorem deleteQp_idle_spec {s : State} {x : Slot} {z : QP} (hz : s.qp (x.entry.x 0 10) = some z) (hi : s.qpIdle z = true)
    (hx : s.slot x.id = some x) (hne : x.qid ≠ x.entry.x 0 10) :
    (deleteQp s x).qp (x.entry.x 0 10) = none ∧ (∀ y ∈ (deleteQp s x).slots, y.qid ≠ x.entry.x 0 10) ∧
    (∀ r, r ≠ x.entry.x 0 10 → (deleteQp s x).qp r = s.qp r) ∧
    (deleteQp s x).slot x.id = some (x.counting (s.slots.filter fun y => y.qid == x.entry.x 0 10).length) := by
  rw [deleteQp_idle hz hi]
  refine ⟨getBy_delBy_self .., fun y hy => ?_, fun r hr => getBy_delBy_ne _ _ hr, ?_⟩
  · obtain ⟨y, hmem, rfl⟩ := List.mem_map.1 hy
    have hq : y.qid ≠ x.entry.x 0 10 := by simpa using (List.mem_filter.1 hmem).2
    split <;> exact hq
  · refine State.slot_updSlot_self (Slot.counting _) (fun _ => rfl) ?_
    exact getBy_filter hx (by simpa using hne)

/-! ## SANITIZE (R435) -/

/-- Placing an operation changes the operations alone. -/
theorem placeOp_eq (s : State) (o : Op) : ∃ os k, placeOp s o = { s with ops := os, opNo := k } := ⟨_, _, rfl⟩

theorem mem_insertRev (s : State) (o : Op) (l acc : List Op) : o ∈ insertRev s o l acc := by
  induction l generalizing acc with
  | nil => exact List.mem_cons_self
  | cons e l ih =>
    unfold insertRev
    split
    · exact ih _
    · split
      · exact ih _
      · simp

/-- The element that an update finds is there updated. -/
theorem mem_updBy {α : Type} {p : α → Bool} {f : α → α} {x : α} {l : List α} (h : x ∈ l) (hp : p x = true) : f x ∈ updBy p f l :=
  List.mem_map.2 ⟨x, h, if_pos hp⟩

/-- The operation placed is among the operations. -/
theorem mem_placeOp (s : State) (o : Op) : ∃ y ∈ (placeOp s o).ops, y.owner = o.owner ∧ y.kind = o.kind ∧ y.stage = o.stage ∧ y.paddr = o.paddr ∧
    y.planes = o.planes :=
  ⟨_, mem_updBy (mem_insertRev _ _ _ _) (beq_self_eq_true _), rfl, rfl, rfl, rfl, rfl⟩

/-- The erase of the next block of a SANITIZE. -/
def State.sanErase (s : State) (x : Slot) (b : Nat) : Op :=
  mkOp (.cmd x.id) .erase 7 x.seq b 0 (s.planes (pDie b)) ((List.range (s.planes (pDie b))).map fun i => (i, b + i * 2 ^ 15))

/-- The command with its further erases at `l`. -/
def Slot.toErase (x : Slot) (l : List Nat) : Slot := { x with todo := l }

/-- The block with the keys gone and the SANITIZE of `x` under way. -/
def State.sanBegun (s : State) (x : Slot) (todo : List Nat) : State :=
  { s with keys := [], san := { s.san with busy := true, mode := x.entry.x 0 1, total := (todo.map fun p => s.planes (pDie p)).sum, ended := 0 } }.setSlot
    (x.toErase todo)

theorem State.sanBegun_slot (s : State) (x : Slot) (todo : List Nat) : (s.sanBegun x todo).slot x.id = some (x.toErase todo) :=
  State.slot_setSlot_self _ (x.toErase todo)

theorem sanStart_nil (s : State) (x : Slot) : sanStart s x [] = s.sanBegun x [] := by
  have h : sanStart s x [] = sanNext (s.sanBegun x []) x.id := rfl
  rw [h, sanNext, s.sanBegun_slot x []]
  rfl

theorem sanStart_cons {s : State} {x : Slot} (b : Nat) (rest : List Nat) (hf : x.failed = false) (hs : s.smoking = false) :
    sanStart s x (b :: rest) = placeOp ((s.sanBegun x (b :: rest)).updSlot x.id fun y => y.toErase rest) (s.sanErase x b) := by
  have h : sanStart s x (b :: rest) = sanNext (s.sanBegun x (b :: rest)) x.id := rfl
  have hgo : ¬((x.toErase (b :: rest)).failed || (s.sanBegun x (b :: rest)).smoking) = true := by
    have h1 : (x.toErase (b :: rest)).failed = false := hf
    have h2 : (s.sanBegun x (b :: rest)).smoking = false := hs
    simp [h1, h2]
  rw [h, sanNext, s.sanBegun_slot x (b :: rest)]
  exact if_neg hgo

/-- What a SANITIZE that starts leaves, and its first erase. -/
theorem sanStart_spec {s : State} {x : Slot} (todo : List Nat) (hf : x.failed = false) (hs : s.smoking = false) :
    (sanStart s x todo).keys = [] ∧ (sanStart s x todo).slot x.id = some (x.toErase todo.tail) ∧
    (sanStart s x todo).san = { s.san with busy := true, mode := x.entry.x 0 1, total := (todo.map fun p => s.planes (pDie p)).sum, ended := 0 } ∧
    (todo = [] → (sanStart s x todo).ops = s.ops) ∧
    ∀ b rest, todo = b :: rest → ∃ o ∈ (sanStart s x todo).ops, o.owner = .cmd x.id ∧ o.kind = .erase ∧ o.stage = .queued ∧ o.paddr = b ∧
      o.planes = s.planes (pDie b) := by
  cases todo with
  | nil =>
    rw [sanStart_nil]
    exact ⟨rfl, s.sanBegun_slot x [], rfl, fun _ => rfl, fun b rest h => by cases h⟩
  | cons b rest =>
    obtain ⟨y, hy⟩ := mem_placeOp ((s.sanBegun x (b :: rest)).updSlot x.id fun y => y.toErase rest) (s.sanErase x b)
    rw [sanStart_cons b rest hf hs]
    refine ⟨rfl, ?_, rfl, fun h => (List.cons_ne_nil _ _ h).elim, ?_⟩
    · exact (State.slot_updSlot_self (fun y => y.toErase rest) (fun _ => rfl) (s.sanBegun_slot x (b :: rest))).trans rfl
    · rintro _ _ ⟨⟩
      exact ⟨y, hy⟩

/-! ## What each command leaves -/

section
variable {s : State} {n : Nat} {x : Slot}

/-- KEY_SLOT_CLEAR makes its key slot empty. -/
theorem keySlotClear_spec (h : Starting s n x Opc.setKeySlot) (hc : bit x.entry.xctl 10 = true) : ∃ t, exec (.keySlotClear n) s = .next t ∧
    (∀ k, assoc t.keys k = if k = x.entry.x 0 10 then none else assoc s.keys k) ∧ ∃ l ks, Around { s with slots := l, keys := ks } t := by
  refine ⟨_, run_startCmd h _ _ hc, fun k => ?_, (s.begun x).slots, delBy Prod.fst (x.entry.x 0 10) s.keys, around_after rfl rfl⟩
  rw [after_keys]
  exact assoc_delBy s.keys (x.entry.x 0 10) k

/-- CREATE_QP of a queue pair that does not exist. -/
theorem createQp_new_spec (h : Starting s n x Opc.createQp) (hno : s.qp (x.entry.x 0 10) = none) : ∃ t, exec (.createQp n) s = .next t ∧
    t.qp (x.entry.x 0 10) = some x.entry.newQp ∧ t.regN (A.hqQpCtl (x.entry.x 0 10)) = 1 ∧
    t.regN (A.hqQpArb (x.entry.x 0 10)) = bits x.entry.aux2 0 14 ∧ t.regN (A.hqQpQuota (x.entry.x 0 10)) = x.entry.count % 2 ^ 32 ∧
    ∀ r, r ≠ x.entry.x 0 10 → t.qp r = s.qp r := by
  have hq : x.entry.x 0 10 < 1024 := Nat.mod_lt _ (by decide)
  have harb : bits x.entry.aux2 0 14 % 2 ^ 32 = bits x.entry.aux2 0 14 :=
    Nat.mod_eq_of_lt ((Nat.mod_lt _ (by decide)).trans (by decide : 2 ^ 14 < 2 ^ 32))
  have hnew := createQp_new (s := s.begun x) (x := x.started) hno
  have hqid : x.entry.newQp.qid = x.entry.x 0 10 := x.entry.newQp_qid
  refine ⟨_, run_startCmd h _ createQp rfl, ?_⟩
  rw [hnew, show x.started.entry = x.entry from rfl]
  obtain ⟨hbuild, hqps⟩ := (s.begun x).qpRegs_kept (x.entry.x 0 10) (bits x.entry.aux2 0 14) x.entry.count
  obtain ⟨hctl, hArb, hquota⟩ := (s.begun x).qpRegs_reg (q := x.entry.x 0 10) (bits x.entry.aux2 0 14) x.entry.count
  generalize (s.begun x).qpRegs (x.entry.x 0 10) (bits x.entry.aux2 0 14) x.entry.count = u at hbuild hqps hctl hArb hquota ⊢
  have hb : (u.addQp (x.entry.x 0 10) x.entry.newQp).build = s.build := hbuild
  rw [after_qpRegs hb hq (.inl rfl), after_qpRegs hb hq (.inr (.inl rfl)), after_qpRegs hb hq (.inr (.inr rfl))]
  refine ⟨?_, hctl, hArb.trans harb, hquota, fun r hr => ?_⟩
  · rw [after_qp, u.addQp_qp_self hqid]
  · rw [after_qp, u.addQp_qp_ne hqid hr]
    exact congrArg (getBy QP.qid r) hqps

/-- CREATE_QP of a queue pair that exists. -/
theorem createQp_exists_spec (h : Starting s n x Opc.createQp) (hq : (s.qp (x.entry.x 0 10)).isSome = true) :
    ∃ t, exec (.createQp n) s = .next t ∧ t.met n St.invalidState ∧ t.qps = s.qps := by
  refine ⟨_, run_startCmd h _ createQp rfl, ?_⟩
  rw [createQp_exists (s := s.begun x) (x := x.started) hq, after_met, after_qps]
  exact ⟨h.met_hit _, hit_qps ..⟩

/-- DELETE_QP of an idle queue pair. -/
theorem deleteQp_spec (h : Starting s n x Opc.deleteQp) {z : QP} (hz : s.qp (x.entry.x 0 10) = some z) (hi : s.qpIdle z = true) :
    ∃ t y, exec (.deleteQp n) s = .next t ∧ t.qp (x.entry.x 0 10) = none ∧ (∀ y ∈ t.slots, y.qid ≠ x.entry.x 0 10) ∧
    (∀ r, r ≠ x.entry.x 0 10 → t.qp r = s.qp r) ∧ t.slot n = some y ∧ y.res0 = (s.slots.filter fun y => y.qid == x.entry.x 0 10).length := by
  have hid : x.started.id = n := h.id
  have hget : getBy Slot.id x.started.id s.slots = some x := by rw [hid]; exact h.2.2.1
  have hne : x.qid ≠ x.entry.x 0 10 := by
    rw [← State.qp_qid hz]
    exact qid_ne_of_qpIdle h.2.2.1 h.2.2.2.1 hi
  obtain ⟨hnone, hslots, hqps, hslot⟩ := deleteQp_idle_spec (s := s.begun x) (x := x.started) hz ((qpIdle_begun h z).trans hi)
    (by rw [hid]; exact h.slot_begun) hne
  rw [hid] at hslot
  rw [← after_qp s] at hnone
  rw [← after_slots s] at hslots
  rw [← after_slot s] at hslot
  refine ⟨_, _, run_startCmd h _ deleteQp rfl, hnone, hslots, fun r hr => (after_qp ..).trans (hqps r hr), hslot, congrArg List.length (filter_putBy hget ?_ ?_)⟩
  · exact beq_false_of_ne hne
  · exact beq_false_of_ne hne

/-- DELETE_QP of a queue pair that is not idle. -/
theorem deleteQp_busy_spec (h : Starting s n x Opc.deleteQp) {z : QP} (hz : s.qp (x.entry.x 0 10) = some z) (hi : s.qpIdle z = false) :
    ∃ t, exec (.deleteQp n) s = .next t ∧ t.met n St.invalidState ∧ t.qps = s.qps := by
  refine ⟨_, run_startCmd h _ deleteQp rfl, ?_⟩
  rw [deleteQp_busy (s := s.begun x) (x := x.started) hz ((qpIdle_begun h z).trans hi), after_met, after_qps]
  exact ⟨h.met_hit _, hit_qps ..⟩

/-- What the command in the slot leaves as SANITIZE starts. -/
theorem sanitize_spec (h : Starting s n x Opc.sanitize) (todo : List Nat) :
    let t := after s (sanStart (s.begun x) x.started todo)
    t.keys = [] ∧ t.slot n = some (x.started.toErase todo.tail) ∧
    t.san = { s.san with busy := true, mode := x.entry.x 0 1, total := (todo.map fun p => s.planes (pDie p)).sum, ended := 0 } ∧
    (todo = [] → t.ops = s.ops) ∧
    ∀ b rest, todo = b :: rest → ∃ o ∈ t.ops, o.owner = .cmd n ∧ o.kind = .erase ∧ o.stage = .queued ∧ o.paddr = b ∧ o.planes = s.planes (pDie b) := by
  obtain ⟨-, -, -, -, -, hfail, hsmoke, -⟩ := id h
  have hid : x.started.id = n := h.id
  have hspec := sanStart_spec (s := s.begun x) (x := x.started) todo hfail hsmoke
  rw [hid] at hspec
  simp only [after_keys, after_slot, after_san, after_ops]
  exact hspec

end

/-- Settles O44: a command that starts runs and does its one step, on queue pairs and keys that the start itself leaves as they were. -/
theorem queuePairsKeysAndSanitize : Obligations.QueuePairsKeysAndSanitize := by
  intro s n x e q
  refine ⟨keySlotClear_spec, fun h hno => ?_, createQp_exists_spec, fun h z hz => ⟨deleteQp_spec h hz, deleteQp_busy_spec h hz⟩,
    fun h hm => ?_, fun h hm => ?_⟩
  · obtain ⟨t, hrun, hqp, hctl, harb, hquota, hothers⟩ := createQp_new_spec h hno
    have hen : t.qpEn q = true := congrArg (fun v => bits v 0 1 == 1) hctl
    exact ⟨t, e.newQp, hrun, hqp, rfl, rfl, rfl, rfl, rfl, rfl, rfl, rfl, rfl, rfl, rfl, rfl, hen, harb, hquota, hothers⟩
  · obtain ⟨hkeys, hslot, hsan, hops, -⟩ := sanitize_spec h []
    have hmode : x.entry.x 0 1 = 0 := hm
    rw [hmode] at hsan
    exact ⟨_, run_startCmd h _ (fun s x => sanStart s x []) (beq_iff_eq.2 hm), hkeys, hops rfl, hsan, hslot⟩
  · obtain ⟨hkeys, hslot, hsan, -, herase⟩ := sanitize_spec h (s.sanBlocks e.aux0)
    have hmode : x.entry.x 0 1 = 1 := hm
    rw [hmode] at hsan
    exact ⟨_, _, run_startCmd h _ (fun s x => sanStart s x (s.sanBlocks x.entry.aux0)) (beq_iff_eq.2 hm), hkeys, hslot, hsan,
      fun b rest hb => ⟨congrArg List.tail hb, herase b rest hb⟩⟩

end Sys2Proof.Machine
end

section
/-!
SUPPORT. What the admission of one command leaves of the others, and of the queue pairs: the frame of R86 and R111.
-/

namespace Sys2Proof.Machine

/-- What the fetch of a command gives it for good. -/
def Slot.origin (x : Slot) : Entry × Nat × Nat × Nat := (x.entry, x.qid, x.seq, x.fetched)

/-- What a command keeps while it meets conditions and outcomes. -/
def Slot.standing (x : Slot) : (Entry × Nat × Nat × Nat) × Phase × Nat := (x.origin, x.phase, x.released)

/-- From `s` to `t` the queue pairs, the next ADMSEQ and the part `f` of every slot stay. -/
def Retains {α : Type} (f : Slot → α) (s t : State) : Prop := t.qps = s.qps ∧ t.admSeq = s.admSeq ∧ ∀ n, (t.slot n).map f = (s.slot n).map f

/-! ## Rules -/

section
variable {α : Type} {f : Slot → α} {s t u : State}

theorem Retains.refl (s : State) : Retains f s s := ⟨rfl, rfl, fun _ => rfl⟩

theorem Retains.trans (h : Retains f s t) (k : Retains f t u) : Retains f s u := by
  obtain ⟨h1, h2, h3⟩ := h
  obtain ⟨k1, k2, k3⟩ := k
  exact ⟨k1.trans h1, k2.trans h2, fun n => (k3 n).trans (h3 n)⟩

theorem Retains.same (h1 : t.qps = s.qps) (h2 : t.admSeq = s.admSeq) (h3 : t.slots = s.slots) : Retains f s t :=
  ⟨h1, h2, fun n => congrArg (fun l => (getBy Slot.id n l).map f) h3⟩

/-- A further change of other fields. -/
theorem Retains.then (h : Retains f s t) (h1 : u.qps = t.qps) (h2 : u.admSeq = t.admSeq) (h3 : u.slots = t.slots) : Retains f s u :=
  h.trans (.same h1 h2 h3)

theorem Retains.foldl {β : Type} {g : State → β → State} (h : ∀ s x, Retains f s (g s x)) (l : List β) (s : State) : Retains f s (l.foldl g s) := by
  induction l generalizing s with
  | nil => exact .refl s
  | cons x l ih => exact (h s x).trans (ih _)

theorem Retains.each {β : Type} {g : State → β → State} (h : ∀ s x, Retains f s (g s x)) (l : List β) (s : State) : Retains f s (s.each l g) := .foldl h l s

theorem Retains.of_fires (h : Fires s t) : Retains f s t := by
  obtain ⟨⟨r, w, n, a, p, he⟩, -⟩ := h
  rw [he]
  exact .same rfl rfl rfl

theorem Retains.setRegN (s : State) (a n : Nat) : Retains f s (s.setRegN a n) := .same rfl rfl rfl

theorem Retains.setRlv (s : State) (r : Rlv) : Retains f s { s with rlv := r } := .same rfl rfl rfl

/-- An update of a slot that leaves the part alone. -/
theorem Retains.updSlot (s : State) (n : Nat) (g : Slot → Slot) (hid : ∀ x, (g x).id = x.id) (hg : ∀ x, f (g x) = f x) : Retains f s (s.updSlot n g) := by
  refine ⟨rfl, rfl, fun m => ?_⟩
  rw [s.slot_updSlot n m g hid, Option.map_map]
  congr 1
  funext x
  rw [Function.comp_apply]
  split
  · exact hg x
  · rfl

/-- A slot put in the place of one with the same part. -/
theorem Retains.setSlot {x y : Slot} (hy : s.slot y.id = some x) (hf : f y = f x) : Retains f s (s.setSlot y) := by
  refine ⟨rfl, rfl, fun m => ?_⟩
  by_cases hm : m = y.id
  · rw [hm, s.slot_setSlot_self y, hy, Option.map_some, Option.map_some, hf]
  · rw [s.slot_setSlot_ne hm]

/-- What stays of a slot there. -/
theorem Retains.slot {n : Nat} {x : Slot} (h : Retains f s t) (hx : s.slot n = some x) : ∃ y, t.slot n = some y ∧ f y = f x := by
  obtain ⟨-, -, h⟩ := h
  have := h n
  rw [hx] at this
  exact Option.map_eq_some_iff.1 this

end

/-- What keeps the standing of the commands keeps their origin. -/
theorem Retains.origin {s t : State} (h : Retains Slot.standing s t) : Retains Slot.origin s t := by
  obtain ⟨h1, h2, h3⟩ := h
  refine ⟨h1, h2, fun n => ?_⟩
  have := congrArg (Option.map Prod.fst) (h3 n)
  rwa [Option.map_map, Option.map_map] at this

/-! ## Ends of a command -/

theorem Retains.stopOps (s : State) (n : Nat) : Retains Slot.standing s (stopOps s n) := by
  have h : Retains Slot.standing s (s.updSlot n fun x => { x with todo := [] }) := .updSlot s n _ (fun _ => rfl) (fun _ => rfl)
  exact h.then rfl rfl rfl

theorem Retains.unsend (s : State) (n : Nat) : Retains Slot.standing s (unsend s n) := by
  obtain ⟨ps, h | ⟨k, h⟩⟩ := unsend_eq s n <;> rw [h]
  · exact .same rfl rfl rfl
  · exact (Retains.same (t := { s with ports := ps }) rfl rfl rfl).trans (.updSlot _ n _ (fun _ => rfl) (fun _ => rfl))

theorem Retains.hit (s : State) (n : Nat) (st : Status) : Retains Slot.standing s (hit s n st) := by
  have h := (Retains.updSlot (f := Slot.standing) s n (Slot.meets st) (fun _ => rfl) (fun _ => rfl)).trans (.stopOps _ n)
  obtain he | he | he := hit_cases s n st <;> rw [he]
  · exact .refl s
  · exact h
  · exact h.trans (.unsend _ n)

/-- A command that a check refused. -/
def Slot.refused (st : Status) (res0 : Nat) (x : Slot) : Slot := { x with reject := some st, res0 := res0, phase := .running, tblDone := true }

theorem rejectCmd_eq (s : State) (n : Nat) (st : Status) (res0 : Nat) : rejectCmd s n st res0 = stopOps (s.updSlot n (Slot.refused st res0)) n := rfl

theorem Retains.rejectCmd (s : State) (n : Nat) (st : Status) (res0 : Nat) : Retains Slot.origin s (rejectCmd s n st res0) := by
  rw [rejectCmd_eq]
  exact (Retains.updSlot s n (Slot.refused st res0) (fun _ => rfl) (fun _ => rfl)).trans (Retains.stopOps _ n).origin

/-- The command that a check refused has its status. -/
theorem rejectCmd_reject {s : State} {n : Nat} {x : Slot} (st : Status) (res0 : Nat) (h : s.slot n = some x) :
    ∃ y, (rejectCmd s n st res0).slot n = some y ∧ y.reject = some st := by
  have hx : (s.updSlot n (Slot.refused st res0)).slot n = some (x.refused st res0) := State.slot_updSlot_self _ (fun _ => rfl) h
  rw [rejectCmd_eq, stopOps_slot]
  exact ⟨_, State.slot_updSlot_self _ (fun _ => rfl) hx, rfl⟩

/-! ## Ledgers (R311) -/

section
variable {α : Type} {f : Slot → α}

theorem Retains.placeOp (s : State) (o : Op) : Retains f s (placeOp s o) := .same rfl rfl rfl

theorem Retains.setLedger (s : State) (x : Ledger) : Retains f s (s.setLedger x) := .same rfl rfl rfl

theorem Retains.ledgerOp (s : State) (kind : OpKind) (die seg : Nat) (image : List Byte) : Retains f s (ledgerOp s kind die seg image) := .placeOp ..

theorem Retains.ledgerWrite (s : State) (x : Ledger) : Retains f s (ledgerWrite s x) := (Retains.setLedger s _).trans (.ledgerOp ..)

theorem Retains.ledgerRead (s : State) (stream die seg : Nat) : Retains f s (ledgerRead s stream die seg) := by
  unfold Machine.ledgerRead
  split
  · exact .setLedger ..
  · exact (Retains.setLedger s _).trans (.ledgerOp ..)

theorem Retains.wearCheck (s : State) (x : Ledger) : Retains f s (wearCheck s x).2 := by
  unfold Machine.wearCheck
  split
  · refine .trans (t := wearAlarm s { x with alarm := true } 1 0) (.of_fires (.raise ..)) ?_
    simp only
    split
    · exact .same rfl rfl rfl
    · exact .refl _
  · exact .refl s

theorem Retains.ledgerEnter (s : State) (stream die seg : Nat) : Retains f s (ledgerEnter s stream die seg) := by
  have h : Retains f s (Machine.ledgerRead (ledgerEvict s stream die seg) stream die seg) :=
    (Retains.same (t := ledgerEvict s stream die seg) rfl rfl rfl).trans (.ledgerRead ..)
  unfold Machine.ledgerEnter
  simp only
  split
  · exact h
  · split
    · exact (h.trans (.wearCheck ..)).trans (.ledgerWrite ..)
    · exact h.trans (.setLedger ..)

end

/-! ## Admission (R111, R176, R306) -/

/-- A command with the codeword `idx` in its erased mask. -/
def Slot.erasedAt (idx : Nat) (x : Slot) : Slot := { x with res0 := x.res0 ||| erasedBit x idx }

theorem Retains.markErased (s : State) (n idx : Nat) : Retains Slot.standing s (markErased s n idx) := by
  refine (Retains.updSlot s n (Slot.erasedAt idx) (fun _ => rfl) (fun _ => rfl)).trans ?_
  refine .updSlot _ n _ (fun x => ?_) (fun x => ?_) <;> split <;> rfl

theorem Retains.takeErased (s : State) (x : Slot) : Retains Slot.standing s (takeErased s x) := by
  have h : Retains Slot.standing s (s.each (s.underErase x) fun st y => Machine.markErased st x.id y.1) := .each (fun _ _ => .markErased ..) _ s
  unfold Machine.takeErased takeErasedOf
  simp only
  split
  · exact h.trans (.hit ..)
  · exact h

/-- The command as its admission leaves it. -/
def State.admittedSlot (s : State) (x : Slot) (plan : List Op) : Slot :=
  { x with
    charged := true
    credits := if x.entry.bounded then (s.dieOrder x plan).map fun d => (d, x.samp.a x.entry.lcls + 1 - s.ahead x plan d - nOwn plan d) else []
    released := if x.fenced then x.released else s.aclk
    adm := s.adms + 1
    scan := x.scan.map fun r => { r with unit := if x.entry.opc == Opc.scan && x.entry.bounded then s.freeBoundedUnit x.samp else none } }

/-- The admission after the command has its credits keeps the standing of every command. -/
theorem Retains.admitted (s : State) (x : Slot) (plan : List Op) :
    Retains Slot.standing (s.setSlot (s.admittedSlot x plan)) (admitted s x plan) := by
  have h : Retains Slot.standing (s.setSlot (s.admittedSlot x plan))
      (({ s.setSlot (s.admittedSlot x plan) with adms := s.adms + 1 } : State).each plan Machine.placeOp) :=
    (Retains.same (t := { s.setSlot (s.admittedSlot x plan) with adms := s.adms + 1 }) rfl rfl rfl).trans (.each .placeOp plan _)
  exact h.trans (.takeErased ..)

theorem Retains.admitCmd (s : State) (n : Nat) (next : Phase) : Retains Slot.origin s (admitCmd s n next) := by
  unfold Machine.admitCmd
  split
  · exact .refl s
  next x hx =>
    simp only
    split
    · exact (Retains.same (t := s.bump (A.admRefuseCnt x.entry.lcls)) rfl rfl rfl).trans (.rejectCmd ..)
    · refine .trans (.setSlot (x := x) (y := s.admittedSlot { x with phase := next } (s.planOps x)) ?_ rfl) (Retains.admitted s _ _).origin
      rw [← getBy_key hx] at hx
      exact hx

theorem Retains.admitNext (s : State) (n : Nat) (held : Bool) : Retains Slot.origin s (admitNext s n held) := by
  unfold Machine.admitNext
  split
  · exact .refl s
  · split
    · exact .updSlot s n _ (fun _ => rfl) (fun _ => rfl)
    · split
      · exact .updSlot s n _ (fun _ => rfl) (fun _ => rfl)
      · exact .admitCmd ..

theorem Retains.placeAppend {s t : State} {x : Slot} (h : placeAppend s x = some t) : Retains Slot.origin s t := by
  unfold Machine.placeAppend at h
  simp only at h
  split at h
  · cases h
  · obtain rfl := Option.some.inj h
    refine .trans ?_ (.updSlot _ x.id _ (fun _ => rfl) (fun _ => rfl))
    refine .trans ?_ (.setRlv _ _)
    refine .trans ?_ (.setRegN ..)
    refine .trans ?_ (.setRegN ..)
    exact .trans (.each (fun _ _ => .each (fun _ _ => .ledgerRead ..) _ _) _ _) (.each (fun _ _ => .each (fun _ _ => .ledgerEnter ..) _ _) _ _)

theorem Retains.placeStart (s : State) (x : Slot) (held : Bool) : Retains Slot.origin s (placeStart s x held) := by
  unfold Machine.placeStart
  simp only
  split
  · exact .trans (.each (fun _ _ => .ledgerRead ..) _ s) (.updSlot _ x.id _ (fun _ => rfl) (fun _ => rfl))
  · split
    next h => exact (Retains.placeAppend h).trans (.admitNext ..)
    · exact .rejectCmd ..

theorem Retains.admitStart (s : State) (n : Nat) (held : Bool) : Retains Slot.origin s (admitStart s n held) := by
  unfold Machine.admitStart
  split
  · exact .refl s
  · split
    · exact .placeStart ..
    · exact .admitNext ..

end Sys2Proof.Machine
end

section
/-!
SUPPORT. The fetch of entries (R84 to R89, R111) and the release of held commands (R129).
-/

namespace Sys2Proof.Machine

/-! ## The fetch arbiter (R86, R88) -/

/-- A queue pair that begins its turn. -/
def QP.atTurn (q : QP) : QP := { q with turn := 0 }

/-- The queue pair whose turn it is may be fetched from. -/
theorem turnOf_fetchable {s : State} {q : QP} (h : s.turnOf = some q) : s.fetchable q = true := by
  unfold State.turnOf at h
  split at h
  next z hz =>
    split at h
    · cases h
    · obtain rfl := Option.some.inj h
      have hgo := (Option.filter_eq_some_iff.1 hz).2
      simp only [Bool.and_eq_true] at hgo
      exact hgo.1.2
  · obtain ⟨y, hy, rfl⟩ := Option.map_eq_some_iff.1 (Option.filter_eq_some_iff.1 h).1
    have hy' : s.fetchable y = true := List.find?_some hy
    exact hy'

/-- The block as queue pair `q` takes its turn. -/
def State.inTurn (s : State) (q : QP) : State := { s.setQp q with lastQp := q.qid, turnOn := true }

/-- The SQ read of the entries that queue pair `q` reads next. -/
def State.sqReq (s : State) (q : QP) : Req :=
  mkRead (q.sqBase + 64 * q.head) (64 * s.readLen q) false (.sqRead q.qid q.head (s.readLen q))

section
variable {s : State} (hs : InService s) (hm : s.smoking = false) (hst : s.stopped = false)
include hs hm hst

theorem sqRead_idle (h : s.turnOf = none) : sqRead s = s := by
  simp [sqRead, hm, hst, hs.power_st, hs.init_done, h]

theorem sqRead_bad {q : QP} (h : s.turnOf = some q) (hb : s.sqHalfBad q.qid = true) : sqRead s = s.setQp { q with fault := true } := by
  simp [sqRead, hm, hst, hs.power_st, hs.init_done, h, hb]

theorem sqRead_asks {q : QP} (h : s.turnOf = some q) (hb : s.sqHalfBad q.qid = false) : sqRead s = issue (s.inTurn q) q.port (s.sqReq q) := by
  simp [sqRead, hm, hst, hs.power_st, hs.init_done, h, hb, State.inTurn, State.sqReq]

end

theorem exec_sqRead {s : State} (hh : s.held = false) : exec .sqRead s = .next (after s (sqRead s)) := by
  unfold exec
  exact run_of_ok _ rfl hh

/-! ## The fetch of an entry (R86, R111) -/

/-- The command that queue pair `q` brings with `e`. -/
def State.fetchedSlot (s : State) (q : QP) (e : Entry) : Slot :=
  let x0 := newSlot (lowestFree s.slots 0) q.qid s.admSeq s.aclk e (s.sample q.qid e.lcls)
  { x0 with waitsOn := if e.opc == Opc.fence then (s.fenceWaits x0).length else 0, ctxLate := e.opc == Opc.scan && s.ctxLoading x0 }

/-- The block with that command in its slot, H past its entry and its ADMSEQ given. -/
def State.fetched (s : State) (q : QP) (e : Entry) : State :=
  clearPoison { (s.setSlot (s.fetchedSlot q e)).setQp q.pass with admSeq := s.admSeq + 1 } 2 0 (64 * lowestFree s.slots 0) 64

/-- The checks on that command, and what follows them. -/
def State.fetchChecked (s : State) (x : Slot) : State :=
  match firstChecks s x with
  | some st => rejectCmd s x.id st
  | none => admitStart s x.id (s.isHeld x)

theorem fetchEntry_eq {s : State} {q : QP} (e : Entry) (h : s.qp q.qid = some q) :
    fetchEntry s q e = ((passFetch s).fetched q e).fetchChecked ((passFetch s).fetchedSlot q e) := by
  have hq : ((passFetch s).qp q.qid).getD q = q := by rw [passFetch_qp, h]; rfl
  unfold fetchEntry
  simp only [hq]
  rfl

theorem Retains.fetchChecked (s : State) (x : Slot) : Retains Slot.origin s (s.fetchChecked x) := by
  unfold State.fetchChecked
  split
  · exact .rejectCmd ..
  · exact .admitStart ..

theorem firstChecks_undefined {s : State} {x : Slot} (h : opDefined x.entry.opc = false) : firstChecks s x = some St.invalidOpcode := by
  simp [firstChecks, h]

/-- A command with an undefined opcode is refused. -/
theorem fetchChecked_undefined {s : State} {x : Slot} (hx : s.slot x.id = some x) (h : opDefined x.entry.opc = false) :
    ∃ y, (s.fetchChecked x).slot x.id = some y ∧ y.reject = some St.invalidOpcode := by
  unfold State.fetchChecked
  rw [firstChecks_undefined h]
  exact rejectCmd_reject _ _ hx

theorem State.fetched_slot (s : State) (q : QP) (e : Entry) : (s.fetched q e).slot (lowestFree s.slots 0) = some (s.fetchedSlot q e) :=
  s.slot_setSlot_self (s.fetchedSlot q e)

theorem QP.pass_qid (q : QP) : q.pass.qid = q.qid := by unfold QP.pass; split <;> rfl

theorem QP.pass_head (q : QP) : q.pass.head = if q.head + 1 = q.sqSize then 0 else q.head + 1 := by unfold QP.pass; split <;> rfl

theorem QP.pass_expect (q : QP) : q.pass.expect = if q.head + 1 = q.sqSize then !q.expect else q.expect := by unfold QP.pass; split <;> rfl

/-- What the fetch of entry `e` of queue pair `q` leaves. -/
theorem fetchEntry_spec {s : State} {q : QP} (e : Entry) (h : s.qp q.qid = some q) :
    (fetchEntry s q e).qp q.qid = some q.pass ∧ (fetchEntry s q e).admSeq = s.admSeq + 1 ∧
    ∃ z, (fetchEntry s q e).slot (lowestFree s.slots 0) = some z ∧ z.entry = e ∧ z.qid = q.qid ∧ z.seq = s.admSeq ∧ z.fetched = s.aclk ∧
      (opDefined e.opc = false → z.reject = some St.invalidOpcode) := by
  have hn : lowestFree (passFetch s).slots 0 = lowestFree s.slots 0 := by rw [passFetch_slots]
  have hslot := (passFetch s).fetched_slot q e
  have hqp : ((passFetch s).fetched q e).qp q.qid = some q.pass := State.qp_setQp_of_qid _ q.pass_qid
  have hadm : ((passFetch s).fetched q e).admSeq = s.admSeq + 1 := congrArg (· + 1) (passFetch_admSeq s)
  have horigin : ((passFetch s).fetchedSlot q e).origin = (e, q.qid, s.admSeq, s.aclk) := by
    rw [← passFetch_admSeq, ← passFetch_aclk]
    rfl
  have hid : ((passFetch s).fetchedSlot q e).id = lowestFree s.slots 0 := hn
  have hentry : ((passFetch s).fetchedSlot q e).entry = e := rfl
  rw [fetchEntry_eq e h]
  generalize (passFetch s).fetched q e = u at hslot hqp hadm ⊢
  generalize (passFetch s).fetchedSlot q e = x at hslot horigin hid hentry ⊢
  rw [hn] at hslot
  have hkeeps := Retains.fetchChecked u x
  obtain ⟨z, hz, hsame⟩ := hkeeps.slot hslot
  obtain ⟨hqps, hseq, -⟩ := hkeeps
  rw [horigin] at hsame
  obtain ⟨he, hq, hs, hf⟩ : z.entry = e ∧ z.qid = q.qid ∧ z.seq = s.admSeq ∧ z.fetched = s.aclk := by simpa [Slot.origin] using hsame
  refine ⟨(congrArg (getBy QP.qid q.qid) hqps).trans hqp, hseq.trans hadm, z, hz, he, hq, hs, hf, fun hop => ?_⟩
  rw [← hid] at hslot hz
  rw [← hentry] at hop
  obtain ⟨y, hy, hr⟩ := fetchChecked_undefined hslot hop
  rw [hz] at hy
  rwa [Option.some.inj hy]

/-! ## The return of an SQ read (R84, R86) -/

theorem State.regN_setQp (s : State) (x : QP) (a : Nat) : (s.setQp x).regN a = s.regN a := rfl

/-- A queue pair whose fetch has stalled. -/
def QP.stalled (q : QP) : QP := { q with stall := true }

section
variable {s : State} {q : Nat} {x : QP} (hx : s.qp q = some x)
include hx

/-- The entry that a read of one brings is checked. -/
theorem sqArrive_one (hen : s.qpEn q = true) (hf : x.fault = false) (hm : s.smoking = false) (hst : s.stopped = false) (hb : s.sqHalfBad q = false)
    {l : List Byte} (hl : l.length = 64) : sqArrive s q x.head 1 l = turnCheck (fetchLoop [l] s q) := by
  have htake : l.take 64 = l := List.take_of_length_le hl.le
  simp [sqArrive, hx, hen, hf, hm, hst, hb, htake]

/-- An entry with another phase stalls the fetch and is counted. -/
theorem fetchLoop_other {l : List Byte} (hd : x.todo ≠ 0) (hp : (parseEntry l).phase ≠ x.expect) :
    fetchLoop [l] s q = (s.setQp x.stalled).bump (A.hqQpPhstallCnt q) := by
  simp [fetchLoop, hx, hd, hp, QP.stalled]

/-- An entry with the phase expected is fetched where a slot is free. -/
theorem fetchLoop_expected {l : List Byte} (hd : x.todo ≠ 0) (hp : (parseEntry l).phase = x.expect) (hfree : s.slotFree q = true) :
    fetchLoop [l] s q = fetchEntry s x (parseEntry l) := by
  simp [fetchLoop, hx, hd, hp, hfree]

end

/-! ## The release of a held command (R129) -/

/-- A held command that nothing holds any more. -/
def Slot.freed (now : Nat) (x : Slot) : Slot := { x with released := now, fenced := true }

/-- The command as it meets checks 4 to 9 at its release. -/
def Slot.rechecked (now : Nat) (x : Slot) : Slot := { x with released := now, fenced := true, phase := .admitted }

theorem exec_fenceRelease {s : State} {n : Nat} (hh : s.held = false) (hn : n < Config.slotCount) :
    exec (.fenceRelease n) s = .next (after s (fenceRelease s n)) := by
  unfold exec
  exact run_of_ok _ (decide_eq_true hn) hh

section
variable {s : State} {n : Nat} {x : Slot} (hx : s.slot n = some x)
include hx

theorem fenceRelease_held (h : s.isHeld x = true) : fenceRelease s n = s := by
  simp [fenceRelease, hx, h]

variable (hp : x.phase = .held)
include hp

theorem fenceRelease_refused (h : s.isHeld x = false) {st : Status}
    (hc : lateChecks (s.updSlot n (Slot.freed s.aclk)) (x.rechecked s.aclk) = some st) :
    fenceRelease s n = rejectCmd (s.updSlot n (Slot.freed s.aclk)) n st := by
  unfold Slot.freed Slot.rechecked at hc
  simp [fenceRelease, hx, hp, h, hc]
  rfl

theorem fenceRelease_passed (h : s.isHeld x = false) (hc : lateChecks (s.updSlot n (Slot.freed s.aclk)) (x.rechecked s.aclk) = none) :
    fenceRelease s n = admitStart (s.updSlot n (Slot.freed s.aclk)) n false := by
  unfold Slot.freed Slot.rechecked at hc
  simp [fenceRelease, hx, hp, h, hc]
  rfl

end

/-- A command that is not bounded meets no admission test. -/
theorem admitCmd_unbounded {s : State} {n : Nat} {x : Slot} (hx : s.slot n = some x) (hb : x.entry.bounded = false) :
    admitCmd s n .admitted = admitted s { x with phase := .admitted } (s.planOps x) := by
  simp [admitCmd, hx, hb]

/-- The admission of a released command that is not bounded: it keeps the time of its release. -/
theorem admitCmd_released {s : State} {n : Nat} {x : Slot} (hx : s.slot n = some x) (hb : x.entry.bounded = false) (hf : x.fenced = true) :
    ∃ z, (admitCmd s n .admitted).slot n = some z ∧ z.phase = .admitted ∧ z.released = x.released := by
  let y : Slot := { x with phase := .admitted }
  have hy : (s.setSlot (s.admittedSlot y (s.planOps x))).slot n = some (s.admittedSlot y (s.planOps x)) := by
    have hid : x.id = n := getBy_key hx
    rw [← show (s.admittedSlot y (s.planOps x)).id = n from hid]
    exact s.slot_setSlot_self _
  obtain ⟨z, hz, hsame⟩ := (Retains.admitted s y (s.planOps x)).slot hy
  obtain ⟨-, hphase, hrel⟩ : z.origin = _ ∧ z.phase = _ ∧ z.released = _ := by simpa only [Slot.standing, Prod.mk.injEq] using hsame
  rw [admitCmd_unbounded hx hb]
  exact ⟨z, hz, hphase, hrel.trans (if_pos hf)⟩

/-- A released command that is neither bounded nor an append is admitted, and keeps the time of its release. -/
theorem admitStart_released {s : State} {n : Nat} {x : Slot} (hx : s.slot n = some x) (hb : x.entry.bounded = false) (ho : x.entry.opc ≠ Opc.logAppend)
    (hf : x.fenced = true) (hr : x.released = s.aclk) :
    ∃ z, (admitStart s n false).slot n = some z ∧ z.phase = .admitted ∧ z.released = s.aclk := by
  have hstart : admitStart s n false = admitNext s n false := by simp [admitStart, hx, ho]
  rw [hstart, admitNext, hx]
  simp only [Bool.false_eq_true, if_false]
  split
  · exact ⟨_, State.slot_updSlot_self _ (fun _ => rfl) hx, rfl, rfl⟩
  · rw [← hr]
    exact admitCmd_released hx hb hf

/-! ## The SQ read that returns -/

/-- What a request's end leaves of what the fetch of an entry looks at. -/
theorem retire_fetch (s : State) (p tag : Nat) {q : Nat} (hq : q < 1024) : (retire s p tag).qpEn q = s.qpEn q ∧
    (retire s p tag).smoking = s.smoking ∧ (retire s p tag).stopped = s.stopped ∧ (retire s p tag).sqHalfBad q = s.sqHalfBad q ∧
    (retire s p tag).slotFree q = s.slotFree q ∧ (retire s p tag).admSeq = s.admSeq ∧ (retire s p tag).aclk = s.aclk := by
  have hctl : (retire s p tag).reg (A.hqQpCtl q) = s.reg (A.hqQpCtl q) := by
    refine retire_reg s p tag ?_
    unfold A.hqQpCtl A.movPsnCnt; omega
  have hquota : (retire s p tag).quota q = s.quota q := by
    refine congrArg (fld · 0 17) (retire_reg s p tag ?_)
    unfold A.hqQpQuota A.movPsnCnt; omega
  have hen : (retire s p tag).qpEn q = s.qpEn q := congrArg (fun v => fld v 0 1 == 1) hctl
  have hfree : (retire s p tag).slotFree q = s.slotFree q := by
    rw [State.slotFree, State.slotsOf, State.slotsOf, retire_slots, hquota]
    rfl
  obtain ⟨rs, ps, h⟩ : ∃ rs ps, retire s p tag = { s with regs := rs, ports := ps } := pump_frame ..
  refine ⟨hen, ?_, ?_, ?_, hfree, ?_, ?_⟩ <;> rw [h] <;> rfl

/-- What the return of an SQ read of one entry does. -/
theorem readDone_sqRead_one {s : State} {r : Req} {b : RdBeat} {q i n : Nat} (hr : r.purpose = .sqRead q i n) (hb : b.resp = .ok) :
    readDone s r (readEnd [b]) [b] = sqArrive s q i n b.data := by
  simp [readDone, hr, readEnd, hb]

section
variable {s : State} {p tag : Nat} {r : Req} {q : Nat} {x : QP} {b : RdBeat}

/-- The return of an SQ read of one entry that is good: its phase is checked. -/
theorem gfpRead_sqRead_one (hf : (s.port p).find tag false = some r) (hbeats : r.beats = 1) (hr : r.purpose = .sqRead q x.head 1) (hq : q < 1024)
    (hx : s.qp q = some x) (hen : s.qpEn q = true) (hfault : x.fault = false) (hm : s.smoking = false) (hst : s.stopped = false)
    (hbad : s.sqHalfBad q = false) (hb : b.resp = .ok) (hl : b.data.length = 64) :
    gfpRead s p tag [b] = ostTake (turnCheck (fetchLoop [b.data] (retire s p tag) q)) := by
  obtain ⟨hen', hm', hst', hbad', -⟩ := retire_fetch s p tag hq
  rw [gfpRead_found (beats := [b]) hf hbeats.symm, readDone_sqRead_one hr hb,
    sqArrive_one ((retire_qp s p tag q).trans hx) (hen'.trans hen) hfault (hm'.trans hm) (hst'.trans hst) (hbad'.trans hbad) hl]

end

/-- The turn's end and the output store leave the queue pairs, the slots, the next ADMSEQ and all registers but one. -/
theorem ostTake_turnCheck (s : State) : (ostTake (turnCheck s)).qps = s.qps ∧ (ostTake (turnCheck s)).slots = s.slots ∧
    (ostTake (turnCheck s)).admSeq = s.admSeq ∧ (ostTake (turnCheck s)).build = s.build ∧
    ∀ a, a ≠ A.movOstoreCfg → (ostTake (turnCheck s)).regN a = s.regN a := by
  obtain ⟨b, ht⟩ := turnCheck_eq s
  obtain ⟨m, rs, ho, hreg⟩ := ostTake_eq (turnCheck s)
  refine ⟨?_, ?_, ?_, ?_, fun a ha => ?_⟩
  · rw [ho, ht]
  · rw [ho, ht]
  · rw [ho, ht]
  · rw [ho, ht]
  · rw [State.regN, hreg a ha, ht]
    rfl

/-! ## The clauses -/

section
variable {s : State}

/-- The fetch arbiter reads for the queue pair whose turn it is. -/
theorem sqRead_spec (hs : InService s) (hm : s.smoking = false) (hst : s.stopped = false) :
    (s.turnOf = none → ∃ t, exec .sqRead s = .next t ∧ Around s t) ∧
    ∀ q, s.turnOf = some q → q.port < 4 → ∃ t, exec .sqRead s = .next t ∧ s.fetchable q = true ∧
      (s.sqHalfBad q.qid = true → t.ports = s.ports ∧ ∃ y, t.qp q.qid = some y ∧ y.fault = true) ∧
      (s.sqHalfBad q.qid = false → t.lastQp = q.qid ∧ t.asked q.port = s.asked q.port ++ [s.sqReq q]) := by
  refine ⟨fun h => ⟨_, exec_sqRead hs.not_held, ?_⟩, fun q h hp => ⟨_, exec_sqRead hs.not_held, turnOf_fetchable h, fun hb => ?_, fun hb => ?_⟩⟩
  · rw [sqRead_idle hs hm hst h]
    exact around_after rfl rfl
  · rw [sqRead_bad hs hm hst h hb, after_ports, after_qp]
    exact ⟨rfl, _, State.qp_setQp_of_qid s rfl, rfl⟩
  · rw [sqRead_asks hs hm hst h hb, after_lastQp, after_asked]
    refine ⟨?_, asked_issue _ hp hst⟩
    obtain ⟨_, _, hi⟩ := issue_frame (s.inTurn q) q.port (s.sqReq q)
    rw [hi]
    rfl

/-- A held command goes on when nothing holds it, after checks 4 to 9 again. -/
theorem fenceRelease_spec (hh : s.held = false) {n : Nat} {x : Slot} (hn : n < Config.slotCount) (hx : s.slot n = some x) (hp : x.phase = .held) :
    (s.isHeld x = true → ∃ t, exec (.fenceRelease n) s = .next t ∧ Around s t) ∧
    (s.isHeld x = false →
      (∀ st, lateChecks (s.updSlot n (Slot.freed s.aclk)) (x.rechecked s.aclk) = some st →
        ∃ t z, exec (.fenceRelease n) s = .next t ∧ t.slot n = some z ∧ z.reject = some st) ∧
      (lateChecks (s.updSlot n (Slot.freed s.aclk)) (x.rechecked s.aclk) = none → x.entry.bounded = false → x.entry.opc ≠ Opc.logAppend →
        ∃ t z, exec (.fenceRelease n) s = .next t ∧ t.slot n = some z ∧ z.phase = .admitted ∧ z.released = s.aclk)) := by
  have hrun := exec_fenceRelease hh hn
  have hu : (s.updSlot n (Slot.freed s.aclk)).slot n = some (x.freed s.aclk) := State.slot_updSlot_self _ (fun _ => rfl) hx
  refine ⟨fun hold => ⟨_, hrun, ?_⟩, fun hold => ⟨fun st hc => ?_, fun hc hb ho => ?_⟩⟩
  · rw [fenceRelease_held hx hold]
    exact around_after rfl rfl
  · obtain ⟨z, hz, hr⟩ := rejectCmd_reject st 0 hu
    refine ⟨_, z, hrun, ?_, hr⟩
    rw [fenceRelease_refused hx hp hold hc, after_slot, hz]
  · obtain ⟨z, hz, hphase, hrel⟩ := admitStart_released hu hb ho rfl rfl
    refine ⟨_, z, hrun, ?_, hphase, hrel⟩
    rw [fenceRelease_passed hx hp hold hc, after_slot, hz]

/-- The return of an SQ read of one entry. -/
theorem sqRead_returns (hh : s.held = false) (hm : s.smoking = false) (hst : s.stopped = false) {p tag : Nat} {r : Req} {q : Nat} {x : QP} {b : RdBeat}
    (hp : p < 4) (htag : tag < 256) (hf : (s.port p).find tag false = some r) (hbeats : r.beats = 1) (hr : r.purpose = .sqRead q x.head 1)
    (hq : q < 1024) (hx : s.qp q = some x) (hen : s.qpEn q = true) (hfault : x.fault = false) (hbad : s.sqHalfBad q = false) (hd : x.todo ≠ 0)
    (hb : b.resp = .ok) (hl : b.data.length = 64) : ∃ t, exec (.gfpReadComplete p tag [b]) s = .next t ∧
      ((parseEntry b.data).phase ≠ x.expect → t.qp q = some x.stalled ∧ t.slots = s.slots ∧ t.admSeq = s.admSeq ∧
        t.regN (A.hqQpPhstallCnt q) = min (s.regN (A.hqQpPhstallCnt q) + 1) (2 ^ 32 - 1)) ∧
      ((parseEntry b.data).phase = x.expect → s.slotFree q = true → t.admSeq = s.admSeq + 1 ∧ t.qp q = some x.pass ∧
        ∃ z, t.slot (lowestFree s.slots 0) = some z ∧ z.entry = parseEntry b.data ∧ z.qid = q ∧ z.seq = s.admSeq ∧ z.fetched = s.aclk ∧
          (opDefined (parseEntry b.data).opc = false → z.reject = some St.invalidOpcode)) := by
  have hone : ([b].all fun b => b.data.length == 64) = true := by simp [hl]
  have hx' : (retire s p tag).qp q = some x := (retire_qp s p tag q).trans hx
  have hid : x.qid = q := State.qp_qid hx
  obtain ⟨-, -, -, -, hfree', hadm', haclk'⟩ := retire_fetch s p tag hq
  refine ⟨_, exec_gfpReadComplete hh hp htag hone, ?_⟩
  rw [gfpRead_sqRead_one hf hbeats hr hq hx hen hfault hm hst hbad hb hl]
  refine ⟨fun hphase => ?_, fun hphase hfree => ?_⟩
  · rw [fetchLoop_other hx' hd hphase]
    obtain ⟨hqps, hslots, hadm, hbuild, hreg⟩ := ostTake_turnCheck (((retire s p tag).setQp x.stalled).bump (A.hqQpPhstallCnt q))
    have hcnt : A.hqQpPhstallCnt q ≠ A.movPsnCnt ∧ A.hqQpPhstallCnt q ≠ A.movOstoreCfg ∧ A.hqQpPhstallCnt q ≠ A.glbPwrCtl ∧
        A.hqQpPhstallCnt q ≠ A.hqArDropCnt ∧ A.hqQpPhstallCnt q < 0x050000 := by
      unfold A.hqQpPhstallCnt A.movPsnCnt A.movOstoreCfg A.glbPwrCtl A.hqArDropCnt; omega
    obtain ⟨h1, h2, h3, h4, h5⟩ := hcnt
    rw [State.bump_slots, State.setQp_slots, retire_slots] at hslots
    rw [State.bump_admSeq, State.setQp_admSeq, hadm'] at hadm
    rw [State.bump_build, State.setQp_build, retire_build] at hbuild
    have hsame : (retire s p tag).regN (A.hqQpPhstallCnt q) = s.regN (A.hqQpPhstallCnt q) := congrArg BitVec.toNat (retire_reg s p tag h1)
    refine ⟨?_, (after_slots ..).trans hslots, (after_admSeq ..).trans hadm, ?_⟩
    · rw [after_qp]
      exact (congrArg (getBy QP.qid q) hqps).trans (State.qp_setQp_of_qid _ hid)
    · rw [after_regN hbuild h3 h4 (.inl h5), hreg _ h2, State.regN_bump, State.regN_setQp, hsame]
  · rw [fetchLoop_expected hx' hd hphase (hfree'.trans hfree)]
    obtain ⟨hqps, hslots, hadm, -⟩ := ostTake_turnCheck (fetchEntry (retire s p tag) x (parseEntry b.data))
    obtain ⟨hqp, hseq, z, hz, he, hzq, hs, hfetched, hrej⟩ := fetchEntry_spec (s := retire s p tag) (q := x) (parseEntry b.data) (hid.symm ▸ hx')
    rw [retire_slots] at hz
    refine ⟨?_, ?_, z, ?_, he, hzq.trans hid, hs.trans hadm', hfetched.trans haclk', hrej⟩
    · rw [after_admSeq, hadm, hseq, hadm']
    · rw [after_qp, ← hid]
      exact (congrArg (getBy QP.qid x.qid) hqps).trans hqp
    · rw [after_slot]
      exact (congrArg (getBy Slot.id _) hslots).trans hz

end

/-- Settles O46: the arbiter, the returned entry by its phase, and the released command by checks 4 to 9 and its admission. -/
theorem entriesAreFetchedAndHeldCommandsReleased : Obligations.EntriesAreFetchedAndHeldCommandsReleased := by
  intro s
  refine ⟨sqRead_spec, ?_, fun hh n x hn hx hphase => fenceRelease_spec hh hn hx hphase⟩
  intro hh hm hst p tag r q x b hp htag hf hbeats hr hq hx hen hfault hbad htodo hb hl e
  obtain ⟨t, hrun, hother, hexpected⟩ := sqRead_returns hh hm hst hp htag hf hbeats hr hq hx hen hfault hbad htodo hb hl
  refine ⟨t, hrun, hother, fun hphase hfree => ?_⟩
  obtain ⟨hadm, hqp, hslot⟩ := hexpected hphase hfree
  exact ⟨hadm, ⟨x.pass, hqp, x.pass_head, x.pass_expect⟩, hslot⟩

end Sys2Proof.Machine
end

section
/-!
SUPPORT. Two writes of one register in the same cycle (R144 to R146).
-/

namespace Sys2Proof.Machine

/-! ## The data of a notification message (R403) -/

/-- A register whose one field is all of it takes the value written. -/
theorem merge_whole (old new : Word) : Reg.merge Reg.whole old new = new := by
  have hfld (u : Word) : fld u 0 32 = u.toNat := Nat.mod_eq_of_lt u.isLt
  refine BitVec.eq_of_toNat_eq ?_
  rw [← hfld, ← hfld new]
  exact fld_merge_of_mem (y := Reg.f 0 32) (by decide) (List.pairwise_singleton ..) List.mem_cons_self old new

/-- The row of NTF_TGT_DATA. -/
def ntfTgtDataRow : RegRow := Reg.rw (A.ntfTgtData 0) [(64, 16)] 0 .immediate Reg.whole true

section
variable {k : Nat} (hk : k < 64)
include hk

theorem find_ntfTgtData : Reg.find (A.ntfTgtData k) = some (ntfTgtDataRow, [k]) := by
  revert k; decide

theorem pairBase_ntfTgtData : Reg.pairBase (A.ntfTgtData k) = false ∧ Reg.pairBase (A.ntfTgtData k - 4) = false := by
  revert k; decide

theorem denied_ntfTgtData {s : State} (hd : s.init.done = true) : s.denied (A.ntfTgtData k) = false := by
  have hne : (A.ntfTgtData k == A.secRplReq) = false := by
    rw [beq_eq_false_iff_ne]
    unfold A.ntfTgtData A.secRplReq
    omega
  have hb : rowBase (A.ntfTgtData k) = some ntfTgtDataRow.base := by simp [rowBase, find_ntfTgtData hk]
  exact denied_false' hd hne (by rw [hb]; rfl) (by rw [hb]; rfl)

/-- A write of NTF_TGT_DATA takes effect at once. -/
theorem writeReg_ntfTgtData (s : State) (m : Master) (v : Word) : writeReg s m (A.ntfTgtData k) v = s.setReg (A.ntfTgtData k) v := by
  obtain ⟨h1, h2⟩ := pairBase_ntfTgtData hk
  have hfix : s.fixWrite ntfTgtDataRow [k] (s.applied (A.ntfTgtData k)) v = v := merge_whole ..
  rw [writeReg_plain (find_ntfTgtData hk) rfl h1 h2 rfl, plainWrite_rw _ v rfl rfl (by decide) (by decide), applyWrite_immediate _ _ _ rfl, hfix]

/-- An MPORT write of NTF_TGT_DATA in service. -/
theorem accessWrite_ntfTgtData {s : State} (hs : InService s) (v : Word) :
    accessWrite s .mport (A.ntfTgtData k) v none = (s.setReg (A.ntfTgtData k) v).written := by
  have hne : (A.ntfTgtData k != A.secRplReq) = true := by
    rw [bne_iff_ne]
    unfold A.ntfTgtData A.secRplReq
    omega
  rw [accessWrite_mport v hs.power_st (denied_ntfTgtData hk hs.init_done) hne, writeReg_ntfTgtData hk]
  rfl

end

/-! ## The collision -/

/-- An MPORT write that a mirror write meets is the write by itself, and then the collision. -/
theorem accessWrite_collides {s : State} {a : Nat} (v w : Word) (hs : InService s) (hm : mirrored a = true) (hf : (Reg.find a).isSome = true) :
    accessWrite s .mport a v (some w) = collision (accessWrite s .mport a v none) a v w :=
  if_pos ⟨rfl, by simp [hs.power_st], hs.init_done, hm, hf⟩

/-- The record of a collision at `a`, the `n`-th counted (R146). -/
def State.collisionRecord (s : State) (a : Nat) (kept lost : Word) (n : Nat) : Record :=
  { typ := 9, src := 0, info0 := a % 2 ^ 24, info1 := kept.toNat + lost.toNat * 2 ^ 32, info2 := n, time := s.aclk % 2 ^ 32, owner := none }

/-- A collision with the alert ring enabled is counted, recorded and answered OK. -/
theorem collision_eq {s : State} (a : Nat) (kept lost : Word) (he : s.arEn = true) : collision s a kept lost =
    tpRespond { s.bump A.glbCollideCnt with
      alert := { s.alert with queue := s.alert.queue ++ [s.collisionRecord a kept lost ((s.bump A.glbCollideCnt).regN A.glbCollideCnt)] } } true false 0 := by
  have he' : (s.bump A.glbCollideCnt).arEn = true := by
    rw [State.arEn, State.fldOf, State.reg_bump_ne _ _ (by decide)]
    exact he
  simp only [collision, State.raise, if_pos he']
  rfl

/-- What a collision leaves of the block. -/
theorem collision_keeps {s : State} (a : Nat) (kept lost : Word) (he : s.arEn = true) :
    (collision s a kept lost).pending = s.pending ∧ (collision s a kept lost).build = s.build ∧
    ∀ b, b ≠ A.glbCollideCnt → (collision s a kept lost).reg b = s.reg b := by
  rw [collision_eq a kept lost he]
  exact ⟨rfl, rfl, fun b hb => s.reg_bump_ne 1 hb⟩

/-- The count, the record and the answer of a collision. -/
theorem collision_reports {s : State} (a : Nat) (kept lost : Word) (he : s.arEn = true) :
    (collision s a kept lost).tpAnswer = { refused := false, data := 0 } ∧
    (collision s a kept lost).regN A.glbCollideCnt = min (s.regN A.glbCollideCnt + 1) (2 ^ 32 - 1) ∧
    s.collisionRecord a kept lost ((collision s a kept lost).regN A.glbCollideCnt) ∈ (collision s a kept lost).alert.queue := by
  rw [collision_eq a kept lost he]
  exact ⟨rfl, s.regN_bump A.glbCollideCnt 1, List.mem_append_right _ List.mem_cons_self⟩

/-- Settles O24: the write by itself, the collision after it, and what follows the command keeps the registers and extends the queue of records. -/
theorem collidingWritesKeepMport : Obligations.CollidingWritesKeepMport := by
  intro s k v w hs he hk
  have hm : mirrored (A.ntfTgtData k) = true := by
    simp only [mirrored, Bool.and_eq_true, decide_eq_true_eq]
    unfold A.ntfTgtData
    omega
  have hf : (Reg.find (A.ntfTgtData k)).isSome = true := by rw [find_ntfTgtData hk]; rfl
  have hok : offsetOk (A.ntfTgtData k) = true := by
    simp only [offsetOk, Bool.and_eq_true, decide_eq_true_eq, beq_iff_eq]
    unfold A.ntfTgtData
    omega
  have hne (a : Nat) (ha : a < 0x046000) : a ≠ A.ntfTgtData k := by unfold A.ntfTgtData; omega
  have he' : (s.setReg (A.ntfTgtData k) v).written.arEn = true := by
    rw [State.arEn, State.fldOf, State.written_reg, State.reg_setReg_ne _ _ (hne _ (by decide))]
    exact he
  obtain ⟨hp, hb, hreg⟩ := collision_keeps (A.ntfTgtData k) v w he'
  obtain ⟨hanswer, hcnt, hrec⟩ := collision_reports (A.ntfTgtData k) v w he'
  have hrun : accessWrite s .mport (A.ntfTgtData k) v (some w) = collision (s.setReg (A.ntfTgtData k) v).written (A.ntfTgtData k) v w := by
    rw [accessWrite_collides v w hs hm hf, accessWrite_ntfTgtData hk hs]
  rw [← hrun] at hp hb hanswer hreg hcnt hrec
  replace hb : (accessWrite s .mport (A.ntfTgtData k) v (some w)).build = s.build := hb
  have hbist : s.pins.bist = false := by
    have hheld := hs.not_held
    simp only [State.held, Bool.or_eq_false_iff] at hheld
    exact hheld.2
  obtain ⟨-, -, -, -, -, -, hqueue, -⟩ := around_after (s := s) hp hb
  have hcnt' := after_regN (s := s) hb (a := A.glbCollideCnt) (by decide) (by decide) (.inl (by decide))
  refine ⟨_, exec_registerWrite .mport v (some w) hok hbist, ?_, (after_tpAnswer ..).trans hanswer, ?_, _, hqueue.subset hrec, rfl, rfl, ?_, rfl, hcnt'.symm⟩
  · rw [after_reg hb (fun h => absurd h.symm (hne _ (by decide))) (hne _ (by decide)).symm (.inl (by unfold A.ntfTgtData; omega)), hreg _ (hne _ (by decide)).symm]
    exact State.reg_setReg_self ..
  · rw [hcnt', hcnt, State.regN, State.written_reg, State.reg_setReg_ne _ _ (hne _ (by decide))]
    rfl
  · exact Nat.mod_eq_of_lt (by unfold A.ntfTgtData; omega)

end Sys2Proof.Machine
end

section
/-!
SUPPORT. What a command that starts does at its port: the reads of its host data, its list or its fragment table (R100, R101, R120, R354, R365).
-/

namespace Sys2Proof.Machine

/-! ## Requests for command `n` at port `p` -/

/-- From `s` to `t` command slot `n` may change and port `p` asks for `l`; the other slots and ports stay, and everything beyond them but the count
of poisoned beats. -/
def Moves (n p : Nat) (l : List Req) (s t : State) : Prop :=
  (∃ rs ps sl, t = { s with regs := rs, ports := ps, slots := sl }) ∧ (∀ m, m ≠ n → t.slot m = s.slot m) ∧
  (∀ q, q < 4 → q ≠ p → t.port q = s.port q) ∧ t.asked p = s.asked p ++ l

section
variable {n p : Nat} {l l' : List Req} {s t u : State}

theorem Moves.trans (h : Moves n p l s t) (k : Moves n p l' t u) : Moves n p (l ++ l') s u := by
  obtain ⟨⟨_, _, _, rfl⟩, hslot, hport, hask⟩ := h
  obtain ⟨⟨_, _, _, rfl⟩, kslot, kport, kask⟩ := k
  exact ⟨⟨_, _, _, rfl⟩, fun m hm => (kslot m hm).trans (hslot m hm), fun q hq hne => (kport q hq hne).trans (hport q hq hne),
    by rw [kask, hask, List.append_assoc]⟩

/-- A change of the command alone asks for nothing. -/
theorem Moves.of_slots (h : ∃ sl, t = { s with slots := sl }) (hm : ∀ m, m ≠ n → t.slot m = s.slot m) : Moves n p [] s t := by
  obtain ⟨sl, rfl⟩ := h
  exact ⟨⟨_, _, _, rfl⟩, hm, fun _ _ _ => rfl, (List.append_nil _).symm⟩

theorem Moves.refl (n p : Nat) (s : State) : Moves n p [] s s := .of_slots ⟨_, rfl⟩ fun _ _ => rfl

theorem Moves.updSlot (n p : Nat) (s : State) (f : Slot → Slot) (hf : ∀ x, (f x).id = x.id) : Moves n p [] s (s.updSlot n f) :=
  .of_slots ⟨_, rfl⟩ fun _ hm => s.slot_updSlot_ne f hf hm

theorem Moves.setSlot (p : Nat) (s : State) {x : Slot} (hx : x.id = n) : Moves n p [] s (s.setSlot x) :=
  .of_slots ⟨_, rfl⟩ fun _ hm => s.slot_setSlot_ne (hx ▸ hm)

theorem Moves.issue (n : Nat) (r : Req) (hp : p < 4) (hs : s.stopped = false) : Moves n p [r.bare] s (issue s p r) := by
  refine ⟨?_, fun m _ => issue_slot s p r m, fun q hq hne => ?_, asked_issue r hp hs⟩
  · obtain ⟨_, _, h⟩ := issue_frame s p r
    exact ⟨_, _, _, h⟩
  · unfold Machine.issue
    rw [hs]
    obtain h | ⟨k, h⟩ := pump_cases s p { s.port p with wait := (s.port p).wait ++ [r] } <;> simp only [h]
    · exact s.port_setPort_ne _ hq hne
    · exact s.port_setPort_ne _ hq hne

theorem Moves.stopped (h : Moves n p l s t) : t.stopped = s.stopped := by obtain ⟨⟨_, _, _, rfl⟩, -⟩ := h; rfl
theorem Moves.portOf (h : Moves n p l s t) (x : Slot) : t.portOf x = s.portOf x := by obtain ⟨⟨_, _, _, rfl⟩, -⟩ := h; rfl
theorem Moves.ops (h : Moves n p l s t) : t.ops = s.ops := by obtain ⟨⟨_, _, _, rfl⟩, -⟩ := h; rfl
theorem Moves.rlv (h : Moves n p l s t) : t.rlv = s.rlv := by obtain ⟨⟨_, _, _, rfl⟩, -⟩ := h; rfl

/-- Requests that are issued one after the other are asked for in their order. -/
theorem Moves.each {α : Type} (n : Nat) (f : α → Req) (hf : ∀ y, (f y).bare = f y) (hp : p < 4) (hs : s.stopped = false) (q : List α) :
    Moves n p (q.map f) s (s.each q fun st y => Machine.issue st p (f y)) := by
  induction q generalizing s with
  | nil => exact .refl n p s
  | cons y q ih =>
    have h := Moves.issue n (f y) hp hs
    rw [hf] at h
    exact h.trans (ih (h.stopped.trans hs))

/-- What leaves the port unchanged but for the requests keeps the command. -/
theorem each_issue_slot {α : Type} (f : α → Req) (q : List α) (m : Nat) : (s.each q fun st y => issue st p (f y)).slot m = s.slot m := by
  induction q generalizing s with
  | nil => rfl
  | cons y q ih => exact ih.trans (issue_slot ..)

end

/-! ## Reads of a span -/

theorem cutSpan_zero (f a : Nat) : cutSpan f a 0 = [] := by cases f <;> rfl

/-- A span that ends with its 4 KiB page is one piece. -/
theorem pieces_toPageEnd (a : Nat) : pieces a (4096 - a % 4096) = [(a, 4096 - a % 4096)] := by
  have hlt : a % 4096 < 4096 := Nat.mod_lt _ (by decide)
  rw [pieces, cutSpan, if_neg (by omega)]
  simp only [Nat.min_self, Nat.sub_self, cutSpan_zero]

theorem mkRead_bare (a k : Nat) (dur : Bool) (why : Purpose) : (mkRead a k dur why).bare = mkRead a k dur why := rfl

/-- The reads of `len` bytes from `a`, each within one 4 KiB page. -/
def spanReads (why : Nat → Purpose) (a len : Nat) : List Req := (pieces a len).map fun y => mkRead y.1 y.2 false (why (y.1 - a))

section
variable {n : Nat} {s : State} {x : Slot} (hx : s.slot n = some x) (hs : s.stopped = false) (hp : s.portOf x < 4)
include hx

theorem readSpan_eq (a len : Nat) (why : Nat → Purpose) :
    readSpan s n a len why 0 = s.each (pieces a len) fun st y => issue st (s.portOf x) (mkRead y.1 y.2 false (why (y.1 - a))) := by
  simp only [readSpan, hx, Nat.zero_add]

theorem readSpan_slot (a len : Nat) (why : Nat → Purpose) (m : Nat) : (readSpan s n a len why 0).slot m = s.slot m := by
  rw [readSpan_eq hx]
  exact each_issue_slot ..

/-- The data of a command that lie in one span are one read of the span. -/
theorem pullData_own {a len : Nat} (hsp : x.spans = [(a, len)]) (hlen : s.xferLen x = len) : pullData s n = readSpan s n a len (.dataRead n) 0 := by
  simp only [pullData, hx, hsp, hlen, spanPieces, Nat.zero_add, Nat.max_self, Nat.min_self, Nat.sub_self, Nat.add_zero, Nat.sub_zero]
  split
  · rfl
  next h =>
    obtain rfl : len = 0 := by omega
    rw [readSpan_eq hx]
    rfl

include hs hp

theorem Moves.readSpan (a len : Nat) (why : Nat → Purpose) :
    Moves n (s.portOf x) (spanReads why a len) s (readSpan s n a len why 0) := by
  have h := Moves.each n (fun y : Nat × Nat => mkRead y.1 y.2 false (why (y.1 - a))) (fun _ => mkRead_bare ..) hp hs (pieces a len)
  rw [readSpan_eq hx]
  exact h

end

/-- A write of a span by a command asks for its pieces in their order. -/
theorem Moves.writeSpan {p : Nat} {s : State} (n a : Nat) (l : List Byte) (dur psn : Bool) (why : Purpose) (hp : p < 4) (hs : s.stopped = false) :
    Moves n p ((pieces a l.length).map fun y => mkWrite y.1 ((l.drop (y.1 - a)).take y.2) dur psn why) s (writeSpan s p a l dur psn why) :=
  .each n (fun y : Nat × Nat => mkWrite y.1 ((l.drop (y.1 - a)).take y.2) dur psn why) (fun _ => rfl) hp hs (pieces a l.length)

/-! ## The host side of a command that starts (R101, R113) -/

/-- The command with its host spans known. -/
def Slot.spanned (l : List (Nat × Nat)) (x : Slot) : Slot := { x with spans := l, tblDone := true }

/-- The command as the read of its fragment table at `a` begins. -/
def Slot.tabled (a : Nat) (x : Slot) : Slot := { x with tblDone := false, tblNext := a, tblSeen := (a :: x.tblSeen).take 8 }

section
variable {n : Nat} {s : State} {x : Slot} (hx : s.slot n = some x)
include hx

theorem hostStart_direct (hi : x.entry.indirect = false) (l : List (Nat × Nat)) : hostStart s n l = s.updSlot n (Slot.spanned l) := by
  simp only [hostStart, hx, hi]
  rfl

theorem hostStart_direct_slot (hi : x.entry.indirect = false) (l : List (Nat × Nat)) : (hostStart s n l).slot n = some (x.spanned l) := by
  rw [hostStart_direct hx hi]
  exact State.slot_updSlot_self _ (fun _ => rfl) hx

/-- A start with its one span known asks for nothing by itself. -/
theorem Moves.hostStart_direct (p : Nat) (hi : x.entry.indirect = false) (l : List (Nat × Nat)) : Moves n p [] s (hostStart s n l) := by
  rw [Machine.hostStart_direct hx hi]
  exact .updSlot n p s _ fun _ => rfl

/-- A start whose data lie in one span reads them. -/
theorem startPull_direct (hi : x.entry.indirect = false) (l : List (Nat × Nat)) : startPull s n l = pullData (hostStart s n l) n := by
  have hslot := hostStart_direct_slot hx hi l
  have hi' : (x.spanned l).entry.indirect = false := hi
  simp only [startPull, hslot, hi']
  rfl

end

section
variable {n : Nat} {s : State} {x : Slot} (hx : s.slot n = some x) (hs : s.stopped = false) (hp : s.portOf x < 4)
include hx hs hp

/-- The data or list of a command that lie in one span are read when it starts. -/
theorem startPull_own {a len : Nat} (hi : x.entry.indirect = false) (hlen : s.xferLen x = len) :
    (startPull s n [(a, len)]).slot n = some (x.spanned [(a, len)]) ∧
    Moves n (s.portOf x) (spanReads (.dataRead n) a len) s (startPull s n [(a, len)]) := by
  have hslot := hostStart_direct_slot hx hi [(a, len)]
  have hstart := Moves.hostStart_direct hx (s.portOf x) hi [(a, len)]
  have hown : startPull s n [(a, len)] = readSpan (hostStart s n [(a, len)]) n a len (.dataRead n) 0 := by
    rw [startPull_direct hx hi]
    refine pullData_own hslot rfl ?_
    rw [hostStart_direct hx hi]
    exact hlen
  have hport : (hostStart s n [(a, len)]).portOf (x.spanned [(a, len)]) = s.portOf x := hstart.portOf x
  have hread := Moves.readSpan hslot (hstart.stopped.trans hs) (hport ▸ hp) a len (.dataRead n)
  rw [hport] at hread
  rw [hown, readSpan_slot hslot]
  exact ⟨hslot, hstart.trans hread⟩

/-- The table of a command is read to the end of its 4 KiB page (R101). -/
theorem hostStart_table (hi : x.entry.indirect = true) (l : List (Nat × Nat)) :
    (hostStart s n l).slot n = some (x.tabled x.entry.haddr) ∧
    Moves n (s.portOf x) [mkRead x.entry.haddr (4096 - x.entry.haddr % 4096) false (.table n)] s (hostStart s n l) := by
  let u := (s.updSlot n fun y => { y with tblDone := false }).updSlot n fun y =>
    { y with tblNext := x.entry.haddr, tblSeen := (x.entry.haddr :: y.tblSeen).take 8 }
  have hu : u.slot n = some (x.tabled x.entry.haddr) :=
    State.slot_updSlot_self (fun y : Slot => { y with tblNext := x.entry.haddr, tblSeen := (x.entry.haddr :: y.tblSeen).take 8 }) (fun _ => rfl)
      (State.slot_updSlot_self (fun y : Slot => { y with tblDone := false }) (fun _ => rfl) hx)
  have hmoves : Moves n (s.portOf x) [] s u := 
    (Moves.updSlot n _ s (fun y => { y with tblDone := false }) fun _ => rfl).trans
      (.updSlot n _ _ (fun y => { y with tblNext := x.entry.haddr, tblSeen := (x.entry.haddr :: y.tblSeen).take 8 }) fun _ => rfl)
  have hread := Moves.readSpan hu hs hp x.entry.haddr (4096 - x.entry.haddr % 4096) fun _ => .table n
  have hstart : hostStart s n l = readSpan u n x.entry.haddr (4096 - x.entry.haddr % 4096) (fun _ => .table n) 0 := by
    simp only [hostStart, hx, hi]
    rfl
  rw [hstart, readSpan_slot hu]
  rw [spanReads, pieces_toPageEnd] at hread
  exact ⟨hu, hmoves.trans hread⟩

/-- A start whose data are named by a table reads the table first. -/
theorem startPull_table (hi : x.entry.indirect = true) (l : List (Nat × Nat)) : startPull s n l = hostStart s n l := by
  have hslot := (hostStart_table hx hs hp hi l).1
  have hi' : (x.tabled x.entry.haddr).entry.indirect = true := hi
  simp only [startPull, hslot, hi']
  rfl

end

/-! ## A command slot by itself -/

/-- From `s` to `u` command slot `n` has become `z`, and nothing else changes. -/
def OnlyCommand (n : Nat) (z : Slot) (s u : State) : Prop :=
  (∃ l, u = { s with slots := l }) ∧ u.slot n = some z ∧ ∀ m, m ≠ n → u.slot m = s.slot m

section
variable {s u : State} {n : Nat} {z : Slot}

theorem Starting.only_begun {opc : Nat} {x : Slot} (h : Starting s n x opc) : OnlyCommand n x.started s (s.begun x) := by
  have hid : x.started.id = n := h.id
  exact ⟨⟨_, rfl⟩, h.slot_begun, fun _ hm => s.slot_setSlot_ne (hid ▸ hm)⟩

theorem OnlyCommand.updSlot (h : OnlyCommand n z s u) (f : Slot → Slot) (hf : ∀ x, (f x).id = x.id) : OnlyCommand n (f z) s (u.updSlot n f) := by
  obtain ⟨⟨_, rfl⟩, hz, hm⟩ := h
  exact ⟨⟨_, rfl⟩, State.slot_updSlot_self f hf hz, fun m hne => (State.slot_updSlot_ne _ f hf hne).trans (hm m hne)⟩

theorem OnlyCommand.setSlot (h : OnlyCommand n z s u) {y : Slot} (hy : y.id = n) : OnlyCommand n y s (u.setSlot y) := by
  obtain ⟨⟨_, rfl⟩, hz, hm⟩ := h
  exact ⟨⟨_, rfl⟩, hy ▸ State.slot_setSlot_self _ y, fun m hne => (State.slot_setSlot_ne _ (hy ▸ hne)).trans (hm m hne)⟩

/-- What follows the command leaves it the only one changed. -/
theorem OnlyCommand.after (h : OnlyCommand n z s u) : OnlySlot s n z (after s u) := by
  obtain ⟨⟨l, rfl⟩, hz, hm⟩ := h
  exact ⟨(after_slot ..).trans hz, fun m hne => (after_slot ..).trans (hm m hne), l, around_after rfl rfl⟩

theorem OnlyCommand.moves (h : OnlyCommand n z s u) (p : Nat) : Moves n p [] s u := .of_slots h.1 h.2.2

theorem OnlyCommand.slot (h : OnlyCommand n z s u) : u.slot n = some z := h.2.1

/-- A start with its one span known changes the command alone. -/
theorem OnlyCommand.hostStart (h : OnlyCommand n z s u) (hi : z.entry.indirect = false) (l : List (Nat × Nat)) :
    OnlyCommand n (z.spanned l) s (hostStart u n l) := by
  rw [hostStart_direct h.slot hi]
  exact h.updSlot _ fun _ => rfl

end

end Sys2Proof.Machine
end

section
/-!
SUPPORT. The commands that start: what each knows of its host side as it runs (R111, R113, R118, R122, R124, R126, R302, R333).
-/

namespace Sys2Proof.Machine

theorem Starting.opc {s : State} {n opc : Nat} {x : Slot} (h : Starting s n x opc) : x.entry.opc = opc := h.2.2.2.2.1

/-- A command that is free to start has passed its checks. -/
theorem starting_reject {s : State} {n opc : Nat} {x : Slot} (h : Starting s n x opc) : x.reject = none := by
  obtain ⟨-, -, -, -, -, hfail, -⟩ := h
  rw [Slot.failed, Bool.or_eq_false_iff] at hfail
  exact Option.isNone_iff_eq_none.1 (Option.isSome_eq_false_iff.1 hfail.1)

/-- The command with the outcome `c` applied. -/
def Slot.withOutcome (c : Nat) (x : Slot) : Slot := if x.outc.contains c then x else { x with outc := x.outc ++ [c] }

theorem Slot.withOutcome_id (c : Nat) (x : Slot) : (x.withOutcome c).id = x.id := by unfold Slot.withOutcome; split <;> rfl
theorem Slot.withOutcome_phase (c : Nat) (x : Slot) : (x.withOutcome c).phase = x.phase := by unfold Slot.withOutcome; split <;> rfl

theorem Slot.mem_withOutcome (c : Nat) (x : Slot) : c ∈ (x.withOutcome c).outc := by
  unfold Slot.withOutcome
  split
  next h => simpa using h
  · exact List.mem_append_right _ List.mem_cons_self

/-- The command while its list is read. -/
def Slot.listed (x : Slot) : Slot := { x with phase := .listing }

/-! ## The transfer length (R113, R118, R122) -/

section
variable (s : State) {x : Slot}

theorem State.xferLen_read (h : x.entry.opc = Opc.read) : s.xferLen x = 4096 * x.entry.count := by
  simp only [State.xferLen, h]
  exact Nat.mul_comm ..

theorem State.xferLen_count {o : Nat} (h : x.entry.opc = o) (ho : o ∈ [Opc.logAppend, Opc.logRead, Opc.readParam, Opc.setKeySlot, Opc.getLog]) :
    s.xferLen x = x.entry.count := by
  simp only [List.mem_cons, List.not_mem_nil, or_false] at ho
  rcases ho with rfl | rfl | rfl | rfl | rfl <;> simp only [State.xferLen, h] <;> rfl

theorem State.ownSpan_eq {len : Nat} (h : s.xferLen x = len) : s.ownSpan x = [(x.entry.haddr, len)] := by rw [State.ownSpan, h]

end

/-! ## The frame of each command -/

/-- A command that finds nothing to do leaves the block. -/
theorem run_idle {ok : Bool} {s : State} {f : State → State} (hok : ok = true) (hf : f s = s) :
    ∃ t, run ok s f = .next t ∧ (s.held = false → Around s t) := by
  subst hok
  refine ⟨_, run_true s f, fun hh => ?_⟩
  rw [hh, hf]
  exact around_after rfl rfl

section
variable {s : State} {n : Nat} {x : Slot}

/-- PROGRAM, COPY and LOG_APPEND wait for room in program staging. -/
theorem waits_for_room {c : Instr} (hc : c ∈ [Instr.program n, .copy n, .logAppend n]) (hn : n < Config.slotCount) (hr : s.stagingRoom n = false) :
    ∃ t, exec c s = .next t ∧ (s.held = false → Around s t) := by
  have hroom (u : State) : (if !s.stagingRoom n then s else u) = s := if_pos (by rw [hr]; rfl)
  simp only [List.mem_cons, List.not_mem_nil, or_false] at hc
  obtain rfl | rfl | rfl := hc
  · change ∃ t, execProgram n s = .next t ∧ _
    exact run_idle (decide_eq_true hn) (hroom _)
  · change ∃ t, execCopy n s = .next t ∧ _
    exact run_idle (decide_eq_true hn) (hroom _)
  · change ∃ t, execLogAppend n s = .next t ∧ _
    exact run_idle (decide_eq_true hn) (hroom _)

/-- The frame of a command that has its room in program staging. -/
theorem run_with_room {opc : Nat} (h : Starting s n x opc) (hr : s.stagingRoom n = true) (f : State → Slot → State) :
    run (n < Config.slotCount) s (fun s => if !s.stagingRoom n then s else startCmd s n opc (fun _ => true) f) = .next (after s (f (s.begun x) x.started)) := by
  obtain ⟨hh, hn, -⟩ := id h
  have hroom : (if !s.stagingRoom n then s else startCmd s n opc (fun _ => true) f) = startCmd s n opc (fun _ => true) f := if_neg (by rw [hr]; decide)
  rw [run_of_ok _ (decide_eq_true hn) hh, hroom, startCmd_starting h _ f rfl]

/-- A PROGRAM with room reads its data, and its metadata where it has any. -/
theorem exec_program (h : Starting s n x Opc.program) (hr : s.stagingRoom n = true) : exec (.program n) s = .next (after s
    (if x.entry.hasMeta then readSpan (startPull (s.begun x) n (s.ownSpan x)) n x.entry.aux0 (16 * x.entry.count * s.ncwOf x) (.metaRead n) 0
     else startPull (s.begun x) n (s.ownSpan x))) := run_with_room h hr _

theorem exec_logAppend (h : Starting s n x Opc.logAppend) (hr : s.stagingRoom n = true) :
    exec (.logAppend n) s = .next (after s (startPull (s.begun x) n (s.ownSpan x))) := run_with_room h hr _

theorem exec_copy (h : Starting s n x Opc.copy) (hr : s.stagingRoom n = true) : exec (.copy n) s = .next (after s (copyNext (s.begun x) n)) :=
  run_with_room h hr _

/-- A LOG_READ that returns its data through a ring has no host span of its own. -/
theorem exec_logRead_ring (h : Starting s n x Opc.logRead) (hb : bit x.entry.xctl 8 = true) : exec (.logRead n) s = .next (after s (s.begun x)) := by
  refine (run_startCmd h _ _ rfl).trans ?_
  simp only [Slot.started, hb]
  rfl

theorem exec_logRead (h : Starting s n x Opc.logRead) (hb : bit x.entry.xctl 8 = false) :
    exec (.logRead n) s = .next (after s (hostStart (s.begun x) n (s.ownSpan x))) := by
  refine (run_startCmd h _ _ rfl).trans ?_
  simp only [Slot.started, hb]
  rfl

/-- A SCAN waits for a load of its context (R333). -/
theorem scan_waits (h : Starting s n x Opc.scan) (hl : s.ctxLoading x = true) : ∃ t, exec (.scan n) s = .next t ∧ Around s t := by
  obtain ⟨hh, hn, hx, -⟩ := h
  change ∃ t, execScan n s = .next t ∧ _
  refine ⟨_, run_of_ok _ (decide_eq_true hn) hh, ?_⟩
  simp only [hx, hl, if_true]
  exact around_after rfl rfl

section
variable (h : Starting s n x Opc.scan) (hl : s.ctxLoading x = false)
include h hl

/-- A SCAN whose context stands reads its list. -/
theorem exec_scan (hc : x.ctxLate = true → ctxChecks (s.begun x) x.started = none) :
    exec (.scan n) s = .next (after s (startPull ((s.begun x).setSlot x.started.listed) n (s.ownSpan x))) := by
  obtain ⟨hh, hn, hx, -⟩ := id h
  have hcheck : (if x.ctxLate = true then ctxChecks (s.begun x) x.started else none) = none := by
    split
    next hlate => exact hc hlate
    · rfl
  change execScan n s = _
  unfold execScan
  rw [run_of_ok _ (decide_eq_true hn) hh]
  simp only [hx, hl, Bool.false_eq_true, if_false]
  rw [startCmd_starting h _ _ rfl, show x.started.ctxLate = x.ctxLate from rfl, hcheck]
  rfl

/-- A SCAN whose new context fails its checks completes with their status. -/
theorem exec_scan_refused (hlate : x.ctxLate = true) {st : Status} (hc : ctxChecks (s.begun x) x.started = some st) :
    exec (.scan n) s = .next (after s (rejectCmd (s.begun x) n st)) := by
  obtain ⟨hh, hn, hx, -⟩ := id h
  change execScan n s = _
  unfold execScan
  rw [run_of_ok _ (decide_eq_true hn) hh]
  simp only [hx, hl, Bool.false_eq_true, if_false]
  rw [startCmd_starting h _ _ rfl, show x.started.ctxLate = x.ctxLate from rfl, hlate, if_pos rfl, hc]

end

end

/-! ## Commands that change by themselves -/

section
variable {s : State} {n : Nat} {x : Slot}

/-- A command that names no host data runs, and is all that changes. -/
theorem onlySlot_started {opc : Nat} {c : Instr} (h : Starting s n x opc) (hrun : exec c s = .next (after s (s.begun x))) :
    ∃ t, exec c s = .next t ∧ OnlySlot s n { x with phase := .running } t := ⟨_, hrun, h.only_begun.after⟩

theorem exec_erase (h : Starting s n x Opc.erase) : exec (.erase n) s = .next (after s (s.begun x)) :=
  run_startCmd h (fun _ => true) (fun st _ => st) rfl

theorem exec_getFeature (h : Starting s n x Opc.getFeature) : exec (.getFeature n) s = .next (after s (s.begun x)) :=
  run_startCmd h (fun _ => true) (fun st _ => st) rfl

theorem exec_setFeature (h : Starting s n x Opc.setFeature) : exec (.setFeature n) s = .next (after s (s.begun x)) :=
  run_startCmd h (fun _ => true) (fun st _ => st) rfl

theorem exec_read (h : Starting s n x Opc.read) : exec (.read n) s = .next (after s (hostStart (s.begun x) n (s.ownSpan x))) :=
  run_startCmd h (fun _ => true) (fun st x => hostStart st n (st.ownSpan x)) rfl

theorem exec_readParam (h : Starting s n x Opc.readParam) : exec (.readParam n) s = .next (after s (hostStart (s.begun x) n (s.ownSpan x))) :=
  run_startCmd h (fun _ => true) (fun st x => hostStart st n (st.ownSpan x)) rfl

/-- FENCE counts what it waits for. -/
theorem fence_starts (h : Starting s n x Opc.fence) :
    ∃ t, exec (.fence n) s = .next t ∧ OnlySlot s n { x with phase := .running, res0 := x.waitsOn } t :=
  ⟨_, run_startCmd h (fun _ => true) (fun st x => st.setSlot { x with res0 := x.waitsOn }) rfl,
    (h.only_begun.setSlot (y := { x.started with res0 := x.waitsOn }) h.id).after⟩

/-- A command whose host span is one knows it when it runs. -/
theorem onlySlot_spanned {opc len : Nat} {c : Instr} (h : Starting s n x opc) (hi : x.entry.indirect = false) (hlen : s.xferLen x = len)
    (hrun : exec c s = .next (after s (hostStart (s.begun x) n (s.ownSpan x)))) :
    ∃ t, exec c s = .next t ∧ OnlySlot s n { x with phase := .running, spans := [(x.entry.haddr, len)], tblDone := true } t := by
  rw [s.ownSpan_eq hlen] at hrun
  exact ⟨_, hrun, (h.only_begun.hostStart hi _).after⟩

/-! ## Commands with a fragment table -/

/-- Command `n`, whose entry is `e`, reads the first page of its fragment table in phase `ph`. -/
def ReadsTable (s : State) (n : Nat) (e : Entry) (p : Nat) (ph : Phase) (t : State) : Prop :=
  ∃ z, t.slot n = some z ∧ z.phase = ph ∧ z.tblDone = false ∧ z.tblNext = e.haddr ∧
    (s.asked p ++ [mkRead e.haddr (4096 - e.haddr % 4096) false (.table n)]) <+: t.asked p

theorem ReadsTable.after {e : Entry} {p : Nat} {ph : Phase} {t : State} (h : ReadsTable s n e p ph t) : ReadsTable s n e p ph (after s t) := by
  obtain ⟨z, hz, h⟩ := h
  exact ⟨z, (after_slot ..).trans hz, by rwa [after_asked]⟩

/-- Further requests come after the read of the table. -/
theorem ReadsTable.then {e : Entry} {p : Nat} {ph : Phase} {t u : State} {l : List Req} (h : ReadsTable s n e p ph t) (hm : Moves n p l t u)
    (hs : u.slot n = t.slot n) : ReadsTable s n e p ph u := by
  obtain ⟨z, hz, hphase, hdone, hnext, hask⟩ := h
  obtain ⟨-, -, -, hmore⟩ := hm
  refine ⟨z, hs.trans hz, hphase, hdone, hnext, ?_⟩
  rw [hmore]
  exact hask.trans (List.prefix_append ..)

/-- The read of the table of a command that runs, or lists, in `z`. -/
theorem readsTable_hostStart {opc : Nat} {z : Slot} {u : State} (h : Starting s n x opc) (hu : OnlyCommand n z s u) (he : z.entry = x.entry)
    (hq : u.portOf z = s.portOf x) (hi : x.entry.indirect = true) (hp : s.portOf x < 4) (l : List (Nat × Nat)) :
    ReadsTable s n x.entry (s.portOf x) z.phase (hostStart u n l) := by
  obtain ⟨-, -, -, -, -, -, -, hstop, -⟩ := id h
  have hmoves := hu.moves (s.portOf x)
  obtain ⟨hslot, hread⟩ := hostStart_table hu.slot (hmoves.stopped.trans hstop) (hq ▸ hp) (he ▸ hi) l
  rw [hq] at hread
  obtain ⟨-, -, -, hask⟩ := hmoves.trans hread
  refine ⟨z.tabled z.entry.haddr, hslot, rfl, rfl, congrArg Entry.haddr he, ?_⟩
  rw [hask, he]
  exact List.prefix_rfl

section
variable (hi : x.entry.indirect = true) (hp : s.portOf x < 4)
include hi hp

/-- A start of a command that runs reads its table. -/
theorem Starting.readsTable {opc : Nat} (h : Starting s n x opc) (l : List (Nat × Nat)) :
    ReadsTable s n x.entry (s.portOf x) .running (hostStart (s.begun x) n l) :=
  readsTable_hostStart h h.only_begun rfl rfl hi hp l

theorem starting_startPull_table {opc : Nat} (h : Starting s n x opc) (l : List (Nat × Nat)) :
    startPull (s.begun x) n l = hostStart (s.begun x) n l := by
  obtain ⟨-, -, -, -, -, -, -, hstop, -⟩ := id h
  exact Machine.startPull_table (s := s.begun x) h.slot_begun hstop hp hi l

theorem read_readsTable (h : Starting s n x Opc.read) :
    ∃ t, exec (.read n) s = .next t ∧ ReadsTable s n x.entry (s.portOf x) .running t :=
  ⟨_, exec_read h, (h.readsTable hi hp _).after⟩

theorem logRead_readsTable (h : Starting s n x Opc.logRead) (hb : bit x.entry.xctl 8 = false) :
    ∃ t, exec (.logRead n) s = .next t ∧ ReadsTable s n x.entry (s.portOf x) .running t :=
  ⟨_, exec_logRead h hb, (h.readsTable hi hp _).after⟩

theorem logAppend_readsTable (h : Starting s n x Opc.logAppend) (hr : s.stagingRoom n = true) :
    ∃ t, exec (.logAppend n) s = .next t ∧ ReadsTable s n x.entry (s.portOf x) .running t := by
  have hrun := exec_logAppend h hr
  rw [starting_startPull_table hi hp h] at hrun
  exact ⟨_, hrun, (h.readsTable hi hp _).after⟩

/-- A PROGRAM reads its metadata after the table. -/
theorem program_readsTable (h : Starting s n x Opc.program) (hr : s.stagingRoom n = true) :
    ∃ t, exec (.program n) s = .next t ∧ ReadsTable s n x.entry (s.portOf x) .running t := by
  obtain ⟨-, -, -, -, -, -, -, hstop, -⟩ := id h
  have hrun := exec_program h hr
  have hread := h.readsTable hi hp (s.ownSpan x)
  rw [starting_startPull_table hi hp h] at hrun
  split at hrun
  · obtain ⟨hslot, hmoves⟩ := hostStart_table h.slot_begun hstop hp hi (s.ownSpan x)
    have hport : (hostStart (s.begun x) n (s.ownSpan x)).portOf (x.started.tabled x.started.entry.haddr) = s.portOf x := hmoves.portOf x
    have hmeta := Moves.readSpan hslot (hmoves.stopped.trans hstop) (hport ▸ hp) x.entry.aux0 (16 * x.entry.count * s.ncwOf x) (.metaRead n)
    rw [hport] at hmeta
    exact ⟨_, hrun, (hread.then hmeta (readSpan_slot hslot ..)).after⟩
  · exact ⟨_, hrun, hread.after⟩

theorem scan_readsTable (h : Starting s n x Opc.scan) (hl : s.ctxLoading x = false)
    (hc : x.ctxLate = true → ctxChecks (s.begun x) x.started = none) :
    ∃ t, exec (.scan n) s = .next t ∧ ReadsTable s n x.entry (s.portOf x) .listing t := by
  obtain ⟨-, -, -, -, -, -, -, hstop, -⟩ := id h
  have hlisted := h.only_begun.setSlot (y := x.started.listed) h.id
  have hrun := exec_scan h hl hc
  rw [Machine.startPull_table hlisted.slot hstop hp hi] at hrun
  exact ⟨_, hrun, (readsTable_hostStart h hlisted rfl rfl hi hp _).after⟩

end

end

/-! ## COPY (R124, R126) -/

section
variable {s : State} {n : Nat} {x : Slot} (h : Starting s n x Opc.copy) (hd : x.done ≠ x.entry.count)
include h hd

/-- The read of the source page that a COPY has come to. -/
def State.copyRead (s : State) (n : Nat) (x : Slot) : Op :=
  mkOp (.cmd n) .read x.entry.lcls x.seq (x.entry.paddr + 8 * x.done) x.entry.fmt 1 (s.copyCws x x.done)

theorem starting_copy_goes_on : ¬(decide (x.started.done = x.started.entry.count) || x.started.failed) = true := by
  obtain ⟨-, -, -, -, -, hfail, -⟩ := id h
  have hd' : x.started.done ≠ x.started.entry.count := hd
  have hf' : x.started.failed = false := hfail
  simp [hd', hf']

theorem copyNext_reads (he : s.eraseBefore (x.entry.paddr + 8 * x.done) x.seq = none) :
    copyNext (s.begun x) n = placeOp (s.begun x) (s.copyRead n x) := by
  have he' : (s.begun x).eraseBefore (x.started.entry.paddr + 8 * x.started.done) x.started.seq = none := he
  simp only [copyNext, h.slot_begun, if_neg (starting_copy_goes_on h hd), he']
  rfl

theorem copyNext_ends {o : Op} (he : s.eraseBefore (x.entry.paddr + 8 * x.done) x.seq = some o) (ho : o.expl = true) :
    copyNext (s.begun x) n = hit (s.begun x) n St.blockEraseSuspended := by
  have he' : (s.begun x).eraseBefore (x.started.entry.paddr + 8 * x.started.done) x.started.seq = some o := he
  simp only [copyNext, h.slot_begun, if_neg (starting_copy_goes_on h hd), he', ho, if_true]

theorem copyNext_erased {o : Op} (he : s.eraseBefore (x.entry.paddr + 8 * x.done) x.seq = some o) (ho : o.expl = false) :
    copyNext (s.begun x) n = outcome (s.begun x) n St.okErased := by
  have he' : (s.begun x).eraseBefore (x.started.entry.paddr + 8 * x.started.done) x.started.seq = some o := he
  simp only [copyNext, h.slot_begun, if_neg (starting_copy_goes_on h hd), he', ho, Bool.false_eq_true, if_false]

end

/-- A COPY with room reads its next source page. -/
theorem copy_reads {s : State} {n : Nat} {x : Slot} (h : Starting s n x Opc.copy) (hd : x.done ≠ x.entry.count) (hr : s.stagingRoom n = true)
    (he : s.eraseBefore (x.entry.paddr + 8 * x.done) x.seq = none) : ∃ t, exec (.copy n) s = .next t ∧ t.slot n = some x.started ∧
    ∃ o ∈ t.ops, o.owner = .cmd n ∧ o.kind = .read ∧ o.stage = .queued ∧ o.paddr = x.entry.paddr + 8 * x.done ∧ o.planes = 1 := by
  refine ⟨_, exec_copy h hr, ?_⟩
  rw [copyNext_reads h hd he, after_slot, after_ops]
  exact ⟨h.slot_begun, mem_placeOp ..⟩

/-- A COPY whose next source page is in a block with an explicitly suspended erase ends. -/
theorem copy_ends {s : State} {n : Nat} {x : Slot} (h : Starting s n x Opc.copy) (hd : x.done ≠ x.entry.count) (hr : s.stagingRoom n = true) {o : Op}
    (he : s.eraseBefore (x.entry.paddr + 8 * x.done) x.seq = some o) (ho : o.expl = true) :
    ∃ t z, exec (.copy n) s = .next t ∧ t.slot n = some z ∧ z.phase = .running ∧ t.met n St.blockEraseSuspended := by
  have hid : x.started.id = n := h.id
  have hmet := h.met_hit St.blockEraseSuspended
  rw [hid] at hmet
  obtain ⟨k, hslot⟩ := hit_slot St.blockEraseSuspended h.slot_begun rfl (starting_reject h : x.reject = none)
  have hrun := exec_copy h hr
  rw [copyNext_ends h hd he ho] at hrun
  exact ⟨_, _, hrun, (after_slot ..).trans hslot, rfl, (after_met ..).2 hmet⟩

/-- A COPY takes a source page under an earlier unfinished erase as erased. -/
theorem copy_takes_erased {s : State} {n : Nat} {x : Slot} (h : Starting s n x Opc.copy) (hd : x.done ≠ x.entry.count) (hr : s.stagingRoom n = true)
    {o : Op} (he : s.eraseBefore (x.entry.paddr + 8 * x.done) x.seq = some o) (ho : o.expl = false) :
    ∃ t, exec (.copy n) s = .next t ∧ t.slot n = some (x.started.withOutcome St.okErased) := by
  refine ⟨_, exec_copy h hr, ?_⟩
  rw [copyNext_erased h hd he ho, after_slot]
  exact State.slot_updSlot_self (Slot.withOutcome St.okErased) (Slot.withOutcome_id _) h.slot_begun

/-- Settles O42: each command is one of a few starts, and what follows the command leaves its slot and its requests. -/
theorem startedCommandsRun : Obligations.StartedCommandsRun := by
  intro s n x y
  refine ⟨fun c hc h => ?_, fence_starts, fun h hb => onlySlot_started h (exec_logRead_ring h hb), fun c hc h hi hb => ?_, fun c hc h hi hb hs hr hp => ?_,
    scan_waits, fun st h hl hlate hc => ?_, fun c hc hn hr => waits_for_room hc hn hr, fun h hd hr => ?_⟩
  · simp only [List.mem_cons, List.not_mem_nil, or_false] at hc
    obtain rfl | rfl | rfl := hc
    · exact onlySlot_started h (exec_erase h)
    · exact onlySlot_started h (exec_getFeature h)
    · exact onlySlot_started h (exec_setFeature h)
  · simp only [List.mem_cons, List.not_mem_nil, or_false] at hc
    obtain rfl | rfl | rfl := hc
    · exact onlySlot_spanned (x := x) h hi (s.xferLen_read h.opc) (exec_read h)
    · exact onlySlot_spanned (x := x) h hi (s.xferLen_count (o := Opc.readParam) h.opc (by decide)) (exec_readParam h)
    · exact onlySlot_spanned (x := x) h hi (s.xferLen_count (o := Opc.logRead) h.opc (by decide)) (exec_logRead h (hb rfl))
  · have htable : ∃ t, exec c.2.1 s = .next t ∧ ReadsTable s n x.entry (s.portOf x) c.2.2 t := by
      simp only [List.mem_cons, List.not_mem_nil, or_false] at hc
      obtain rfl | rfl | rfl | rfl | rfl := hc
      · exact read_readsTable hi hp h
      · obtain ⟨hl, hcheck⟩ := hs rfl
        exact scan_readsTable hi hp h hl hcheck
      · exact program_readsTable hi hp h (hr (.inl rfl))
      · exact logAppend_readsTable hi hp h (hr (.inr rfl))
      · exact logRead_readsTable hi hp h (hb rfl)
    obtain ⟨t, hrun, z, hz⟩ := htable
    exact ⟨t, z, hrun, hz⟩
  · obtain ⟨z, hz, hreject⟩ := rejectCmd_reject st 0 h.slot_begun
    exact ⟨_, z, exec_scan_refused h hl hlate hc, (after_slot ..).trans hz, hreject⟩
  · cases he : s.eraseBefore (x.entry.paddr + 8 * x.done) x.seq with
    | none =>
      obtain ⟨t, hrun, hslot, hop⟩ := copy_reads h hd hr he
      have hno {o : Op} {P : Prop} (ho : s.eraseBefore (x.entry.paddr + 8 * x.done) x.seq = some o) : P := by simp [he] at ho
      exact ⟨t, _, hrun, hslot, rfl, fun _ => hop, fun _ ho => hno ho, fun _ ho => hno ho⟩
    | some o =>
      have hsome {P : Prop} : s.eraseBefore (x.entry.paddr + 8 * x.done) x.seq = none → P := by simp [he]
      have hexpl {o' : Op} (ho' : s.eraseBefore (x.entry.paddr + 8 * x.done) x.seq = some o') : o'.expl = o.expl := by
        rw [Option.some.inj (ho'.symm.trans he)]
      cases ho : o.expl with
      | true =>
        obtain ⟨t, z, hrun, hslot, hphase, hmet⟩ := copy_ends h hd hr he ho
        exact ⟨t, z, hrun, hslot, hphase, hsome, fun _ _ _ => hmet, fun _ heq hf => absurd (hf.symm.trans ((hexpl heq).trans ho)) (by decide)⟩
      | false =>
        obtain ⟨t, hrun, hslot⟩ := copy_takes_erased h hd hr he ho
        exact ⟨t, _, hrun, hslot, Slot.withOutcome_phase .., hsome, fun _ heq hf => absurd (hf.symm.trans ((hexpl heq).trans ho)) (by decide),
          fun _ _ _ => Slot.mem_withOutcome ..⟩

end Sys2Proof.Machine
end

section
/-!
SUPPORT. The commands that move host data when they start (R120, R123, R242, R294, R309, R323, R354, R365, R431).
-/

namespace Sys2Proof.Machine

/-! ## The transfer length of a list and of an image -/

section
variable (s : State) {x : Slot}

theorem State.xferLen_entries {o : Nat} (h : x.entry.opc = o) (ho : o ∈ [Opc.gather, Opc.loadMicro, Opc.setPatrol]) :
    s.xferLen x = 16 * x.entry.count := by
  rw [Nat.mul_comm]
  simp only [List.mem_cons, List.not_mem_nil, or_false] at ho
  rcases ho with rfl | rfl | rfl <;> simp only [State.xferLen, h] <;> rfl

theorem State.xferLen_scan (h : x.entry.opc = Opc.scan) : s.xferLen x = 128 * x.entry.count := by
  rw [Nat.mul_comm]
  simp only [State.xferLen, h]
  rfl

theorem State.xferLen_loadScan (h : x.entry.opc = Opc.loadScan) : s.xferLen x = 2048 := by
  simp only [State.xferLen, h]
  rfl

theorem State.xferLen_program (h : x.entry.opc = Opc.program) : s.xferLen x = 4096 * (s.ncwOf x * x.entry.count) := by
  rw [Nat.mul_comm, Nat.mul_comm (s.ncwOf x)]
  simp only [State.xferLen, h]
  rfl

end

/-! ## What a command that moves data leaves of the others -/

/-- The other commands, the other ports and the operations at the dies are as they were. -/
def OthersStay (s : State) (n p : Nat) (t : State) : Prop :=
  (∀ m, m ≠ n → t.slot m = s.slot m) ∧ (∀ q, q < 4 → q ≠ p → t.port q = s.port q) ∧ t.ops = s.ops

section
variable {s u : State} {n p : Nat} {l : List Req}

theorem OthersStay.after (h : OthersStay s n p u) : OthersStay s n p (after s u) := by
  obtain ⟨hslot, hport, hops⟩ := h
  exact ⟨fun m hm => (after_slot ..).trans (hslot m hm), fun q hq hne => (after_port ..).trans (hport q hq hne), (after_ops ..).trans hops⟩

theorem Moves.othersStay (h : Moves n p l s u) : OthersStay s n p u := ⟨h.2.1, h.2.2.1, h.ops⟩

theorem Moves.asked (h : Moves n p l s u) : u.asked p = s.asked p ++ l := h.2.2.2

end

/-! ## Commands that read their data or list at once -/

/-- Command `n` has become `z` and its port asks for `l`. -/
def Asks (s : State) (n p : Nat) (z : Slot) (l : List Req) (t : State) : Prop :=
  t.slot n = some z ∧ t.asked p = s.asked p ++ l ∧ OthersStay s n p t

section
variable {s : State} {n opc : Nat} {x : Slot}

/-- A command whose data are one span reads it as it starts. -/
theorem asks_of_startPull {c : Instr} {z : Slot} {u : State} {a len : Nat} (h : Starting s n x opc) (hu : OnlyCommand n z s u)
    (hi : z.entry.indirect = false) (hq : u.portOf z = s.portOf x) (hp : s.portOf x < 4) (hlen : u.xferLen z = len)
    (hrun : exec c s = .next (after s (startPull u n [(a, len)]))) :
    ∃ t, exec c s = .next t ∧ Asks s n (s.portOf x) (z.spanned [(a, len)]) (spanReads (.dataRead n) a len) t := by
  obtain ⟨-, -, -, -, -, -, -, hstop, -⟩ := h
  have hmoves := hu.moves (s.portOf x)
  obtain ⟨hslot, hread⟩ := startPull_own (a := a) hu.slot (hmoves.stopped.trans hstop) (hq ▸ hp) hi hlen
  rw [hq] at hread
  have hall := hmoves.trans hread
  exact ⟨_, hrun, (after_slot ..).trans hslot, (after_asked ..).trans hall.asked, hall.othersStay.after⟩

/-- The same of a command that runs, with the span its entry names. -/
theorem asks_running {c : Instr} {len : Nat} (hi : x.entry.indirect = false) (hp : s.portOf x < 4) (h : Starting s n x opc) (hlen : s.xferLen x = len)
    (hrun : exec c s = .next (after s (startPull (s.begun x) n (s.ownSpan x)))) :
    ∃ t, exec c s = .next t ∧ Asks s n (s.portOf x) (x.started.spanned [(x.entry.haddr, len)]) (spanReads (.dataRead n) x.entry.haddr len) t := by
  rw [s.ownSpan_eq hlen] at hrun
  exact asks_of_startPull h h.only_begun hi rfl hp hlen hrun

theorem exec_readGather (h : Starting s n x Opc.gather) : exec (.readGather n) s =
    .next (after s (startPull ((s.begun x).setSlot x.started.listed) n [(x.entry.aux0, 16 * x.entry.count)])) :=
  run_startCmd h (fun _ => true) (fun st x => startPull (st.setSlot x.listed) n [(x.entry.aux0, 16 * x.entry.count)]) rfl

theorem exec_setKeySlot (h : Starting s n x Opc.setKeySlot) (hb : bit x.entry.xctl 10 = false) :
    exec (.setKeySlot n) s = .next (after s (startPull (s.begun x) n (s.ownSpan x))) :=
  run_startCmd h (fun e => !bit e.xctl 10) (fun st x => startPull st n (st.ownSpan x)) (by simp [hb])

theorem exec_loadScanContext (h : Starting s n x Opc.loadScan) :
    exec (.loadScanContext n) s = .next (after s (startPull (s.begun x) n (s.ownSpan x))) :=
  run_startCmd h (fun _ => true) (fun st x => startPull st n (st.ownSpan x)) rfl

/-- LOAD_MICROCODE of area `a`. -/
theorem run_microStart (h : Starting s n x Opc.loadMicro) {a : Nat} (ha : (x.entry.x 2 2 == a) = true) :
    run (n < Config.slotCount) s (fun s => microStart s n a) = .next (after s (startPull (s.begun x) n (s.ownSpan x))) :=
  run_startCmd h (fun e => e.x 2 2 == a) (fun st x => startPull st n (st.ownSpan x)) ha

theorem exec_setPatrol_list (h : Starting s n x Opc.setPatrol) (hc : x.entry.count ≠ 0) :
    exec (.setPatrol n) s = .next (after s (startPull (s.begun x) n (s.ownSpan x))) := by
  refine (run_startCmd h (fun _ => true) _ rfl).trans ?_
  rw [if_neg (show ¬x.started.entry.count = 0 from hc)]
  rfl

/-- PROGRAM without metadata reads its data. -/
theorem exec_program_data (h : Starting s n x Opc.program) (hm : x.entry.hasMeta = false) (hr : s.stagingRoom n = true) :
    exec (.program n) s = .next (after s (startPull (s.begun x) n (s.ownSpan x))) := by
  rw [exec_program h hr, hm]
  rfl

end

/-! ## PROGRAM with metadata, DIE_RAW and CALIBRATE -/

section
variable {s : State} {n : Nat} {x : Slot} (hi : x.entry.indirect = false) (hp : s.portOf x < 4)
include hi hp

/-- PROGRAM with META reads its metadata after its data (R123). -/
theorem program_reads_metadata (h : Starting s n x Opc.program) (hm : x.entry.hasMeta = true) (hr : s.stagingRoom n = true) :
    ∃ t, exec (.program n) s = .next t ∧ OthersStay s n (s.portOf x) t ∧
    t.asked (s.portOf x) = s.asked (s.portOf x) ++ spanReads (.dataRead n) x.entry.haddr (4096 * (s.ncwOf x * x.entry.count)) ++
      spanReads (.metaRead n) x.entry.aux0 (16 * (s.ncwOf x * x.entry.count)) := by
  obtain ⟨-, -, -, -, -, -, -, hstop, -⟩ := id h
  have hlen := s.xferLen_program h.opc
  have hmetaLen : 16 * x.entry.count * s.ncwOf x = 16 * (s.ncwOf x * x.entry.count) := by rw [Nat.mul_assoc, Nat.mul_comm x.entry.count]
  have hrun := exec_program h hr
  rw [if_pos hm, s.ownSpan_eq hlen, hmetaLen] at hrun
  have hbegun := h.only_begun.moves (s.portOf x)
  obtain ⟨hslot, hdata⟩ := startPull_own (a := x.entry.haddr) h.slot_begun hstop hp hi hlen
  have hport : (startPull (s.begun x) n [(x.entry.haddr, 4096 * (s.ncwOf x * x.entry.count))]).portOf
      (x.started.spanned [(x.entry.haddr, 4096 * (s.ncwOf x * x.entry.count))]) = s.portOf x := hdata.portOf x
  have hmeta := Moves.readSpan hslot (hdata.stopped.trans hstop) (hport ▸ hp) x.entry.aux0 (16 * (s.ncwOf x * x.entry.count)) (.metaRead n)
  rw [hport] at hmeta
  have hall := (hbegun.trans hdata).trans hmeta
  refine ⟨_, hrun, hall.othersStay.after, ?_⟩
  rw [after_asked, hall.asked, List.nil_append, ← List.append_assoc]

omit hi hp in
/-- DIE_RAW of an empty entry has no host data. -/
theorem exec_dieRaw_empty (h : Starting s n x Opc.dieRaw) (hc : s.custEntry x.entry = none) : exec (.dieRaw n) s = .next (after s (s.begun x)) := by
  have hc' : (s.begun x).custEntry x.started.entry = none := hc
  refine (run_startCmd h (fun _ => true) _ rfl).trans ?_
  rw [hc']

omit hi hp in
theorem exec_dieRaw (h : Starting s n x Opc.dieRaw) {l : List Byte} (hc : s.custEntry x.entry = some l) : exec (.dieRaw n) s = .next (after s
    (if custDir l = 2 then readSpan (hostStart (s.begun x) n [(x.entry.haddr, custXlen l)]) n x.entry.haddr (custXlen l) (.dataRead n) 0
     else hostStart (s.begun x) n [(x.entry.haddr, custXlen l)])) := by
  have hc' : (s.begun x).custEntry x.started.entry = some l := hc
  refine (run_startCmd h (fun _ => true) _ rfl).trans ?_
  rw [hc']
  rfl

/-- DIE_RAW knows its span, and reads it where the routine sends data to the die (R236). -/
theorem dieRaw_asks (h : Starting s n x Opc.dieRaw) {l : List Byte} (hc : s.custEntry x.entry = some l) :
    ∃ t, exec (.dieRaw n) s = .next t ∧ Asks s n (s.portOf x) (x.started.spanned [(x.entry.haddr, custXlen l)])
      (if custDir l = 2 then spanReads (.dataRead n) x.entry.haddr (custXlen l) else []) t := by
  obtain ⟨-, -, -, -, -, -, -, hstop, -⟩ := id h
  have hstart := h.only_begun.hostStart hi [(x.entry.haddr, custXlen l)]
  have hmoves := hstart.moves (s.portOf x)
  have hrun := exec_dieRaw h hc
  split at hrun
  next hdir =>
    have hport : (hostStart (s.begun x) n [(x.entry.haddr, custXlen l)]).portOf (x.started.spanned [(x.entry.haddr, custXlen l)]) = s.portOf x :=
      hmoves.portOf x
    have hread := Moves.readSpan hstart.slot (hmoves.stopped.trans hstop) (hport ▸ hp) x.entry.haddr (custXlen l) (.dataRead n)
    rw [hport] at hread
    have hall := hmoves.trans hread
    rw [if_pos hdir]
    exact ⟨_, hrun, (after_slot ..).trans ((readSpan_slot hstart.slot ..).trans hstart.slot), (after_asked ..).trans hall.asked, hall.othersStay.after⟩
  next hdir =>
    rw [if_neg hdir]
    exact ⟨_, hrun, (after_slot ..).trans hstart.slot, (after_asked ..).trans hmoves.asked, hmoves.othersStay.after⟩

omit hp in
/-- CALIBRATE takes its turn for a calibration slot. -/
theorem calibrate_waits (h : Starting s n x Opc.calibrate) : ∃ t, exec (.calibrate n) s = .next t ∧ OthersStay s n (s.portOf x) t ∧
    t.slot n = some (x.started.spanned [(x.entry.haddr, 64 * x.entry.count)]) ∧ t.rlv.calWait = s.rlv.calWait ++ [(some n, 0, 0, 0)] := by
  have hstart := h.only_begun.hostStart hi [(x.entry.haddr, 64 * x.entry.count)]
  have hmoves := hstart.moves (s.portOf x)
  have hothers := hmoves.othersStay
  have hrlv := hmoves.rlv
  refine ⟨_, run_startCmd h (fun _ => true) _ rfl, ?_⟩
  simp only [after_rlv, after_slot]
  refine ⟨OthersStay.after ⟨hothers.1, hothers.2.1, hothers.2.2⟩, hstart.slot, ?_⟩
  exact congrArg (fun r : Rlv => r.calWait ++ [(some n, 0, 0, 0)]) hrlv

end

/-! ## GET_LOG -/

theorem each_slot {α : Type} {f : State → α → State} {m : Nat} (h : ∀ s y, (f s y).slot m = s.slot m) (l : List α) (s : State) :
    (s.each l f).slot m = s.slot m := by
  induction l generalizing s with
  | nil => rfl
  | cons y l ih => exact (ih _).trans (h s y)

section
variable {n m : Nat} (hm : m ≠ n)
include hm

theorem writePiece_slot_ne (s : State) (a : Nat) (l : List Byte) (psn : Bool) (why : Purpose) (count : Bool) :
    (writePiece s n a l psn why count).slot m = s.slot m := by
  cases h : s.slot n with
  | none => simp only [writePiece, h]
  | some x =>
    rw [writePiece_eq a l psn why count h]
    exact (State.slot_updSlot_ne _ (fun y => y.wrote (s.portOf x) a l psn count) (fun _ => rfl) hm).trans (writeSpan_slot ..)

theorem flushOut_slot_ne (s : State) : (flushOut s n).slot m = s.slot m := by
  unfold flushOut
  split
  · rfl
  · refine (each_slot (fun st y => each_slot (fun st _ => writePiece_slot_ne hm st ..) _ st) _ _).trans ?_
    exact State.slot_updSlot_ne _ _ (fun _ => rfl) hm

/-- Output of one command leaves the others. -/
theorem deliver_slot_ne (s : State) (off : Nat) (l : List Byte) (psn : Bool) : (deliver s n off l psn).slot m = s.slot m := by
  unfold deliver
  split
  · rfl
  · split
    · rfl
    · exact (flushOut_slot_ne hm _).trans (State.slot_updSlot_ne _ _ (fun _ => rfl) hm)

end

/-- Output at the one span of a command is written by its port and counts as its bytes. -/
theorem deliver_moves {s : State} {n a len : Nat} {x : Slot} {l : List Byte} (h : s.slot n = some x) (hw : s.mayWrite x = true) (hq : x.outq = [])
    (hs : x.spans = [(a, len)]) (hl : l ≠ []) (hlen : l.length ≤ len) (hp : s.portOf x < 4) (hstop : s.stopped = false) :
    (deliver s n 0 l false).slot n = some (x.wrote (s.portOf x) a l false true) ∧
    Moves n (s.portOf x) ((pieces a l.length).map fun y => mkWrite y.1 ((l.drop (y.1 - a)).take y.2) x.entry.durable false (.dataWrite n)) s
      (deliver s n 0 l false) := by
  have hframe := (Outputs.deliver n s 0 l false).1
  have hne : ∀ m, m ≠ n → (deliver s n 0 l false).slot m = s.slot m := fun m hm => deliver_slot_ne hm ..
  obtain ⟨u, hu, hux, hports, heq⟩ := deliver_one_span (off := 0) false h hw hq hs hl (by omega)
  have hpo : u.portOf x = s.portOf x := hu.portOf x
  rw [writePiece_eq _ l false _ true hux, hpo, Nat.add_zero] at heq
  rw [heq] at hframe hne ⊢
  have hwrite := Moves.writeSpan n a l x.entry.durable false (.dataWrite n) hp (hu.stopped.trans hstop)
  obtain ⟨-, -, hport, hask⟩ := hwrite.trans (.updSlot n _ _ (fun y => y.wrote (s.portOf x) a l false true) fun _ => rfl)
  refine ⟨State.slot_updSlot_self (fun y => y.wrote (s.portOf x) a l false true) (fun _ => rfl) ((writeSpan_slot ..).trans hux), hframe, hne,
    fun q hq hqp => (hport q hq hqp).trans ?_, ?_⟩
  · rw [State.port, State.port, hports]
  · rw [hask, List.append_nil, State.asked, State.port, hports]
    rfl

/-- A command that is free to start has met no condition. -/
theorem starting_conds {s : State} {n opc : Nat} {x : Slot} (h : Starting s n x opc) : x.conds = [] := by
  obtain ⟨-, -, -, -, -, hfail, -⟩ := h
  rw [Slot.failed, Bool.or_eq_false_iff, Bool.not_eq_false', List.isEmpty_iff] at hfail
  exact hfail.2

/-- A command that is free to start may write its data where it writes any. -/
theorem starting_mayWrite {s : State} {n opc : Nat} {x : Slot} (h : Starting s n x opc) (hw : x.noWrite = false) : s.mayWrite x = true := by
  have hconds := starting_conds h
  obtain ⟨-, -, -, -, -, -, -, hstop, -⟩ := h
  simp [State.mayWrite, Slot.mute, hconds, hw, hstop]

/-- The bytes of log `id` from `first`, with zeros beyond its end, as `len` bytes (R137). -/
def State.logPart (s : State) (id first len : Nat) : List Byte := ((s.logBytes id).drop first ++ zeros len).take len

theorem State.logPart_length (s : State) (id first len : Nat) : (s.logPart id first len).length = len := by
  simp [State.logPart, zeros]

/-- The command with its result in RES0. -/
def Slot.withRes0 (v : Nat) (x : Slot) : Slot := { x with res0 := v }

section
variable {s : State} {n : Nat} {x : Slot}

theorem exec_getLog (h : Starting s n x Opc.getLog) : exec (.getLog n) s = .next (after s (deliver
    ((hostStart (s.begun x) n (s.ownSpan x)).updSlot n (Slot.withRes0 (((s.begun x).logLen (x.entry.x 0 8)).getD 0)))
    n 0 ((s.begun x).logPart (x.entry.x 0 8) x.entry.aux0 x.entry.count) false)) := run_startCmd h (fun _ => true) _ rfl

/-- GET_LOG writes its part of the log to its span. -/
theorem getLog_writes (hp : s.portOf x < 4) (h : Starting s n x Opc.getLog) (hi : x.entry.indirect = false) (hq : x.outq = []) (hw : x.noWrite = false)
    (hc : 0 < x.entry.count) : ∃ t z, exec (.getLog n) s = .next t ∧ OthersStay s n (s.portOf x) t ∧ t.slot n = some z ∧
      z.res0 = ((s.begun x).logLen (x.entry.x 0 8)).getD 0 ∧ z.bytesOut = x.bytesOut + x.entry.count ∧
      t.asked (s.portOf x) = s.asked (s.portOf x) ++ (pieces x.entry.haddr x.entry.count).map fun y =>
        mkWrite y.1 ((((s.begun x).logPart (x.entry.x 0 8) x.entry.aux0 x.entry.count).drop (y.1 - x.entry.haddr)).take y.2)
          x.entry.durable false (.dataWrite n) := by
  obtain ⟨-, -, -, -, -, -, -, hstop, -⟩ := id h
  have hmay := starting_mayWrite h hw
  have hrun := exec_getLog h
  have hlen := (s.begun x).logPart_length (x.entry.x 0 8) x.entry.aux0 x.entry.count
  generalize (s.begun x).logPart (x.entry.x 0 8) x.entry.aux0 x.entry.count = b at hrun hlen ⊢
  generalize ((s.begun x).logLen (x.entry.x 0 8)).getD 0 = v at hrun ⊢
  rw [s.ownSpan_eq (s.xferLen_count h.opc (by decide))] at hrun
  have hstart := (h.only_begun.hostStart hi [(x.entry.haddr, x.entry.count)]).updSlot (Slot.withRes0 v) fun _ => rfl
  have hmoves := hstart.moves (s.portOf x)
  have hport := hmoves.portOf ((x.started.spanned [(x.entry.haddr, x.entry.count)]).withRes0 v)
  obtain ⟨hslot, hout⟩ := deliver_moves (l := b) hstart.slot ((congrArg (!x.mute && !x.noWrite && !·) hmoves.stopped).trans hmay) hq rfl
    (List.ne_nil_of_length_pos (hlen ▸ hc)) hlen.le (hport ▸ hp) (hmoves.stopped.trans hstop)
  rw [hport] at hout
  have hall := hmoves.trans hout
  refine ⟨_, _, hrun, hall.othersStay.after, (after_slot ..).trans hslot, rfl, ?_, ?_⟩
  · exact congrArg (x.bytesOut + ·) hlen
  · have hask := hall.asked
    rw [List.nil_append, hlen] at hask
    exact (after_asked ..).trans hask

end

/-! ## Commands whose list comes before their work -/

/-- A scan whose context is loaded reads its patterns. -/
theorem scan_asks {s : State} {n : Nat} {x : Slot} (hi : x.entry.indirect = false) (hp : s.portOf x < 4) (h : Starting s n x Opc.scan)
    (hc : (!s.ctxLoading x && !x.ctxLate) = true) : ∃ t, exec (.scan n) s = .next t ∧
      Asks s n (s.portOf x) (x.started.listed.spanned [(x.entry.haddr, 128 * x.entry.count)]) (spanReads (.dataRead n) x.entry.haddr (128 * x.entry.count)) t := by
  rw [Bool.and_eq_true, Bool.not_eq_true', Bool.not_eq_true'] at hc
  obtain ⟨hload, hlate⟩ := hc
  have hrun := exec_scan h hload fun hl => absurd (hl.symm.trans hlate) (by decide)
  have hlen := s.xferLen_scan h.opc
  rw [s.ownSpan_eq hlen] at hrun
  have hu := h.only_begun.setSlot (y := x.started.listed) h.id
  exact asks_of_startPull h hu hi rfl hp hlen hrun

/-- READ_GATHER reads its list. -/
theorem gather_asks {s : State} {n : Nat} {x : Slot} (hi : x.entry.indirect = false) (hp : s.portOf x < 4) (h : Starting s n x Opc.gather) :
    ∃ t, exec (.readGather n) s = .next t ∧
      Asks s n (s.portOf x) (x.started.listed.spanned [(x.entry.aux0, 16 * x.entry.count)]) (spanReads (.dataRead n) x.entry.aux0 (16 * x.entry.count)) t :=
  asks_of_startPull h (h.only_begun.setSlot (y := x.started.listed) h.id) hi rfl hp (s.xferLen_entries h.opc (by decide)) (exec_readGather h)

/-! ## The statement -/

/-- Settles O43: each of these commands starts with its host side known, and reads, waits or writes from there. -/
theorem startedCommandsMoveHostData : Obligations.StartedCommandsMoveHostData := by
  unfold Obligations.StartedCommandsMoveHostData
  intro s n x hp p e reads others
  refine ⟨fun c hc h hcond hi => ?_, fun h hm hi hr => program_reads_metadata hi hp h hm hr, fun h hi => ⟨fun hc => ?_, fun l hc => ?_⟩,
    fun h hi => calibrate_waits hi h, fun h hi hq hw hcount => getLog_writes hp h hi hq hw hcount⟩
  · simp only [List.mem_cons, List.not_mem_nil, or_false] at hc
    obtain rfl | rfl | rfl | rfl | rfl | rfl | rfl | rfl | rfl | rfl := hc
    · exact gather_asks hi hp h
    · exact scan_asks hi hp h hcond
    · obtain ⟨hm, hr⟩ := Bool.and_eq_true_iff.1 hcond
      exact asks_running hi hp h (s.xferLen_program h.opc) (exec_program_data h (Bool.not_eq_true' _ ▸ hm) hr)
    · exact asks_running hi hp h (s.xferLen_count (o := Opc.logAppend) h.opc (by decide)) (exec_logAppend h hcond)
    · exact asks_running hi hp h (s.xferLen_count (o := Opc.setKeySlot) h.opc (by decide)) (exec_setKeySlot h (Bool.not_eq_true' _ ▸ hcond))
    · exact asks_running hi hp h (s.xferLen_loadScan h.opc) (exec_loadScanContext h)
    · exact asks_running hi hp h (s.xferLen_entries (o := Opc.loadMicro) h.opc (by decide)) (run_microStart h hcond)
    · exact asks_running hi hp h (s.xferLen_entries (o := Opc.loadMicro) h.opc (by decide)) (run_microStart h hcond)
    · exact asks_running hi hp h (s.xferLen_entries (o := Opc.loadMicro) h.opc (by decide)) (run_microStart h hcond)
    · exact asks_running hi hp h (s.xferLen_entries (o := Opc.setPatrol) h.opc (by decide)) (exec_setPatrol_list h (bne_iff_ne.1 hcond))
  · exact ⟨_, exec_dieRaw_empty h hc, h.only_begun.after⟩
  · obtain ⟨t, hrun, hslot, hask, hothers⟩ := dieRaw_asks hi hp h hc
    exact ⟨t, hrun, hothers, hslot, hask⟩

end Sys2Proof.Machine
end

section
/-!
SUPPORT. ABORT, ERASE_CONTROL, SET_PATROL without a list, and SET_BUDGET (R127, R130, R131, R166, R168, R294).
-/

namespace Sys2Proof.Machine

/-! ## A condition met by any command that has not finished -/

/-- A command that has not finished and passed its checks takes conditions. -/
theorem open_of_unfinished {y : Slot} (hu : y.unfinished = true) (hr : y.reject = none) :
    (y.phase == .posting || y.phase == .fullHeld || y.phase == .faultHeld || y.reject.isSome) = false := by
  simp only [Slot.unfinished, Slot.waitsPlace] at hu
  rw [hr]
  cases hp : y.phase <;> simp_all

theorem met_hit_of_open {s : State} {n : Nat} {y : Slot} (st : Status) (h : s.slot n = some y) (hu : y.unfinished = true) (hr : y.reject = none) :
    (hit s n st).met n st := by
  have hs : (stopOps (s.updSlot n (Slot.meets st)) n).slot n = some { y.meets st with todo := [] } := by
    rw [stopOps_slot]
    exact State.slot_updSlot_self (fun x => { x with todo := [] }) (fun _ => rfl) (State.slot_updSlot_self (Slot.meets st) (fun _ => rfl) h)
  have hc : ((hit s n st).slot n).map Slot.conds = some (y.meets st).conds := by
    rw [hit_of_open st h (open_of_unfinished hu hr)]
    split
    · rw [unsend_slot, hs]; rfl
    · rw [hs]; rfl
  obtain ⟨z, hz, hzc⟩ := Option.map_eq_some_iff.1 hc
  exact ⟨z, hz, hzc ▸ y.mem_conds_meets st⟩

/-! ## ABORT (R130, R131) -/

/-- ABORT `x` names `y`: the same queue pair and CID, fetched before it, not finished and not refused. -/
def Slot.names (x y : Slot) : Bool :=
  y.qid == x.entry.x 0 10 && y.entry.cid == x.entry.aux0 % 65536 && decide (y.seq < x.seq) && y.unfinished && y.reject.isNone

theorem Slot.names_spec {x y : Slot} (h : x.names y = true) : y.seq < x.seq ∧ y.unfinished = true ∧ y.reject = none := by
  simp only [Slot.names, Bool.and_eq_true, decide_eq_true_eq, Option.isNone_iff_eq_none] at h
  obtain ⟨⟨⟨-, hseq⟩, hu⟩, hr⟩ := h
  exact ⟨hseq, hu, hr⟩

theorem Slot.names_of_seq {x y : Slot} (h : y.seq = x.seq) : x.names y = false := by simp [Slot.names, h]

/-- The commands an ABORT names. -/
def State.named (s : State) (x : Slot) : List Slot := s.slots.filter x.names

theorem abortAll_eq {s : State} {x : Slot} (hp : x.qid = 0 → s.sqHalfBad (x.entry.x 0 10) = false ∧ s.cqHalfBad (x.entry.x 0 10) = false) :
    abortAll s x = (s.each ((s.named x).filter s.abortable) abortCmd).updSlot x.id (Slot.withRes0
      (((s.named x).filter s.abortable).length + ((s.named x).length - ((s.named x).filter s.abortable).length) * 2 ^ 32)) := by
  refine if_neg fun h => ?_
  rw [Bool.and_eq_true, beq_iff_eq] at h
  obtain ⟨hq, hbad⟩ := h
  obtain ⟨hsq, hcq⟩ := hp hq
  simp [hsq, hcq] at hbad

/-- A command that cannot be aborted where it stands has started. -/
theorem abortable_of_phase {s : State} {y : Slot} (h : y.phase = .held ∨ y.waitsPlace = true ∨ y.phase = .admitted ∨ y.phase = .listing) :
    s.abortable y = true := by
  unfold State.abortable
  obtain h | h | h | h := h <;> simp [h]

/-- An abort meets its condition, after a transfer has been abandoned or not. -/
theorem abortCmd_eq (s : State) (y : Slot) : ∃ u, u.slots = s.slots ∧ abortCmd s y = hit u y.id St.abortedByHost := by
  unfold abortCmd
  split
  next o ho =>
    split
    · exact ⟨abandon s o, rfl, rfl⟩
    · exact ⟨s, rfl, rfl⟩
  · exact ⟨s, rfl, rfl⟩

section
variable {s : State} {n : Nat} {x : Slot} (h : Starting s n x Opc.abort)
  (hp : x.qid = 0 → s.sqHalfBad (x.entry.x 0 10) = false ∧ s.cqHalfBad (x.entry.x 0 10) = false)
include h

/-- The start of the ABORT changes nothing about the commands it names. -/
theorem named_begun : (s.begun x).named x.started = s.named x := by
  have hget : getBy Slot.id x.started.id s.slots = some x := by
    rw [show x.started.id = n from h.id]
    exact h.2.2.1
  exact filter_putBy (p := x.names) hget (Slot.names_of_seq rfl) (Slot.names_of_seq rfl)

include hp

/-- ABORT aborts `go` of the commands it names, and counts them and the others. -/
theorem exec_abort {l go : List Slot} {v : Nat} (hl : s.named x = l) (hgo : l.filter s.abortable = go)
    (hv : go.length + (l.length - go.length) * 2 ^ 32 = v) :
    exec (.abort n) s = .next (after s (((s.begun x).each go abortCmd).updSlot n (Slot.withRes0 v))) := by
  have hid : x.started.id = n := h.id
  have hgo' : l.filter (s.begun x).abortable = go := hgo
  have hall := abortAll_eq (s := s.begun x) (x := x.started) hp
  rw [named_begun h, hid, hl, hgo', hv] at hall
  refine (run_startCmd h (fun _ => true) abortAll rfl).trans ?_
  rw [hall]

theorem abort_none (hn : s.named x = []) : ∃ t, exec (.abort n) s = .next t ∧ OnlySlot s n (x.started.withRes0 0) t := by
  have hrun := exec_abort h hp hn List.filter_nil (v := 0) rfl
  exact ⟨_, hrun, (h.only_begun.updSlot (Slot.withRes0 0) fun _ => rfl).after⟩

theorem abort_one {y : Slot} (hn : s.named x = [y]) (hy : s.slot y.id = some y) : ∃ t z, exec (.abort n) s = .next t ∧ t.slot n = some z ∧
    (s.abortable y = true → z.res0 = 1 ∧ t.met y.id St.abortedByHost) ∧ (s.abortable y = false → z.res0 = 2 ^ 32 ∧ t.slot y.id = some y) := by
  obtain ⟨hseq, hu, hr⟩ := Slot.names_spec (List.mem_filter.1 (hn ▸ List.mem_singleton_self y : y ∈ s.named x)).2
  have hne : y.id ≠ n := fun he => by
    have hx := h.2.2.1
    rw [← he, hy] at hx
    exact absurd (Option.some.inj hx ▸ hseq) (lt_irrefl _)
  obtain ⟨-, hslot, hothers⟩ := h.only_begun
  cases ha : s.abortable y with
  | true =>
    have hrun := exec_abort h hp hn (List.filter_cons_of_pos ha) (v := 1) (by simp)
    obtain ⟨u, hus, hcmd⟩ := abortCmd_eq (s.begun x) y
    have huslot : ∀ m, u.slot m = (s.begun x).slot m := fun m => congrArg (getBy Slot.id m) hus
    obtain ⟨z, hz, -⟩ := (Retains.hit u y.id St.abortedByHost).slot ((huslot n).trans hslot)
    obtain ⟨w, hw, hmet⟩ := met_hit_of_open St.abortedByHost ((huslot y.id).trans ((hothers _ hne).trans hy)) hu hr
    have heach : (s.begun x).each [y] abortCmd = hit u y.id St.abortedByHost := hcmd
    refine ⟨_, z.withRes0 1, hrun, (after_slot ..).trans ?_, fun _ => ⟨rfl, (after_met ..).2 ⟨w, ?_, hmet⟩⟩, fun hf => absurd hf (by decide)⟩
    · exact heach ▸ State.slot_updSlot_self (Slot.withRes0 1) (fun _ => rfl) hz
    · exact heach ▸ (State.slot_updSlot_ne _ (Slot.withRes0 1) (fun _ => rfl) hne).trans hw
  | false =>
    have hrun := exec_abort h hp hn (List.filter_cons_of_neg (by simp [ha])) (v := 2 ^ 32) (by simp)
    refine ⟨_, x.started.withRes0 (2 ^ 32), hrun, (after_slot ..).trans (State.slot_updSlot_self (Slot.withRes0 (2 ^ 32)) (fun _ => rfl) hslot),
      fun hf => absurd hf (by decide), fun _ => ⟨rfl, (after_slot ..).trans ?_⟩⟩
    exact (State.slot_updSlot_ne _ (Slot.withRes0 (2 ^ 32)) (fun _ => rfl) hne).trans ((hothers _ hne).trans hy)

end

/-! ## ERASE_CONTROL (R127) -/

/-- The erase as explicitly suspended. -/
def Op.explicit (o : Op) : Op := { o with expl := true }

/-- The erase with the suspension asked by command `n`: it is the first to wait for the boundary, or waits with that one. -/
def Op.askSusp (n : Nat) (o : Op) : Op := if o.wantSusp.isSome then { o with wantAlso := o.wantAlso ++ [n] } else { o with wantSusp := some n }

/-- The erase with the resume asked by command `n`. -/
def Op.askResume (n : Nat) (o : Op) : Op := { o with expl := false, resume := true, wantRes := some n }

theorem Op.askSusp_id (n : Nat) (o : Op) : (o.askSusp n).id = o.id := by unfold Op.askSusp; split <;> rfl

theorem Op.askSusp_waits (n : Nat) (o : Op) : if o.wantSusp.isSome then n ∈ (o.askSusp n).wantAlso else (o.askSusp n).wantSusp = some n := by
  unfold Op.askSusp
  split
  · exact List.mem_append_right _ (List.mem_singleton_self n)
  · rfl

section
variable {s : State} {x : Slot} {o : Op}

theorem eraseSuspend_refused (h : eraseControlOk s x = false) : eraseSuspend s x = hit s x.id St.invalidState := by
  simp only [eraseSuspend, h]
  rfl

theorem eraseSuspend_at_once (h : eraseControlOk s x = true) (ho : s.runningErase (pDie x.entry.paddr) = some o) (hs : o.stage = .suspended ∧ o.resume = false) :
    eraseSuspend s x = controlDone (s.updOp o.id Op.explicit) x.id o := by
  obtain ⟨hstage, hres⟩ := hs
  simp only [eraseSuspend, h, if_true, ho, hstage, hres]
  rfl

theorem eraseSuspend_at_boundary (h : eraseControlOk s x = true) (ho : s.runningErase (pDie x.entry.paddr) = some o)
    (hs : ¬(o.stage = .suspended ∧ o.resume = false)) : eraseSuspend s x = s.updOp o.id (Op.askSusp x.id) := by
  have hno : (o.stage == .suspended && !o.resume) = false := by simpa using hs
  simp only [eraseSuspend, h, if_true, ho, hno]
  rfl

theorem eraseResume_eq (ho : s.explErase (pDie x.entry.paddr) = some o) : eraseResume s x = s.updOp o.id (Op.askResume x.id) := by
  simp only [eraseResume, ho]
  rfl

theorem eraseResume_none (ho : s.explErase (pDie x.entry.paddr) = none) : eraseResume s x = hit s x.id St.invalidState := by
  simp only [eraseResume, ho]

/-- The operation found is there as the change leaves it. -/
theorem mem_updOp_of_find {p : Op → Bool} (f : Op → Op) (h : s.ops.find? p = some o) : f o ∈ (s.updOp o.id f).ops :=
  mem_updBy (List.mem_of_find?_eq_some h) (beq_self_eq_true _)

end

/-- The command with its ERASE_CONTROL complete: RES0 names the erase acted on. -/
def Slot.controlled (v : Nat) (x : Slot) : Slot := { x with res0 := v, done := 1 }

theorem controlDone_eq (s : State) (n : Nat) (o : Op) : ∃ v, controlDone s n o = s.updSlot n (Slot.controlled v) := ⟨_, rfl⟩

section
variable {s : State} {n : Nat} {x : Slot} (h : Starting s n x Opc.eraseControl)
include h

theorem exec_eraseSuspend (hx : x.entry.xctl = 1) : exec (.eraseSuspend n) s = .next (after s (eraseSuspend (s.begun x) x.started)) :=
  run_startCmd h (fun e => e.xctl == 1) eraseSuspend (beq_iff_eq.2 hx)

theorem exec_eraseResume (hx : x.entry.xctl = 2) : exec (.eraseResume n) s = .next (after s (eraseResume (s.begun x) x.started)) :=
  run_startCmd h (fun e => e.xctl == 2) eraseResume (beq_iff_eq.2 hx)

theorem eraseSuspend_meets (hx : x.entry.xctl = 1) (hok : eraseControlOk s x = false) :
    ∃ t, exec (.eraseSuspend n) s = .next t ∧ t.met n St.invalidState := by
  have hrun := exec_eraseSuspend h hx
  rw [eraseSuspend_refused (s := s.begun x) (x := x.started) hok] at hrun
  exact ⟨_, hrun, (after_met ..).2 (h.met_hit _)⟩

/-- SUSPEND acts at once on an erase that reads have suspended, and waits for the boundary of one that runs. -/
theorem eraseSuspend_acts (hx : x.entry.xctl = 1) (hok : eraseControlOk s x = true) {o : Op} (ho : s.runningErase (pDie x.entry.paddr) = some o) :
    ∃ t z, exec (.eraseSuspend n) s = .next t ∧ t.slot n = some z ∧
    (o.stage = .suspended ∧ o.resume = false → z.done = 1 ∧ ∃ q ∈ t.ops, q.id = o.id ∧ q.expl = true) ∧
    (¬(o.stage = .suspended ∧ o.resume = false) → z = x.started ∧
      ∃ q ∈ t.ops, q.id = o.id ∧ (if o.wantSusp.isSome then n ∈ q.wantAlso else q.wantSusp = some n)) := by
  have hid : x.started.id = n := h.id
  have hrun := exec_eraseSuspend h hx
  by_cases hs : o.stage = .suspended ∧ o.resume = false
  · obtain ⟨v, hv⟩ := controlDone_eq ((s.begun x).updOp o.id Op.explicit) n o
    rw [eraseSuspend_at_once (s := s.begun x) (x := x.started) hok ho hs, hid, hv] at hrun
    refine ⟨_, x.started.controlled v, hrun, (after_slot ..).trans (State.slot_updSlot_self (Slot.controlled v) (fun _ => rfl) h.slot_begun),
      fun _ => ⟨rfl, o.explicit, ?_, rfl, rfl⟩, fun hno => absurd hs hno⟩
    rw [after_ops]
    exact mem_updOp_of_find Op.explicit ho
  · rw [eraseSuspend_at_boundary (s := s.begun x) (x := x.started) hok ho hs, hid] at hrun
    refine ⟨_, x.started, hrun, (after_slot ..).trans h.slot_begun, fun hyes => absurd hyes hs,
      fun _ => ⟨rfl, o.askSusp n, ?_, o.askSusp_id n, o.askSusp_waits n⟩⟩
    rw [after_ops]
    exact mem_updOp_of_find (Op.askSusp n) ho

theorem eraseResume_meets (hx : x.entry.xctl = 2) (ho : s.explErase (pDie x.entry.paddr) = none) :
    ∃ t, exec (.eraseResume n) s = .next t ∧ t.met n St.invalidState := by
  have hrun := exec_eraseResume h hx
  rw [eraseResume_none (s := s.begun x) (x := x.started) ho] at hrun
  exact ⟨_, hrun, (after_met ..).2 (h.met_hit _)⟩

theorem eraseResume_acts (hx : x.entry.xctl = 2) {o : Op} (ho : s.explErase (pDie x.entry.paddr) = some o) :
    ∃ t, exec (.eraseResume n) s = .next t ∧ ∃ q ∈ t.ops, q.id = o.id ∧ q.expl = false ∧ q.resume = true ∧ q.wantRes = some n := by
  have hid : x.started.id = n := h.id
  have hrun := exec_eraseResume h hx
  rw [eraseResume_eq (s := s.begun x) (x := x.started) ho, hid] at hrun
  refine ⟨_, hrun, o.askResume n, ?_, rfl, rfl, rfl, rfl⟩
  rw [after_ops]
  exact mem_updOp_of_find (Op.askResume n) ho

end

/-! ## SET_PATROL (R294) -/

/-- A step of the patrol leaves the rate of the forager. -/
def PatrolStep (s t : State) : Prop := t.build = s.build ∧ t.reg A.rlvFgRate = s.reg A.rlvFgRate

theorem PatrolStep.bump {s t : State} (h : PatrolStep s t) {a : Nat} (ha : A.rlvFgRate ≠ a) (n : Nat) : PatrolStep s (t.bump a n) := by
  obtain ⟨hb, hr⟩ := h
  exact ⟨hb, (State.reg_setRegN_ne _ _ ha).trans hr⟩

theorem PatrolStep.produce {s t : State} (h : PatrolStep s t) (p : Nat) : PatrolStep s (produce t p) := by
  obtain ⟨hb, hr⟩ := h
  obtain ⟨⟨_, _, _, _, _, he⟩, hreg, -⟩ := Fires.produce t p
  exact ⟨(congrArg State.build he).trans hb, (hreg _ (fun hx => absurd hx (by decide)) (by decide) (by decide)).trans hr⟩

theorem PatrolStep.passEnd {s t : State} (h : PatrolStep s t) : PatrolStep s (passEnd t) := by
  obtain ⟨hb, hr⟩ := h.bump (a := A.rlvFgPassCnt) (by decide) 1
  have hset : ∀ f, PatrolStep s ((t.bump A.rlvFgPassCnt).setFg f) := fun _ => ⟨hb, hr⟩
  unfold Machine.passEnd
  exact (hset _).produce 54

/-- The forager at the start of a pass over its list. -/
def Forager.begun (f : Forager) : Forager :=
  { f with run := true, waiting := false, pos := 0, passes := min (f.passes + 1) (2 ^ 32 - 1),
           at_ := f.dies.foldl (fun acc d => putBy Prod.fst (d, rangeFrom f.ranges 0 0 d, 0, 0) acc) [], pages := [] }

theorem passStart_of_page {s : State} (h : s.fg.dies.all s.fgChanBad = false) : passStart s = s.setFg s.fg.begun :=
  if_neg (Bool.eq_false_iff.1 h)

theorem PatrolStep.passStart (s : State) : PatrolStep s (passStart s) := by
  unfold Machine.passStart
  extract_lets f s1
  split
  · exact PatrolStep.passEnd (.bump (a := A.rlvFgSkipCnt) ⟨rfl, rfl⟩ (by decide) _)
  · exact ⟨rfl, rfl⟩

/-- The forager with its pass stopped. -/
def Forager.stopped (f : Forager) : Forager := { f with run := false, waiting := false, pages := [] }

/-- STOP and RATE of a SET_PATROL without a list. -/
def patrolSet (s : State) (e : Entry) : State :=
  let s1 := if bit e.xctl 17 then patrolStop s else s
  if e.x 0 16 = 0 then s1 else s1.setRegN A.rlvFgRate (e.x 0 16)

section
variable (s : State) (e : Entry)

theorem patrolSteps_none : patrolSteps s e none = if bit e.xctl 16 then patrolStart (patrolSet s e) else patrolSet s e := rfl

theorem patrolSet_fg : (patrolSet s e).fg = if bit e.xctl 17 then s.fg.stopped else s.fg := by
  unfold patrolSet
  split <;> split <;> rfl

theorem patrolSet_build : (patrolSet s e).build = s.build := by
  unfold patrolSet
  split <;> split <;> rfl

theorem patrolSet_chans : (patrolSet s e).chans = s.chans := by
  unfold patrolSet
  split <;> split <;> rfl

/-- STOP changes no register. -/
theorem patrolSet_reg (a : Nat) : (patrolSet s e).reg a = if e.x 0 16 = 0 then s.reg a else (s.setRegN A.rlvFgRate (e.x 0 16)).reg a := by
  unfold patrolSet
  split <;> split <;> rfl

theorem patrolSet_reg_ne {a : Nat} (ha : a ≠ A.rlvFgRate) : (patrolSet s e).reg a = s.reg a := by
  rw [patrolSet_reg]
  split
  · rfl
  · exact s.reg_setRegN_ne _ ha

theorem patrolSet_rate (h : e.x 0 16 ≠ 0) : (patrolSet s e).regN A.rlvFgRate = e.x 0 16 := by
  have hlt : e.x 0 16 < 2 ^ 16 := Nat.mod_lt _ (by decide)
  rw [State.regN, patrolSet_reg, if_neg h]
  exact (s.regN_setRegN_self ..).trans (Nat.mod_eq_of_lt (by omega))

theorem patrolSet_rate_kept (h : e.x 0 16 = 0) : (patrolSet s e).reg A.rlvFgRate = s.reg A.rlvFgRate := by
  rw [patrolSet_reg, if_pos h]

/-- The LUNs that the forager skips do not depend on its rate. -/
theorem patrolSet_fgChanBad (d : Nat) : (patrolSet s e).fgChanBad d = s.fgChanBad d := by
  have hlive : A.chCtl (dieCh d) ≠ A.rlvFgRate := by unfold A.chCtl A.ch A.rlvFgRate; omega
  have hgrp : A.wglGrpCtl ≠ A.rlvFgRate := by decide
  unfold State.fgChanBad State.live State.grpOn State.fldOf State.regN State.chan
  rw [patrolSet_reg_ne s e hlive, patrolSet_reg_ne s e hgrp, patrolSet_chans]

theorem patrolSteps_patrolStep : PatrolStep (patrolSet s e) (patrolSteps s e none) := by
  rw [patrolSteps_none]
  split
  · exact PatrolStep.passStart (fgDrop (patrolSet s e))
  · exact ⟨rfl, rfl⟩

/-- START begins a pass where a die of the list can be read. -/
theorem patrolStart_fg (h : s.fg.dies.all s.fgChanBad = false) : ∃ f : Forager, f.passes = s.fg.passes ∧ (patrolStart (patrolSet s e)).fg = f.begun := by
  have hdies : (patrolSet s e).fg.dies = s.fg.dies := by
    rw [patrolSet_fg]
    split <;> rfl
  have hpasses : (patrolSet s e).fg.passes = s.fg.passes := by
    rw [patrolSet_fg]
    split <;> rfl
  have hbad : (patrolSet s e).fgChanBad = s.fgChanBad := funext (patrolSet_fgChanBad s e)
  have hpage : (fgDrop (patrolSet s e)).fg.dies.all (fgDrop (patrolSet s e)).fgChanBad = false := by
    change (patrolSet s e).fg.dies.all (patrolSet s e).fgChanBad = false
    rw [hdies, hbad, h]
  exact ⟨(fgDrop (patrolSet s e)).fg, hpasses, congrArg State.fg (passStart_of_page hpage)⟩

end

section
variable {s : State} {n : Nat} {x : Slot} (h : Starting s n x Opc.setPatrol) (hc : x.entry.count = 0)
include h hc

theorem exec_setPatrol_steps : exec (.setPatrol n) s = .next (after s (patrolSteps (s.begun x) x.entry none)) := by
  refine (run_startCmd h (fun _ => true) _ rfl).trans ?_
  rw [if_pos (show x.started.entry.count = 0 from hc)]
  rfl

/-- SET_PATROL without a list: STOP, RATE and START in this order. -/
theorem setPatrol_acts : ∃ t, exec (.setPatrol n) s = .next t ∧
    (x.entry.x 0 16 ≠ 0 → t.regN A.rlvFgRate = x.entry.x 0 16) ∧ (x.entry.x 0 16 = 0 → t.reg A.rlvFgRate = s.reg A.rlvFgRate) ∧
    (bit x.entry.xctl 17 = true → bit x.entry.xctl 16 = false → t.fg = s.fg.stopped) ∧
    (bit x.entry.xctl 16 = true → s.fg.dies.all s.fgChanBad = false → ∃ f : Forager, f.passes = s.fg.passes ∧ t.fg = f.begun) ∧
    (bit x.entry.xctl 16 = false → bit x.entry.xctl 17 = false → t.fg = s.fg) := by
  obtain ⟨hbuild, hrate⟩ := patrolSteps_patrolStep (s.begun x) x.entry
  have hsteps := patrolSteps_none (s.begun x) x.entry
  have hset := patrolSet_fg (s.begun x) x.entry
  have hfg : ∀ u, (after s u).fg = u.fg := fun u => congrArg Rlv.fg (after_rlv ..)
  have hreg : (after s (patrolSteps (s.begun x) x.entry none)).reg A.rlvFgRate = (patrolSet (s.begun x) x.entry).reg A.rlvFgRate :=
    (after_reg (hbuild.trans (patrolSet_build ..)) (fun hx => absurd hx (by decide)) (by decide) (by decide)).trans hrate
  refine ⟨_, exec_setPatrol_steps h hc, fun hv => ?_, fun hv => ?_, fun h17 h16 => ?_, fun h16 hpage => ?_, fun h16 h17 => ?_⟩
  · rw [State.regN, hreg]
    exact patrolSet_rate (s.begun x) x.entry hv
  · rw [hreg]
    exact patrolSet_rate_kept (s.begun x) x.entry hv
  · rw [hfg, hsteps, h16, if_neg Bool.false_ne_true, hset, if_pos h17]
    rfl
  · rw [hfg, hsteps, if_pos h16]
    exact patrolStart_fg (s.begun x) x.entry hpage
  · rw [hfg, hsteps, h16, if_neg Bool.false_ne_true, hset, h17, if_neg Bool.false_ne_true]
    rfl

end

/-! ## SET_BUDGET (R168) -/

/-- The tests of R166 with the values of a SET_BUDGET. -/
def State.budgetFits (s : State) (e : Entry) : Bool :=
  reserveTest (s.reserveDies (e.x 0 3)) (newBudget e) (newCosts e) && writeTest (s.boundedWrites (e.x 0 3)) (newBudget e) (newCosts e)

/-- The block with both values of a SET_BUDGET loaded. -/
def State.withBudget (s : State) (e : Entry) : State :=
  (s.setReg (A.admRailBudget (e.x 0 3)) (newBudget e)).setReg (A.admRailCost (e.x 0 3)) (newCosts e)

theorem setBudget_fits {s : State} {x : Slot} (h : s.budgetFits x.entry = true) : setBudget s x = s.withBudget x.entry := if_pos h

theorem setBudget_refused {s : State} {x : Slot} (h : s.budgetFits x.entry = false) : setBudget s x = hit s x.id St.invalidState :=
  if_neg (Bool.eq_false_iff.1 h)

/-- A budget register lies outside the waggle fabric and its neighbours. -/
theorem after_reg_budget {s u : State} (hb : u.build = s.build) {g a : Nat} (hg : g < 8) (ha : a = A.admRailBudget g ∨ a = A.admRailCost g) :
    (after s u).reg a = u.reg a := by
  unfold A.admRailBudget A.admRailCost at ha
  have hpwr : a ≠ 0x000020 := by omega
  have hdrop : a ≠ 0x020034 := by omega
  exact after_reg hb (fun hx => absurd hx hpwr) hdrop (by omega)

theorem hit_reg (s : State) (n : Nat) (st : Status) (a : Nat) : (hit s n st).reg a = s.reg a := by
  obtain ⟨_, _, _, _, _, _, h, -⟩ := hit_eq s n st
  rw [h]
  rfl

theorem hit_build (s : State) (n : Nat) (st : Status) : (hit s n st).build = s.build := by
  obtain ⟨_, _, _, _, _, _, h, -⟩ := hit_eq s n st
  rw [h]

/-- SET_BUDGET takes both values or none. -/
theorem setBudget_acts {s : State} {n : Nat} {x : Slot} (h : Starting s n x Opc.setBudget) : ∃ t, exec (.setBudget n) s = .next t ∧
    (s.budgetFits x.entry = true → t.reg (A.admRailBudget (x.entry.x 0 3)) = newBudget x.entry ∧
      t.reg (A.admRailCost (x.entry.x 0 3)) = newCosts x.entry ∧ ¬t.met n St.invalidState) ∧
    (s.budgetFits x.entry = false → t.met n St.invalidState ∧ t.reg (A.admRailBudget (x.entry.x 0 3)) = s.reg (A.admRailBudget (x.entry.x 0 3)) ∧
      t.reg (A.admRailCost (x.entry.x 0 3)) = s.reg (A.admRailCost (x.entry.x 0 3))) := by
  have hg : x.entry.x 0 3 < 8 := Nat.mod_lt _ (by decide)
  have hrun : exec (.setBudget n) s = .next (after s (setBudget (s.begun x) x.started)) := run_startCmd h (fun _ => true) setBudget rfl
  cases hfit : s.budgetFits x.entry with
  | true =>
    rw [setBudget_fits (s := s.begun x) (x := x.started) hfit] at hrun
    have hb : ((s.begun x).withBudget x.started.entry).build = s.build := rfl
    refine ⟨_, hrun, fun _ => ⟨?_, ?_, ?_⟩, fun hf => absurd hf (by decide)⟩
    · rw [after_reg_budget hb hg (.inl rfl)]
      exact (State.reg_setReg_ne _ _ (by unfold A.admRailBudget A.admRailCost; omega)).trans (State.reg_setReg_self ..)
    · rw [after_reg_budget hb hg (.inr rfl)]
      exact State.reg_setReg_self ..
    · rintro ⟨z, hz, hmet⟩
      obtain rfl : z = x.started := Option.some.inj (((after_slot ..).symm.trans hz).symm.trans h.slot_begun)
      have hmet' : St.invalidState ∈ x.conds := hmet
      rw [starting_conds h] at hmet'
      exact List.not_mem_nil hmet'
  | false =>
    rw [setBudget_refused (s := s.begun x) (x := x.started) hfit] at hrun
    have hb : (hit (s.begun x) x.started.id St.invalidState).build = s.build := hit_build ..
    refine ⟨_, hrun, fun hf => absurd hf (by decide), fun _ => ⟨(after_met ..).2 (h.met_hit _), ?_, ?_⟩⟩
    · exact (after_reg_budget hb hg (.inl rfl)).trans (hit_reg ..)
    · exact (after_reg_budget hb hg (.inr rfl)).trans (hit_reg ..)

/-! ## The statement -/

/-- Settles O45: each of the four commands does its part at its start. -/
theorem abortEraseControlPatrolAndBudget : Obligations.AbortEraseControlPatrolAndBudget := by
  unfold Obligations.AbortEraseControlPatrolAndBudget
  intro s n x e
  refine ⟨fun h hp => ⟨fun hn => abort_none h hp hn, fun y hn hy => abort_one h hp hn hy, fun y _ hy => abortable_of_phase hy⟩,
    fun h hx => ⟨fun hok => eraseSuspend_meets h hx hok, fun hok o ho => eraseSuspend_acts h hx hok ho⟩,
    fun h hx => ⟨fun ho => eraseResume_meets h hx ho, fun o ho => eraseResume_acts h hx ho⟩, fun h hc => ?_, fun h => setBudget_acts h⟩
  obtain ⟨t, hrun, hrate, hkept, hstop, hstart, hnone⟩ := setPatrol_acts h hc
  refine ⟨t, hrun, hrate, hkept, fun h17 h16 => ?_, fun h16 hpage => ?_, hnone⟩
  · rw [hstop h17 h16]
    exact ⟨rfl, rfl, rfl⟩
  · obtain ⟨f, hf, hfg⟩ := hstart h16 hpage
    rw [hfg, ← hf]
    exact ⟨rfl, rfl, rfl, rfl⟩

end Sys2Proof.Machine
end

section
/-!
SUPPORT. Dispatch, suspension, resume and ageing (R127, R152 to R154, R161 to R163, R165 to R167, R297).
-/

namespace Sys2Proof.Machine

/-! ## An operation that changes of others leave -/

/-- An operation with `p` is there. -/
def HasOp (p : Op → Prop) (s : State) : Prop := ∃ y ∈ s.ops, p y

section
variable {p q : Op → Prop} {s t : State}

theorem HasOp.of_ops (h : HasOp p s) (ht : t.ops = s.ops) : HasOp p t := by
  obtain ⟨y, hy, hp⟩ := h
  exact ⟨y, ht ▸ hy, hp⟩

/-- An update of any operation keeps what it does not touch. -/
theorem HasOp.updOp (h : HasOp p s) (n : Nat) {f : Op → Op} (hf : ∀ y, p y → p (f y)) : HasOp p (s.updOp n f) := by
  obtain ⟨y, hy, hp⟩ := h
  refine ⟨_, List.mem_map_of_mem hy, ?_⟩
  split
  · exact hf y hp
  · exact hp

theorem hasOp_updOp_self {o : Op} {f : Op → Op} (h : o ∈ s.ops) (hp : p (f o)) : HasOp p (s.updOp o.id f) :=
  ⟨f o, mem_updBy h (beq_self_eq_true _), hp⟩

theorem hasOp_after : HasOp p (after s t) ↔ HasOp p t := by rw [HasOp, HasOp, after_ops]

theorem hasOp_queued {d : Nat} {o : Op} {l : List Op} (h : s.queuedAt d = o :: l) : o ∈ s.ops ∧ o.die = d ∧ o.stage = .queued := by
  have hmem : o ∈ s.queuedAt d := h ▸ List.mem_cons_self
  obtain ⟨hops, hp⟩ := List.mem_filter.1 hmem
  rw [Bool.and_eq_true, beq_iff_eq, beq_iff_eq] at hp
  exact ⟨hops, hp.1, hp.2⟩

end

/-! ## Dispatch (R152, R165 to R167) -/

/-- The operation with its array cost drawn, on its way to the die. -/
def Op.sentWith (cost : Nat) (o y : Op) : Prop := y.id = o.id ∧ y.stage = .dispatched ∧ y.tokens = cost ∧ y.rsv = o.fromReserve

section
variable {s t : State} {o : Op} {c : Nat}

/-- What a read applies does not change that it is dispatched. -/
theorem HasOp.applyRead (h : HasOp (o.sentWith c) s) (r : Op) : HasOp (o.sentWith c) (applyRead s r) := by
  unfold Machine.applyRead
  split
  · have hoffs := h.updOp r.id (f := fun y => { y with offs := (s.readOffs r).1, feat := s.featsDue r.die (s.readOffs r).1 }) fun _ hy => hy
    split
    · exact hoffs.of_ops rfl
    · exact hoffs.of_ops rfl
  · exact h

theorem HasOp.fgMark (h : HasOp (o.sentWith c) s) (r : Op) : HasOp (o.sentWith c) (fgMark s r) := by
  unfold Machine.fgMark
  split
  · exact h.of_ops rfl
  · exact h

theorem dispatchOp_sent (h : o ∈ s.ops) : HasOp (o.sentWith (s.arrayCost o)) (dispatchOp s o) := by
  have hfirst : HasOp (o.sentWith (s.arrayCost o)) (s.updOp o.id fun y => { y with stage := .dispatched, tokens := s.arrayCost o, rsv := o.fromReserve }) :=
    hasOp_updOp_self h ⟨rfl, rfl, rfl, rfl⟩
  unfold dispatchOp
  extract_lets s1 s2 s3 x
  have hreads : HasOp (o.sentWith (s.arrayCost o)) s2 := by
    unfold s2
    split
    · exact hfirst.updOp _ fun _ hy => hy
    · exact hfirst
  have hoffs : HasOp (o.sentWith (s.arrayCost o)) s3 := by
    unfold s3
    split
    · exact hreads.of_ops rfl
    · exact hreads
  exact ((hoffs.applyRead o).fgMark o).of_ops rfl

theorem startCtx_spec (s : State) (o : Op) : (s.startCtx o).id = dieCtx o.die ∧ (s.startCtx o).op = some o.id ∧ (s.startCtx o).ready = true := by
  unfold State.startCtx
  split
  · split
    · exact ⟨rfl, rfl, rfl⟩
    · exact ⟨rfl, rfl, rfl⟩
  · exact ⟨rfl, rfl, rfl⟩

/-- But for a DIE_RAW the context starts the routine of the operation. -/
theorem startCtx_pc {x : Slot} (h : s.opSlot o = some x) (hx : x.entry.opc ≠ Opc.dieRaw) :
    (s.startCtx o).pc = Config.romStart (routineOf o x.entry.opc) := by
  have hno : (x.entry.opc == Opc.dieRaw) = false := beq_eq_false_iff_ne.2 hx
  simp only [State.startCtx, h, hno]
  rfl

/-- A context put in its channel is the one found there. -/
theorem ctx_updChan_put (s : State) (ch : Nat) (x : Ctx) :
    ((s.updChan ch fun c => { c with ctxs := putBy Ctx.id x c.ctxs }).chan ch).ctx x.id = some x := by
  rw [s.chan_updChan_self ch (fun c => { c with ctxs := putBy Ctx.id x c.ctxs }) fun _ => rfl]
  exact getBy_putBy_self ..

theorem dispatchOp_ctx (s : State) (o : Op) : ((dispatchOp s o).chan (dieCh o.die)).ctx (dieCtx o.die) = some (s.startCtx o) := by
  obtain ⟨hid, -⟩ := startCtx_spec s o
  unfold dispatchOp
  rw [← hid]
  exact ctx_updChan_put ..

/-- The operation as one that waits for its tokens. -/
def Op.waiting (o : Op) : Op := { o with waited := true }

/-- The command as one with an operation that waits for tokens. -/
def Slot.marked (x : Slot) : Slot := { x with throttled := true }

/-- An operation that waits for its tokens is counted once and marks its command (R167). -/
theorem throttle_first {n : Nat} (hw : o.waited = false) (hn : o.slotOf = some n) :
    throttle s o = ((s.updOp o.id Op.waiting).bump (A.admThrottleCnt (s.rail o.die))).updSlot n Slot.marked := by
  unfold throttle
  rw [hw, hn]
  rfl

end

section
variable {s : State} {d : Nat} {o : Op} {l : List Op}

theorem dispatch_cons (hheld : s.dispatchHeld d = false) (hs : s.smoking = false) (hq : s.queuedAt d = o :: l) : dispatch s d = dispatchWalk s d (o :: l) := by
  have hall : (fun o : Op => !s.smoking || o.kind == .lineWrite) = fun _ => true := by
    rw [hs]
    rfl
  rw [dispatch, if_neg (Bool.eq_false_iff.1 hheld), hall, List.filter_true, hq]

theorem walk_bad {n : Nat} (hb : s.dispatchBad o = true) (hn : o.slotOf = some n) : dispatchWalk s d (o :: l) = hit s n St.invalidState := by
  rw [dispatchWalk, if_pos hb, hn]

theorem walk_skip (hb : s.dispatchBad o = false) (hf : (o.fgFirst && (s.fgChanBad d || (s.canRun o && s.fgBlockBad o.paddr))) = true) :
    dispatchWalk s d (o :: l) = fgSkipOp s o := by
  rw [dispatchWalk, if_neg (Bool.eq_false_iff.1 hb), if_pos hf]

theorem walk_sends (hb : s.dispatchBad o = false) (hf : (o.fgFirst && (s.fgChanBad d || (s.canRun o && s.fgBlockBad o.paddr))) = false) (hr : s.canRun o = true)
    (ht : (s.canDraw (s.rail d) o.fromReserve (s.arrayCost o) && (o.fromReserve || !s.tokenBehind o)) = true) :
    dispatchWalk s d (o :: l) = dispatchOp s o := by
  rw [dispatchWalk, if_neg (Bool.eq_false_iff.1 hb), if_neg (Bool.eq_false_iff.1 hf), if_pos hr]
  exact if_pos ht

theorem walk_waits (hb : s.dispatchBad o = false) (hf : o.fgFirst = false) (hr : s.canRun o = true)
    (ht : s.canDraw (s.rail d) o.fromReserve (s.arrayCost o) = false) (hs : s.suspendedAt d = none) : dispatchWalk s d (o :: l) = throttle s o := by
  rw [dispatchWalk, if_neg (Bool.eq_false_iff.1 hb), hf, Bool.false_and, if_neg Bool.false_ne_true, if_pos hr]
  simp only [ht, Bool.false_and, hs]
  rfl

end

/-! ## The frame of each command -/

section
variable {s : State} {d : Nat} (hh : s.held = false) (hd : d < 2048)
include hh hd

theorem exec_dispatch : exec (.dispatch d) s = .next (after s (dispatch s d)) :=
  run_of_ok (fun s => dispatch s d) (decide_eq_true hd) hh
theorem exec_suspension : exec (.suspension d) s = .next (after s (suspension s d)) :=
  run_of_ok (fun s => suspension s d) (decide_eq_true hd) hh

/-- A suspension with no ground leaves the block. -/
theorem suspension_idle (h : suspension s d = s) : ∃ t, exec (.suspension d) s = .next t ∧ Around s t := by
  have hrun := exec_suspension hh hd
  rw [h] at hrun
  exact ⟨_, hrun, around_after rfl rfl⟩

theorem dispatch_held (h : s.dispatchHeld d = true) : ∃ t, exec (.dispatch d) s = .next t ∧ Around s t := by
  have hrun := exec_dispatch hh hd
  rw [dispatch, if_pos h] at hrun
  exact ⟨_, hrun, around_after rfl rfl⟩

section
variable {o : Op} {l : List Op} (hno : s.dispatchHeld d = false) (hs : s.smoking = false) (hq : s.queuedAt d = o :: l)
include hno hs hq

theorem dispatch_sends (hb : s.dispatchBad o = false) (hf : (o.fgFirst && (s.fgChanBad d || s.fgBlockBad o.paddr)) = false) (hr : s.canRun o = true)
    (hdraw : s.canDraw (s.rail d) o.fromReserve (s.arrayCost o) = true) (hrank : (o.fromReserve || !s.tokenBehind o) = true) :
    ∃ t c, exec (.dispatch d) s = .next t ∧ (∃ y ∈ t.ops, y.id = o.id ∧ y.stage = .dispatched ∧ y.tokens = s.arrayCost o ∧ y.rsv = o.fromReserve) ∧
      (t.chan (dieCh d)).ctx (dieCtx d) = some c ∧ c.op = some o.id ∧ c.ready = true ∧
      (∀ x, s.opSlot o = some x → x.entry.opc ≠ Opc.dieRaw → c.pc = Config.romStart (routineOf o x.entry.opc)) := by
  obtain ⟨hmem, rfl, -⟩ := hasOp_queued hq
  obtain ⟨-, hop, hready⟩ := startCtx_spec s o
  have hrun := exec_dispatch hh hd
  rw [dispatch_cons hno hs hq, walk_sends hb (by rw [hr, Bool.true_and]; exact hf) hr (by rw [hdraw, hrank]; rfl)] at hrun
  refine ⟨_, _, hrun, hasOp_after.2 (dispatchOp_sent hmem), ?_, hop, hready, fun x hx hraw => startCtx_pc hx hraw⟩
  rw [after_chan]
  exact dispatchOp_ctx s o

theorem dispatch_waits {n : Nat} {x : Slot} (hb : s.dispatchBad o = false) (hf : o.fgFirst = false) (hr : s.canRun o = true)
    (ht : s.canDraw (s.rail d) o.fromReserve (s.arrayCost o) = false) (hsus : s.suspendedAt d = none) (hw : o.waited = false) (hn : o.slotOf = some n)
    (hx : s.slot n = some x) : ∃ t, exec (.dispatch d) s = .next t ∧ t.slot n = some { x with throttled := true } ∧
      t.regN (A.admThrottleCnt (s.rail d)) = min (s.regN (A.admThrottleCnt (s.rail d)) + 1) (2 ^ 32 - 1) ∧
      ∃ y ∈ t.ops, y.id = o.id ∧ y.waited = true ∧ y.stage = .queued := by
  obtain ⟨hmem, rfl, hstage⟩ := hasOp_queued hq
  have hrun := exec_dispatch hh hd
  rw [dispatch_cons hno hs hq, walk_waits hb hf hr ht hsus, throttle_first hw hn] at hrun
  have hrail : s.rail o.die < 8 := Nat.mod_lt _ (by decide)
  have hpwr : A.admThrottleCnt (s.rail o.die) ≠ 0x000020 := by unfold A.admThrottleCnt; omega
  have hdrop : A.admThrottleCnt (s.rail o.die) ≠ 0x020034 := by unfold A.admThrottleCnt; omega
  have hlow : A.admThrottleCnt (s.rail o.die) < 0x050000 := by unfold A.admThrottleCnt; omega
  refine ⟨_, hrun, ?_, ?_, hasOp_after.2 ?_⟩
  · exact (after_slot ..).trans (State.slot_updSlot_self Slot.marked (fun _ => rfl) hx)
  · exact (after_regN rfl hpwr hdrop (.inl hlow)).trans ((s.updOp o.id Op.waiting).regN_bump (A.admThrottleCnt (s.rail o.die)) 1)
  · exact (hasOp_updOp_self (p := fun y => y.id = o.id ∧ y.waited = true ∧ y.stage = .queued) (f := Op.waiting) hmem ⟨rfl, rfl, hstage⟩).of_ops rfl

theorem dispatch_fails {n : Nat} {x : Slot} (hb : s.dispatchBad o = true) (hn : o.slotOf = some n) (hx : s.slot n = some x) (hp : x.phase = .running)
    (hr : x.reject = none) : ∃ t, exec (.dispatch d) s = .next t ∧ t.met n St.invalidState := by
  have hrun := exec_dispatch hh hd
  rw [dispatch_cons hno hs hq, walk_bad hb hn] at hrun
  exact ⟨_, hrun, (after_met ..).2 (met_hit _ hx hp hr)⟩

end

end

/-! ## A patrol page that is skipped (R297) -/

theorem produce_frame (s : State) (p : Nat) : (produce s p).ops = s.ops ∧ (produce s p).slots = s.slots := by
  obtain ⟨⟨_, _, _, _, _, h⟩, -⟩ := Fires.produce s p
  rw [h]
  exact ⟨rfl, rfl⟩

theorem passEnd_frame (s : State) : (passEnd s).ops = s.ops ∧ (passEnd s).slots = s.slots := by
  unfold passEnd
  exact produce_frame _ 54

theorem fgCheckEnd_frame (s : State) : (fgCheckEnd s).ops = s.ops ∧ (fgCheckEnd s).slots = s.slots := by
  unfold fgCheckEnd
  extract_lets f
  split
  · exact passEnd_frame s
  · exact ⟨rfl, rfl⟩

theorem fgSkipOp_frame (s : State) (o : Op) : (fgSkipOp s o).ops = s.ops.filter (fun y => y.id != o.id) ∧ (fgSkipOp s o).slots = s.slots :=
  fgCheckEnd_frame _

section
variable {s : State} {d : Nat} {o : Op} {l : List Op} (hh : s.held = false) (hd : d < 2048) (hno : s.dispatchHeld d = false) (hs : s.smoking = false)
  (hq : s.queuedAt d = o :: l)
include hh hd hno hs hq

theorem dispatch_skips (hb : s.dispatchBad o = false) (hf : o.fgFirst = true) (hr : s.canRun o = true) (hblk : s.fgBlockBad o.paddr = true) :
    ∃ t, exec (.dispatch d) s = .next t ∧ (∀ y ∈ t.ops, y.id ≠ o.id) ∧ t.slots = s.slots := by
  have hrun := exec_dispatch hh hd
  rw [dispatch_cons hno hs hq, walk_skip hb (by rw [hf, hr, hblk, Bool.true_and, Bool.true_and, Bool.or_true])] at hrun
  obtain ⟨hops, hslots⟩ := fgSkipOp_frame s o
  refine ⟨_, hrun, fun y hy => ?_, (after_slots ..).trans hslots⟩
  rw [after_ops, hops] at hy
  exact bne_iff_ne.1 (List.mem_filter.1 hy).2

end

/-! ## Suspension (R127, R161) -/

/-- The operation as a suspension leaves it. -/
def State.paused (s : State) (expl : Bool) (y : Op) : Op :=
  { y with stage := .suspended, susp := y.susp + 1, suspReads := 0, suspSeq := s.adms, expl := expl, wantSusp := none, wantAlso := [],
           spent := y.spent + (s.aclk - y.ran) }

/-- `y` is operation `o` suspended once more, with the tokens it holds. -/
def Op.heldBack (expl : Bool) (o y : Op) : Prop := y.id = o.id ∧ y.stage = .suspended ∧ y.susp = o.susp + 1 ∧ y.expl = expl ∧ y.tokens = o.tokens

section
variable {s : State} {o : Op} {d : Nat}

theorem victim_mem (h : s.victim d = some o) : o ∈ s.ops ∧ o.die = d := by
  rw [State.victim, Option.filter_eq_some_iff] at h
  have hp := List.find?_some h.1
  simp only [Bool.and_eq_true, beq_iff_eq] at hp
  exact ⟨List.mem_of_find?_eq_some h.1, hp.1.1⟩

/-- A channel without context `k`. -/
def Chan.without (k : Nat) (c : Chan) : Chan :=
  { c with ctxs := delBy Ctx.id k c.ctxs, run := if c.run = some k then none else c.run, ceLow := if c.run = some k ∨ c.ceBy = k then none else c.ceLow }

theorem dropCtx_ctx (s : State) (ch k : Nat) : ((dropCtx s ch k).chan ch).ctx k = none := by
  have hchan : (dropCtx s ch k).chan ch = (s.chan ch).without k := s.chan_updChan_self ch (Chan.without k) fun _ => rfl
  rw [hchan]
  exact getBy_delBy_self ..

theorem suspendOp_spec (hmem : o ∈ s.ops) (expl : Bool) : HasOp (o.heldBack expl) (suspendOp s o expl) ∧ (suspendOp s o expl).slots = s.slots ∧
    ((suspendOp s o expl).chan (dieCh o.die)).ctx (dieCtx o.die) = none := by
  have hops : o ∈ (dropCtx s (dieCh o.die) (dieCtx o.die)).ops := hmem
  exact ⟨hasOp_updOp_self (f := s.paused expl) hops ⟨rfl, rfl, rfl, rfl, rfl⟩, rfl, dropCtx_ctx s (dieCh o.die) (dieCtx o.die)⟩

/-- The read that suspends belongs to a command there. -/
theorem suspender_slot {x : Slot} (h : s.suspender d = some x) : s.slot x.id = some x := by
  unfold State.suspender at h
  split at h
  next r hr =>
    split at h
    · rw [Option.filter_eq_some_iff, State.opSlot, Option.bind_eq_some_iff] at h
      obtain ⟨⟨n, -, hn⟩, -⟩ := h
      rw [show x.id = n from getBy_key hn]
      exact hn
    · cases h
  · cases h

theorem controlDone_slot {n k : Nat} {z : Slot} (h : s.slot k = some z) (hk : k = n ∨ z.done = 1) :
    ∃ y, (controlDone s n o).slot k = some y ∧ y.done = 1 := by
  obtain ⟨v, hv⟩ := controlDone_eq s n o
  rw [hv]
  by_cases he : k = n
  · rw [he] at h ⊢
    exact ⟨_, State.slot_updSlot_self (Slot.controlled v) (fun _ => rfl) h, rfl⟩
  · exact ⟨z, (State.slot_updSlot_ne _ (Slot.controlled v) (fun _ => rfl) he).trans h, hk.resolve_left he⟩

/-- Each ERASE_CONTROL of a list completes. -/
theorem controlDone_each (l : List Nat) {k : Nat} {z : Slot} (h : s.slot k = some z) (hk : k ∈ l ∨ z.done = 1) :
    ∃ y, (s.each l fun st n => controlDone st n o).slot k = some y ∧ y.done = 1 := by
  induction l generalizing s z with
  | nil => exact ⟨z, h, hk.resolve_left List.not_mem_nil⟩
  | cons n l ih =>
    by_cases hn : k = n ∨ z.done = 1
    · obtain ⟨y, hy, hdone⟩ := controlDone_slot (o := o) h hn
      exact ih hy (.inr hdone)
    · rw [not_or] at hn
      obtain ⟨v, hv⟩ := controlDone_eq s n o
      have hslot : (controlDone s n o).slot k = some z := by
        rw [hv]
        exact (State.slot_updSlot_ne _ (Slot.controlled v) (fun _ => rfl) hn.1).trans h
      exact ih hslot (.inl ((List.mem_cons.1 (hk.resolve_right hn.2)).resolve_left hn.1))

theorem controlDone_each_frame (l : List Nat) : (s.each l fun st n => controlDone st n o).ops = s.ops ∧
    (s.each l fun st n => controlDone st n o).chans = s.chans := by
  induction l generalizing s with
  | nil => exact ⟨rfl, rfl⟩
  | cons n l ih => exact ih (s := controlDone s n o)

theorem suspension_no_switch (h : s.switchPoint (dieCh d) = false) : suspension s d = s := by
  unfold suspension
  split
  · rfl
  · rw [h, Bool.not_false, Bool.or_true, if_pos rfl]

section
variable (hs : s.smoking = false) (hsw : s.switchPoint (dieCh d) = true) (hv : s.victim d = some o)
include hs hsw hv

theorem suspension_asked {n : Nat} (hn : o.wantSusp = some n) :
    suspension s d = (suspendOp s o true).each (n :: o.wantAlso) fun st k => controlDone st k o := by
  simp only [suspension, hv, hs, hsw, hn]
  rfl

variable {x : Slot} {r : Op} (hn : o.wantSusp = none) (hx : s.suspender d = some x) (hr : (s.queuedAt d).head? = some r)
include hn hx hr

theorem suspension_for_read : suspension s d = if s.maySuspend o x && !s.outrankedAt (dieCh d) r then
    (suspendOp s o false).updSlot x.id fun y => { y with suspOth := true } else s := by
  simp only [suspension, hv, hs, hsw, hn, hx, hr]
  rfl

end

variable (hh : s.held = false) (hd : d < 2048) (hs : s.smoking = false) (hsw : s.switchPoint (dieCh d) = true) (hv : s.victim d = some o)
include hh hd hs hsw hv

theorem suspends_for_control {n : Nat} (hn : o.wantSusp = some n) : ∃ t, exec (.suspension d) s = .next t ∧
    (∀ k ∈ n :: o.wantAlso, (s.slot k).isSome = true → ∃ z, t.slot k = some z ∧ z.done = 1) ∧ (t.chan (dieCh d)).ctx (dieCtx d) = none ∧
    ∃ y ∈ t.ops, y.id = o.id ∧ y.stage = .suspended ∧ y.susp = o.susp + 1 ∧ y.expl = true ∧ y.tokens = o.tokens := by
  obtain ⟨hmem, rfl⟩ := victim_mem hv
  obtain ⟨hop, hslots, hctx⟩ := suspendOp_spec hmem true
  obtain ⟨hops, hchans⟩ := controlDone_each_frame (s := suspendOp s o true) (o := o) (n :: o.wantAlso)
  have hrun := exec_suspension hh hd
  rw [suspension_asked hs hsw hv hn] at hrun
  refine ⟨_, hrun, fun k hk hsome => ?_, ?_, hasOp_after.2 (hop.of_ops hops)⟩
  · obtain ⟨z, hz⟩ := Option.isSome_iff_exists.1 hsome
    rw [after_slot]
    exact controlDone_each _ ((congrArg (getBy Slot.id k) hslots).trans hz) (.inl hk)
  · rw [after_chan, State.chan, hchans]
    exact hctx

variable {x : Slot} {r : Op} (hn : o.wantSusp = none) (hx : s.suspender d = some x) (hr : (s.queuedAt d).head? = some r)
include hn hx hr

theorem suspends_for_read (hmay : s.maySuspend o x = true) (hrank : s.outrankedAt (dieCh d) r = false) : ∃ t z, exec (.suspension d) s = .next t ∧
    t.slot x.id = some z ∧ z.suspOth = true ∧ (t.chan (dieCh d)).ctx (dieCtx d) = none ∧
    ∃ y ∈ t.ops, y.id = o.id ∧ y.stage = .suspended ∧ y.susp = o.susp + 1 ∧ y.expl = false ∧ y.tokens = o.tokens := by
  have hslot := suspender_slot hx
  have heq := suspension_for_read hs hsw hv hn hx hr
  rw [hmay, hrank, Bool.not_false, Bool.and_true, if_pos rfl] at heq
  obtain ⟨hmem, rfl⟩ := victim_mem hv
  obtain ⟨hop, hslots, hctx⟩ := suspendOp_spec hmem false
  have hrun := exec_suspension hh hd
  rw [heq] at hrun
  refine ⟨_, { x with suspOth := true }, hrun, ?_, rfl, ?_, hasOp_after.2 (hop.of_ops rfl)⟩
  · exact (after_slot ..).trans (State.slot_updSlot_self (fun y => { y with suspOth := true }) (fun _ => rfl)
      ((congrArg (getBy Slot.id x.id) hslots).trans hslot))
  · rw [after_chan]
    exact hctx

theorem suspension_waits (h : s.maySuspend o x = false ∨ s.outrankedAt (dieCh d) r = true) : ∃ t, exec (.suspension d) s = .next t ∧ Around s t := by
  refine suspension_idle hh hd ((suspension_for_read hs hsw hv hn hx hr).trans (if_neg ?_))
  obtain h | h := h <;> simp [h]

end

/-! ## Resume (R162) -/

/-- The operation as its resume is sent. -/
def State.resumed (s : State) (y : Op) : Op := { y with stage := .confirmed, ran := s.aclk, expl := false, resume := false, wantRes := none }

/-- The context of a resume: it ranks first. -/
def Op.resumeCtx (o : Op) : Ctx := { mkCtx (dieCtx o.die) (Config.romStart 8) o.id with urgent := true }

/-- The block with the resume of an operation sent. -/
def State.resuming (s : State) (o : Op) : State :=
  (s.updOp o.id s.resumed).updChan (dieCh o.die) fun c => { c with ctxs := putBy Ctx.id o.resumeCtx c.ctxs }

theorem resumeOp_frame (s : State) (o : Op) : (resumeOp s o).ops = (s.resuming o).ops ∧ (resumeOp s o).chans = (s.resuming o).chans := by
  unfold resumeOp
  extract_lets ch x s1
  split
  · exact ⟨rfl, rfl⟩
  · exact ⟨rfl, rfl⟩

section
variable {s : State} {d : Nat} {o : Op} (hh : s.held = false) (hd : d < 2048)
include hh hd

theorem resume_no_switch (h : s.switchPoint (dieCh d) = false) : ∃ t, exec (.suspensionResume d) s = .next t ∧ Around s t := by
  refine ⟨after s s, ?_, around_after rfl rfl⟩
  change execSuspensionResume d s = _
  unfold execSuspensionResume
  rw [run_of_ok _ (decide_eq_true hd) hh]
  simp only [h, Bool.and_false]
  cases s.suspendedAt d <;> rfl

variable (ho : s.suspendedAt d = some o)
include ho

theorem exec_suspensionResume : exec (.suspensionResume d) s = .next (after s
    (if s.resumeDue o && ((s.chan (dieCh d)).ctx (dieCtx d)).isNone && s.switchPoint (dieCh d) then resumeOp s o else s)) := by
  change execSuspensionResume d s = _
  unfold execSuspensionResume
  rw [run_of_ok _ (decide_eq_true hd) hh]
  simp only [ho]

theorem resume_waits (hdue : s.resumeDue o = false) : ∃ t, exec (.suspensionResume d) s = .next t ∧ Around s t := by
  have hrun := exec_suspensionResume hh hd ho
  rw [hdue, Bool.false_and, Bool.false_and, if_neg Bool.false_ne_true] at hrun
  exact ⟨_, hrun, around_after rfl rfl⟩

theorem resumes (hdue : s.resumeDue o = true) (hsw : s.switchPoint (dieCh d) = true) (hc : (s.chan (dieCh d)).ctx (dieCtx d) = none) :
    ∃ t c, exec (.suspensionResume d) s = .next t ∧
      (t.chan (dieCh d)).ctx (dieCtx d) = some c ∧ c.urgent = true ∧ c.ready = true ∧ c.pc = Config.romStart 8 ∧ c.op = some o.id ∧
      ∃ y ∈ t.ops, y.id = o.id ∧ y.stage = .confirmed ∧ y.ran = s.aclk ∧ y.expl = false ∧ y.resume = false := by
  have hrun := exec_suspensionResume hh hd ho
  rw [if_pos (by rw [hdue, hsw, hc]; rfl)] at hrun
  have hmem := List.mem_of_find?_eq_some ho
  obtain rfl : o.die = d := by
    have hp := List.find?_some ho
    rw [Bool.and_eq_true, beq_iff_eq] at hp
    exact hp.1
  obtain ⟨hops, hchans⟩ := resumeOp_frame s o
  refine ⟨_, o.resumeCtx, hrun, ?_, rfl, rfl, rfl, rfl, hasOp_after.2 (HasOp.of_ops ?_ hops)⟩
  · rw [after_chan, State.chan, hchans]
    exact ctx_updChan_put (s.updOp o.id s.resumed) (dieCh o.die) o.resumeCtx
  · exact (hasOp_updOp_self (f := s.resumed) hmem ⟨rfl, rfl, rfl, rfl, rfl⟩).of_ops rfl

end

/-! ## Ageing (R154) -/

section
variable {s : State} {k : Nat} {o : Op} {x : Slot} (hh : s.held = false) (ho : s.op k = some o) (hx : s.opSlot o = some x)
include hh ho hx

theorem exec_bulkAgeing : exec (.bulkAgeing k) s = .next (after s
    (if o.stage == .queued && o.cls == 7 && o.kind != .exclusive && x.samp.age != 0 && decide (x.samp.age ≤ s.aclk - o.placed) then
      s.updOp k fun y => { y with aged := true } else s)) := by
  change execBulkAgeing k s = _
  unfold execBulkAgeing
  rw [run_of_ok _ rfl hh]
  simp only [ho, hx]

theorem bulkAgeing_ages (hs : o.stage = .queued) (hc : o.cls = 7) (hk : o.kind ≠ .exclusive) (ha : x.samp.age ≠ 0)
    (hw : x.samp.age ≤ s.aclk - o.placed) : ∃ t, exec (.bulkAgeing k) s = .next t ∧ t.op k = some { o with aged := true } := by
  have hrun := exec_bulkAgeing hh ho hx
  rw [if_pos (by simp [hs, hc, hk, ha, hw])] at hrun
  refine ⟨_, hrun, ?_⟩
  rw [State.op, after_ops]
  exact State.op_updOp_self (fun y => { y with aged := true }) (fun _ => rfl) ho

theorem bulkAgeing_idle (h : x.samp.age = 0 ∨ o.cls ≠ 7 ∨ o.kind = .exclusive ∨ o.stage ≠ .queued) :
    ∃ t, exec (.bulkAgeing k) s = .next t ∧ Around s t := by
  have hrun := exec_bulkAgeing hh ho hx
  rw [if_neg (by obtain h | h | h | h := h <;> simp [h])] at hrun
  exact ⟨_, hrun, around_after rfl rfl⟩

end

/-! ## The statement -/

/-- Settles O47: what the first operation of a die meets at its dispatch, and the steps of a suspension, a resume and ageing. -/
theorem dispatchSuspendResumeAndAge : Obligations.DispatchSuspendResumeAndAge := by
  unfold Obligations.DispatchSuspendResumeAndAge
  intro s d hh hd
  refine ⟨fun h => dispatch_held hh hd h, fun o l hno hs hq => ⟨?_, ?_, ?_, ?_⟩,
    fun hsw => ⟨suspension_idle hh hd (suspension_no_switch hsw), resume_no_switch hh hd hsw⟩, fun o hs hsw hv => ⟨?_, fun x r hn hx hr => ⟨?_, ?_⟩⟩,
    fun o ho => ⟨?_, ?_⟩, fun k o x ho hx => ⟨?_, ?_⟩⟩
  · exact fun hb hf hr hdraw hrank => dispatch_sends hh hd hno hs hq hb hf hr hdraw hrank
  · exact fun hb hf hr hblk => dispatch_skips hh hd hno hs hq hb hf hr hblk
  · exact fun n x hb hf hr ht hsus hw hn hx => dispatch_waits hh hd hno hs hq hb hf hr ht hsus hw hn hx
  · exact fun n x hb hn hx hp hr => dispatch_fails hh hd hno hs hq hb hn hx hp hr
  · exact fun n x hn _ => suspends_for_control hh hd hs hsw hv hn
  · exact fun hmay hrank => suspends_for_read hh hd hs hsw hv hn hx hr hmay hrank
  · exact fun h => suspension_waits hh hd hs hsw hv hn hx hr h
  · exact fun hdue hsw hc => resumes hh hd ho hdue hsw hc
  · exact fun hdue => resume_waits hh hd ho hdue
  · exact fun hs hc hk ha hw => bulkAgeing_ages hh ho hx hs hc hk ha hw
  · exact fun h => bulkAgeing_idle hh ho hx h

end Sys2Proof.Machine
end

section
/-!
SUPPORT. The channel operations (R206 to R208, R211): their bus sequence, and how each of them ends.
-/

namespace Sys2Proof.Machine

/-! ## One channel among the others -/

/-- A register of a channel is as the command's effect left it. -/
theorem after_reg_channel {s t : State} {a : Nat} (hb : t.build = s.build) (ha : 0x100000 ≤ a) : (after s t).reg a = t.reg a :=
  after_reg hb (fun h => by unfold A.glbPwrCtl at h; omega) (by unfold A.hqArDropCnt; omega) (.inr (by omega))

@[simp] theorem State.useFree_chan (s : State) (n ch : Nat) : (s.useFree n).chan ch = s.chan ch := rfl

theorem forgetOffs_chan (s : State) (p : Nat → Bool) (ch : Nat) : (forgetOffs s p).chan ch = s.chan ch := rfl

/-- Channel updates that go over a list of channels change each of them once. -/
theorem each_chan {f : State → Nat → State} {g : Chan → Chan} (hself : ∀ s c, (f s c).chan c = g (s.chan c))
    (hne : ∀ s c d, d ≠ c → (f s c).chan d = s.chan d) {l : List Nat} (hn : l.Nodup) (s : State) (d : Nat) :
    (s.each l f).chan d = if d ∈ l then g (s.chan d) else s.chan d := by
  induction l generalizing s with
  | nil => rfl
  | cons c l ih =>
    obtain ⟨hc, hl⟩ := List.nodup_cons.1 hn
    rw [State.each, List.foldl_cons]
    refine (ih hl (f s c)).trans ?_
    by_cases hd : d = c
    · subst hd
      simp [hc, hself]
    · simp [hd, hne s c d hd]

/-! ## An operation's place on the bus (R200, R207) -/

section
variable {s : State} {ch k : Nat} {o : ChOp}

theorem opEnter_chan (s : State) (ch : Nat) : (opEnter s ch).chan ch =
    { s.chan ch with op := (s.chan ch).op.map fun o => if o.fresh then { o with tset := s.tsel ch, begun := s.aclk, fresh := false } else o } :=
  s.chan_updChan_self ch _ fun _ => rfl

/-- The operation that has entered is the one written: its words are as sampled. -/
theorem op_of_opEnter (ho : ((opEnter s ch).chan ch).op = some o) : ∃ p, (s.chan ch).op = some p ∧ p.word = o.word ∧ p.arg = o.arg := by
  rw [opEnter_chan] at ho
  obtain ⟨p, hp, rfl⟩ := Option.map_eq_some_iff.1 ho
  refine ⟨p, hp, ?_⟩
  split <;> exact ⟨rfl, rfl⟩

theorem opRuns_of_free (ho : ((opEnter s ch).chan ch).op = some o) (hk : fld o.word 0 4 = k) (hpll : (s.chan ch).pll = true)
    (hce : (s.chan ch).ceLow = none) : (opEnter s ch).opRuns ch k = some o := by
  rw [State.opRuns, ho, opEnter_chan, Option.filter_some_pos]
  simp [hk, hpll, hce]

theorem opRuns_of_unlocked (hpll : (s.chan ch).pll = false) : (opEnter s ch).opRuns ch k = none := by
  rw [State.opRuns, Option.filter_eq_none_iff]
  simp [opEnter_chan, hpll]

/-- While the PLL relocks no operation ends (R200). -/
theorem dieOpEnd_of_unlocked (e : DieEnd) (eff : ChOp → State → State) (hpll : (s.chan ch).pll = false) : dieOpEnd s ch k e eff = s := by
  simp only [dieOpEnd, opRuns_of_unlocked hpll]

end

/-! ## The end of an operation (R207, R208) -/

theorem chOpEnd_chan (s : State) (ch res n : Nat) : (chOpEnd s ch res n).chan ch = { s.chan ch with op := none, opRes := res, opBytes := n } :=
  s.chan_updChan_self ch _ fun _ => rfl

theorem chOpEnd_chan_ne (s : State) {ch d : Nat} (res n : Nat) (h : d ≠ ch) : (chOpEnd s ch res n).chan d = s.chan d := by
  rw [chOpEnd, State.chan_updChan_ne]
  · exact fun _ => rfl
  · exact h

@[simp] theorem chOpEnd_op (s : State) (ch res n : Nat) : ((chOpEnd s ch res n).chan ch).op = none := by rw [chOpEnd_chan]
@[simp] theorem chOpEnd_opRes (s : State) (ch res n : Nat) : ((chOpEnd s ch res n).chan ch).opRes = res := by rw [chOpEnd_chan]

theorem cycles_chan (s : State) (ch : Nat) (l : List (Nat × Byte)) : ((cycles s ch l).chan ch).cycles = (s.chan ch).cycles ++ l := by
  rw [cycles, State.chan_updChan_self]
  exact fun _ => rfl

theorem withBuf_chan (s : State) (ch n : Nat) (l : List Byte) : ((s.updChan ch fun c => { c with pbuf := l }).useFree n).chan ch = { s.chan ch with pbuf := l } :=
  s.chan_updChan_self ch (fun c => { c with pbuf := l }) fun _ => rfl

/-- The channel's operation `o` has ended with RESULT `res`, its cycles sent. -/
def OpEnded (ch : Nat) (o : ChOp) (res : Nat) (t : State) : Prop :=
  (t.chan ch).op = none ∧ (t.chan ch).opRes = res ∧ opCycles o <:+ (t.chan ch).cycles

section
variable {s t : State} {ch k : Nat} {o : ChOp}

theorem opIssue_cycles (s : State) (ch : Nat) (o : ChOp) : opCycles o <:+ ((opIssue s ch o).chan ch).cycles := by
  rw [opIssue, cycles_chan]
  exact List.suffix_append _ _

theorem opEnded_chOpEnd (res n : Nat) (h : opCycles o <:+ (t.chan ch).cycles) : OpEnded ch o res (chOpEnd t ch res n) := by
  rw [OpEnded, chOpEnd_chan]
  exact ⟨rfl, rfl, h⟩

/-- The state in which the bus sequence of the operation has been sent. -/
def State.opSent (s : State) (ch : Nat) (o : ChOp) : State := opIssue (opEnter s ch) ch o

variable (ho : ((opEnter s ch).chan ch).op = some o) (hk : fld o.word 0 4 = k) (hpll : (s.chan ch).pll = true)
  (hce : (s.chan ch).ceLow = none) {e : DieEnd} (he : (opEnter s ch).opMayEnd ch o e = true)
include ho hk hpll hce he

/-- An operation that may end has its effect where the dies answered, and the RESULT of the dies otherwise. -/
theorem dieOpEnd_of_free (eff : ChOp → State → State) : dieOpEnd s ch k e eff =
    if e = .ready then eff o (s.opSent ch o) else chOpEnd (s.opSent ch o) ch (dieResult e) 0 := by
  simp only [dieOpEnd, opRuns_of_free ho hk hpll hce, he, Bool.not_true, Bool.false_eq_true, if_false, beq_iff_eq]
  rfl

/-- One without an effect of its own ends with the RESULT of the dies. -/
theorem dieOpEnd_plain : dieOpEnd s ch k e (fun _ st => chOpEnd st ch 0 0) = chOpEnd (s.opSent ch o) ch (dieResult e) 0 := by
  rw [dieOpEnd_of_free ho hk hpll hce he]
  cases e <;> rfl

/-- One that reads brings its bytes. -/
theorem dieOpData_spec {n : Nat} {data : List Byte} (hn : n ≤ data.length) : OpEnded ch o (dieResult e) (dieOpData s ch k e n data) ∧
    (e = .ready → ((dieOpData s ch k e n data).chan ch).opBytes = n ∧ ((dieOpData s ch k e n data).chan ch).pbuf = data.take n) := by
  have hsent := opIssue_cycles (opEnter s ch) ch o
  have hread := dieOpEnd_of_free ho hk hpll hce he fun _ st =>
    chOpEnd ((st.updChan ch fun c => { c with pbuf := st.fitBytes n data }).useFree (n - data.length)) ch 0 n
  rw [dieOpData, hread]
  split
  · rename_i hr
    subst hr
    have hbuf := withBuf_chan (s.opSent ch o) ch (n - data.length) ((s.opSent ch o).fitBytes n data)
    refine ⟨opEnded_chOpEnd 0 n (by rw [hbuf]; exact hsent), fun _ => ?_⟩
    rw [chOpEnd_chan, hbuf]
    exact ⟨rfl, List.take_append_of_le_length hn⟩
  · rename_i hr
    exact ⟨opEnded_chOpEnd _ 0 hsent, fun h => absurd h hr⟩

end

/-! ## PHY_ZQ (R206) -/

/-- A channel of the group whose calibration has ended; `ok` where the resistor measured right. -/
def Chan.calibrated (ok : Bool) (codes : List Byte) (x : Chan) : Chan :=
  { x with zqOk := ok, zq := if ok then codes else x.zq, op := if x.inZq then none else x.op,
           opRes := if x.inZq then (if ok then 0 else 4) else x.opRes, opBytes := if x.inZq then 0 else x.opBytes }

theorem zqEnd_chan (s : State) (g ohm10 : Nat) {i : Nat} (hi : i < 8) : (zqEnd s g ohm10).chan (8 * g + i) =
    (s.chan (8 * g + i)).calibrated (decide (2328 ≤ ohm10) && decide (ohm10 ≤ 2472)) (s.freeBytes zqCodes) := by
  have hmem : 8 * g + i ∈ (List.range 8).map fun i => 8 * g + i := List.mem_map.2 ⟨i, List.mem_range.2 hi, rfl⟩
  have hnodup : ((List.range 8).map fun i => 8 * g + i).Nodup := List.nodup_range.map fun a b h => by simpa using h
  unfold zqEnd
  simp only
  rw [apply_ite (fun t : State => t.chan (8 * g + i)), State.useFree_chan, ite_self, each_chan (g := Chan.calibrated _ (s.freeBytes zqCodes)) _ _ hnodup,
    if_pos hmem]
  · intro t c
    split
    · rename_i hz
      rw [chOpEnd_chan, State.chan_updChan_self, Chan.calibrated]
      · simp only [hz, if_true]
      · exact fun _ => rfl
    · rename_i hz
      rw [State.chan_updChan_self, Chan.calibrated]
      · simp only [hz, Bool.false_eq_true, if_false]
      · exact fun _ => rfl
  · intro t c d hd
    split
    · rw [chOpEnd_chan_ne _ _ _ hd, State.chan_updChan_ne]
      · exact fun _ => rfl
      · exact hd
    · rw [State.chan_updChan_ne]
      · exact fun _ => rfl
      · exact hd

/-! ## TRAIN and EYE (R211) -/

/-- A measurement ends its operation: right, with a lane without a window, or with an eye below its minimum. -/
theorem measure_ends (s : State) (ch : Nat) (e : EyeScan) (rd wr train : Bool) (sets steps : Nat) :
    ((measure s ch e rd wr train sets steps).chan ch).op = none ∧ ((measure s ch e rd wr train sets steps).chan ch).opRes ∈ [0, 5, 6] := by
  have heye (low : Prop) [Decidable low] : (if low then 6 else 0) ∈ [0, 5, 6] := by split <;> decide
  unfold measure
  simp only
  split
  · exact ⟨chOpEnd_op .., by rw [chOpEnd_opRes]; decide⟩
  · refine ⟨chOpEnd_op .., ?_⟩
    rw [chOpEnd_opRes]
    exact heye _

/-- The fields of CH_DCC. -/
def dccFlds : List Fld := [Reg.f 0 6, Reg.f 8 6]

/-- The effect of TRAIN once the dies have answered. -/
def trained (ch : Nat) (scan : EyeScan) (dcc : Word) (o : ChOp) (st : State) : State :=
  let steps := fld o.word 10 3
  let s1 := if bit steps 0 then st.setReg (A.chDcc ch) (Reg.merge dccFlds 0 dcc) else st
  if !bit steps 1 && !bit steps 2 then chOpEnd s1 ch 0 0 else measure s1 ch scan (bit steps 1) (bit steps 2) true (fld o.word 14 4) steps

theorem trained_op (ch : Nat) (scan : EyeScan) (dcc : Word) (o : ChOp) (st : State) : ((trained ch scan dcc o st).chan ch).op = none := by
  unfold trained
  simp only
  split
  · exact chOpEnd_op ..
  · exact (measure_ends ..).1

/-- TRAIN of DCC alone. -/
theorem trained_dcc {ch : Nat} {scan : EyeScan} {dcc : Word} {o : ChOp} {st : State} (h : fld o.word 10 3 = 1) :
    trained ch scan dcc o st = chOpEnd (st.setReg (A.chDcc ch) (Reg.merge dccFlds 0 dcc)) ch 0 0 := by
  simp only [trained, h]
  rfl

/-- From `s` to `t` the channels change, and the count of free values taken. -/
def ChansChange (s t : State) : Prop := ∃ cs n, t = { s with chans := cs, free := n }

theorem ChansChange.trans {s t u : State} (h : ChansChange s t) (k : ChansChange t u) : ChansChange s u := by
  obtain ⟨_, _, rfl⟩ := h
  obtain ⟨_, _, rfl⟩ := k
  exact ⟨_, _, rfl⟩

theorem ChansChange.each {α : Type} {f : State → α → State} (h : ∀ s x, ChansChange s (f s x)) (l : List α) (s : State) : ChansChange s (s.each l f) := by
  induction l generalizing s with
  | nil => exact ⟨_, _, rfl⟩
  | cons x l ih => exact (h s x).trans (ih (f s x))

theorem ChansChange.selectVolume (s : State) (ch t : Nat) : ChansChange s (selectVolume s ch t) := by
  unfold Machine.selectVolume
  split <;> exact ⟨_, _, rfl⟩

theorem ChansChange.opSent (s : State) (ch : Nat) (o : ChOp) : ChansChange s (s.opSent ch o) :=
  .trans (.trans (t := (opEnter s ch).updChan ch fun c => { c with cycles := [], opened := opData o }) ⟨_, _, rfl⟩ (.each (fun _ _ => .selectVolume ..) _ _))
    ⟨_, _, rfl⟩

/-- EYE writes no trim. -/
theorem ChansChange.measure (s : State) (ch : Nat) (e : EyeScan) (rd wr : Bool) (sets steps : Nat) :
    ChansChange s (measure s ch e rd wr false sets steps) := by
  unfold Machine.measure
  simp only [Bool.false_and, Bool.false_eq_true, if_false]
  split <;> exact ⟨_, _, rfl⟩

/-! ## The commands -/

section
variable {s : State} {ch : Nat} (hh : s.held = false) (hch : ch < 32)
include hh hch

theorem exec_readId (e : DieEnd) (data : List Byte) : exec (.readId ch e data) s = .next (after s (dieOpData s ch 3 e (s.opCount ch) data)) := by
  unfold exec
  exact run_of_ok _ (decide_eq_true hch) hh

theorem exec_chOpReadParam (e : DieEnd) (data : List Byte) :
    exec (.chOpReadParam ch e data) s = .next (after s (dieOpData s ch 4 e (s.opCount ch) data)) := by
  unfold exec
  exact run_of_ok _ (decide_eq_true hch) hh

theorem exec_chOpGetFeature (e : DieEnd) (data : List Byte) : exec (.chOpGetFeature ch e data) s = .next (after s (dieOpData s ch 6 e 4 data)) := by
  unfold exec
  exact run_of_ok _ (decide_eq_true hch) hh

theorem exec_volume (e : DieEnd) : exec (.volume ch e) s = .next (after s (dieOpEnd s ch 7 e fun _ st => chOpEnd st ch 0 0)) := by
  unfold exec
  exact run_of_ok _ (decide_eq_true hch) hh

theorem exec_dieZq (e : DieEnd) : exec (.dieZq ch e) s = .next (after s (dieOpEnd s ch 8 e fun _ st => chOpEnd st ch 0 0)) := by
  unfold exec
  exact run_of_ok _ (decide_eq_true hch) hh

/-- RESET selects no volume on its line any more and forgets the read-level records of the dies it reaches (R208, R275). -/
theorem exec_reset {o : ChOp} {e : DieEnd} (hr : ((opEnter s ch).opRuns ch 2).filter (fun o => (opEnter s ch).opMayEnd ch o e) = some o) :
    exec (.reset ch e) s = .next (after s (forgetOffs
      ((dieOpEnd s ch 2 e fun _ st => chOpEnd st ch 0 0).updChan ch fun c => { c with volSel := delBy Prod.fst (s.ceLine ch (fld o.word 4 4)) c.volSel })
      fun d => dieCh d == ch && (dieTgt d == fld o.word 4 4 || (fld o.word 10 1 == 1 && s.ceLine ch (dieTgt d) == s.ceLine ch (fld o.word 4 4))))) := by
  unfold exec
  refine (run_of_ok _ (decide_eq_true hch) hh).trans ?_
  simp only [hr]

/-- A Set Features of a channel operation forgets the read-level records of its target (R275). -/
theorem exec_chOpSetFeature {o : ChOp} {e : DieEnd}
    (hr : ((opEnter s ch).opRuns ch 5).filter (fun o => (opEnter s ch).opMayEnd ch o e) = some o) : exec (.chOpSetFeature ch e) s = .next (after s
      (forgetOffs (dieOpEnd s ch 5 e fun _ st => chOpEnd st ch 0 0) fun d => dieCh d == ch && dieTgt d == fld o.word 4 4)) := by
  unfold exec
  refine (run_of_ok _ (decide_eq_true hch) hh).trans ?_
  simp only [hr]

theorem exec_reset_idle {e : DieEnd} (hr : (opEnter s ch).opRuns ch 2 = none) : exec (.reset ch e) s = .next (after s s) := by
  unfold exec
  refine (run_of_ok _ (decide_eq_true hch) hh).trans ?_
  simp only [hr, Option.filter_none]

theorem exec_chOpSetFeature_idle {e : DieEnd} (hr : (opEnter s ch).opRuns ch 5 = none) : exec (.chOpSetFeature ch e) s = .next (after s s) := by
  unfold exec
  refine (run_of_ok _ (decide_eq_true hch) hh).trans ?_
  simp only [hr, Option.filter_none]

theorem exec_train (scan : EyeEnd) (dcc : Word) :
    exec (.train ch scan dcc) s = .next (after s (dieOpEnd s ch 9 scan.die (trained ch scan.eye dcc))) := by
  unfold exec
  exact run_of_ok _ (decide_eq_true hch) hh

theorem exec_eye (scan : EyeEnd) :
    exec (.eye ch scan) s = .next (after s (dieOpEnd s ch 10 scan.die fun _ st => measure st ch scan.eye true true false 0 0)) := by
  unfold exec
  exact run_of_ok _ (decide_eq_true hch) hh

/-- While the PLL relocks the commands of the operations that use the bus leave the block. -/
theorem opCommand_of_unlocked (hpll : (s.chan ch).pll = false) {e e' : EyeEnd} {dcc : Word} {die : DieEnd} {data : List Byte} {c : Instr}
    (hc : c ∈ [Instr.reset ch die, .readId ch die data, .chOpReadParam ch die data, .chOpSetFeature ch die, .chOpGetFeature ch die data,
      .volume ch die, .dieZq ch die, .train ch e dcc, .eye ch e']) : ∃ t, exec c s = .next t ∧ Around s t := by
  suffices h : exec c s = .next (after s s) from ⟨_, h, around_after rfl rfl⟩
  have hidle (k : Nat) (d : DieEnd) (eff : ChOp → State → State) : dieOpEnd s ch k d eff = s := dieOpEnd_of_unlocked d eff hpll
  simp only [List.mem_cons, List.not_mem_nil, or_false] at hc
  rcases hc with h | h | h | h | h | h | h | h | h <;> subst h
  · exact exec_reset_idle hh hch (opRuns_of_unlocked hpll)
  · rw [exec_readId hh hch, dieOpData, hidle]
  · rw [exec_chOpReadParam hh hch, dieOpData, hidle]
  · exact exec_chOpSetFeature_idle hh hch (opRuns_of_unlocked hpll)
  · rw [exec_chOpGetFeature hh hch, dieOpData, hidle]
  · rw [exec_volume hh hch, hidle]
  · rw [exec_dieZq hh hch, hidle]
  · rw [exec_train hh hch, hidle]
  · rw [exec_eye hh hch, hidle]

/-- PHY_ZQ ends the calibration of the channel's group. -/
theorem exec_phyZq {o : ChOp} (ho : ((opEnter s ch).chan ch).op = some o) (hk : fld o.word 0 4 = 1) (ohm10 : Nat) :
    exec (.phyZq ch ohm10) s = .next (after s (zqEnd s (ch / 8) ohm10)) := by
  obtain ⟨p, hp, hw, -⟩ := op_of_opEnter ho
  have hz : (s.chan ch).inZq = true := by rw [Chan.inZq, hp]; simp [hw, hk]
  unfold exec
  refine (run_of_ok _ (decide_eq_true hch) hh).trans ?_
  rw [if_pos hz]

section
variable {o : ChOp} (ho : ((opEnter s ch).chan ch).op = some o) (hpll : (s.chan ch).pll = true) (hce : (s.chan ch).ceLow = none) {e : DieEnd}
  (he : (opEnter s ch).opMayEnd ch o e = true)
include ho hpll hce he

/-- The operations that read nothing and measure nothing end with the RESULT of the dies. -/
theorem plainOp_ends {c : Nat × Instr} (hc : c ∈ [(2, Instr.reset ch e), (5, .chOpSetFeature ch e), (7, .volume ch e), (8, .dieZq ch e)])
    (hk : fld o.word 0 4 = c.1) : ∃ t, exec c.2 s = .next t ∧ OpEnded ch o (dieResult e) t ∧ (t.chan ch).opBytes = 0 := by
  have hend : OpEnded ch o (dieResult e) (chOpEnd (s.opSent ch o) ch (dieResult e) 0) := opEnded_chOpEnd _ 0 (opIssue_cycles _ ch o)
  have hbytes : ((chOpEnd (s.opSent ch o) ch (dieResult e) 0).chan ch).opBytes = 0 := by rw [chOpEnd_chan]
  have hmay {k : Nat} (hk : fld o.word 0 4 = k) : ((opEnter s ch).opRuns ch k).filter (fun o => (opEnter s ch).opMayEnd ch o e) = some o := by
    rw [opRuns_of_free ho hk hpll hce]
    exact Option.filter_some_pos he
  simp only [List.mem_cons, List.not_mem_nil, or_false] at hc
  rcases hc with h | h | h | h <;> subst h
  · refine ⟨_, exec_reset hh hch (hmay hk), ?_⟩
    simp only [OpEnded, after_chan, forgetOffs_chan, dieOpEnd_plain ho hk hpll hce he]
    rw [State.chan_updChan_self]
    · exact ⟨hend, hbytes⟩
    · exact fun _ => rfl
  · refine ⟨_, exec_chOpSetFeature hh hch (hmay hk), ?_⟩
    simp only [OpEnded, after_chan, forgetOffs_chan, dieOpEnd_plain ho hk hpll hce he]
    exact ⟨hend, hbytes⟩
  · refine ⟨_, exec_volume hh hch e, ?_⟩
    simp only [OpEnded, after_chan, dieOpEnd_plain ho hk hpll hce he]
    exact ⟨hend, hbytes⟩
  · refine ⟨_, exec_dieZq hh hch e, ?_⟩
    simp only [OpEnded, after_chan, dieOpEnd_plain ho hk hpll hce he]
    exact ⟨hend, hbytes⟩

/-- The operations that read bring their bytes into CH_PBUF. -/
theorem readingOp_ends {data : List Byte} {c : Nat × Nat × Instr}
    (hc : c ∈ [(3, o.arg.toNat, Instr.readId ch e data), (4, o.arg.toNat, .chOpReadParam ch e data), (6, 4, .chOpGetFeature ch e data)])
    (hk : fld o.word 0 4 = c.1) (hn : c.2.1 ≤ data.length) : ∃ t, exec c.2.2 s = .next t ∧ OpEnded ch o (dieResult e) t ∧
      (e = .ready → (t.chan ch).opBytes = c.2.1 ∧ (t.chan ch).pbuf = data.take c.2.1) := by
  have hcount : s.opCount ch = o.arg.toNat := by
    obtain ⟨p, hp, -, ha⟩ := op_of_opEnter ho
    rw [State.opCount, hp, ← ha]
  suffices h : exec c.2.2 s = .next (after s (dieOpData s ch c.1 e c.2.1 data)) by
    refine ⟨_, h, ?_⟩
    simp only [OpEnded, after_chan]
    exact dieOpData_spec ho hk hpll hce he hn
  simp only [List.mem_cons, List.not_mem_nil, or_false] at hc
  rcases hc with h | h | h <;> subst h
  · exact hcount ▸ exec_readId hh hch e data
  · exact hcount ▸ exec_chOpReadParam hh hch e data
  · exact exec_chOpGetFeature hh hch e data

/-- TRAIN ends with the RESULT of the dies, or with what it measured; DCC training alone writes its code (R211). -/
theorem train_ends (hk : fld o.word 0 4 = 9) (eye : EyeScan) (dcc : Word) : ∃ t, exec (.train ch { die := e, eye := eye } dcc) s = .next t ∧
    (t.chan ch).op = none ∧ (e ≠ .ready → (t.chan ch).opRes = dieResult e) ∧
    (e = .ready → fld o.word 10 3 = 1 → (t.chan ch).opRes = 0 ∧ t.fldOf (A.chDcc ch) 0 6 = fld dcc 0 6 ∧ t.fldOf (A.chDcc ch) 8 6 = fld dcc 8 6) := by
  refine ⟨_, exec_train hh hch _ dcc, ?_⟩
  simp only [after_chan, dieOpEnd_of_free ho hk hpll hce he]
  by_cases hr : e = .ready
  · simp only [if_pos hr]
    refine ⟨trained_op .., fun h => absurd hr h, fun _ hd => ?_⟩
    obtain ⟨cs, n, hsent⟩ := ChansChange.opSent s ch o
    have hdcc (lo w : Nat) : (after s (trained ch eye dcc o (s.opSent ch o))).fldOf (A.chDcc ch) lo w =
        fld (Reg.merge dccFlds 0 dcc) lo w := by
      rw [trained_dcc hd, State.fldOf, after_reg_channel (by rw [hsent]; rfl) (by unfold A.chDcc A.ch; omega)]
      exact congrArg (fld · lo w) (State.reg_setReg_self ..)
    have h32 : ∀ x ∈ dccFlds, x.lo + x.w ≤ 32 := by decide
    have hp : dccFlds.Pairwise Fld.apart := by unfold Fld.apart; decide
    rw [hdcc, hdcc]
    refine ⟨by rw [trained_dcc hd, chOpEnd_opRes], ?_, ?_⟩
    · exact fld_merge_of_mem (y := Reg.f 0 6) h32 hp (by decide) 0 dcc
    · exact fld_merge_of_mem (y := Reg.f 8 6) h32 hp (by decide) 0 dcc
  · simp only [if_neg hr]
    exact ⟨chOpEnd_op .., fun _ => chOpEnd_opRes .., fun h => absurd h hr⟩

/-- EYE ends with the RESULT of the dies, or with what it measured, and leaves the trims (R208, R211). -/
theorem eye_ends (hk : fld o.word 0 4 = 10) (eye : EyeScan) : ∃ t, exec (.eye ch { die := e, eye := eye }) s = .next t ∧ (t.chan ch).op = none ∧
    (e ≠ .ready → (t.chan ch).opRes = dieResult e) ∧ (e = .ready → (t.chan ch).opRes ∈ [0, 5, 6]) ∧
    ∀ k l, t.reg (A.chTrim ch k l) = s.reg (A.chTrim ch k l) := by
  refine ⟨_, exec_eye hh hch _, ?_⟩
  have hchange : ChansChange s (dieOpEnd s ch 10 e fun _ st => measure st ch eye true true false 0 0) := by
    rw [dieOpEnd_of_free ho hk hpll hce he]
    split
    · exact (ChansChange.opSent s ch o).trans (.measure ..)
    · exact (ChansChange.opSent s ch o).trans ⟨_, _, rfl⟩
  have htrim (k l : Nat) : (after s (dieOpEnd s ch 10 e fun _ st => measure st ch eye true true false 0 0)).reg (A.chTrim ch k l) =
      s.reg (A.chTrim ch k l) := by
    obtain ⟨cs, n, hc⟩ := hchange
    rw [after_reg_channel (by rw [hc]) (by unfold A.chTrim A.ch; omega), hc]
    rfl
  refine ⟨?_, ?_, ?_, htrim⟩ <;> simp only [after_chan, dieOpEnd_of_free ho hk hpll hce he]
  · split
    · exact (measure_ends ..).1
    · exact chOpEnd_op ..
  · intro hr
    rw [if_neg hr, chOpEnd_opRes]
  · intro hr
    rw [if_pos hr]
    exact (measure_ends ..).2

end
end

/-! ## The statement -/

/-- Settles O37: each operation's command does what its row says once the operation may end, and nothing while the PLL relocks. -/
theorem channelOperationsEndWithResult : Obligations.ChannelOperationsEndWithResult := by
  unfold Obligations.ChannelOperationsEndWithResult
  intro s ch o e data hh hch ho
  refine ⟨fun c hc hk ⟨hpll, hce, he⟩ => ?_, fun c hc hk hn ⟨hpll, hce, he⟩ => ?_, fun ohm10 hk => ⟨_, exec_phyZq hh hch ho hk ohm10, fun i hi => ?_⟩,
    fun eye dcc hk ⟨hpll, hce, he⟩ => train_ends hh hch ho hpll hce he hk eye dcc, fun eye hk ⟨hpll, hce, he⟩ => eye_ends hh hch ho hpll hce he hk eye,
    fun hpll c hc => opCommand_of_unlocked hh hch hpll hc⟩
  · obtain ⟨t, ht, ⟨hop, hres, hsent⟩, hbytes⟩ := plainOp_ends hh hch ho hpll hce he hc hk
    exact ⟨t, ht, hop, hres, hbytes, hsent⟩
  · obtain ⟨t, ht, ⟨hop, hres, hsent⟩, hbuf⟩ := readingOp_ends hh hch ho hpll hce he hc hk hn
    exact ⟨t, ht, hop, hres, hsent, hbuf⟩
  · rw [Nat.mul_comm (ch / 8) 8, after_chan, zqEnd_chan s (ch / 8) ohm10 hi]
    refine ⟨(Bool.decide_and ..).symm, fun hbad => ?_, fun hz => ?_⟩
    · have hok : (decide (2328 ≤ ohm10) && decide (ohm10 ≤ 2472)) = false := by rw [← Bool.decide_and]; exact decide_eq_false hbad
      simp [Chan.calibrated, hok]
    · simp [Chan.calibrated, hz]

end Sys2Proof.Machine
end

section
/-!
SUPPORT. A write of CH_CTL (R198 to R202): what of it acts at once, and what at the channel's instruction boundary.
-/

namespace Sys2Proof.Machine

/-! ## The register -/

theorem lt_of_chPresent {s : State} {ch : Nat} (h : s.chPresent ch = true) : ch < 32 := lt_of_chOk (b := s.build) (Bool.and_eq_true_iff.1 h).1

/-- The row of CH_CTL. -/
def chCtlRow : RegRow := Reg.rw (A.chCtl 0) [(32, 0x2000)] 0 .instr [Reg.f 0 1, Reg.f 1 3, Reg.f 4 1, Reg.f 5 1, Reg.f 6 1] true

theorem find_chCtl : ∀ ch < 32, Reg.find (A.chCtl ch) = some (chCtlRow, [ch]) := by decide

/-- No half of a pair lies at or just before the register. -/
theorem pairBase_chCtl {ch a : Nat} (h : a = A.chCtl ch ∨ a + 4 = A.chCtl ch) : Reg.pairBase a = false := by
  unfold A.chCtl A.ch at h
  simp [Reg.pairBase, A.hqAqSqbLo, A.hqAqCqbLo, A.hqArBaseLo, A.wglCalPaddrLo, A.eccWseqLo, A.rlvFgPosLo, A.rlvFgTotalLo, A.hqBrBaseLo, A.ntfTgtAddrLo]
  exact ⟨⟨by omega, fun _ hlt => absurd (of_decide_eq_true hlt) (by omega)⟩, fun _ hlt => absurd (of_decide_eq_true hlt) (by omega)⟩

/-- An MPORT write of CH_CTL. -/
theorem accessWrite_chCtl {s : State} {ch : Nat} (hs : InService s) (hch : ch < 32) (hc : s.chPresent ch = true) (v : Word) :
    accessWrite s .mport (A.chCtl ch) v none = (chCtlWrite s ch v).written := by
  have hle : 0x100000 ≤ A.chCtl ch := by unfold A.chCtl A.ch; omega
  have hrow : rowBase (A.chCtl ch) = some (A.chCtl 0) := by rw [rowBase, find_chCtl ch hch]; rfl
  have hden : s.denied (A.chCtl ch) = false :=
    denied_false' hs.init_done (beq_eq_false_iff_ne.2 (by unfold A.secRplReq; omega)) (by rw [hrow]; decide) (by rw [hrow]; decide)
  have hinst : s.instOk chCtlRow [ch] = true := by
    have hunit : s.instOk chCtlRow [ch] = (s.chPresent ch && true && true && true) := rfl
    rw [hunit, hc]
    rfl
  rw [accessWrite_mport v hs.power_st hden (by rw [bne_iff_ne]; unfold A.secRplReq; omega), writeReg_act (find_chCtl ch hch) hinst
    (pairBase_chCtl (.inl rfl)) (by rw [pairBase_chCtl (.inr (Nat.sub_add_cancel (by omega))), Bool.and_false]) rfl]
  rfl

theorem exec_liveWrite {s : State} {ch : Nat} {v : Word} (hs : InService s) (hch : ch < 32) (hc : s.chPresent ch = true) (hv : fld v 5 1 = 1) :
    exec (.liveWrite ch v) s = .next (after s (chCtlWrite s ch v).written) := by
  unfold exec
  exact (runBus_of_ok _ (decide_eq_true hch) hs.not_held).trans (by rw [if_pos hv, accessWrite_chCtl hs hch hc])

theorem exec_tselWrite {s : State} {ch k : Nat} (hs : InService s) (hch : ch < 32) (hc : s.chPresent ch = true) (hk : k < 8) :
    exec (.tselWrite ch k) s = .next (after s (chCtlWrite s ch (setFld (s.reg (A.chCtl ch)) 1 3 k)).written) := by
  unfold exec
  exact (runBus_of_ok _ (by simp [hch, hk]) hs.not_held).trans (by rw [accessWrite_chCtl hs hch hc])

/-! ## At once, or at the boundary -/

section
variable {s : State} {ch : Nat} (v : Word) (hc : s.chPresent ch = true) (hp : s.pend = [])
include hc hp

/-- Within an instruction EN, TSEL and VOLUME wait. -/
theorem chCtlWrite_waits (hb : (s.chan ch).atBoundary = false) : chCtlWrite s ch v = chCtlNow { s with pend :=
    [{ bnd := .instr, addr := A.chCtl ch, val := s.tselKept ch v, left := [ch], act := true }] } ch v := by
  simp [chCtlWrite, applyAct, hc, hp, hb]

/-- At an instruction boundary the whole write acts; beyond it the boundary reaches the tracking units alone. -/
theorem chCtlWrite_acts (hb : (s.chan ch).atBoundary = true) : ∃ l, chCtlWrite s ch v =
    chCtlNow { chCtlTake s ch (s.tselKept ch v) with rlv := { (chCtlTake s ch (s.tselKept ch v)).rlv with units := l } } ch v := by
  set w := s.tselKept ch v with hw
  obtain ⟨l, hl⟩ := passBound_eq { s with pend := [{ bnd := .instr, addr := A.chCtl ch, val := w, left := [ch], act := true }] } .instr ch
  have hs : { s with pend := [] } = s := by rw [← hp]
  rw [released_chCtl rfl] at hl
  refine ⟨l, ?_⟩
  simp only [chCtlWrite, applyAct, hc, hp, hb, ← hw, Bool.not_true, Bool.false_eq_true, if_false, if_true, List.filter_nil, List.nil_append, hl]
  rw [hs]

end

/-! ## WP_REL and LIVE (R201, R202) -/

/-- From `s` to `t` channel `ch` keeps its timing set, its PLL and its training, and no write begins or ends to wait. -/
def PhyKept (ch : Nat) (s t : State) : Prop :=
  t.build = s.build ∧ t.pend = s.pend ∧ t.tsel ch = s.tsel ch ∧ (t.chan ch).pll = (s.chan ch).pll ∧
  (t.chan ch).trained = (s.chan ch).trained ∧ (t.chan ch).eyeValid = (s.chan ch).eyeValid

theorem PhyKept.trans {ch : Nat} {s t u : State} (h : PhyKept ch s t) (k : PhyKept ch t u) : PhyKept ch s u := by
  obtain ⟨h1, h2, h3, h4, h5, h6⟩ := h
  obtain ⟨k1, k2, k3, k4, k5, k6⟩ := k
  exact ⟨k1.trans h1, k2.trans h2, k3.trans h3, k4.trans h4, k5.trans h5, k6.trans h6⟩

section
variable (s : State) (ch : Nat)

theorem PhyKept.refl : PhyKept ch s s := ⟨rfl, rfl, rfl, rfl, rfl, rfl⟩

theorem PhyKept.setRlv (r : Rlv) : PhyKept ch s { s with rlv := r } := ⟨rfl, rfl, rfl, rfl, rfl, rfl⟩

/-- A field of CH_CTL beyond TSEL. -/
theorem PhyKept.setFldOf {lo w : Nat} (n : Nat) (h : lo + w ≤ 32) (h4 : 4 ≤ lo) : PhyKept ch s (s.setFldOf (A.chCtl ch) lo w n) :=
  ⟨rfl, rfl, s.fldOf_setFldOf_ne _ n h (.inl h4), rfl, rfl, rfl⟩

theorem PhyKept.updChan {f : Chan → Chan} (hid : ∀ c, (f c).id = c.id)
    (h : ∀ c, (f c).pll = c.pll ∧ (f c).trained = c.trained ∧ (f c).eyeValid = c.eyeValid) : PhyKept ch s (s.updChan ch f) := by
  refine ⟨rfl, rfl, rfl, ?_⟩
  rw [s.chan_updChan_self ch f hid]
  exact h _

theorem PhyKept.setWpRel (on : Bool) : PhyKept ch s (setWpRel s ch on) := by
  have hset (n : Nat) : PhyKept ch s (s.setFldOf (A.chCtl ch) 4 1 n) := .setFldOf s ch n (by decide) (by decide)
  unfold Machine.setWpRel
  simp only
  split
  · exact (hset _).trans (.updChan _ ch (fun _ => rfl) fun _ => ⟨rfl, rfl, rfl⟩)
  · split
    · exact (hset _).trans (.updChan _ ch (fun _ => rfl) fun _ => ⟨rfl, rfl, rfl⟩)
    · exact hset _

theorem PhyKept.setLive : PhyKept ch s (setLive s ch) := by
  have hforget (t : State) (p : Nat → Bool) (h : PhyKept ch s t) : PhyKept ch s (forgetOffs t p) := h
  unfold Machine.setLive
  simp only
  split
  · exact .refl s ch
  · split
    · exact hforget _ _ ((PhyKept.setFldOf s ch 1 (by decide) (by decide)).trans (.updChan _ ch (fun _ => rfl) fun _ => ⟨rfl, rfl, rfl⟩))
    · exact .updChan s ch (fun _ => rfl) fun _ => ⟨rfl, rfl, rfl⟩

theorem PhyKept.clearLive : PhyKept ch s (clearLive s ch) :=
  (PhyKept.setFldOf s ch 0 (by decide) (by decide)).trans (.updChan _ ch (fun _ => rfl) fun _ => ⟨rfl, rfl, rfl⟩)

theorem PhyKept.chCtlNow (v : Word) : PhyKept ch s (chCtlNow s ch v) := by
  unfold Machine.chCtlNow
  simp only
  split
  · exact (PhyKept.setWpRel s ch _).trans (.setLive _ ch)
  · exact (PhyKept.setWpRel s ch _).trans (.clearLive _ ch)

end

/-! ## TSEL (R200) -/

section
variable {s : State} {ch : Nat}

theorem setTsel_same {t : Nat} (h : s.fldAt ch (A.chTset ch t 0) 0 28 = s.rateOf ch) : setTsel s ch t = s.setFldOf (A.chCtl ch) 1 3 t := by
  simp [setTsel, h]

theorem setTsel_relocks {t : Nat} (h : s.fldAt ch (A.chTset ch t 0) 0 28 ≠ s.rateOf ch) (hq : s.quiet ch = true) :
    setTsel s ch t = relock (s.setFldOf (A.chCtl ch) 1 3 t) ch := by
  simp [setTsel, h, hq]

/-- A word with EN as it stands leaves the PLL to TSEL. -/
theorem chCtlTake_of_en {w : Word} (hen : fld w 0 1 = s.fldOf (A.chCtl ch) 0 1) :
    chCtlTake s ch w = (setTsel s ch (fld w 1 3)).setFldOf (A.chCtl ch) 6 1 (fld w 6 1) := by
  have hsame : setEn s ch (fld w 0 1 == 1) = s := if_pos (by rw [hen, State.en, beq_self_eq_true])
  rw [chCtlTake, hsame]

theorem relock_chan (s : State) (ch : Nat) : (relock s ch).chan ch =
    { s.chan ch with pll := false, trained := false, eyeValid := false, keepRx := none, keepTx := none } :=
  s.chan_updChan_self ch _ fun _ => rfl

theorem State.tsel_setVolume (s : State) (ch n : Nat) : (s.setFldOf (A.chCtl ch) 6 1 n).tsel ch = s.tsel ch :=
  s.fldOf_setFldOf_ne _ n (by decide) (.inl (by decide))

theorem State.tsel_setTsel (s : State) (ch : Nat) {k : Nat} (hk : k < 8) : (s.setFldOf (A.chCtl ch) 1 3 k).tsel ch = k := by
  rw [State.tsel, State.fldOf_setFldOf_self _ _ _ (by decide), Nat.mod_eq_of_lt (by exact hk)]

/-- The word of TSEL_WRITE. -/
def State.tselWord (s : State) (ch k : Nat) : Word := setFld (s.reg (A.chCtl ch)) 1 3 k

theorem fld_tselWord_tsel (s : State) (ch : Nat) {k : Nat} (hk : k < 8) : fld (s.tselWord ch k) 1 3 = k := by
  rw [State.tselWord, fld_setFld_self _ _ (by decide), Nat.mod_eq_of_lt (by exact hk)]

theorem fld_tselWord_en (s : State) (ch k : Nat) : fld (s.tselWord ch k) 0 1 = s.fldOf (A.chCtl ch) 0 1 :=
  fld_setFld_ne _ k (by decide) (.inl (by decide))

/-- The timing set of the word is taken where its RATE is the same or the channel is quiet; otherwise the set stays. -/
theorem tselKept_of_ok {v : Word} (h : s.fldAt ch (A.chTset ch (fld v 1 3) 0) 0 28 = s.rateOf ch ∨ s.quiet ch = true) : s.tselKept ch v = v := by
  rw [State.tselKept, if_pos]
  simpa using h

theorem tselKept_refused {v : Word} (h : s.fldAt ch (A.chTset ch (fld v 1 3) 0) 0 28 ≠ s.rateOf ch) (hq : s.quiet ch = false) :
    s.tselKept ch v = setFld v 1 3 (s.tsel ch) := by
  rw [State.tselKept, if_neg]
  simpa [hq] using h

variable {k : Nat} (hk : k < 8)
include hk

/-- Another set of the same RATE is selected, and the PLL goes on. -/
theorem tselTake_same (hrate : s.fldAt ch (A.chTset ch k 0) 0 28 = s.rateOf ch) :
    (chCtlTake s ch (s.tselKept ch (s.tselWord ch k))).tsel ch = k ∧
    (chCtlTake s ch (s.tselKept ch (s.tselWord ch k))).chan ch = s.chan ch := by
  have hw := fld_tselWord_tsel s ch hk
  rw [tselKept_of_ok (.inl (by rw [hw, hrate])), chCtlTake_of_en (fld_tselWord_en s ch k), hw, setTsel_same hrate, State.tsel_setVolume]
  exact ⟨s.tsel_setTsel ch hk, rfl⟩

/-- A set of another RATE is selected on a quiet channel, and the PLL relocks. -/
theorem tselTake_relocks (hrate : s.fldAt ch (A.chTset ch k 0) 0 28 ≠ s.rateOf ch) (hq : s.quiet ch = true) :
    (chCtlTake s ch (s.tselKept ch (s.tselWord ch k))).tsel ch = k ∧ (chCtlTake s ch (s.tselKept ch (s.tselWord ch k))).chan ch =
      { s.chan ch with pll := false, trained := false, eyeValid := false, keepRx := none, keepTx := none } := by
  have hw := fld_tselWord_tsel s ch hk
  rw [tselKept_of_ok (.inr hq), chCtlTake_of_en (fld_tselWord_en s ch k), hw, setTsel_relocks hrate hq, State.tsel_setVolume]
  exact ⟨s.tsel_setTsel ch hk, relock_chan (s.setFldOf (A.chCtl ch) 1 3 k) ch⟩

/-- On any other channel the set stays. -/
theorem tselTake_refused (hrate : s.fldAt ch (A.chTset ch k 0) 0 28 ≠ s.rateOf ch) (hq : s.quiet ch = false) :
    (chCtlTake s ch (s.tselKept ch (s.tselWord ch k))).tsel ch = s.tsel ch ∧
    (chCtlTake s ch (s.tselKept ch (s.tselWord ch k))).chan ch = s.chan ch := by
  have hlt : s.tsel ch < 8 := fld_lt _ 1 3
  have hw : fld (setFld (s.tselWord ch k) 1 3 (s.tsel ch)) 1 3 = s.tsel ch := by rw [fld_setFld_self _ _ (by decide), Nat.mod_eq_of_lt (by exact hlt)]
  have hen : fld (setFld (s.tselWord ch k) 1 3 (s.tsel ch)) 0 1 = s.fldOf (A.chCtl ch) 0 1 := by
    rw [fld_setFld_ne _ _ (by decide) (.inl (by decide)), fld_tselWord_en]
  rw [tselKept_refused (by rw [fld_tselWord_tsel s ch hk]; exact hrate) hq, chCtlTake_of_en hen, hw, setTsel_same rfl, State.tsel_setVolume]
  exact ⟨s.tsel_setTsel ch hlt, rfl⟩

end

/-! ## LIVE (R201) -/

/-- LIVE is a bit of the word. -/
theorem or_live (v : Word) : v ||| 0x20 = setFld v 5 1 1 := by
  refine BitVec.eq_of_toNat_eq (Nat.eq_of_testBit_eq fun i => ?_)
  rw [testBit_setFld v 1 i (by decide), BitVec.toNat_or, Nat.testBit_or, show (0x20 : Word).toNat = 2 ^ 5 from rfl, Nat.testBit_two_pow]
  by_cases h : i = 5
  · subst h
    simp
  · have hne : ¬(5 ≤ i ∧ i < 5 + 1) := by omega
    simp [hne, Ne.symm h]

theorem fld_or_live (v : Word) : fld (v ||| 0x20) 5 1 = 1 := by
  rw [or_live]
  exact fld_setFld_self v 1 (by decide)

theorem fld_or_live_ne (v : Word) {lo w : Nat} (h : lo + w ≤ 5 ∨ 6 ≤ lo) : fld (v ||| 0x20) lo w = fld v lo w := by
  rw [or_live, fld_setFld_ne _ _ (by decide) h]

/-- What the conditions of R201 look at is in `t` as in `s`. -/
def LiveSame (ch : Nat) (s t : State) : Prop :=
  t.build = s.build ∧ t.init = s.init ∧ (∀ a, t.reg a = s.reg a) ∧ (∀ p ∈ t.pend, p.act = true) ∧ ∃ w, t.chan ch = { s.chan ch with wpFall := w }

theorem LiveSame.reg {ch : Nat} {s t : State} (h : LiveSame ch s t) (a : Nat) : t.reg a = s.reg a := h.2.2.1 a

theorem State.regAt_of_acts {s : State} (h : ∀ x ∈ s.pend, x.act = true) (k a : Nat) : s.regAt k a = s.reg a := by
  have hfld := s.fldAt_of_acts h k a 0 32
  simpa [State.fldAt, State.fldOf, fld, bits, BitVec.toNat_inj, Nat.mod_eq_of_lt (BitVec.isLt _)] using hfld

section
variable {ch : Nat} {s t : State} (h : LiveSame ch s t) (hs : ∀ p ∈ s.pend, p.act = true)
include h hs

theorem LiveSame.regAt (k a : Nat) : t.regAt k a = s.regAt k a := by
  obtain ⟨-, -, hr, hp, -⟩ := h
  rw [State.regAt_of_acts hp, State.regAt_of_acts hs, hr]

theorem LiveSame.tparam (i : Nat) : t.tparam ch i = s.tparam ch i := by
  have hsel : t.tsel ch = s.tsel ch := by rw [State.tsel, State.fldOf, h.reg]; rfl
  rw [State.tparam, State.tparamIn, State.fldAt, h.regAt hs, hsel]
  rfl

theorem LiveSame.targets : t.targets ch = s.targets ch := by
  obtain ⟨hb, hi, -⟩ := id h
  simp only [State.targets, State.chPresent, hb, hi, h.regAt hs]

theorem LiveSame.ovhViol : t.ovhViol ch = s.ovhViol ch := by
  simp only [State.ovhViol, State.ovR, State.ovNca, State.ovNra, State.maxTgt, State.tps, h.targets hs, h.tparam hs, h.regAt hs]
  rfl

/-- The first condition that fails is the same. -/
theorem LiveSame.notLiveReason : t.notLiveReason ch = s.notLiveReason ch := by
  obtain ⟨-, -, hr, -, w, hc⟩ := id h
  simp only [State.notLiveReason, State.en, State.rateOf, State.fldOf, h.ovhViol hs, h.targets hs, h.tparam hs, hr, hc]
  rfl

end

/-- A field written as it stands. -/
theorem State.reg_setFldOf_same (s : State) {a lo w n : Nat} (h : lo + w ≤ 32) (hn : n = s.fldOf a lo w) (b : Nat) :
    (s.setFldOf a lo w n).reg b = s.reg b := by
  by_cases hb : b = a
  · rw [hb, State.setFldOf, State.reg_setReg_self, hn, State.fldOf, setFld_fld _ h]
  · rw [State.setFldOf, State.reg_setReg_ne _ _ hb]

section
variable {ch : Nat} {s u : State}

/-- WP_REL as it stands. -/
theorem LiveSame.setWpRel (h : LiveSame ch s u) : LiveSame ch s (setWpRel u ch (s.wpRel ch)) := by
  obtain ⟨hb, hi, hr, hp, w, hc⟩ := h
  have hrel : u.wpRel ch = s.wpRel ch := by rw [State.wpRel, State.fldOf, hr]; rfl
  have hbit : (if s.wpRel ch then 1 else 0) = u.fldOf (A.chCtl ch) 4 1 := by
    have hlt : u.fldOf (A.chCtl ch) 4 1 < 2 := fld_lt _ 4 1
    rw [← hrel, State.wpRel]
    split
    · next h => exact (beq_iff_eq.1 h).symm
    · next h =>
      rw [beq_iff_eq] at h
      omega
  have hreg (a : Nat) := (u.reg_setFldOf_same (by decide) hbit a).trans (hr a)
  unfold Machine.setWpRel
  rw [hrel]
  cases hon : s.wpRel ch with
  | true =>
    rw [hon] at hreg
    refine ⟨hb, hi, hreg, hp, none, ?_⟩
    rw [if_pos rfl, State.chan_updChan_self _ ch (fun c => { c with wpFall := none }) fun _ => rfl]
    exact congrArg (fun c : Chan => { c with wpFall := none }) hc
  | false =>
    rw [hon] at hreg
    exact ⟨hb, hi, hreg, hp, w, hc⟩

/-- LIVE = 1 on a channel that is not live: the first condition that fails is kept, and without one the channel is live. -/
theorem setLive_spec (hl : u.live ch = false) : ((setLive u ch).chan ch).notLive = u.notLiveReason ch ∧
    (setLive u ch).live ch = decide (u.notLiveReason ch = 0) := by
  unfold setLive
  simp only [hl, Bool.false_eq_true, if_false]
  split
  · next hr =>
    have hone : (u.setFldOf (A.chCtl ch) 5 1 1).fldOf (A.chCtl ch) 5 1 = 1 := u.fldOf_setFldOf_self _ 1 (by decide)
    refine ⟨?_, (decide_eq_true hone).trans (decide_eq_true hr).symm⟩
    rw [forgetOffs_chan, State.chan_updChan_self _ ch (fun c => { c with notLive := 0 }) fun _ => rfl, hr]
  · next hr =>
    refine ⟨?_, hl.trans (decide_eq_false hr).symm⟩
    rw [State.chan_updChan_self _ ch (fun c => { c with notLive := u.notLiveReason ch }) fun _ => rfl]

/-- The word that only sets LIVE takes nothing else. -/
theorem chCtlTake_live (hp : s.pend = []) : s.tselKept ch (s.reg (A.chCtl ch) ||| 0x20) = s.reg (A.chCtl ch) ||| 0x20 ∧
    LiveSame ch s (chCtlTake s ch (s.reg (A.chCtl ch) ||| 0x20)) := by
  have hsel : fld (s.reg (A.chCtl ch) ||| 0x20) 1 3 = s.tsel ch := fld_or_live_ne _ (.inl (by decide))
  refine ⟨tselKept_of_ok (.inl (by rw [hsel]; rfl)), ?_⟩
  rw [chCtlTake_of_en (fld_or_live_ne _ (.inl (by decide))), hsel, setTsel_same rfl, fld_or_live_ne _ (.inr (by decide))]
  have hreg := s.reg_setFldOf_same (a := A.chCtl ch) (lo := 1) (w := 3) (by decide) rfl
  refine ⟨rfl, rfl, fun a => (State.reg_setFldOf_same _ (by decide) ?_ a).trans (hreg a), fun p h => ?_, _, rfl⟩
  · exact congrArg (fld · 6 1) (hreg (A.chCtl ch)).symm
  · exact absurd (hp ▸ h : p ∈ []) (by simp)

/-- The write of LIVE, at the boundary or within an instruction. -/
theorem chCtlWrite_live (hc : s.chPresent ch = true) (hp : s.pend = []) (hl : s.live ch = false) :
    ((chCtlWrite s ch (s.reg (A.chCtl ch) ||| 0x20)).chan ch).notLive = s.notLiveReason ch ∧
    (chCtlWrite s ch (s.reg (A.chCtl ch) ||| 0x20)).live ch = decide (s.notLiveReason ch = 0) := by
  have hacts : ∀ p ∈ s.pend, p.act = true := by simp [hp]
  have hnow {u : State} (h : LiveSame ch s u) : ((chCtlNow u ch (s.reg (A.chCtl ch) ||| 0x20)).chan ch).notLive = s.notLiveReason ch ∧
      (chCtlNow u ch (s.reg (A.chCtl ch) ||| 0x20)).live ch = decide (s.notLiveReason ch = 0) := by
    have hw : (fld (s.reg (A.chCtl ch) ||| 0x20) 4 1 == 1) = s.wpRel ch := by rw [fld_or_live_ne _ (.inl (by decide))]; rfl
    have hk := h.setWpRel
    have hlive : (setWpRel u ch (s.wpRel ch)).live ch = false := by rw [← hl, State.live, State.fldOf, hk.reg]; rfl
    rw [chCtlNow, hw, if_pos (fld_or_live _), ← hk.notLiveReason hacts]
    exact setLive_spec hlive
  obtain ⟨hkept, hb, hi, hr, hpe, hch⟩ := chCtlTake_live (ch := ch) hp
  cases hbd : (s.chan ch).atBoundary with
  | true =>
    obtain ⟨l, h⟩ := chCtlWrite_acts (s.reg (A.chCtl ch) ||| 0x20) hc hp hbd
    rw [h, hkept]
    exact hnow ⟨hb, hi, hr, hpe, hch⟩
  | false =>
    rw [chCtlWrite_waits _ hc hp hbd]
    exact hnow ⟨rfl, rfl, fun _ => rfl, by simp, _, rfl⟩

end

/-! ## The PLL and WP_n (R200, R202) -/

section
variable {s : State} {ch : Nat}

theorem exec_chPllLock (hh : s.held = false) (hch : ch < 32) (hc : s.chPresent ch = true) (hen : s.en ch = true) :
    ∃ t, exec (.chPllLock ch) s = .next t ∧ t.chan ch = { s.chan ch with pll := true } := by
  unfold exec
  refine ⟨_, run_of_ok _ (decide_eq_true hch) hh, ?_⟩
  rw [after_chan, if_pos (by rw [hc, hen]; rfl)]
  exact s.chan_updChan_self ch (fun c => { c with pll := true }) fun _ => rfl

theorem exec_wpNRaise (hh : s.held = false) (hch : ch < 32) (hc : s.chPresent ch = true) (hrel : s.wpRel ch = true)
    (hi : (s.chan ch).idle = true) (hf : (s.chan ch).frozen = false) :
    ∃ t, exec (.wpNRaise ch) s = .next t ∧ t.chan ch = { s.chan ch with wp := true } := by
  unfold exec
  refine ⟨_, run_of_ok _ (decide_eq_true hch) hh, ?_⟩
  rw [after_chan, if_pos (by rw [hc, hrel, hi, hf]; rfl)]
  exact s.chan_updChan_self ch (fun c => { c with wp := true }) fun _ => rfl

theorem exec_wpNLower (hh : s.held = false) (hch : ch < 32) (hrel : s.wpRel ch = false)
    (hw : s.writesBefore ch ((s.chan ch).wpFall.getD s.admSeq) = false) :
    ∃ t, exec (.wpNLower ch) s = .next t ∧ t.chan ch = { s.chan ch with wp := false, wpFall := none } := by
  unfold exec
  refine ⟨_, run_of_ok _ (decide_eq_true hch) hh, ?_⟩
  rw [after_chan, if_neg (by simp [hrel, hw])]
  exact s.chan_updChan_self ch (fun c => { c with wp := false, wpFall := none }) fun _ => rfl

/-- The writes admitted before hold WP_n up. -/
theorem exec_wpNLower_waits (hh : s.held = false) (hch : ch < 32) (hw : s.writesBefore ch ((s.chan ch).wpFall.getD s.admSeq) = true) :
    ∃ t, exec (.wpNLower ch) s = .next t ∧ Around s t := by
  unfold exec
  refine ⟨_, run_of_ok _ (decide_eq_true hch) hh, ?_⟩
  rw [if_pos (by simp [hw])]
  exact around_after rfl rfl

end

/-! ## The writes as commands -/

section
variable {s : State} {ch : Nat}

theorem after_written_fldOf {u : State} (hb : u.build = s.build) (lo w : Nat) :
    (after s u.written).fldOf (A.chCtl ch) lo w = u.fldOf (A.chCtl ch) lo w :=
  congrArg (fld · lo w) (after_reg_channel (t := u.written) hb (by unfold A.chCtl A.ch; omega))

theorem PhyKept.after_written {r u : State} (h : PhyKept ch r u) (hr : r.build = s.build) : PhyKept ch r (after s u.written) := by
  obtain ⟨hb, hp, ht, hphy⟩ := h
  refine ⟨(after_build ..).trans hr.symm, by rw [after_pend]; exact hp, (after_written_fldOf (hb.trans hr) 1 3).trans ht, ?_⟩
  rw [after_chan]
  exact hphy

variable (hc : s.chPresent ch = true) (hp : s.pend = [])
include hc hp

theorem chCtlWrite_build (v : Word) : (chCtlWrite s ch v).build = s.build := by
  cases hb : (s.chan ch).atBoundary with
  | true =>
    obtain ⟨l, h⟩ := chCtlWrite_acts v hc hp hb
    rw [h, (PhyKept.chCtlNow _ ch v).1]
    exact chCtlTake_build ..
  | false =>
    rw [chCtlWrite_waits v hc hp hb]
    exact (PhyKept.chCtlNow _ ch v).1

variable (hs : InService s)
include hs

/-- LIVE_WRITE: the first condition that fails is kept, and without one the channel is live. -/
theorem exec_liveWrite_spec (hl : s.live ch = false) : ∃ t, exec (.liveWrite ch (s.reg (A.chCtl ch) ||| 0x20)) s = .next t ∧
    (t.chan ch).notLive = s.notLiveReason ch ∧ t.live ch = decide (s.notLiveReason ch = 0) := by
  obtain ⟨hn, hlive⟩ := chCtlWrite_live hc hp hl
  refine ⟨_, exec_liveWrite hs (lt_of_chPresent hc) hc (fld_or_live _), by rw [after_chan]; exact hn, ?_⟩
  rw [← hlive, State.live, after_written_fldOf (chCtlWrite_build hc hp _)]
  rfl

variable {k : Nat} (hk : k < 8)
include hk

/-- TSEL_WRITE at an instruction boundary: the timing set and the PLL are as the write takes them. -/
theorem exec_tselWrite_acts (hb : (s.chan ch).atBoundary = true) :
    ∃ t, exec (.tselWrite ch k) s = .next t ∧ PhyKept ch (chCtlTake s ch (s.tselKept ch (s.tselWord ch k))) t := by
  obtain ⟨l, h⟩ := chCtlWrite_acts (s.tselWord ch k) hc hp hb
  refine ⟨_, exec_tselWrite hs (lt_of_chPresent hc) hc hk, PhyKept.after_written ?_ (chCtlTake_build ..)⟩
  exact h ▸ (PhyKept.setRlv _ ch _).trans (.chCtlNow _ ch _)

/-- TSEL_WRITE within an instruction waits for the boundary. -/
theorem exec_tselWrite_waits (hb : (s.chan ch).atBoundary = false) : ∃ t, exec (.tselWrite ch k) s = .next t ∧
    PhyKept ch { s with pend := [{ bnd := .instr, addr := A.chCtl ch, val := s.tselKept ch (s.tselWord ch k), left := [ch], act := true }] } t := by
  refine ⟨_, exec_tselWrite hs (lt_of_chPresent hc) hc hk, PhyKept.after_written ?_ rfl⟩
  exact chCtlWrite_waits (s.tselWord ch k) hc hp hb ▸ PhyKept.chCtlNow _ ch _

/-- At an instruction boundary a set of the same RATE is selected, a quiet channel takes one of another RATE and relocks its PLL, and any other keeps its set. -/
theorem exec_tselWrite_rates (hb : (s.chan ch).atBoundary = true) : ∃ t, exec (.tselWrite ch k) s = .next t ∧
    (s.fldOf (A.chTset ch k 0) 0 28 = s.rateOf ch → t.tsel ch = k ∧ (t.chan ch).pll = (s.chan ch).pll) ∧
    (s.fldOf (A.chTset ch k 0) 0 28 ≠ s.rateOf ch → s.quiet ch = true →
      t.tsel ch = k ∧ (t.chan ch).pll = false ∧ (t.chan ch).trained = false ∧ (t.chan ch).eyeValid = false) ∧
    (s.fldOf (A.chTset ch k 0) 0 28 ≠ s.rateOf ch → s.quiet ch = false → t.tsel ch = s.tsel ch ∧ (t.chan ch).pll = (s.chan ch).pll) := by
  obtain ⟨t, ht, -, -, hsel, hpll, htr, heye⟩ := exec_tselWrite_acts hc hp hs hk hb
  rw [← s.fldAt_of_acts (by simp [hp]) ch]
  refine ⟨t, ht, fun hr => ?_, fun hr hq => ?_, fun hr hq => ?_⟩ <;> rw [hsel, hpll]
  · obtain ⟨h, hch⟩ := tselTake_same hk hr
    exact ⟨h, by rw [hch]⟩
  · obtain ⟨h, hch⟩ := tselTake_relocks hk hr hq
    rw [htr, heye, hch]
    exact ⟨h, rfl, rfl, rfl⟩
  · obtain ⟨h, hch⟩ := tselTake_refused hk hr hq
    exact ⟨h, by rw [hch]⟩

end

/-- Settles O36: a write of CH_CTL acts on LIVE at once and on TSEL at the channel's instruction boundary. -/
theorem channelControlWritesLiveTselAndWp : Obligations.ChannelControlWritesLiveTselAndWp := by
  unfold Obligations.ChannelControlWritesLiveTselAndWp
  intro s ch hs hc hp
  have hch := lt_of_chPresent hc
  refine ⟨exec_liveWrite_spec hc hp hs, fun k hk => ⟨exec_tselWrite_rates hc hp hs hk, fun hb => ?_⟩, exec_chPllLock hs.not_held hch hc,
    exec_wpNRaise hs.not_held hch hc, exec_wpNLower hs.not_held hch, exec_wpNLower_waits hs.not_held hch⟩
  obtain ⟨t, ht, -, hpend, hsel, hpll, -⟩ := exec_tselWrite_waits hc hp hs hk hb
  exact ⟨t, ht, hsel, hpll, hpend⟩

end Sys2Proof.Machine
end

section
/-!
SUPPORT. A freeze that drops a line of the ledger (R245, R311, R312), where the record of that line names a die no build has.
-/

namespace Sys2Proof.Machine

/-- LIVE of CH_CTL is as the command's effect left it. -/
theorem after_live {s t : State} (hb : t.build = s.build) (ch : Nat) : (after s t).live ch = t.live ch := by
  rw [State.live, State.fldOf, after_reg_channel hb (by unfold A.chCtl A.ch; omega)]
  rfl

theorem exec_machineCheck {s : State} {ch slices : Nat} {fromCache : Bool} {x : Ctx} (hh : s.held = false) (hch : ch < 32) (hsl : slices < 16)
    (hx : (s.chan ch).run.bind (s.chan ch).ctx = some x) (hf : (s.chan ch).frozen = false) : exec (.machineCheck ch slices fromCache) s =
      .next (after s (machineCheck s ch x slices (if slices = 0 then 2 else if fromCache then 1 else 0))) := by
  unfold exec
  refine (run_of_ok _ (by simp [hch, hsl]) hh).trans ?_
  simp only [hx, hf, Bool.false_eq_true, if_false]

/-- A die number beyond those of every build: its bit of RLV_LW_RO would be LIVE of CH_CTL of channel 0. -/
def strayDie : Nat := 32 * ((A.chCtl 0 - A.rlvLwRo 0) / 4) + 5

/-- Channel 0 runs a routine while a line of a ledger record is in its read path. The record is that of `strayDie`, and fourteen lines are
to be marked failed in it once its read ends. -/
def strayLedger : State :=
  { State.reset with
    pins := Pins.reset
    chans := [{ Chan.reset 0 with run := some 0, ctxs := [mkCtx 0 0 0] }]
    cws := [{ pageCw 0 .raw with owner := .ledger strayDie 0 }]
    rlv := { State.reset.rlv with ledger := [{ Ledger.fresh strayDie 0 0 with failed := List.range 14 }] } }

/-- The freeze clears LIVE and then drops the line; the record is full, and its die is marked read-only. -/
theorem machineCheck_strayLedger : (machineCheck strayLedger 0 (mkCtx 0 0 0) 0 2).live 0 = true ∧
    (machineCheck strayLedger 0 (mkCtx 0 0 0) 0 2).build = strayLedger.build := by decide +kernel

/-- Refutes O50: the clause that a machine check leaves LIVE at 0 has no premise that the ledger records in the channel's read path are of
dies of the part, and the read-only mark (R312) of a die beyond them sets LIVE again after the freeze has cleared it. -/
theorem not_machineChecksFaultsAndTimeouts : ¬ Obligations.MachineChecksFaultsAndTimeouts := by
  unfold Obligations.MachineChecksFaultsAndTimeouts
  intro h
  obtain ⟨hcheck, -⟩ := h strayLedger rfl
  obtain ⟨t, ht, -, -, -, -, hdead, -⟩ := hcheck 0 (mkCtx 0 0 0) 0 false (by decide) (by decide) rfl rfl
  obtain rfl := Host.Outcome.next.inj ((exec_machineCheck rfl (by decide) (by decide) rfl rfl).symm.trans ht)
  obtain ⟨hlive, hbuild⟩ := machineCheck_strayLedger
  exact Bool.false_ne_true (hdead.symm.trans ((after_live hbuild 0).trans hlive))

end Sys2Proof.Machine
end

section
/-!
SUPPORT. The sequencer's control registers (R245, R248): RESTORE and BCINV of a group, UNFREEZE of a channel.
-/

namespace Sys2Proof.Machine

@[simp] theorem State.written_chan (t : State) (ch : Nat) : t.written.chan ch = t.chan ch := rfl
@[simp] theorem State.written_store (t : State) (g : Nat) : t.written.store g = t.store g := rfl
@[simp] theorem State.written_stores (t : State) : t.written.stores = t.stores := rfl

/-! ## The registers -/

/-- The row of SEQ_CTL. -/
def seqCtlRow : RegRow := Reg.wo (A.seqCtl 0) [(4, 64)] .instr

/-- The row of SEQ_CHCTL. -/
def seqChctlRow : RegRow := Reg.wo (A.seqChctl 0) [(32, 32)] .instr

theorem find_seqCtl : ∀ g < 4, Reg.find (A.seqCtl g) = some (seqCtlRow, [g]) := by decide

theorem find_seqChctl : ∀ ch < 32, Reg.find (A.seqChctl ch) = some (seqChctlRow, [ch]) := by decide

/-- No half of a pair lies among the registers of SEQ. -/
theorem pairBase_seq {a : Nat} (h : 0x0AFFFC ≤ a) : Reg.pairBase a = false := by
  simp [Reg.pairBase, A.hqAqSqbLo, A.hqAqCqbLo, A.hqArBaseLo, A.wglCalPaddrLo, A.eccWseqLo, A.rlvFgPosLo, A.rlvFgTotalLo, A.hqBrBaseLo, A.ntfTgtAddrLo]
  exact ⟨⟨by omega, fun _ hlt => absurd (of_decide_eq_true hlt) (by omega)⟩, fun _ hlt => absurd (of_decide_eq_true hlt) (by omega)⟩

/-- An MPORT write of a register of SEQ that acts at once, SEQ_CSW_DATA and SEQ_ENT apart. -/
theorem accessWrite_seq {s t : State} {a : Nat} {v : Word} {r : RegRow} {is : List Nat} (hs : InService s) (hf : Reg.find a = some (r, is))
    (ha : 0x0B0000 ≤ a) (hcsw : r.base ≠ A.seqCswData 0 0) (hent : r.base ≠ A.seqEnt 0 0) (hi : s.instOk r is = true)
    (ht : actWrite s r.base (is.getD 0 0) v = some t) : accessWrite s .mport a v none = t.written := by
  have hrow : rowBase a = some r.base := by rw [rowBase, hf]; rfl
  have hden : s.denied a = false := by
    refine denied_false' hs.init_done (beq_eq_false_iff_ne.2 (by unfold A.secRplReq; omega)) ?_ ?_ <;>
      rw [hrow, beq_eq_false_iff_ne, ne_eq, Option.some_inj]
    · exact hcsw
    · exact hent
  rw [accessWrite_mport v hs.power_st hden (by rw [bne_iff_ne]; unfold A.secRplReq; omega),
    writeReg_act hf hi (pairBase_seq (by omega)) (by rw [pairBase_seq (by omega), Bool.and_false]) ht]
  rfl

section
variable {s : State} {g ch : Nat} (hs : InService s)
include hs

theorem accessWrite_seqCtl (hg : g < Config.groups s.build) (v : Word) :
    accessWrite s .mport (A.seqCtl g) v none = (seqCtlWrite s g v).written := by
  have hinst : s.instOk seqCtlRow [g] = true := by
    have hunit : s.instOk seqCtlRow [g] = (true && decide (g < Config.groups s.build) && true && true) := rfl
    rw [hunit, decide_eq_true hg]
    rfl
  exact accessWrite_seq hs (find_seqCtl g (lt_of_groupOk (decide_eq_true hg))) (by unfold A.seqCtl; omega) (by decide) (by decide) hinst rfl

theorem accessWrite_seqChctl (hc : s.chPresent ch = true) (v : Word) :
    accessWrite s .mport (A.seqChctl ch) v none = (if bit v.toNat 0 then unfreezeWrite s ch else s).written := by
  have hinst : s.instOk seqChctlRow [ch] = true := by
    have hunit : s.instOk seqChctlRow [ch] = (s.chPresent ch && true && true && true) := rfl
    rw [hunit, hc]
    rfl
  exact accessWrite_seq hs (find_seqChctl ch (lt_of_chPresent hc)) (by unfold A.seqChctl; omega) (by decide) (by decide) hinst rfl

theorem exec_restore (hg : g < Config.groups s.build) : exec (.restore g) s = .next (after s (restoreRom s g).written) := by
  unfold exec
  exact (runBus_of_ok _ (decide_eq_true (lt_of_groupOk (decide_eq_true hg))) hs.not_held).trans (by rw [accessWrite_seqCtl hs hg]; rfl)

theorem exec_bcinv (hg : g < Config.groups s.build) : exec (.bcinv g) s = .next (after s (clearCaches s g).written) := by
  unfold exec
  exact (runBus_of_ok _ (decide_eq_true (lt_of_groupOk (decide_eq_true hg))) hs.not_held).trans (by rw [accessWrite_seqCtl hs hg]; rfl)

theorem exec_unfreeze (hc : s.chPresent ch = true) : exec (.unfreeze ch) s = .next (after s (unfreezeWrite s ch).written) := by
  unfold exec
  exact (runBus_of_ok _ (decide_eq_true (lt_of_chPresent hc)) hs.not_held).trans (by rw [accessWrite_seqChctl hs hc]; rfl)

end

/-! ## The branch caches (R232) -/

/-- Beyond the channels an invalidation leaves the block as it was. -/
theorem clearCaches_chansChange (s : State) (g : Nat) : ChansChange s (clearCaches s g) := .each (fun _ _ => ⟨_, _, rfl⟩) _ s

theorem clearCaches_stores (s : State) (g : Nat) : (clearCaches s g).stores = s.stores := by
  obtain ⟨_, _, h⟩ := clearCaches_chansChange s g
  rw [h]

theorem groupChans_nodup (g : Nat) : (groupChans g).Nodup := List.nodup_range.map fun i j h => by
  have : 8 * g + i = 8 * g + j := h
  omega

/-- Every channel of the group has its branch cache emptied. -/
theorem clearCaches_cache (s : State) (g : Nat) {i : Nat} (hi : i < 8) : ((clearCaches s g).chan (8 * g + i)).cache = [] := by
  have hmem : 8 * g + i ∈ groupChans g := List.mem_map.2 ⟨i, List.mem_range.2 hi, rfl⟩
  have h := each_chan (f := fun st ch => st.updChan ch fun c => { c with cache := [], lastHit := false })
    (g := fun c => { c with cache := [], lastHit := false }) (fun s c => s.chan_updChan_self c _ fun _ => rfl)
    (fun s c d hd => s.chan_updChan_ne _ (fun _ => rfl) hd) (groupChans_nodup g) s (8 * g + i)
  rw [clearCaches, h, if_pos hmem]

/-! ## RESTORE and BCINV (R248) -/

/-- The control store whose ROM image is being written again: of its overlay only the words outside the image remain. -/
def Store.restored (x : Store) : Store := { x with words := x.words.filter fun e => decide (11264 ≤ e.1), restoring := true }

theorem restoreRom_eq {s : State} {g : Nat} (hg : g < Config.groups s.build) :
    restoreRom s g = clearCaches (s.setStore g (s.store g).restored) g := if_pos hg

theorem restoreRom_store {s : State} {g : Nat} (hg : g < Config.groups s.build) : (restoreRom s g).store g = (s.store g).restored := by
  rw [restoreRom_eq hg, State.store, clearCaches_stores]
  exact s.store_setStore_self _ (lt_of_groupOk (decide_eq_true hg))

/-- A control store after the command is as its effect left it. -/
theorem after_store (s t : State) (g : Nat) : (after s t).store g = t.store g := by rw [State.store, after_stores]; rfl

theorem restore_spec {s : State} {g : Nat} (hs : InService s) (hg : g < Config.groups s.build) : ∃ t, exec (.restore g) s = .next t ∧
    t.store g = (s.store g).restored ∧ ∀ i < 8, (t.chan (8 * g + i)).cache = [] := by
  refine ⟨_, exec_restore hs hg, by rw [after_store, State.written_store, restoreRom_store hg], fun i hi => ?_⟩
  rw [after_chan, State.written_chan, restoreRom_eq hg]
  exact clearCaches_cache _ g hi

theorem bcinv_spec {s : State} {g : Nat} (hs : InService s) (hg : g < Config.groups s.build) : ∃ t, exec (.bcinv g) s = .next t ∧
    t.stores = s.stores ∧ ∀ i < 8, (t.chan (8 * g + i)).cache = [] := by
  refine ⟨_, exec_bcinv hs hg, by rw [after_stores, State.written_stores, clearCaches_stores], fun i hi => ?_⟩
  rw [after_chan, State.written_chan]
  exact clearCaches_cache s g hi

theorem exec_restoreDone {s : State} {g : Nat} (hh : s.held = false) (hg : g < 4) :
    exec (.restoreDone g) s = .next (after s (s.setStore g { s.store g with restoring := false })) := by
  unfold exec
  exact run_of_ok _ (decide_eq_true hg) hh

/-! ## UNFREEZE (R248) -/

theorem unfreeze_spec {s : State} {ch : Nat} (hs : InService s) (hc : s.chPresent ch = true) (hf : (s.chan ch).frozen = true) :
    ∃ t, exec (.unfreeze ch) s = .next t ∧ t.chan ch = { s.chan ch with unfrz := true } := by
  refine ⟨_, exec_unfreeze hs hc, ?_⟩
  rw [after_chan, State.written_chan, unfreezeWrite, if_pos hf]
  exact s.chan_updChan_self ch _ fun _ => by rfl

section
variable {s : State} {ch : Nat} (hh : s.held = false) (hch : ch < 32)
include hh hch

theorem exec_unfreezeTakesEffect : exec (.unfreezeTakesEffect ch) s = .next (after s
    (if (s.chan ch).frozen && (s.chan ch).unfrz && !(s.chan ch).frozenTok && !s.freezeOpen ch then
      s.updChan ch fun c => { c with frozen := false, unfrz := false, cache := [], lastHit := false } else s)) := by
  unfold exec
  exact run_of_ok _ (decide_eq_true hch) hh

/-- With the failed commands and the tokens gone, FROZEN and the branch cache are cleared. -/
theorem unfreezeTakesEffect_clears (hf : (s.chan ch).frozen = true) (hu : (s.chan ch).unfrz = true) (ht : (s.chan ch).frozenTok = false)
    (ho : s.freezeOpen ch = false) : ∃ t, exec (.unfreezeTakesEffect ch) s = .next t ∧
      t.chan ch = { s.chan ch with frozen := false, unfrz := false, cache := [], lastHit := false } ∧ t.live ch = s.live ch := by
  refine ⟨_, exec_unfreezeTakesEffect hh hch, ?_⟩
  rw [if_pos (by simp [hf, hu, ht, ho])]
  exact ⟨(after_chan ..).trans (s.chan_updChan_self ch _ fun _ => by rfl), after_live rfl ch⟩

/-- A token or a failed command that is left holds the channel frozen. -/
theorem unfreezeTakesEffect_waits (h : (s.chan ch).frozenTok = true ∨ s.freezeOpen ch = true) :
    ∃ t, exec (.unfreezeTakesEffect ch) s = .next t ∧ Around s t := by
  refine ⟨_, exec_unfreezeTakesEffect hh hch, ?_⟩
  rw [if_neg (by rcases h with h | h <;> simp [h])]
  exact around_after rfl rfl

/-! ## The tokens of a frozen channel (R245) -/

theorem exec_frozenTokenRelease : exec (.frozenTokenRelease ch) s = .next (after s
    (if !(s.chan ch).frozenTok || decide (1000 * (s.aclk - (s.chan ch).frozeAt) < s.frozenFor ch) then s
     else ({ s with ops := s.ops.filter fun (o : Op) => !(dieCh o.die == ch && o.stage == OpStage.done) }).updChan ch fun c =>
       { c with frozenTok := false })) := by
  unfold exec
  exact run_of_ok _ (decide_eq_true hch) hh

theorem frozenTokenRelease_waits (hl : 1000 * (s.aclk - (s.chan ch).frozeAt) < s.frozenFor ch) :
    ∃ t, exec (.frozenTokenRelease ch) s = .next t ∧ Around s t := by
  refine ⟨_, exec_frozenTokenRelease hh hch, ?_⟩
  rw [if_pos (by simp [hl])]
  exact around_after rfl rfl

theorem frozenTokenRelease_releases (ht : (s.chan ch).frozenTok = true) (hl : s.frozenFor ch ≤ 1000 * (s.aclk - (s.chan ch).frozeAt)) :
    ∃ t, exec (.frozenTokenRelease ch) s = .next t ∧ (t.chan ch).frozenTok = false ∧ t.slots = s.slots ∧
      ∀ o ∈ t.ops, ¬(dieCh o.die = ch ∧ o.stage = .done) := by
  refine ⟨_, exec_frozenTokenRelease hh hch, ?_⟩
  rw [if_neg (by simpa [ht] using hl), after_chan, after_slots, after_ops]
  refine ⟨congrArg Chan.frozenTok (State.chan_updChan_self _ ch _ fun _ => by rfl), rfl, fun o ho hd => ?_⟩
  have hkept := (List.mem_filter.1 ho).2
  simp [hd] at hkept

end

/-- Settles O33: RESTORE and BCINV are one write of SEQ_CTL each, and what follows a command touches neither a control store nor a channel. -/
theorem sequencerControlRestoresAndUnfreezes : Obligations.SequencerControlRestoresAndUnfreezes := by
  unfold Obligations.SequencerControlRestoresAndUnfreezes
  intro s hs
  refine ⟨fun g hg => ⟨?_, ?_, bcinv_spec hs hg⟩, fun ch hc => ?_⟩
  · obtain ⟨t, ht, hstore, hcache⟩ := restore_spec hs hg
    exact ⟨t, ht, by rw [hstore]; rfl, by rw [hstore]; rfl, by rw [hstore]; rfl, hcache⟩
  · exact ⟨_, exec_restoreDone hs.not_held (lt_of_groupOk (decide_eq_true hg)), around_after rfl rfl⟩
  · have hch := lt_of_chPresent hc
    exact ⟨unfreeze_spec hs hc, unfreezeTakesEffect_clears hs.not_held hch, unfreezeTakesEffect_waits hs.not_held hch,
      fun _ => frozenTokenRelease_waits hs.not_held hch, frozenTokenRelease_releases hs.not_held hch⟩

end Sys2Proof.Machine
end

section
/-!
SUPPORT. The start of a calibration and its visits (R288, R289), and what a placed operation is (R152).
-/

namespace Sys2Proof.Machine

/-- The operation placed is among its die's operations, with its class and format. -/
theorem mem_placeOp_die (s : State) (o : Op) : ∃ y ∈ (placeOp s o).ops, y.owner = o.owner ∧ y.kind = o.kind ∧ y.stage = o.stage ∧ y.die = o.die ∧
    y.cls = o.cls ∧ y.paddr = o.paddr ∧ y.fmt = o.fmt :=
  ⟨_, mem_updBy (mem_insertRev _ _ _ _) (beq_self_eq_true _), rfl, rfl, rfl, rfl, rfl, rfl, rfl⟩

/-! ## The calibrations that wait stay through every visit -/

section
variable (s : State) (x : CalSlot)

theorem placeOp_rlv (o : Op) : (placeOp s o).rlv = s.rlv := by
  obtain ⟨_, _, h⟩ := placeOp_eq s o
  rw [h]

theorem Fires.rlv {s t : State} (h : Fires s t) : t.rlv = s.rlv := by obtain ⟨⟨_, _, _, _, _, rfl⟩, -⟩ := h; rfl

theorem raise_rlv (typ src i0 i1 i2 : Nat) (owner : Option Nat) : (s.raise typ src i0 i1 i2 owner).rlv = s.rlv := by
  unfold State.raise
  split
  · rfl
  · unfold State.dropRecord State.recordEnd
    split <;> rfl

theorem calDoneRecord_rlv : (calDoneRecord s x).rlv = s.rlv := by
  unfold calDoneRecord
  extract_lets s1
  have h1 : s1.rlv = s.rlv := by
    unfold s1
    split <;> exact raise_rlv ..
  split
  · exact h1
  · exact (Fires.produce s1 53).rlv.trans h1

theorem calEnd_calWait : (calEnd s x).rlv.calWait = s.rlv.calWait := by
  unfold calEnd
  split
  · exact (congrArg Rlv.calWait (calDoneRecord_rlv _ x)).trans rfl
  · rfl

theorem calVisited_calWait (skipped : Bool) : (calVisited s x skipped).2.rlv.calWait = s.rlv.calWait := by
  unfold calVisited calReport
  dsimp only
  split
  · rfl
  next n _ =>
    obtain ⟨⟨_, _, _, h⟩, -⟩ := Outputs.deliver n s (64 * x.visit) (calRecord x (if skipped then 0 else s.calGroup x) skipped) false
    rw [h]

theorem calLevelStart_calWait {t : State} (h : calLevelStart s x = some t) : t.rlv.calWait = s.rlv.calWait := by
  unfold calLevelStart at h
  split at h
  · cases h
  · cases h
    exact (congrArg Rlv.calWait (placeOp_rlv _ _)).trans rfl

end

theorem calVisits_calWait (l : List Nat) (x : CalSlot) (s : State) : (calVisits l x s).rlv.calWait = s.rlv.calWait := by
  induction l generalizing x s with
  | nil => exact calEnd_calWait s x
  | cons d l ih =>
    unfold calVisits
    extract_lets y r
    split
    · exact calEnd_calWait s x
    · split
      · exact (ih _ _).trans (calVisited_calWait ..)
      · split
        next t h => exact calLevelStart_calWait s y h
        · exact (ih _ _).trans (calVisited_calWait ..)

/-! ## The start (R288) -/

/-- The block with the first waiting calibration taken. -/
def State.calTaken (s : State) (rest : List (Option Nat × Nat × Nat × Nat)) : State := { s with rlv := { s.rlv with calWait := rest } }

theorem calStart_idle {s : State} (h : s.rlv.calWait = [] ∨ ∀ k, k < 8 → (s.cal k).isSome = true) : calStart s = s := by
  unfold calStart
  split
  next w rest k hw hk =>
    obtain h | h := h
    · rw [h] at hw
      cases hw
    · have hlt := List.mem_range.1 (List.mem_of_find?_eq_some hk)
      have hnone := List.find?_some hk
      rw [← Option.not_isSome, h k hlt] at hnone
      cases hnone
  · rfl

section
variable {s : State} {w : Option Nat × Nat × Nat × Nat} {rest : List (Option Nat × Nat × Nat × Nat)} {k : Nat}
  (hw : s.rlv.calWait = w :: rest) (hk : ((List.range 8).find? fun k => (s.cal k).isNone) = some k)
include hw hk

theorem calStart_calWait : (calStart s).rlv.calWait = rest := by
  unfold calStart
  rw [hw, hk]
  dsimp only
  repeat' split
  · exact calVisits_calWait ..
  · rfl
  · rfl
  · exact calVisits_calWait ..

/-- A template, or a command that has not failed, begins its visits at the LUN its page names. -/
theorem calStart_visits {x : CalSlot} (hx : w.1 = none ∧ x = calFresh k none w.2.1 w.2.2.1 w.2.2.2 s.aclk ∨
    ∃ n c, w.1 = some n ∧ s.slot n = some c ∧ c.failed = false ∧ x = calFresh k (some n) c.entry.paddr c.entry.count (c.entry.x 0 15) s.aclk) :
    calStart s = calVisits (s.lunsFrom (pDie x.page)) x (s.calTaken rest) := by
  unfold calStart
  rw [hw, hk]
  dsimp only
  obtain ⟨hn, rfl⟩ | ⟨n, c, hn, hc, hf, rfl⟩ := hx
  · rw [hn]
    rfl
  · rw [hn]
    dsimp only
    rw [hc]
    dsimp only
    rw [hf]
    rfl

end

/-- The first visit of a LUN with a level to sweep places the read of its first point. -/
theorem calVisits_reads {s : State} {x : CalSlot} {d v : Nat} {l : List Nat} (hl : x.left ≠ 0) (hs : s.calSkip (s.calBegin x d) = false)
    (hv : s.calNextLevel (s.calBegin x d) = some v) :
    ∃ o ∈ (calVisits (d :: l) x s).ops, o.owner = .cal x.k ∧ o.kind = .calRead ∧ o.stage = .queued ∧ o.die = d := by
  have hstart : calVisits (d :: l) x s = calRead s { s.calBegin x d with
      level := v, point := 0, centre := s.offsetAt (s.calBegin x d).temp d (s.calGroup (s.calBegin x d)) v, prev := [], diffs := [] } := by
    unfold calVisits
    extract_lets y r
    rw [if_neg hl, if_neg (Bool.eq_false_iff.1 hs), calLevelStart, hv]
    rfl
  rw [hstart, calRead]
  obtain ⟨o, ho, howner, hkind, hstage, hdie, -⟩ := mem_placeOp_die _ _
  exact ⟨o, ho, howner, hkind, hstage, hdie⟩

section
variable {s : State} (hh : s.held = false) (hs : s.smoking = false) (hst : s.stopped = false)
include hh hs hst

theorem exec_calibrationStart : exec .calibrationStart s = .next (after s (calStart s)) := by
  unfold exec
  exact (run_of_ok _ rfl hh).trans (by rw [if_neg (by simp [hs, hst])])

theorem calibrationStart_idle (h : s.rlv.calWait = [] ∨ ∀ k, k < 8 → (s.cal k).isSome = true) :
    ∃ t, exec .calibrationStart s = .next t ∧ Around s t :=
  ⟨_, exec_calibrationStart hh hs hst, by rw [calStart_idle h]; exact around_after rfl rfl⟩

theorem calibrationStart_begins {w : Option Nat × Nat × Nat × Nat} {rest : List (Option Nat × Nat × Nat × Nat)} {k : Nat}
    (hw : s.rlv.calWait = w :: rest) (hk : ((List.range 8).find? fun k => (s.cal k).isNone) = some k) :
    ∃ t, exec .calibrationStart s = .next t ∧ t.rlv.calWait = rest ∧
      ∀ x d l v, (w.1 = none ∧ x = calFresh k none w.2.1 w.2.2.1 w.2.2.2 s.aclk ∨
          ∃ n c, w.1 = some n ∧ s.slot n = some c ∧ c.failed = false ∧ x = calFresh k (some n) c.entry.paddr c.entry.count (c.entry.x 0 15) s.aclk) →
        x.left ≠ 0 → s.lunsFrom (pDie x.page) = d :: l → s.calSkip (s.calBegin x d) = false → s.calNextLevel (s.calBegin x d) = some v →
        ∃ o ∈ t.ops, o.owner = .cal k ∧ o.kind = .calRead ∧ o.stage = .queued ∧ o.die = d := by
  refine ⟨_, exec_calibrationStart hh hs hst, by rw [after_rlv, calStart_calWait hw hk], fun x d l v hx hleft hluns hskip hnext => ?_⟩
  have hxk : x.k = k := by obtain ⟨-, rfl⟩ | ⟨_, _, -, -, -, rfl⟩ := hx <;> rfl
  have hread := calVisits_reads (s := s.calTaken rest) (l := l) hleft hskip hnext
  rw [hxk] at hread
  rwa [after_ops, calStart_visits hw hk hx, hluns]

end

end Sys2Proof.Machine
end

section
/-!
SUPPORT. The forager's pause and pace (R294, R296, R297) and the temperature polls (R273).
-/

namespace Sys2Proof.Machine

/-! ## The walk -/

/-- A walk that moves on changes its place alone. -/
theorem fgAdvance_eq (s : State) (d : Nat) : ∃ l, fgAdvance s d = s.setFg { s.fg with at_ := l } := by
  unfold fgAdvance
  split
  · exact ⟨s.fg.at_, rfl⟩
  · split
    · exact ⟨s.fg.at_, rfl⟩
    · exact ⟨_, rfl⟩

/-- The end of a pass leaves POS and the count of skipped pages. -/
theorem passEnd_keeps (s : State) : (passEnd s).fg.pos = s.fg.pos ∧ (passEnd s).build = s.build ∧
    (passEnd s).reg A.rlvFgSkipCnt = s.reg A.rlvFgSkipCnt := by
  unfold passEnd
  extract_lets cont
  have hfires := Fires.produce ((s.bump A.rlvFgPassCnt).setFg { s.fg with run := cont, waiting := cont, waitAt := s.aclk, at_ := [], pages := [] }) 54
  have hpos := congrArg (fun r : Rlv => r.fg.pos) hfires.rlv
  have hbuild := hfires.build
  obtain ⟨-, hreg, -⟩ := hfires
  refine ⟨hpos.trans rfl, hbuild, ?_⟩
  exact (hreg _ (fun h => absurd h (by decide)) (by decide) (by decide)).trans (State.reg_bump_ne s 1 (by decide))

theorem fgCheckEnd_keeps (s : State) : (fgCheckEnd s).fg.pos = s.fg.pos ∧ (fgCheckEnd s).build = s.build ∧
    (fgCheckEnd s).reg A.rlvFgSkipCnt = s.reg A.rlvFgSkipCnt := by
  unfold fgCheckEnd
  extract_lets f
  split
  · exact passEnd_keeps s
  · exact ⟨rfl, rfl, rfl⟩

/-- A skipped page counts in POS and in RLV_FG_SKIP_CNT. -/
theorem fgSkip_spec (s : State) : (fgSkip s).fg.pos = s.fg.pos + 1 ∧ (fgSkip s).ops = s.ops ∧ (fgSkip s).build = s.build ∧
    (fgSkip s).regN A.rlvFgSkipCnt = min (s.regN A.rlvFgSkipCnt + 1) (2 ^ 32 - 1) := by
  obtain ⟨hpos, hb, hreg⟩ := fgCheckEnd_keeps ((fgCount s).bump A.rlvFgSkipCnt)
  obtain ⟨hops, -⟩ := fgCheckEnd_frame ((fgCount s).bump A.rlvFgSkipCnt)
  exact ⟨hpos, hops, hb, (congrArg BitVec.toNat hreg).trans (State.regN_bump (fgCount s) A.rlvFgSkipCnt 1)⟩

/-! ## FORAGER_PAUSE_END (R296) -/

section
variable {s : State} (hh : s.held = false)
include hh

theorem exec_foragerPauseEnd : exec .foragerPauseEnd s = .next (after s
    (if s.fg.run && s.fg.waiting && s.pauseOver && s.power.st == .p0 && !s.smoking then passStart s else s)) := by
  unfold exec
  exact run_of_ok _ rfl hh

theorem foragerPauseEnd_starts (hp : s.power.st = .p0) (hs : s.smoking = false) (hr : s.fg.run = true) (hw : s.fg.waiting = true)
    (ho : s.pauseOver = true) (hd : s.fg.dies.all s.fgChanBad = false) : ∃ t, exec .foragerPauseEnd s = .next t ∧ t.fg = s.fg.begun := by
  refine ⟨_, exec_foragerPauseEnd hh, ?_⟩
  rw [if_pos (by simp [hr, hw, ho, hp, hs]), passStart_of_page hd, State.fg, after_rlv]
  rfl

theorem foragerPauseEnd_idle (h : s.fg.run = false ∨ s.fg.waiting = false ∨ s.pauseOver = false) :
    ∃ t, exec .foragerPauseEnd s = .next t ∧ Around s t := by
  refine ⟨_, exec_foragerPauseEnd hh, ?_⟩
  rw [if_neg (by rcases h with h | h | h <;> simp [h])]
  exact around_after rfl rfl

end

/-! ## FORAGER_PACE (R296, R297) -/

/-- The forager walks, and the next page read of die `d` is due. -/
def State.walks (s : State) (d : Nat) : Prop :=
  s.fg.run = true ∧ s.fg.waiting = false ∧ s.power.st = .p0 ∧ s.smoking = false ∧ s.stopped = false ∧ s.paceDue d = true

theorem foragerPace_idle {s : State} {d : Nat}
    (h : s.fg.run = false ∨ s.fg.waiting = true ∨ s.power.st ≠ .p0 ∨ s.smoking = true ∨ s.paceDue d = false) : foragerPace s d = s := by
  unfold foragerPace
  exact if_pos (by rcases h with h | h | h | h | h <;> simp [h])

section
variable {s : State} {d p : Nat} {r : FgRange} (hw : s.walks d) (hhere : s.fgHere d = some (r, p))
include hw hhere

theorem foragerPace_here : foragerPace s d =
    if s.fgChanBad d || s.fgBlockBad p then fgSkip (fgAdvance s d)
    else placeOp ((fgAdvance s d).setFg { (fgAdvance s d).fg with pages := (fgAdvance s d).fg.pages.filter (fun q => q.page != p) ++
        [{ page := p, fmt := r.fmt, left := (s.fmtAt (dieCh d) r.fmt).ncw, refresh := 0, bad := 0, most := 0, steps := 0 }] })
      (mkOp .forager .read 8 0 p r.fmt 1 ((List.range (s.fmtAt (dieCh d) r.fmt).ncw).map fun i => (i, p + i))) := by
  obtain ⟨hrun, hwait, hst, hsmoke, hstop, hdue⟩ := hw
  unfold foragerPace
  extract_lets f
  rw [if_neg (by simp [f, hrun, hwait, hst, hsmoke, hstop, hdue]), hhere]

theorem foragerPace_skips (hb : (s.fgChanBad d || s.fgBlockBad p) = true) : (foragerPace s d).fg.pos = s.fg.pos + 1 ∧ (foragerPace s d).ops = s.ops ∧
    (foragerPace s d).build = s.build ∧ (foragerPace s d).regN A.rlvFgSkipCnt = min (s.regN A.rlvFgSkipCnt + 1) (2 ^ 32 - 1) := by
  obtain ⟨l, hl⟩ := fgAdvance_eq s d
  rw [foragerPace_here hw hhere, if_pos hb, hl]
  exact fgSkip_spec (s.setFg { s.fg with at_ := l })

theorem foragerPace_reads (hb : (s.fgChanBad d || s.fgBlockBad p) = false) : (∃ q ∈ (foragerPace s d).fg.pages, q.page = p) ∧
    ∃ o ∈ (foragerPace s d).ops, o.owner = .forager ∧ o.kind = .read ∧ o.stage = .queued ∧ o.cls = 8 ∧ o.paddr = p ∧ o.fmt = r.fmt := by
  rw [foragerPace_here hw hhere, if_neg (Bool.eq_false_iff.1 hb)]
  constructor
  · rw [State.fg, placeOp_rlv]
    exact ⟨_, List.mem_append_right _ List.mem_cons_self, rfl⟩
  · obtain ⟨o, ho, howner, hkind, hstage, -, hcls, hpaddr, hfmt⟩ := mem_placeOp_die _ _
    exact ⟨o, ho, howner, hkind, hstage, hcls, hpaddr, hfmt⟩

end

section
variable {s : State} {d : Nat} (hh : s.held = false) (hd : d < 2048)
include hh hd

theorem exec_foragerPace : exec (.foragerPace d) s = .next (after s (foragerPace s d)) := by
  unfold exec
  exact run_of_ok _ (decide_eq_true hd) hh

theorem exec_foragerPace_idle (h : s.fg.run = false ∨ s.fg.waiting = true ∨ s.power.st ≠ .p0 ∨ s.smoking = true ∨ s.paceDue d = false) :
    ∃ t, exec (.foragerPace d) s = .next t ∧ Around s t :=
  ⟨_, exec_foragerPace hh hd, by rw [foragerPace_idle h]; exact around_after rfl rfl⟩

theorem exec_foragerPace_skips {r : FgRange} {p : Nat} (hw : s.walks d) (hhere : s.fgHere d = some (r, p))
    (hb : (s.fgChanBad d || s.fgBlockBad p) = true) : ∃ t, exec (.foragerPace d) s = .next t ∧ t.fg.pos = s.fg.pos + 1 ∧ t.ops = s.ops ∧
      t.regN A.rlvFgSkipCnt = min (s.regN A.rlvFgSkipCnt + 1) (2 ^ 32 - 1) := by
  obtain ⟨hpos, hops, hbuild, hcnt⟩ := foragerPace_skips hw hhere hb
  refine ⟨_, exec_foragerPace hh hd, ?_, (after_ops ..).trans hops, (after_regN hbuild (by decide) (by decide) (by decide)).trans hcnt⟩
  rw [State.fg, after_rlv]
  exact hpos

theorem exec_foragerPace_reads {r : FgRange} {p : Nat} (hw : s.walks d) (hhere : s.fgHere d = some (r, p))
    (hb : (s.fgChanBad d || s.fgBlockBad p) = false) : ∃ t, exec (.foragerPace d) s = .next t ∧ (∃ q ∈ t.fg.pages, q.page = p) ∧
      ∃ o ∈ t.ops, o.owner = .forager ∧ o.kind = .read ∧ o.stage = .queued ∧ o.cls = 8 ∧ o.paddr = p ∧ o.fmt = r.fmt := by
  refine ⟨_, exec_foragerPace hh hd, ?_⟩
  rw [State.fg, after_rlv, after_ops]
  exact foragerPace_reads hw hhere hb

end

/-! ## Temperature polls (R273) -/

section
variable {s : State} {ch i : Nat} (hh : s.held = false) (hch : ch < 32) (hi : i < 16)
include hh hch hi

theorem exec_tempPoll (v : Option Byte) : exec (.tempPoll ch i v) s = .next (after s (if s.pollFree ch i then
    (match v with
     | some b => pollOk { s with rlv := { s.rlv with polled := putBy Prod.fst (tempIdx (ch * 64 + i * 4), s.aclk) s.rlv.polled } } (ch * 64 + i * 4) b
     | none => { s with rlv := { s.rlv with polled := putBy Prod.fst (tempIdx (ch * 64 + i * 4), s.aclk) s.rlv.polled } }) else s)) := by
  unfold exec
  exact run_of_ok _ (by simp [hch, hi]) hh

/-- An answer becomes T of the target. -/
theorem tempPoll_answered (hf : s.pollFree ch i = true) (v : Byte) : ∃ t, exec (.tempPoll ch i (some v)) s = .next t ∧
    (tempIdx (ch * 64 + i * 4), BitVec.ofInt 8 ((v.toNat : Int) - ((fld (s.dtB (ch * 64 + i * 4)) 0 8 : Nat) : Int)), false) ∈ t.rlv.temps := by
  refine ⟨_, exec_tempPoll hh hch hi _, ?_⟩
  rw [if_pos hf, after_rlv]
  exact List.mem_append_right _ List.mem_cons_self

theorem tempPoll_unanswered (hf : s.pollFree ch i = true) : ∃ t, exec (.tempPoll ch i none) s = .next t ∧
    Around { s with rlv := { s.rlv with polled := putBy Prod.fst (tempIdx (ch * 64 + i * 4), s.aclk) s.rlv.polled } } t := by
  refine ⟨_, exec_tempPoll hh hch hi _, ?_⟩
  rw [if_pos hf]
  exact around_after rfl rfl

theorem tempPoll_idle (hf : s.pollFree ch i = false) (v : Option Byte) : ∃ t, exec (.tempPoll ch i v) s = .next t ∧ Around s t := by
  refine ⟨_, exec_tempPoll hh hch hi _, ?_⟩
  rw [if_neg (Bool.eq_false_iff.1 hf)]
  exact around_after rfl rfl

theorem exec_tempPollStale : exec (.tempPollStale ch i) s = .next (after s (
    if (s.rlv.temps.any fun x => x.1 == ch * 16 + i) && decide ((assoc s.rlv.pollGood (ch * 16 + i)).getD 0 + 4000 * s.fldAt ch A.rlvTpoll 0 16 ≤ s.aclk) then
      { s with rlv := { s.rlv with temps := s.rlv.temps.filter (fun x => x.1 != ch * 16 + i) ++
          [(ch * 16 + i, BitVec.ofInt 8 (s.tempIn (ch / 8)), true)] } }
    else s)) := by
  unfold exec
  exact run_of_ok _ (by simp [hch, hi]) hh

theorem tempPollStale_gives_way (hs : (assoc s.rlv.pollGood (ch * 16 + i)).getD 0 + 4000 * s.fldAt ch A.rlvTpoll 0 16 ≤ s.aclk)
    (hx : ∃ x ∈ s.rlv.temps, x.1 = ch * 16 + i) : ∃ t, exec (.tempPollStale ch i) s = .next t ∧
      t.rlv.temps = s.rlv.temps.filter (fun x => x.1 != ch * 16 + i) ++ [(ch * 16 + i, BitVec.ofInt 8 (s.tempIn (ch / 8)), true)] := by
  have hany : (s.rlv.temps.any fun x => x.1 == ch * 16 + i) = true := by simpa [List.any_eq_true] using hx
  refine ⟨_, exec_tempPollStale hh hch hi, ?_⟩
  rw [if_pos (by rw [hany, decide_eq_true hs]; rfl), after_rlv]

theorem tempPollStale_idle (h : ¬(assoc s.rlv.pollGood (ch * 16 + i)).getD 0 + 4000 * s.fldAt ch A.rlvTpoll 0 16 ≤ s.aclk ∨
    ∀ x ∈ s.rlv.temps, x.1 ≠ ch * 16 + i) : ∃ t, exec (.tempPollStale ch i) s = .next t ∧ Around s t := by
  refine ⟨_, exec_tempPollStale hh hch hi, ?_⟩
  rw [if_neg]
  · exact around_after rfl rfl
  · rw [Bool.and_eq_true, List.any_eq_true, decide_eq_true_eq]
    rintro ⟨⟨x, hx, he⟩, hs⟩
    rcases h with h | h
    · exact h hs
    · exact h x hx (beq_iff_eq.1 he)

end

end Sys2Proof.Machine
end

section
/-!
SUPPORT. The reads of the block's own memories (R376, R382, R385) and the scrubber's step (R247, R384).
-/

namespace Sys2Proof.Machine

/-! ## What the handling of a finding leaves -/

/-- From `s` to `t` the stored poison, the scrubber's places, the control stores and the registers past the fabric's stay, those in `l` apart. -/
def MemKept (l : List Nat) (s t : State) : Prop :=
  t.build = s.build ∧ t.stores = s.stores ∧ t.mem.poison = s.mem.poison ∧ t.mem.scrubAt = s.mem.scrubAt ∧
  ∀ a, 0x060000 ≤ a → a ∉ l → t.reg a = s.reg a

/-- The block with the scrubber elsewhere. -/
def State.withScrubAt (s : State) (l : List (Nat × Nat)) : State := { s with mem := { s.mem with scrubAt := l } }

section
variable {l m : List Nat} {s t u : State}

theorem MemKept.refl (l : List Nat) (s : State) : MemKept l s s := ⟨rfl, rfl, rfl, rfl, fun _ _ _ => rfl⟩

theorem MemKept.trans (h : MemKept l s t) (k : MemKept l t u) : MemKept l s u := by
  obtain ⟨hb, hst, hp, hsc, hr⟩ := h
  obtain ⟨kb, kst, kp, ksc, kr⟩ := k
  exact ⟨kb.trans hb, kst.trans hst, kp.trans hp, ksc.trans hsc, fun a ha hn => (kr a ha hn).trans (hr a ha hn)⟩

theorem MemKept.mono (h : MemKept l s t) (hl : l ⊆ m) : MemKept m s t := by
  obtain ⟨hb, hst, hp, hsc, hr⟩ := h
  exact ⟨hb, hst, hp, hsc, fun a ha hn => hr a ha fun hm => hn (hl hm)⟩

/-- Where the scrubber stands makes no difference. -/
theorem MemKept.withScrubAt (h : MemKept l s t) (x : List (Nat × Nat)) : MemKept l (s.withScrubAt x) (t.withScrubAt x) := by
  obtain ⟨hb, hst, hp, -, hr⟩ := h
  exact ⟨hb, hst, hp, rfl, hr⟩

theorem MemKept.bump (l : List Nat) (s : State) {a : Nat} (h : a ∈ l) (n : Nat) : MemKept l s (s.bump a n) :=
  ⟨rfl, rfl, rfl, rfl, fun _ _ hn => State.reg_bump_ne s n fun he => hn (he ▸ h)⟩

theorem MemKept.setMemSts (s : State) (i : Nat) (h : A.memSts ∈ l) : MemKept l s (setMemSts s i) :=
  ⟨rfl, rfl, rfl, rfl, fun _ _ hn => State.reg_setFldOf_ne s i 1 1 fun he => hn (he ▸ h)⟩

theorem MemKept.of_fires (h : Fires s t) : MemKept l s t := by
  obtain ⟨⟨r, w, n, al, p, he⟩, hr, -⟩ := h
  refine ⟨by rw [he], by rw [he], by rw [he], by rw [he], fun a ha _ => hr a (fun hg => ?_) ?_ (.inr (by omega))⟩
  · unfold A.glbPwrCtl at hg
    omega
  · unfold A.hqArDropCnt
    omega

/-- What follows a command keeps as much. -/
theorem memKept_after (h : t.build = s.build) : MemKept l t (after s t) :=
  ⟨(after_build s t).trans h.symm, after_stores s t, congrArg Mem.poison (after_mem s t), congrArg Mem.scrubAt (after_mem s t),
    fun _ ha _ => after_reg h (fun hg => by unfold A.glbPwrCtl at hg; omega) (by unfold A.hqArDropCnt; omega) (.inr (by omega))⟩

theorem MemKept.build (h : MemKept l s t) : t.build = s.build := by
  obtain ⟨hb, -⟩ := h
  exact hb

theorem MemKept.regN (h : MemKept l s t) {a : Nat} (ha : 0x060000 ≤ a) (hn : a ∉ l) : t.regN a = s.regN a := by
  obtain ⟨-, -, -, -, hr⟩ := h
  rw [State.regN, hr a ha hn, State.regN]

/-- Source 3 is raised while MEM_STS says that an uncorrectable unit was found (R391). -/
theorem MemKept.raised (h : MemKept l s t) (hn : A.memSts ∉ l) : t.raised 3 = (s.fldOf A.memSts 1 1 == 1) := by
  obtain ⟨-, -, -, -, hr⟩ := h
  have hraised : t.raised 3 = (t.fldOf A.memSts 1 1 == 1) := rfl
  rw [hraised, State.fldOf, hr _ (by decide) hn, State.fldOf]

end

theorem Fires.event (s : State) (n : Nat) : Fires s (s.event n) := .setSrc _ _ (by simp) (by simp)

/-! ## Correctable units (R382, R383) -/

/-- The registers that the log of correctable errors uses beyond the count of those errors. -/
def ceLogRegs : List Nat := [A.memSts, A.memCeLostCnt]

theorem queueRepair_kept (s : State) (mem inst addr : Nat) : MemKept ceLogRegs s (queueRepair s mem inst addr).2 := by
  unfold queueRepair
  extract_lets key
  split
  · exact .refl _ s
  · exact .setMemSts s 2 (by decide)

/-- A correctable unit is counted; beyond that its log alone moves. -/
theorem correctable_kept (s : State) (mem inst addr syn : Nat) (scrub fill : Bool) :
    MemKept ceLogRegs (s.bump A.memCeCnt) (correctable s mem inst addr syn scrub fill) := by
  unfold correctable
  extract_lets s0 e
  have hset : ∀ x, MemKept ceLogRegs s0 (setCe s0 x) := fun _ => .refl _ s0
  split
  next x _ =>
    extract_lets y r
    split
    · exact ((hset _).trans (queueRepair_kept _ mem inst addr)).trans (.of_fires (.raise ..))
    · exact hset y
  · split
    · have hlost : MemKept ceLogRegs s0 (setMemSts (s0.bump A.memCeLostCnt) 3) := (MemKept.bump _ s0 (by decide) 1).trans (.setMemSts _ 3 (by decide))
      split
      · exact hlost.trans (queueRepair_kept _ mem inst addr)
      · exact hlost
    next i _ =>
      extract_lets x s1
      have hnew : MemKept ceLogRegs s0 s1 := .trans (t := setCe { s0 with mem := { s0.mem with births := s0.mem.births + 1 } } x) (.refl _ s0)
        (.setMemSts _ 0 (by decide))
      split
      · exact hnew.trans (queueRepair_kept _ mem inst addr)
      · exact hnew.trans (.of_fires (.raise ..))

theorem writeBack_kept (l : List Nat) (s : State) (mem inst addr : Nat) : MemKept l s (writeBack s mem inst addr) := by
  unfold writeBack
  split
  · split <;> exact .refl l s
  · exact .refl l s

/-! ## Uncorrectable units (R377, R385) -/

theorem spoil_kept (l : List Nat) (s : State) (mem inst : Nat) : MemKept l s (spoil s mem inst) := by
  unfold spoil
  split
  · unfold spoilRead
    extract_lets t
    split <;> exact .refl l s
  · split
    · unfold spoilWrite
      extract_lets n t imgs us
      split
      · exact .refl l s
      · split <;> exact .refl l s
    · exact .refl l s

/-- The block with an uncorrectable error counted and shown in MEM_STS. -/
def State.ueCounted (s : State) : State := setMemSts (s.bump A.memUeCnt) 1

theorem ueCounted_regN (s : State) : s.ueCounted.regN A.memUeCnt = min (s.regN A.memUeCnt + 1) (2 ^ 32 - 1) := by
  rw [State.regN, State.ueCounted, setMemSts, State.reg_setFldOf_ne _ _ _ _ (by decide)]
  exact s.regN_bump A.memUeCnt 1

theorem ueCounted_fld (s : State) : s.ueCounted.fldOf A.memSts 1 1 = 1 := State.fldOf_setFldOf_self _ _ 1 (by decide)

theorem ownerOf_kept (l : List Nat) (s : State) (mem addr : Nat) : MemKept l s (ownerOf s mem addr).2 := by
  unfold ownerOf
  extract_lets code
  split
  · exact .refl l s
  · split
    · split <;> exact .refl l s
    · exact .refl l s

/-- An uncorrectable unit is counted and holds stored poison; the report beyond that leaves both. -/
theorem uncorrectable_kept (s : State) (mem inst addr syn : Nat) (scrub : Bool) :
    MemKept [] (storePoison s.ueCounted mem inst addr) (uncorrectable s mem inst addr syn scrub) := by
  unfold uncorrectable
  extract_lets s1 s3 o
  exact ((MemKept.of_fires (.event _ 3)).trans (ownerOf_kept [] s3 mem addr)).trans (.of_fires (.raise ..))

theorem mem_storePoison (s : State) (mem inst addr : Nat) : (mem, inst, addr) ∈ (storePoison s mem inst addr).mem.poison := by
  unfold storePoison
  split
  next h =>
    obtain ⟨⟨m, i, a⟩, hx, he⟩ := List.any_eq_true.1 h
    simp only [Bool.and_eq_true, beq_iff_eq, decide_eq_true_eq] at he
    obtain ⟨⟨⟨rfl, rfl⟩, hlo⟩, hhi⟩ := he
    obtain rfl : addr = a := by omega
    exact hx
  · exact List.mem_append_right _ List.mem_cons_self

theorem storePoison_keeps (s : State) (mem inst addr : Nat) : (storePoison s mem inst addr).mem.scrubAt = s.mem.scrubAt ∧
    (storePoison s mem inst addr).build = s.build ∧ (∀ a, (storePoison s mem inst addr).reg a = s.reg a) := by
  unfold storePoison
  split <;> exact ⟨rfl, rfl, fun _ => rfl⟩

/-! ## A read of a unit (R376) -/

section
variable {s : State} {mem inst a u : Nat} (scrub queue : Bool)

/-- What R376 finds in a unit of memory `mem`. -/
def finding (mem u : Nat) : Finding := judge (codeLen mem) (unitSyn mem u).1 (unitSyn mem u).2

theorem readUnit_clean (h : finding mem u = .clean) : readUnit mem inst scrub queue s (a, u) = s := by
  unfold finding at h
  simp only [readUnit, h]

theorem readUnit_fixed_scrub (h : finding mem u = .fixed) : MemKept ceLogRegs (s.bump A.memCeCnt) (readUnit mem inst true queue s (a, u)) := by
  unfold finding at h
  simp only [readUnit, h, if_true]
  exact (correctable_kept ..).trans (writeBack_kept ..)

/-- A unit corrected for another reader counts in its staging queue too, where it is of a queue of memory 0 (R370). -/
theorem readUnit_fixed_reader (h : finding mem u = .fixed) : ∃ t, MemKept ceLogRegs (s.bump A.memCeCnt) t ∧
    readUnit mem inst false queue s (a, u) = if queue && mem == 0 then t.bump (A.movSqCorrCnt inst) else t := by
  unfold finding at h
  simp only [readUnit, h, Bool.false_eq_true, if_false]
  exact ⟨_, correctable_kept .., rfl⟩

theorem readUnit_bad (h : finding mem u = .bad) : MemKept [] (storePoison s.ueCounted mem inst a) (readUnit mem inst scrub queue s (a, u)) := by
  unfold finding at h
  simp only [readUnit, h]
  exact (uncorrectable_kept ..).trans (spoil_kept ..)

theorem readUnit_poison (h : finding mem u = .poison) :
    MemKept [] s (readUnit mem inst scrub queue s (a, u)) ∨ MemKept [] (storePoison s mem inst a) (readUnit mem inst scrub queue s (a, u)) := by
  unfold finding at h
  simp only [readUnit, h]
  split
  · exact .inl (.refl _ s)
  · exact .inr (spoil_kept ..)

/-- No read moves the scrubber. -/
theorem readUnit_keeps : (readUnit mem inst scrub queue s (a, u)).mem.scrubAt = s.mem.scrubAt ∧
    (readUnit mem inst scrub queue s (a, u)).build = s.build := by
  cases h : finding mem u with
  | clean => rw [readUnit_clean scrub queue h]; exact ⟨rfl, rfl⟩
  | fixed =>
    cases scrub with
    | true =>
      obtain ⟨hb, -, -, hsc, -⟩ := readUnit_fixed_scrub (s := s) (inst := inst) (a := a) queue h
      exact ⟨hsc, hb⟩
    | false =>
      obtain ⟨t, ⟨hb, -, -, hsc, -⟩, ht⟩ := readUnit_fixed_reader (s := s) (inst := inst) (a := a) queue h
      rw [ht]
      split <;> exact ⟨hsc, hb⟩
  | bad =>
    obtain ⟨hb, -, -, hsc, -⟩ := readUnit_bad (s := s) (inst := inst) (a := a) scrub queue h
    obtain ⟨ksc, kb, -⟩ := storePoison_keeps s.ueCounted mem inst a
    exact ⟨hsc.trans ksc, hb.trans kb⟩
  | poison =>
    obtain ⟨hb, -, -, hsc, -⟩ | ⟨hb, -, -, hsc, -⟩ := readUnit_poison (s := s) (inst := inst) (a := a) scrub queue h
    · exact ⟨hsc, hb⟩
    · obtain ⟨ksc, kb, -⟩ := storePoison_keeps s mem inst a
      exact ⟨hsc.trans ksc, hb.trans kb⟩

theorem readUnits_one (mem inst a u : Nat) (s : State) : readUnits mem inst a [u] scrub queue s = readUnit mem inst scrub queue s (a, u) := by
  have htake : [u].take (if mem ≤ 1 then 1 else 8) = [u] := by split <;> rfl
  rw [readUnits, htake]
  rfl

end

/-! ## A control-store word (R247) -/

section
variable {s : State} {g a : Nat} {w : BitVec 132}

theorem scrubWord_sound (h : badSlices w = 0) : scrubWord s g a w = s := by
  unfold scrubWord
  exact if_pos h

/-- A bad word of the ROM image comes from the ROM again. -/
theorem scrubWord_rom (h : badSlices w ≠ 0) (ha : a < 11264) :
    scrubWord s g a w = (s.setStore g { s.store g with words := delBy Prod.fst a (s.store g).words }).bump (A.seqCsFixCnt g) := by
  unfold scrubWord
  exact (if_neg h).trans (if_pos ha)

/-- Any other bad word stays and is reported. -/
theorem scrubWord_reported (h : badSlices w ≠ 0) (ha : 11264 ≤ a) :
    MemKept [] (s.setStore g { s.store g with words := putBy Prod.fst (a, w) (s.store g).words, csErr := true }).ueCounted (scrubWord s g a w) := by
  unfold scrubWord
  extract_lets slices st s1 s2
  rw [if_neg h, if_neg (Nat.not_lt.2 ha)]
  exact (MemKept.of_fires (.event _ 3)).trans (.of_fires (.raise ..))

theorem scrubWord_keeps : (scrubWord s g a w).mem.scrubAt = s.mem.scrubAt ∧ (scrubWord s g a w).build = s.build := by
  by_cases h : badSlices w = 0
  · rw [scrubWord_sound h]
    exact ⟨rfl, rfl⟩
  · obtain ha | ha := Nat.lt_or_ge a 11264
    · rw [scrubWord_rom h ha]
      exact ⟨rfl, rfl⟩
    · obtain ⟨hb, -, -, hsc, -⟩ := scrubWord_reported (s := s) (g := g) h ha
      exact ⟨hsc, hb⟩

end

/-! ## The walk (R384) -/

/-- The counters of the scrubber's passes. -/
def scrubRegs : List Nat := [A.memScrubLateCnt, A.memScrubPassCnt]

/-- The address after the scrubber's, or the first of the bank group. -/
def State.scrubNext (s : State) (mem inst bg : Nat) : Nat :=
  if s.scrubPos mem inst bg + scrubStride mem < bgBase mem bg + bgSize mem then s.scrubPos mem inst bg + scrubStride mem else bgBase mem bg

/-- The scrubber's places once it has moved on. -/
def State.scrubMoved (s : State) (mem inst bg : Nat) : List (Nat × Nat) := putBy Prod.fst (bgKey mem inst bg, s.scrubNext mem inst bg) s.mem.scrubAt

theorem scrubMove_kept (s : State) (mem inst bg : Nat) :
    MemKept scrubRegs (s.withScrubAt (s.scrubMoved mem inst bg)) (scrubMove s mem inst bg) := by
  unfold scrubMove
  extract_lets base late next m s1 s2 m2
  split
  next h =>
    rw [State.scrubMoved, State.scrubNext, if_pos h]
    exact .refl ..
  next h =>
    have hfirst : MemKept scrubRegs (s.withScrubAt (s.scrubMoved mem inst bg)) s1 := by
      rw [State.scrubMoved, State.scrubNext, if_neg h]
      exact .refl _ s1
    have hlate : MemKept scrubRegs s1 s2 := by
      unfold s2
      split
      · exact .bump _ s1 (by decide) 1
      · exact .refl _ s1
    split
    · exact (hfirst.trans hlate).trans (.trans (t := { s2 with mem := { s2.mem with passed := [] } }) (.refl _ s2) (.bump _ _ (a := A.memScrubPassCnt) (by decide) 1))
    · exact hfirst.trans hlate

/-- The block after the scrubber has read the unit `u` where it stands. -/
def State.scrubRead (s : State) (mem inst bg u : Nat) : State :=
  if mem = 5 then scrubWord s inst (s.scrubPos mem inst bg) (BitVec.ofNat 132 u) else readUnit mem inst true false s (s.scrubPos mem inst bg, u)

theorem scrubStep_one (s : State) (mem inst bg u : Nat) : scrubStep s mem inst bg [u] = scrubMove (s.scrubRead mem inst bg u) mem inst bg := by
  unfold scrubStep State.scrubRead
  extract_lets a s1
  unfold s1
  rw [readUnits_one]

theorem scrubRead_keeps (s : State) (mem inst bg u : Nat) : (s.scrubRead mem inst bg u).mem.scrubAt = s.mem.scrubAt ∧
    (s.scrubRead mem inst bg u).build = s.build := by
  unfold State.scrubRead
  split
  · exact scrubWord_keeps
  · exact readUnit_keeps true false

/-! ## SCRUB_STEP -/

section
variable {s : State} {mem inst bg : Nat} (hh : s.held = false) (hm : mem < 8) (hi : inst < 32) (hb : bg < 16)
include hh hm hi hb

theorem exec_scrubStep (units : List Nat) : exec (.scrubStep mem inst bg units .scrubber) s =
    .next (after s (if s.scrubs mem inst bg then scrubStep s mem inst bg units else s)) := by
  unfold exec
  exact run_of_ok _ (by simp [hm, hi, hb]) hh

theorem scrubStep_idle (h : s.scrubs mem inst bg = false) (units : List Nat) :
    ∃ t, exec (.scrubStep mem inst bg units .scrubber) s = .next t ∧ Around s t := by
  refine ⟨_, exec_scrubStep hh hm hi hb units, ?_⟩
  rw [if_neg (Bool.eq_false_iff.1 h)]
  exact around_after rfl rfl

/-- A step that is due handles the unit read, and the scrubber moves on. -/
theorem scrubStep_spec (h : s.scrubs mem inst bg = true) (u : Nat) : ∃ t l, exec (.scrubStep mem inst bg [u] .scrubber) s = .next t ∧
    assoc t.mem.scrubAt (bgKey mem inst bg) = some (s.scrubNext mem inst bg) ∧ MemKept scrubRegs ((s.scrubRead mem inst bg u).withScrubAt l) t := by
  obtain ⟨hat, hbuild⟩ := scrubRead_keeps s mem inst bg u
  have hmove := scrubMove_kept (s.scrubRead mem inst bg u) mem inst bg
  have hnext : (s.scrubRead mem inst bg u).scrubNext mem inst bg = s.scrubNext mem inst bg := by
    unfold State.scrubNext State.scrubPos
    rw [hat]
  refine ⟨_, _, (exec_scrubStep hh hm hi hb [u]).trans (by rw [if_pos h, scrubStep_one]), ?_, hmove.trans (memKept_after (hmove.build.trans hbuild))⟩
  obtain ⟨-, -, -, hsc, -⟩ := hmove
  rw [after_mem, hsc, State.withScrubAt, State.scrubMoved, hnext]
  exact assoc_putBy_self ..

end

/-- Another reader's read of 8 bytes of memory 0 is that of its unit. -/
theorem exec_scrubStep_reader {s : State} {inst a : Nat} (hh : s.held = false) (hi : inst < 32) (hr : s.reads 0 inst 0 = true) (ha : a < 393216)
    (h8 : a % 8 = 0) (u : Nat) (queue : Bool) :
    exec (.scrubStep 0 inst 0 [u] (.reader a queue)) s = .next (after s (readUnit 0 inst false queue s (a, u))) := by
  have hin : (0 != 5 && s.reads 0 inst 0 && decide (bgBase 0 0 ≤ a) && decide (a < bgBase 0 0 + bgSize 0) && a % scrubStride 0 == 0) = true := by
    simp [hr, bgBase, bgSize, scrubStride, ha, h8]
  unfold exec
  refine (run_of_ok _ (by simp [hi]) hh).trans ?_
  dsimp only
  rw [if_pos hin, readUnits_one]

end Sys2Proof.Machine
end

section
/-!
SUPPORT. The engines that work by themselves: what the scrubber, or another reader, does by what it reads (R247, R370, R382, R385), and the
statement.
-/

namespace Sys2Proof.Machine

/-! ## The scrubber's step in a control store (R247) -/

/-- The scrubber's counters lie among those of memory protection. -/
theorem not_mem_scrubRegs {a : Nat} (h : 0x07005C < a) : a ∉ scrubRegs := by
  simp only [scrubRegs, A.memScrubLateCnt, A.memScrubPassCnt, List.mem_cons, List.not_mem_nil, or_false]
  omega

/-- A control store that is scrubbed is one of the part's. -/
theorem lt_of_scrubs {s : State} {inst bg : Nat} (h : s.scrubs 5 inst bg = true) : inst < 4 := by
  simp only [State.scrubs, State.reads, Bool.and_eq_true] at h
  obtain ⟨⟨-, ⟨-, hinst⟩, -⟩, -⟩ := h
  exact lt_of_groupOk hinst

section
variable {s t : State} {inst bg u : Nat} {l : List (Nat × Nat)} (k : MemKept scrubRegs ((s.scrubRead 5 inst bg u).withScrubAt l) t)
include k

theorem scrubbed_sound_word (h : badSlices (BitVec.ofNat 132 u) = 0) : t.stores = s.stores ∧ t.regN A.memUeCnt = s.regN A.memUeCnt := by
  have hread : s.scrubRead 5 inst bg u = s := scrubWord_sound h
  rw [hread] at k
  have hcnt := k.regN (a := A.memUeCnt) (by decide) (by decide)
  obtain ⟨-, hstores, -⟩ := k
  exact ⟨hstores, hcnt⟩

theorem scrubbed_rom_word (hi : inst < 4) (h : badSlices (BitVec.ofNat 132 u) ≠ 0) (ha : s.scrubPos 5 inst bg < 11264) :
    assoc (t.store inst).words (s.scrubPos 5 inst bg) = none ∧
      t.regN (A.seqCsFixCnt inst) = min (s.regN (A.seqCsFixCnt inst) + 1) (2 ^ 32 - 1) := by
  have hread := scrubWord_rom (s := s) (g := inst) h ha
  rw [State.scrubRead, if_pos rfl, hread] at k
  have hcnt := k.regN (a := A.seqCsFixCnt inst) (by unfold A.seqCsFixCnt; omega) (not_mem_scrubRegs (by unfold A.seqCsFixCnt; omega))
  obtain ⟨-, hstores, -⟩ := k
  have hstore : t.store inst = { s.store inst with words := delBy Prod.fst (s.scrubPos 5 inst bg) (s.store inst).words } := by
    rw [State.store, hstores]
    exact s.store_setStore_self _ hi
  refine ⟨?_, hcnt.trans (State.regN_bump _ (A.seqCsFixCnt inst) 1)⟩
  rw [hstore, assoc, getBy_delBy_self]
  rfl

theorem scrubbed_reported_word (hi : inst < 4) (h : badSlices (BitVec.ofNat 132 u) ≠ 0) (ha : 11264 ≤ s.scrubPos 5 inst bg) :
    (t.store inst).csErr = true ∧ t.raised 3 = true ∧ t.regN A.memUeCnt = min (s.regN A.memUeCnt + 1) (2 ^ 32 - 1) := by
  have hword := scrubWord_reported (s := s) (g := inst) h ha
  set x : Store := { s.store inst with
    words := putBy Prod.fst (s.scrubPos 5 inst bg, BitVec.ofNat 132 u) (s.store inst).words, csErr := true } with hx
  rw [State.scrubRead, if_pos rfl] at k
  have hkept := ((hword.mono (List.nil_subset scrubRegs)).withScrubAt l).trans k
  have hraised := hkept.raised (by decide)
  have hcnt := hkept.regN (a := A.memUeCnt) (by decide) (by decide)
  obtain ⟨-, hstores, -⟩ := hkept
  have hstore : t.store inst = x := by
    rw [State.store, hstores]
    exact s.store_setStore_self x hi
  exact ⟨by rw [hstore, hx], hraised.trans (beq_iff_eq.2 (ueCounted_fld (s.setStore inst x))), hcnt.trans (ueCounted_regN (s.setStore inst x))⟩

end

/-! ## A unit of another memory (R382, R385) -/

/-- An uncorrectable unit shows as stored poison, as source 3 and in its count. -/
theorem uncorrectable_shown {s t : State} {mem inst a : Nat} {l : List (Nat × Nat)}
    (k : MemKept scrubRegs ((storePoison s.ueCounted mem inst a).withScrubAt l) t) :
    (mem, inst, a) ∈ t.mem.poison ∧ t.raised 3 = true ∧ t.regN A.memUeCnt = min (s.regN A.memUeCnt + 1) (2 ^ 32 - 1) := by
  obtain ⟨-, -, hreg⟩ := storePoison_keeps s.ueCounted mem inst a
  have hraised := k.raised (by decide)
  have hcnt := k.regN (a := A.memUeCnt) (by decide) (by decide)
  obtain ⟨-, -, hpoison, -⟩ := k
  have hfld : (storePoison s.ueCounted mem inst a).fldOf A.memSts 1 1 = 1 := by
    rw [State.fldOf, hreg]
    exact ueCounted_fld s
  refine ⟨?_, hraised.trans (beq_iff_eq.2 hfld), (hcnt.trans (congrArg BitVec.toNat (hreg _))).trans (ueCounted_regN s)⟩
  rw [hpoison]
  exact mem_storePoison ..

section
variable {s t : State} {mem inst bg u : Nat} {l : List (Nat × Nat)} (k : MemKept scrubRegs ((s.scrubRead mem inst bg u).withScrubAt l) t) (h5 : mem ≠ 5)
include k h5

theorem scrubbed_bad (h : finding mem u = .bad) : (mem, inst, s.scrubPos mem inst bg) ∈ t.mem.poison ∧ t.raised 3 = true ∧
    t.regN A.memUeCnt = min (s.regN A.memUeCnt + 1) (2 ^ 32 - 1) := by
  have hunit := ((readUnit_bad (s := s) (inst := inst) (a := s.scrubPos mem inst bg) true false h).mono (List.nil_subset scrubRegs)).withScrubAt l
  rw [State.scrubRead, if_neg h5] at k
  exact uncorrectable_shown (hunit.trans k)

theorem scrubbed_fixed (h : finding mem u = .fixed) : t.mem.poison = s.mem.poison ∧ t.regN A.memCeCnt = min (s.regN A.memCeCnt + 1) (2 ^ 32 - 1) := by
  have hunit := (readUnit_fixed_scrub (s := s) (inst := inst) (a := s.scrubPos mem inst bg) false h).withScrubAt l
  rw [State.scrubRead, if_neg h5] at k
  have hkept := (hunit.mono (List.subset_append_left ceLogRegs scrubRegs)).trans (k.mono (List.subset_append_right ceLogRegs scrubRegs))
  have hcnt := hkept.regN (a := A.memCeCnt) (by decide) (by decide)
  obtain ⟨-, -, hpoison, -⟩ := hkept
  exact ⟨hpoison, hcnt.trans (s.regN_bump A.memCeCnt 1)⟩

theorem scrubbed_clean (h : finding mem u = .clean) : t.mem.poison = s.mem.poison ∧ t.reg A.memUeCnt = s.reg A.memUeCnt := by
  rw [State.scrubRead, if_neg h5, readUnit_clean true false h] at k
  obtain ⟨-, -, hpoison, -, hreg⟩ := k
  exact ⟨hpoison, hreg _ (by decide) (by decide)⟩

end

/-! ## Another reader of memory 0 (R370, R382, R385) -/

section
variable {s t : State} {inst a u : Nat} {queue : Bool} (k : MemKept [] (readUnit 0 inst false queue s (a, u)) t)
include k

theorem reader_bad (h : finding 0 u = .bad) : (0, inst, a) ∈ t.mem.poison ∧ t.raised 3 = true := by
  have hkept := ((readUnit_bad (s := s) (inst := inst) (a := a) false queue h).trans k).mono (List.nil_subset scrubRegs)
  obtain ⟨hpoison, hraised, -⟩ := uncorrectable_shown (l := (storePoison s.ueCounted 0 inst a).mem.scrubAt) hkept
  exact ⟨hpoison, hraised⟩

/-- A corrected unit counts, in its staging queue too. -/
theorem reader_fixed (hi : inst < 32) (h : finding 0 u = .fixed) :
    t.mem.poison = s.mem.poison ∧ t.regN A.memCeCnt = min (s.regN A.memCeCnt + 1) (2 ^ 32 - 1) ∧
      t.regN (A.movSqCorrCnt inst) = if queue then min (s.regN (A.movSqCorrCnt inst) + 1) (2 ^ 32 - 1) else s.regN (A.movSqCorrCnt inst) := by
  obtain ⟨v, hv, hread⟩ := readUnit_fixed_reader (s := s) (mem := 0) (inst := inst) (a := a) queue h
  have hsq : 0x061000 ≤ A.movSqCorrCnt inst ∧ A.movSqCorrCnt inst < A.memCeCnt := by unfold A.movSqCorrCnt A.memCeCnt; omega
  have hsts : A.movSqCorrCnt inst ∉ ceLogRegs := by
    simp only [ceLogRegs, A.memSts, A.memCeLostCnt, A.movSqCorrCnt, List.mem_cons, List.not_mem_nil, or_false]
    omega
  have hce := (hv.regN (a := A.memCeCnt) (by decide) (by decide)).trans (s.regN_bump A.memCeCnt 1)
  have hcorr := (hv.regN (a := A.movSqCorrCnt inst) (by omega) hsts).trans (congrArg BitVec.toNat (State.reg_bump_ne s 1 (by omega)))
  have kce := k.regN (a := A.memCeCnt) (by decide) List.not_mem_nil
  have kcorr := k.regN (a := A.movSqCorrCnt inst) (by omega) List.not_mem_nil
  obtain ⟨-, -, hpoison, -⟩ := hv
  obtain ⟨-, -, kpoison, -⟩ := k
  rw [hread] at kpoison kce kcorr
  cases queue with
  | false => exact ⟨kpoison.trans hpoison, kce.trans hce, kcorr.trans hcorr⟩
  | true =>
    have hbump : (v.bump (A.movSqCorrCnt inst)).regN A.memCeCnt = v.regN A.memCeCnt := congrArg BitVec.toNat (State.reg_bump_ne v 1 (by omega))
    exact ⟨kpoison.trans hpoison, (kce.trans hbump).trans hce, kcorr.trans ((v.regN_bump _ 1).trans (by rw [hcorr, if_pos rfl]; rfl))⟩

end

/-! ## The statement -/

/-- Settles O53: each engine's command is one step of that engine, and what follows a command leaves the engines, the operations and the
registers they count in. -/
theorem backgroundEnginesWork : Obligations.BackgroundEnginesWork := by
  unfold Obligations.BackgroundEnginesWork
  intro s hh
  refine ⟨fun hs hst => ⟨calibrationStart_idle hh hs hst, fun w rest k hw hk => calibrationStart_begins hh hs hst hw hk⟩, fun hp hs hr hw ho hd => ?_,
    foragerPauseEnd_idle hh, fun d hd => ⟨exec_foragerPace_idle hh hd, fun r p hrun hwait hp hs hst hdue hhere => ?_⟩, fun ch i hch hi => ?_,
    fun mem inst bg u hm hi hb => ⟨fun h => scrubStep_idle hh hm hi hb h [u], fun h => ?_⟩, fun inst u a queue hr ha h8 hi => ?_⟩
  · obtain ⟨t, ht, hfg⟩ := foragerPauseEnd_starts hh hp hs hr hw ho hd
    exact ⟨t, ht, by rw [hfg]; exact ⟨rfl, rfl, rfl, rfl⟩⟩
  · have hwalks : s.walks d := ⟨hrun, hwait, hp, hs, hst, hdue⟩
    exact ⟨exec_foragerPace_skips hh hd hwalks hhere, exec_foragerPace_reads hh hd hwalks hhere⟩
  · exact ⟨fun v hf => tempPoll_answered hh hch hi hf v, tempPoll_unanswered hh hch hi, fun v hf => tempPoll_idle hh hch hi hf v,
      tempPollStale_gives_way hh hch hi, tempPollStale_idle hh hch hi⟩
  · obtain ⟨t, l, ht, hnext, hkept⟩ := scrubStep_spec hh hm hi hb h u
    refine ⟨t, ht, hnext, ?_, ?_, ?_, scrubbed_bad hkept, scrubbed_fixed hkept, scrubbed_clean hkept⟩
    · rintro rfl hw
      exact scrubbed_sound_word hkept hw
    · rintro rfl hw ha
      exact scrubbed_rom_word hkept (lt_of_scrubs h) hw ha
    · rintro rfl hw ha
      exact scrubbed_reported_word hkept (lt_of_scrubs h) hw ha
  · obtain ⟨hat, hbuild⟩ := readUnit_keeps (s := s) (mem := 0) (inst := inst) (a := a) (u := u) false queue
    have hkept : MemKept [] (readUnit 0 inst false queue s (a, u)) (after s (readUnit 0 inst false queue s (a, u))) := memKept_after hbuild
    exact ⟨_, exec_scrubStep_reader hh hi hr ha h8 u queue, (congrArg Mem.scrubAt (after_mem ..)).trans hat, reader_fixed hkept hi, reader_bad hkept⟩

end Sys2Proof.Machine
end

section
/-!
SUPPORT. The read-level window (R271, R276, R280, R287): the entry its writes reach, at the instruction boundary of the selected die's channel,
and what they leave.
-/

namespace Sys2Proof.Machine

/-! ## Entries of a sparse table -/

section
variable {β : Type} (z v : β) (l : List (Nat × β)) {j k : Nat} [Decidable (v = z)]

/-- A value laid at a key of a list that leaves out the value `z` is read back there. -/
theorem assoc_sparse_self : (assoc (if v = z then delBy Prod.fst k l else putBy Prod.fst (k, v) l) k).getD z = v := by
  split
  · next h => rw [assoc_delBy, if_pos rfl, h, Option.getD_none]
  · rw [assoc_putBy_self, Option.getD_some]

/-- It leaves every other key. -/
theorem assoc_sparse_ne (h : j ≠ k) : assoc (if v = z then delBy Prod.fst k l else putBy Prod.fst (k, v) l) j = assoc l j := by
  split
  · rw [assoc_delBy, if_neg h]
  · exact congrArg (Option.map Prod.snd) (getBy_putBy_ne Prod.fst l h)

end

/-- An entry is read from the table. -/
theorem State.tbl_congr {s t : State} (h : s.rlv.table = t.rlv.table) (d g k j : Nat) : s.tbl d g k j = t.tbl d g k j := by
  rw [State.tbl, h, State.tbl]

section
variable (s : State) (d g k : Nat) {j i : Nat}

theorem State.tbl_setTbl_self (v : Int) : (s.setTbl d g k i v).tbl d g k i = v := assoc_sparse_self 0 v s.rlv.table

theorem State.tbl_setTbl_ne (v : Int) (h : j ≠ i) : (s.setTbl d g k i v).tbl d g k j = s.tbl d g k j :=
  congrArg (Option.getD · 0) (assoc_sparse_ne 0 v s.rlv.table (by unfold tblKey; omega))

theorem State.lastGoodRaw_setLastGood_self (v : Nat) : (s.setLastGood d g i v).lastGoodRaw d g i = v := assoc_sparse_self 0 v s.rlv.good

theorem State.lastGoodRaw_setLastGood_ne (v : Nat) (h : j ≠ i) : (s.setLastGood d g i v).lastGoodRaw d g j = s.lastGoodRaw d g j :=
  congrArg (Option.getD · 0) (assoc_sparse_ne 0 v s.rlv.good (by unfold lgKey; omega))

end

/-! ## Updates that go over a list of places -/

section
variable {α β : Type} {f : State → α → State} {l : List α}

/-- What no update changes is as before them. -/
theorem State.each_keeps {r : State → β} (h : ∀ s, ∀ x ∈ l, r (f s x) = r s) (s : State) : r (s.each l f) = r s := by
  induction l generalizing s with
  | nil => rfl
  | cons x l ih => exact (ih (fun s y hy => h s y (List.mem_cons_of_mem x hy)) (f s x)).trans (h s x List.mem_cons_self)

/-- A place that is visited holds the value laid there, when each visit leaves the places of the others. -/
theorem State.each_lays {r : State → α → β} {val : α → β} (hself : ∀ s x, r (f s x) x = val x)
    (hne : ∀ s x y, y ≠ x → r (f s x) y = r s y) {y : α} (hy : y ∈ l) (s : State) : r (s.each l f) y = val y := by
  induction l using List.reverseRecOn with
  | nil => cases hy
  | append_singleton l x ih =>
    rw [State.each, List.foldl_append]
    by_cases hyx : y = x
    · subst hyx
      exact hself _ y
    · exact (hne _ x y hyx).trans (ih ((List.mem_append.1 hy).resolve_right (by simpa using hyx)))

end

/-! ## What a write of the window can change -/

/-- From `s` to `t` nothing changes but the table, the last good steps, the tracking units and stored poison. -/
def LevelsChange (s t : State) : Prop := ∃ table good units poison,
  t = { s with mem := { s.mem with poison := poison }, rlv := { s.rlv with table := table, good := good, units := units } }

theorem LevelsChange.refl (s : State) : LevelsChange s s := ⟨_, _, _, _, rfl⟩

theorem LevelsChange.trans {s t u : State} (h : LevelsChange s t) (k : LevelsChange t u) : LevelsChange s u := by
  obtain ⟨_, _, _, _, rfl⟩ := h
  obtain ⟨_, _, _, _, rfl⟩ := k
  exact ⟨_, _, _, _, rfl⟩

theorem LevelsChange.each {α : Type} {f : State → α → State} (h : ∀ s x, LevelsChange s (f s x)) (l : List α) (s : State) :
    LevelsChange s (s.each l f) := by
  induction l generalizing s with
  | nil => exact .refl s
  | cons x l ih => exact (h s x).trans (ih _)

theorem LevelsChange.build {s t : State} (h : LevelsChange s t) : t.build = s.build := by obtain ⟨_, _, _, _, rfl⟩ := h; rfl
theorem LevelsChange.pend {s t : State} (h : LevelsChange s t) : t.pend = s.pend := by obtain ⟨_, _, _, _, rfl⟩ := h; rfl
theorem LevelsChange.reg {s t : State} (h : LevelsChange s t) (a : Nat) : t.reg a = s.reg a := by obtain ⟨_, _, _, _, rfl⟩ := h; rfl
theorem LevelsChange.tracking {s t : State} (h : LevelsChange s t) (k : Nat) : t.tracking k = s.tracking k := by
  obtain ⟨_, _, _, _, rfl⟩ := h; rfl

/-! ## The write at its boundary -/

/-- Slot `i` of a word of an entry takes its signed byte (R271). -/
def laySlot (key w : Nat) (v : Word) (s : State) (i : Nat) : State :=
  s.setTbl (key / 64) (key / 4 % 16) (key % 4) (4 * w + i) (sbyte (fld v (8 * i) 8))

/-- The last good step of page class `c` takes its field (R280). -/
def layLastGood (key : Nat) (v : Word) (s : State) (c : Nat) : State := s.setLastGood (key / 16) (key % 16) c (fld v (4 * c) 4)

section
variable (s : State) (key w : Nat) (v : Word)

/-- The poison of the slots goes, the slots are laid, and the tracking of the LUN and group is cleared. -/
theorem tblDataWrite_eq : tblDataWrite s key w v =
    clearTrack ((clearPoison s 3 0 (tblKey (key / 64) (key / 4 % 16) (key % 4) (4 * w)) 4).each (List.range 4) (laySlot key w v))
      (key / 64) (key / 4 % 16) := rfl

theorem clearTrack_tbl (d g d' g' k j : Nat) : (clearTrack s d g).tbl d' g' k j = s.tbl d' g' k j := rfl

theorem clearTrack_good (d g : Nat) : (clearTrack s d g).rlv.good = s.rlv.good := rfl

theorem clearPoison_tbl (mem inst a len d g k j : Nat) : (clearPoison s mem inst a len).tbl d g k j = s.tbl d g k j := rfl

theorem tblLgWrite_eq : tblLgWrite s key v = s.each (List.range 5) (layLastGood key v) := rfl

theorem tblDataWrite_levelsChange : LevelsChange s (tblDataWrite s key w v) := by
  have hslots (t : State) : LevelsChange t (t.each (List.range 4) (laySlot key w v)) := .each (fun _ _ => ⟨_, _, _, _, rfl⟩) _ t
  have hpoison : LevelsChange s (clearPoison s 3 0 (tblKey (key / 64) (key / 4 % 16) (key % 4) (4 * w)) 4) := ⟨_, _, _, _, rfl⟩
  rw [tblDataWrite_eq]
  exact (hpoison.trans (hslots _)).trans ⟨_, _, _, _, rfl⟩

theorem tblLgWrite_levelsChange : LevelsChange s (tblLgWrite s key v) := by
  rw [tblLgWrite_eq]
  exact .each (fun _ _ => ⟨_, _, _, _, rfl⟩) _ s

/-- The four slots of the word hold its signed bytes (R271). -/
theorem tblDataWrite_tbl {i : Nat} (hi : i < 4) :
    (tblDataWrite s key w v).tbl (key / 64) (key / 4 % 16) (key % 4) (4 * w + i) = sbyte (fld v (8 * i) 8) := by
  rw [tblDataWrite_eq, clearTrack_tbl]
  exact State.each_lays (f := laySlot key w v) (r := fun u i => u.tbl (key / 64) (key / 4 % 16) (key % 4) (4 * w + i))
    (val := fun i => sbyte (fld v (8 * i) 8)) (fun t _ => t.tbl_setTbl_self _ _ _ _) (fun t _ _ h => t.tbl_setTbl_ne _ _ _ _ (by omega))
    (List.mem_range.2 hi) _

/-- The entry's other slots stay. -/
theorem tblDataWrite_tbl_ne {j : Nat} (hj : j / 4 ≠ w) :
    (tblDataWrite s key w v).tbl (key / 64) (key / 4 % 16) (key % 4) j = s.tbl (key / 64) (key / 4 % 16) (key % 4) j := by
  rw [tblDataWrite_eq, clearTrack_tbl]
  refine (State.each_keeps (f := laySlot key w v) (r := fun u => u.tbl (key / 64) (key / 4 % 16) (key % 4) j)
    (fun t i hi => t.tbl_setTbl_ne _ _ _ _ ?_) _).trans (clearPoison_tbl ..)
  have := List.mem_range.1 hi
  omega

theorem tblDataWrite_good : (tblDataWrite s key w v).rlv.good = s.rlv.good := by
  rw [tblDataWrite_eq, clearTrack_good]
  exact State.each_keeps (f := laySlot key w v) (r := fun u => u.rlv.good) (fun _ _ _ => rfl) _

/-- No tracking unit of the LUN and group is left (R287). -/
theorem tblDataWrite_units {x : TrackUnit} (hx : x ∈ (tblDataWrite s key w v).rlv.units) : ¬(x.die = key / 64 ∧ x.grp = key / 4 % 16) := by
  rintro ⟨hdie, hgroup⟩
  rw [tblDataWrite_eq] at hx
  have hkept := (List.mem_filter.1 hx).2
  simp [hdie, hgroup] at hkept

theorem tblLgWrite_table : (tblLgWrite s key v).rlv.table = s.rlv.table :=
  State.each_keeps (f := layLastGood key v) (r := fun u => u.rlv.table) (fun _ _ _ => rfl) s

/-- The last good step of each page class is its field of the word (R280). -/
theorem tblLgWrite_lastGoodRaw {c : Nat} (hc : c < 5) : (tblLgWrite s key v).lastGoodRaw (key / 16) (key % 16) c = fld v (4 * c) 4 :=
  State.each_lays (f := layLastGood key v) (r := fun u c => u.lastGoodRaw (key / 16) (key % 16) c) (val := fun c => fld v (4 * c) 4)
    (fun t _ => t.lastGoodRaw_setLastGood_self _ _ _) (fun t _ _ h => t.lastGoodRaw_setLastGood_ne _ _ _ h) (List.mem_range.2 hc) s

end

/-! ## Now, or at the boundary (R29, R35) -/

section
variable {s : State} {b : Boundary} {k a sel : Nat} {v : Word}

/-- An action that waits alone for one place acts when that place passes. -/
theorem released_act (h : s.pend = [{ bnd := b, addr := a, val := v, left := [k], sel := sel, act := true }]) :
    released s b k = actNow { s with pend := [] } { bnd := b, addr := a, val := v, left := [], sel := sel, act := true } := by
  simp [released, passed, h, lastOnly, takeOne]

theorem actNow_tblData (s : State) {p : PendWrite} {w : Nat} (hw : w < 4) (ha : p.addr = A.rlvTblData w) :
    actNow s p = tblDataWrite s p.sel w p.val := by
  have h1 : ¬0x100000 ≤ p.addr := by rw [ha]; unfold A.rlvTblData; omega
  have h2 : p.addr ≠ A.rlvTblLg := by rw [ha]; unfold A.rlvTblData A.rlvTblLg; omega
  have h3 : A.rlvTblData 0 ≤ p.addr ∧ p.addr < A.rlvTblData 4 := by rw [ha]; unfold A.rlvTblData; omega
  have h4 : (p.addr - A.rlvTblData 0) / 4 = w := by rw [ha]; unfold A.rlvTblData; omega
  rw [actNow, if_neg h1, if_neg h2, if_pos h3, h4]

theorem actNow_tblLg (s : State) {p : PendWrite} (ha : p.addr = A.rlvTblLg) : actNow s p = tblLgWrite s p.sel p.val := by
  rw [actNow, if_neg (by rw [ha]; decide), if_pos ha]

theorem State.trackUnits_pend (t : State) (l : List TrackUnit) : { t with rlv := { t.rlv with units := l } }.pend = t.pend := rfl

theorem State.trackUnits_table (t : State) (l : List TrackUnit) : { t with rlv := { t.rlv with units := l } }.rlv.table = t.rlv.table := rfl

/-- A boundary leaves waiting, and in the table, what its release leaves there. -/
theorem passBound_pend (s : State) (b : Boundary) (k : Nat) : (passBound s b k).pend = (released s b k).pend := by
  obtain ⟨l, hl⟩ := passBound_eq s b k
  rw [hl, State.trackUnits_pend]

theorem passBound_table (s : State) (b : Boundary) (k : Nat) : (passBound s b k).rlv.table = (released s b k).rlv.table := by
  obtain ⟨l, hl⟩ := passBound_eq s b k
  rw [hl, State.trackUnits_table]

/-- A boundary that leaves tracking as it was only releases its writes. -/
theorem passBound_of_tracking_eq (h : (released s b k).tracking k = s.tracking k) : passBound s b k = released s b k := by
  change (if s.tracking k && !(released s b k).tracking k then _ else released s b k) = _
  simp [h]

theorem tracking_of_acts (h : ∀ x ∈ s.pend, x.act = true) (k : Nat) : s.tracking k = { s with pend := [] }.tracking k := by
  rw [State.tracking, State.tracking, State.fldAt_of_acts h, State.fldAt_of_acts (by simp)]
  rfl

/-- Within an instruction an action waits. -/
theorem applyAct_waits (s : State) (b : Boundary) (k a sel : Nat) (v : Word) : ∃ l, applyAct s b k a sel v false =
    { s with pend := l ++ [{ bnd := b, addr := a, val := v, left := [k], sel := sel, act := true }] } := ⟨_, rfl⟩

/-- At its boundary, with no other write waiting, an action of the window acts at once. -/
theorem applyAct_acts (hp : s.pend = []) (h : LevelsChange s (actNow s { bnd := b, addr := a, val := v, left := [], sel := sel, act := true })) :
    applyAct s b k a sel v true = actNow s { bnd := b, addr := a, val := v, left := [], sel := sel, act := true } := by
  have hnone : { s with pend := [] } = s := by rw [← hp]
  let u : State := { s with pend := [{ bnd := b, addr := a, val := v, left := [k], sel := sel, act := true }] }
  have hu : applyAct s b k a sel v true = passBound u b k := by simp [applyAct, hp, u]
  have hrel : released u b k = actNow s { bnd := b, addr := a, val := v, left := [], sel := sel, act := true } := by
    rw [released_act (s := u) rfl]
    exact congrArg (actNow · _) hnone
  have htrack : (released u b k).tracking k = u.tracking k := by
    rw [hrel, h.tracking k, tracking_of_acts (s := u) (by simp [u]) k]
    exact congrArg (State.tracking · k) hnone.symm
  rw [hu, passBound_of_tracking_eq htrack, hrel]

/-- The word of the last action that waits is the one of its entry. -/
theorem pendAct_append (l : List PendWrite) (h : s.pend = l ++ [{ bnd := b, addr := a, val := v, left := [k], sel := sel, act := true }]) :
    s.pendAct a sel = some v := by
  simp [State.pendAct, h]

end

section
variable {s : State} {w : Nat} (v : Word)

theorem tblWrite_acts (hw : w < 4) (hp : s.pend = []) (hb : (s.chan (dieCh s.selDie)).atBoundary = true) :
    tblWrite s w v = tblDataWrite s s.selKey w v := by
  have hact := actNow_tblData s (p := { bnd := .instr, addr := A.rlvTblData w, val := v, left := [], sel := s.selKey, act := true }) hw rfl
  rw [tblWrite, hb, applyAct_acts hp (by rw [hact]; exact tblDataWrite_levelsChange ..), hact]

theorem lgWrite_acts (hp : s.pend = []) (hb : (s.chan (dieCh s.selDie)).atBoundary = true) :
    lgWrite s v = tblLgWrite s (s.selKey / 4) v := by
  have hact := actNow_tblLg s (p := { bnd := .instr, addr := A.rlvTblLg, val := v, left := [], sel := s.selKey / 4, act := true }) rfl
  rw [lgWrite, hb, applyAct_acts hp (by rw [hact]; exact tblLgWrite_levelsChange ..), hact]

/-- With no write waiting before it, a write of the window changes no register. -/
theorem tblWrite_reg (hw : w < 4) (hp : s.pend = []) : (tblWrite s w v).build = s.build ∧ ∀ a, (tblWrite s w v).reg a = s.reg a := by
  cases hb : (s.chan (dieCh s.selDie)).atBoundary with
  | true =>
    rw [tblWrite_acts v hw hp hb]
    have h := tblDataWrite_levelsChange s s.selKey w v
    exact ⟨h.build, h.reg⟩
  | false =>
    obtain ⟨l, hl⟩ := applyAct_waits s .instr (dieCh s.selDie) (A.rlvTblData w) s.selKey v
    rw [tblWrite, hb, hl]
    exact ⟨rfl, fun _ => rfl⟩

end

/-- The key of the selected entry names its die, group and set (R271). -/
theorem selKey_parts (s : State) : s.selKey / 64 = s.selDie ∧ s.selKey / 4 % 16 = s.selGroup ∧ s.selKey % 4 = s.selSet := by
  have hg : s.selGroup < 16 := fld_lt _ 11 4
  have hk : s.selSet < 4 := fld_lt _ 15 2
  unfold State.selKey
  omega

/-! ## The registers of the window -/

@[simp] theorem State.written_rlv (t : State) : t.written.rlv = t.rlv := rfl
@[simp] theorem State.written_pend (t : State) : t.written.pend = t.pend := rfl

/-- The row of RLV_TBL_DATA. -/
def rlvTblDataRow : RegRow := Reg.rw (A.rlvTblData 0) [(4, 4)] 0 .instr Reg.whole

/-- The row of RLV_TBL_LG. -/
def rlvTblLgRow : RegRow := Reg.rw A.rlvTblLg [] 0 .instr [Reg.f 0 4, Reg.f 4 4, Reg.f 8 4, Reg.f 12 4, Reg.f 16 4]

theorem find_rlvTblData : ∀ w < 4, Reg.find (A.rlvTblData w) = some (rlvTblDataRow, [w]) := by decide

theorem find_rlvTblLg : Reg.find A.rlvTblLg = some (rlvTblLgRow, []) := by decide

/-- No half of a pair lies among the registers of the window. -/
theorem pairBase_window {a : Nat} (h : 0x090000 ≤ a) (h' : a < 0x091000) : Reg.pairBase a = false := by
  simp [Reg.pairBase, A.hqAqSqbLo, A.hqAqCqbLo, A.hqArBaseLo, A.wglCalPaddrLo, A.eccWseqLo, A.rlvFgPosLo, A.rlvFgTotalLo, A.hqBrBaseLo, A.ntfTgtAddrLo]
  exact ⟨⟨by omega, fun _ hlt => absurd (of_decide_eq_true hlt) (by omega)⟩, fun _ hlt => absurd (of_decide_eq_true hlt) (by omega)⟩

/-- An MPORT write of a register of the window, at every protection level (R432). -/
theorem accessWrite_window {s t : State} {a : Nat} {v : Word} {r : RegRow} {is : List Nat} (hs : InService s) (hf : Reg.find a = some (r, is))
    (ha : 0x090400 ≤ a) (ha' : a < 0x091000) (hr : r.base < 0x091000) (hi : s.instOk r is = true)
    (ht : actWrite s r.base (is.getD 0 0) v = some t) : accessWrite s .mport a v none = t.written := by
  have hrow : rowBase a = some r.base := by rw [rowBase, hf]; rfl
  have hne (x : Nat) (hx : 0x091000 ≤ x) : (rowBase a == some x) = false :=
    beq_eq_false_iff_ne.2 fun h => by have := Option.some.inj (hrow.symm.trans h); omega
  have hden : s.denied a = false :=
    denied_false' hs.init_done (beq_eq_false_iff_ne.2 (by unfold A.secRplReq; omega)) (hne _ (by decide)) (hne _ (by decide))
  rw [accessWrite_mport v hs.power_st hden (by rw [bne_iff_ne]; unfold A.secRplReq; omega),
    writeReg_act hf hi (pairBase_window (by omega) ha') (by rw [pairBase_window (by omega) (by omega), Bool.and_false]) ht]
  rfl

section
variable {s : State} (hs : InService s) (v : Word)
include hs

theorem exec_rlvTblDataWrite {w : Nat} (hw : w < 4) (lost : Bool) : exec (.rlvTblDataWrite w { word := v, lost := lost }) s =
    .next (after s (tblWrite (if lost then s.bump A.rlvTblLostCnt else s) w v).written) := by
  have hs' : InService (if lost then s.bump A.rlvTblLostCnt else s) := by
    cases lost with
    | true => exact hs
    | false => exact hs
  unfold exec
  refine (runBus_of_ok _ (decide_eq_true hw) hs.not_held).trans (congrArg (fun t => Host.Outcome.next (after s t)) ?_)
  exact accessWrite_window hs' (find_rlvTblData w hw) (by unfold A.rlvTblData; omega) (by unfold A.rlvTblData; omega) (by decide) rfl rfl

theorem exec_rlvTblLgWrite : exec (.rlvTblLgWrite v) s = .next (after s (lgWrite s v).written) := by
  unfold exec
  refine (runBus_of_ok _ rfl hs.not_held).trans (congrArg (fun t => Host.Outcome.next (after s t)) ?_)
  exact accessWrite_window hs find_rlvTblLg (by decide) (by decide) (by decide) rfl rfl

/-- An update of the block's own that is lost to the write is counted (R276). -/
theorem rlvTblDataWrite_lost {w : Nat} (hw : w < 4) (hp : s.pend = []) (lost : Bool) :
    ∃ t, exec (.rlvTblDataWrite w { word := v, lost := lost }) s = .next t ∧
      t.regN A.rlvTblLostCnt = (if lost then min (s.regN A.rlvTblLostCnt + 1) (2 ^ 32 - 1) else s.regN A.rlvTblLostCnt) := by
  have hafter (u : State) (hb : u.build = s.build) (hup : u.pend = []) :
      (after s (tblWrite u w v).written).regN A.rlvTblLostCnt = u.regN A.rlvTblLostCnt := by
    obtain ⟨hbuild, hreg⟩ := tblWrite_reg v hw hup
    rw [State.regN, after_reg (t := (tblWrite u w v).written) (hbuild.trans hb) (fun h => absurd h (by decide)) (by decide) (.inr (by decide)),
      State.written_reg, hreg, State.regN]
  refine ⟨_, exec_rlvTblDataWrite hs v hw lost, ?_⟩
  cases lost with
  | true => exact (hafter (s.bump A.rlvTblLostCnt) rfl hp).trans (s.regN_bump _ 1)
  | false => exact hafter s rfl hp

/-- At the boundary a data write sets the selected entry's slots and clears the tracking of its LUN and group (R271, R287). -/
theorem rlvTblDataWrite_acts {w : Nat} (hw : w < 4) (hp : s.pend = []) (hb : (s.chan (dieCh s.selDie)).atBoundary = true) :
    ∃ t, exec (.rlvTblDataWrite w { word := v, lost := false }) s = .next t ∧
      (∀ i < 4, t.tbl s.selDie s.selGroup s.selSet (4 * w + i) = sbyte (fld v (8 * i) 8)) ∧
      (∀ j, j / 4 ≠ w → t.tbl s.selDie s.selGroup s.selSet j = s.tbl s.selDie s.selGroup s.selSet j) ∧
      t.rlv.good = s.rlv.good ∧ ∀ x ∈ t.rlv.units, ¬(x.die = s.selDie ∧ x.grp = s.selGroup) := by
  refine ⟨_, exec_rlvTblDataWrite hs v hw false, ?_⟩
  rw [if_neg Bool.false_ne_true, tblWrite_acts v hw hp hb]
  obtain ⟨hdie, hgroup, hset⟩ := selKey_parts s
  rw [← hdie, ← hgroup, ← hset]
  have hrlv : (after s (tblDataWrite s s.selKey w v).written).rlv = (tblDataWrite s s.selKey w v).rlv := after_rlv ..
  simp only [State.tbl, hrlv]
  exact ⟨fun i hi => tblDataWrite_tbl s _ w v hi, fun j hj => tblDataWrite_tbl_ne s _ w v hj, tblDataWrite_good s _ w v,
    fun x hx => tblDataWrite_units s _ w v hx⟩

/-- At the boundary a write of RLV_TBL_LG sets the last good steps of the selected die and group (R280). -/
theorem rlvTblLgWrite_acts (hp : s.pend = []) (hb : (s.chan (dieCh s.selDie)).atBoundary = true) :
    ∃ t, exec (.rlvTblLgWrite v) s = .next t ∧ t.rlv.table = s.rlv.table ∧
      ∀ c < 5, t.lastGoodRaw s.selDie s.selGroup c = fld v (4 * c) 4 := by
  refine ⟨_, exec_rlvTblLgWrite hs v, ?_⟩
  rw [lgWrite_acts v hp hb]
  obtain ⟨hdie, hgroup, -⟩ := selKey_parts s
  rw [← hdie, ← hgroup, show s.selKey / 64 = s.selKey / 4 / 16 by omega]
  have hrlv : (after s (tblLgWrite s (s.selKey / 4) v).written).rlv = (tblLgWrite s (s.selKey / 4) v).rlv := after_rlv ..
  simp only [State.lastGoodRaw, hrlv]
  exact ⟨tblLgWrite_table s _ v, fun c hc => tblLgWrite_lastGoodRaw s _ v hc⟩

section
variable (hb : (s.chan (dieCh s.selDie)).atBoundary = false)
include hb

/-- Within an instruction a data write waits, for the entry selected when it was written (R35). -/
theorem rlvTblDataWrite_waits {w : Nat} (hw : w < 4) : ∃ t, exec (.rlvTblDataWrite w { word := v, lost := false }) s = .next t ∧
    t.rlv = s.rlv ∧ t.pendAct (A.rlvTblData w) s.selKey = some v := by
  obtain ⟨l, hl⟩ := applyAct_waits s .instr (dieCh s.selDie) (A.rlvTblData w) s.selKey v
  refine ⟨_, exec_rlvTblDataWrite hs v hw false, ?_⟩
  rw [if_neg Bool.false_ne_true, tblWrite, hb, hl]
  exact ⟨after_rlv .., pendAct_append l (after_pend ..)⟩

theorem rlvTblLgWrite_waits : ∃ t, exec (.rlvTblLgWrite v) s = .next t ∧ t.rlv = s.rlv ∧ t.pendAct A.rlvTblLg (s.selKey / 4) = some v := by
  obtain ⟨l, hl⟩ := applyAct_waits s .instr (dieCh s.selDie) A.rlvTblLg (s.selKey / 4) v
  refine ⟨_, exec_rlvTblLgWrite hs v, ?_⟩
  rw [lgWrite, hb, hl]
  exact ⟨after_rlv .., pendAct_append l (after_pend ..)⟩

end

end

/-- A data write that waits acts at the channel's boundary (R29). -/
theorem writeTakesEffect_tblData {s : State} {w ch key : Nat} {v : Word} (hh : s.held = false) (hw : w < 4)
    (hp : s.pend = [{ bnd := .instr, addr := A.rlvTblData w, val := v, left := [ch], sel := key, act := true }]) :
    ∃ t, exec (.writeTakesEffect (.instr ch)) s = .next t ∧ t.pend = [] ∧
      ∀ i < 4, t.tbl (key / 64) (key / 4 % 16) (key % 4) (4 * w + i) = sbyte (fld v (8 * i) 8) := by
  let u : State := { s with pend := [] }
  have hrel : released s .instr ch = tblDataWrite u key w v := (released_act hp).trans (actNow_tblData u hw rfl)
  refine ⟨_, exec_writeTakesEffect_instr ch hh, ?_, fun i hi => ?_⟩
  · rw [after_pend, passInstr, passBound_pend, hrel]
    exact (tblDataWrite_levelsChange u key w v).pend
  · have htable : (after s (passInstr s ch)).rlv.table = (tblDataWrite u key w v).rlv.table := by
      rw [after_rlv, passInstr, passBound_table, hrel]
    exact (State.tbl_congr htable ..).trans (tblDataWrite_tbl u key w v hi)

/-! ## The statement -/

/-- Settles O35: the window's writes act at the selected entry, now or when the channel of its die passes its boundary, and
touch no register. -/
theorem readLevelWindowWritesSelectedEntry : Obligations.ReadLevelWindowWritesSelectedEntry := by
  unfold Obligations.ReadLevelWindowWritesSelectedEntry
  intro s w v hs hw
  refine ⟨fun hp lost => rlvTblDataWrite_lost hs v hw hp lost, fun ⟨hb, hp⟩ => ?_, fun ⟨hb, hp⟩ => rlvTblLgWrite_acts hs v hp hb,
    fun hb => ⟨rlvTblDataWrite_waits hs v hb hw, rlvTblLgWrite_waits hs v hb⟩, fun ch key hp _ => writeTakesEffect_tblData hs.not_held hw hp⟩
  obtain ⟨t, ht, hslots, hothers, hgood, hunits⟩ := rlvTblDataWrite_acts hs v hw hp hb
  exact ⟨t, ht, hslots, fun k _ hk => hothers k hk, hgood, hunits⟩

end Sys2Proof.Machine
end

section
/-!
SUPPORT. The enables of the log streams (R304) and of the smoke region (R314): what each write leaves in the registers, taken or refused.
-/

namespace Sys2Proof.Machine

/-! ## Sets of numbers -/

theorem mem_addN_self (k : Nat) (l : List Nat) : k ∈ addN k l := mem_of_getBy (getBy_putBy_self id k l)

theorem notMem_delN_self (k : Nat) (l : List Nat) : k ∉ delN k l := fun h => getBy_eq_none.1 (getBy_delBy_self id k l) k h rfl

/-! ## HQ_LS_CTL (R304) -/

/-- A field within the low bits of a value is a field of those bits. -/
theorem fld_lowBits (v : Word) {lo w n : Nat} (hn : n ≤ 32) (h : lo + w ≤ n) : fld (BitVec.ofNat 32 (bits v.toNat 0 n)) lo w = fld v lo w := by
  refine Nat.eq_of_testBit_eq fun i => ?_
  simp only [fld, bits, BitVec.toNat_ofNat, Nat.testBit_mod_two_pow, Nat.testBit_shiftRight]
  by_cases hi : i < w
  · have h1 : lo + i < n := by omega
    have h2 : lo + i < 32 := by omega
    simp [hi, h1, h2]
  · simp [hi]

/-- The re-read of a ledger record touches the cached records and the queued operations alone. -/
theorem ledgerReread_eq (s : State) (stream die seg : Nat) :
    ∃ os k l, ledgerReread s stream die seg = { s with ops := os, opNo := k, rlv := { s.rlv with ledger := l } } := by
  have hplaced (x : Ledger) : ∃ os k l, ledgerOp (s.setLedger x) .lineRead die seg [] =
      { s with ops := os, opNo := k, rlv := { s.rlv with ledger := l } } := ⟨_, _, _, rfl⟩
  have hlaid (x : Ledger) : ∃ os k l, s.setLedger x = { s with ops := os, opNo := k, rlv := { s.rlv with ledger := l } } := ⟨_, _, _, rfl⟩
  unfold ledgerReread
  split
  · split
    · exact hplaced _
    · exact hlaid _
  · next hnone =>
    rw [ledgerRead, hnone]
    exact hplaced _

theorem ledgerReread_build (s : State) (stream die seg : Nat) : (ledgerReread s stream die seg).build = s.build := by
  obtain ⟨_, _, _, h⟩ := ledgerReread_eq s stream die seg
  rw [h]

theorem ledgerReread_regs (s : State) (stream die seg : Nat) : (ledgerReread s stream die seg).regs = s.regs := by
  obtain ⟨_, _, _, h⟩ := ledgerReread_eq s stream die seg
  rw [h]

theorem ledgerReread_lsBad (s : State) (stream die seg : Nat) : (ledgerReread s stream die seg).rlv.lsBad = s.rlv.lsBad := by
  obtain ⟨_, _, _, h⟩ := ledgerReread_eq s stream die seg
  rw [h]

/-- Stream `n` with a control word taken, before its ledger records are read again. -/
def State.lsTaken (s : State) (n : Nat) (v : Word) : State :=
  { s.setRegN (A.hqLsCtl n) (bits v.toNat 0 4) with rlv := { s.rlv with lsBad := delN n s.rlv.lsBad } }

section
variable {s : State} {n : Nat} {v : Word} (hv : fld v 0 1 = 1)
include hv

/-- A legal EN = 1 sets the control word and withdraws BADCFG; the ledger records it reads again touch neither. -/
theorem lsCtlWrite_taken (h : (passFetch s).lsOk n v = true) : (lsCtlWrite s n v).build = s.build ∧
    (lsCtlWrite s n v).reg (A.hqLsCtl n) = BitVec.ofNat 32 (bits v.toNat 0 4) ∧ n ∉ (lsCtlWrite s n v).rlv.lsBad := by
  set u := (passFetch s).lsTaken n v with hu
  have hw : lsCtlWrite s n v = u.each (u.activeDies n) fun t d => ledgerReread t n d (u.lsFirst n + u.fldOf (A.hqLsTail n) 0 24 / 4096) := by
    unfold lsCtlWrite
    exact (if_neg (by omega)).trans (if_pos h)
  have hbuild : (lsCtlWrite s n v).build = u.build := by rw [hw]; exact State.each_keeps (fun t _ _ => ledgerReread_build t ..) u
  have hregs : (lsCtlWrite s n v).regs = u.regs := by rw [hw]; exact State.each_keeps (fun t _ _ => ledgerReread_regs t ..) u
  have hbad : (lsCtlWrite s n v).rlv.lsBad = u.rlv.lsBad := by
    rw [hw]
    exact State.each_keeps (r := fun t => t.rlv.lsBad) (fun t _ _ => ledgerReread_lsBad t ..) u
  refine ⟨hbuild.trans (passFetch_build s), ?_, hbad ▸ notMem_delN_self n _⟩
  rw [State.reg, hbuild, hregs, hu]
  exact (passFetch s).reg_setReg_self _ _

/-- Any other EN = 1 sets BADCFG and no register. -/
theorem lsCtlWrite_refused (h : (passFetch s).lsOk n v = false) : (lsCtlWrite s n v).build = s.build ∧
    (∀ a, (lsCtlWrite s n v).reg a = (passFetch s).reg a) ∧ n ∈ (lsCtlWrite s n v).rlv.lsBad := by
  have hw : lsCtlWrite s n v = { passFetch s with rlv := { (passFetch s).rlv with lsBad := addN n (passFetch s).rlv.lsBad } } := by
    unfold lsCtlWrite
    exact (if_neg (by omega)).trans (if_neg (by simp [h]))
  rw [hw]
  exact ⟨passFetch_build s, fun _ => rfl, mem_addN_self n _⟩

end

/-- The row of HQ_LS_CTL. -/
def hqLsCtlRow : RegRow := Reg.rw (A.hqLsCtl 0) [(64, 64)] 0 .fetch [Reg.f 0 1, Reg.f 1 3] true

theorem find_hqLsCtl : ∀ n < 64, Reg.find (A.hqLsCtl n) = some (hqLsCtlRow, [n]) := by decide

/-- No half of a pair lies at or just before the register. -/
theorem pairBase_hqLsCtl {n a : Nat} (hn : n < 64) (h : a = A.hqLsCtl n ∨ a + 4 = A.hqLsCtl n) : Reg.pairBase a = false := by
  unfold A.hqLsCtl at h
  simp [Reg.pairBase, A.hqAqSqbLo, A.hqAqCqbLo, A.hqArBaseLo, A.wglCalPaddrLo, A.eccWseqLo, A.rlvFgPosLo, A.rlvFgTotalLo, A.hqBrBaseLo, A.ntfTgtAddrLo]
  omega

section
variable {s : State} {n : Nat} {v : Word} (hs : InService s) (hn : n < 64) (hv : fld v 0 1 = 1)
include hs hn hv

theorem exec_logStreamEnable : exec (.logStreamEnable n v) s = .next (after s (lsCtlWrite s n v).written) := by
  have ha : 4 ≤ A.hqLsCtl n := by unfold A.hqLsCtl; omega
  have hw : accessWrite s .mport (A.hqLsCtl n) v none = (lsCtlWrite s n v).written := by
    refine accessWrite_hq hs (find_hqLsCtl n hn) (by unfold A.hqLsCtl; omega) (by decide) rfl (pairBase_hqLsCtl hn (.inl rfl)) ?_ rfl
    rw [pairBase_hqLsCtl hn (.inr (Nat.sub_add_cancel ha)), Bool.and_false]
  unfold exec
  exact (runBus_of_ok _ (decide_eq_true hn) hs.not_held).trans (by rw [if_pos hv, hw])

omit hs hv in
/-- HQ_LS_CTL after the command is as the write left it. -/
theorem after_written_hqLsCtl {t : State} (hb : t.build = s.build) : (after s t.written).reg (A.hqLsCtl n) = t.reg (A.hqLsCtl n) :=
  after_written_reg hb (by unfold A.hqLsCtl; omega) (by unfold A.hqLsCtl; omega) (by unfold A.hqLsCtl A.hqArDropCnt; omega)

theorem logStreamEnable_taken (h : (passFetch s).lsOk n v = true) : ∃ t, exec (.logStreamEnable n v) s = .next t ∧
    t.lsEn n = true ∧ t.fldOf (A.hqLsCtl n) 1 3 = fld v 1 3 ∧ n ∉ t.rlv.lsBad := by
  obtain ⟨hbuild, hreg, hbad⟩ := lsCtlWrite_taken hv h
  refine ⟨_, exec_logStreamEnable hs hn hv, ?_, ?_, ?_⟩
  · rw [State.lsEn, State.fldOf, after_written_hqLsCtl hn hbuild, hreg, fld_lowBits v (by decide) (by decide), hv]
    rfl
  · rw [State.fldOf, after_written_hqLsCtl hn hbuild, hreg, fld_lowBits v (by decide) (by decide)]
  · rw [after_rlv]
    exact hbad

theorem logStreamEnable_refused (h : (passFetch s).lsOk n v = false) : ∃ t, exec (.logStreamEnable n v) s = .next t ∧
    t.lsEn n = (passFetch s).lsEn n ∧ n ∈ t.rlv.lsBad := by
  obtain ⟨hbuild, hreg, hbad⟩ := lsCtlWrite_refused hv h
  refine ⟨_, exec_logStreamEnable hs hn hv, ?_, ?_⟩
  · rw [State.lsEn, State.fldOf, after_written_hqLsCtl hn hbuild, hreg]
    rfl
  · rw [after_rlv]
    exact hbad

end

/-! ## RLV_SMOKE_DIE (R314) -/

/-- The fields of RLV_SMOKE_DIE. -/
def rlvSmokeDieFlds : List Fld := [Reg.f 0 11, Reg.f 16 1]

/-- The value RLV_SMOKE_DIE holds after a write that takes effect. -/
def smokeDieMerged (v : Word) : Word := Reg.merge rlvSmokeDieFlds 0 v

theorem fld_smokeDieMerged {y : Fld} (hy : y ∈ rlvSmokeDieFlds) (hok : y.rule.ok (fld v y.lo y.w) = true) :
    fld (smokeDieMerged v) y.lo y.w = fld v y.lo y.w := by
  rw [smokeDieMerged, fld_merge_of_mem (by decide) (by unfold Fld.apart; decide) hy, if_pos hok]

/-- A region of the channel's RLV_SMOKE_REG that fits Class L die `d`, the ledger segment left out (R314). -/
def State.SmokeFits (s : State) (d : Nat) : Prop := s.classLOk d = true ∧ s.smokeFirstAt d + s.smokeNsegAt d ≤ s.segs d - 1

section
variable (s : State) {v : Word}

theorem smokeDieWrite_fits (h : s.SmokeFits (fld v 0 11)) : smokeDieWrite s v = s.setReg A.rlvSmokeDie (smokeDieMerged v) :=
  if_pos (.inr h)

theorem smokeDieWrite_misfit (hv : fld v 16 1 = 1) (h : ¬s.SmokeFits (fld v 0 11)) : smokeDieWrite s v = s :=
  if_neg fun hw => hw.elim (by omega) h

theorem smokeDieWrite_build (v : Word) : (smokeDieWrite s v).build = s.build := by
  unfold smokeDieWrite
  simp only
  split
  · rfl
  · rfl

theorem actNow_smokeDie {p : PendWrite} (ha : p.addr = A.rlvSmokeDie) : actNow s p = smokeDieWrite s p.val := by
  rw [actNow, if_neg (by rw [ha]; decide), if_neg (by rw [ha]; decide), if_neg (by rw [ha]; decide), if_pos ha]

end

/-- At its boundary, with no other write waiting, the write acts; the rest of the boundary leaves the registers. -/
theorem smokeWrite_acts {s : State} (v : Word) (hp : s.pend = []) (hb : (s.chan (dieCh (fld v 0 11))).atBoundary = true) :
    (smokeWrite s v).build = s.build ∧ ∀ a, (smokeWrite s v).reg a = (smokeDieWrite s v).reg a := by
  have hnone : { s with pend := [] } = s := by rw [← hp]
  let u : State := { s with pend := [{ bnd := .instr, addr := A.rlvSmokeDie, val := v, left := [dieCh (fld v 0 11)], sel := 0, act := true }] }
  have hu : smokeWrite s v = passBound u .instr (dieCh (fld v 0 11)) := by simp [smokeWrite, applyAct, hp, hb, u]
  have hrel : released u .instr (dieCh (fld v 0 11)) = smokeDieWrite s v := by
    rw [released_act (s := u) rfl, actNow_smokeDie _ rfl]
    exact congrArg (smokeDieWrite · v) hnone
  obtain ⟨l, hl⟩ := passBound_eq u .instr (dieCh (fld v 0 11))
  rw [hu, hl, hrel]
  exact ⟨smokeDieWrite_build s v, fun _ => rfl⟩

/-- The row of RLV_SMOKE_DIE. -/
def rlvSmokeDieRow : RegRow := Reg.rw A.rlvSmokeDie [] 0 .instr rlvSmokeDieFlds true

theorem find_rlvSmokeDie : Reg.find A.rlvSmokeDie = some (rlvSmokeDieRow, []) := by decide

section
variable {s : State} {v : Word} (hs : InService s) (hv : fld v 16 1 = 1)
include hs hv

theorem exec_smokeRegionEnable : exec (.smokeRegionEnable v) s = .next (after s (smokeWrite s v).written) := by
  have hrow : rowBase A.rlvSmokeDie = some A.rlvSmokeDie := by rw [rowBase, find_rlvSmokeDie]; rfl
  have hden : s.denied A.rlvSmokeDie = false :=
    denied_false' hs.init_done (by decide) (by rw [hrow]; decide) (by rw [hrow]; decide)
  have hw : accessWrite s .mport A.rlvSmokeDie v none = (smokeWrite s v).written := by
    rw [accessWrite_mport v hs.power_st hden (by decide), writeReg_act find_rlvSmokeDie rfl (by decide) (by decide) rfl]
    rfl
  unfold exec
  exact (runBus_of_ok _ rfl hs.not_held).trans (by rw [if_pos hv, hw])

omit hs hv in
/-- RLV_SMOKE_DIE after the command is as the write left it. -/
theorem after_written_smokeDie {t : State} (hb : t.build = s.build) : (after s t.written).reg A.rlvSmokeDie = t.reg A.rlvSmokeDie :=
  after_reg (t := t.written) hb (fun h => absurd h (by decide)) (by decide) (.inr (by decide))

/-- At the boundary the region is enabled where it fits its die, and nowhere else (R314). -/
theorem smokeRegionEnable_at_boundary (hp : s.pend = []) (hb : (s.chan (dieCh (fld v 0 11))).atBoundary = true) :
    ∃ t, exec (.smokeRegionEnable v) s = .next t ∧ (s.SmokeFits (fld v 0 11) → t.smokeOn = true ∧ t.smokeDie = fld v 0 11) ∧
      (¬s.SmokeFits (fld v 0 11) → t.reg A.rlvSmokeDie = s.reg A.rlvSmokeDie) := by
  obtain ⟨hbuild, hacts⟩ := smokeWrite_acts v hp hb
  have hreg := (after_written_smokeDie hbuild).trans (hacts _)
  refine ⟨_, exec_smokeRegionEnable hs hv, fun hfit => ?_, fun hno => by rw [hreg, smokeDieWrite_misfit s hv hno]⟩
  have hen : fld (smokeDieMerged v) 16 1 = fld v 16 1 := fld_smokeDieMerged (y := Reg.f 16 1) (by decide) rfl
  have hdie : fld (smokeDieMerged v) 0 11 = fld v 0 11 := fld_smokeDieMerged (y := Reg.f 0 11) (by decide) rfl
  rw [smokeDieWrite_fits s hfit, State.reg_setReg_self] at hreg
  rw [State.smokeOn, State.smokeDie, State.fldOf, State.fldOf, hreg, hen, hdie]
  exact ⟨beq_iff_eq.2 hv, rfl⟩

/-- Within an instruction the write waits (R29). -/
theorem smokeRegionEnable_waits (hb : (s.chan (dieCh (fld v 0 11))).atBoundary = false) : ∃ t, exec (.smokeRegionEnable v) s = .next t ∧
    t.reg A.rlvSmokeDie = s.reg A.rlvSmokeDie ∧ t.pendAct A.rlvSmokeDie 0 = some v ∧ t.slots = s.slots ∧ t.rlv = s.rlv := by
  obtain ⟨l, hl⟩ := applyAct_waits s .instr (dieCh (fld v 0 11)) A.rlvSmokeDie 0 v
  refine ⟨_, exec_smokeRegionEnable hs hv, ?_⟩
  rw [smokeWrite, hb, hl]
  exact ⟨after_written_smokeDie rfl, pendAct_append l (after_pend ..), after_slots .., after_rlv ..⟩

end

/-! ## The statement -/

/-- Settles O34: a stream's enable is checked once the fetch unit has passed its boundary, the region's at the boundary of its die's
channel, and until then the region's write waits. -/
theorem logStreamAndSmokeRegionEnable : Obligations.LogStreamAndSmokeRegionEnable := by
  unfold Obligations.LogStreamAndSmokeRegionEnable
  intro s n v hs hn
  exact ⟨fun hv hok => logStreamEnable_taken hs hn hv hok, fun hv hno => logStreamEnable_refused hs hn hv hno,
    fun hv => ⟨fun hb hp => smokeRegionEnable_at_boundary hs hv hp hb, fun hb => smokeRegionEnable_waits hs hv hb⟩⟩

end Sys2Proof.Machine
end

section
/-!
SUPPORT. The instructions of a comb unit (R335 to R343): each that completes changes its unit alone.
-/

namespace Sys2Proof.Machine

/-! ## One instruction -/

/-- The unit past the word that it executes. -/
def CombUnit.stepped (u : CombUnit) : CombUnit := { u with pc := u.pc + 1 }

/-- The unit read for a number has that number. -/
@[simp] theorem State.unit_u (s : State) (n : Nat) : (s.unit n).u = n := by
  unfold State.unit
  cases h : getBy CombUnit.u n s.units with
  | none => rfl
  | some u => exact getBy_key h

/-- The command that a unit names is the one in the slot of its number. -/
theorem slot_of_bind {s : State} {o : Option Nat} {x : Slot} (h : o.bind s.slot = some x) : s.slot x.id = some x := by
  obtain ⟨m, -, hm⟩ := Option.bind_eq_some_iff.1 h
  rwa [show x.id = m from getBy_key hm]

section
variable {s : State} {n op w : Nat} {x : Slot} (h : Combing s n x op w)
include h

theorem Combing.slot : s.slot x.id = some x := by
  obtain ⟨-, -, hx, -⟩ := h
  exact slot_of_bind hx

/-- The word at the unit's pc has the instruction's opcode, so the instruction has its effect. -/
theorem combStep_of_combing (f : State → CombUnit → Slot → List Byte → Nat → State) :
    combStep s n op f = f s (s.unit n).stepped x (s.ctxOf x) w := by
  obtain ⟨-, -, hx, hrun, hctx, rfl, hop⟩ := h
  simp [combStep, CombUnit.stepped, hx, hrun, hctx, hop]

theorem exec_of_combing {c : Instr} {f : State → CombUnit → Slot → List Byte → Nat → State}
    (hc : exec c s = run (n < 32) s fun s => combStep s n op f) :
    exec c s = .next (after s (f s (s.unit n).stepped x (s.ctxOf x) w)) := by
  have hstep := combStep_of_combing h f
  obtain ⟨hh, hn, -⟩ := h
  rw [hc, run_of_ok _ (decide_eq_true hn) hh, hstep]

/-- An instruction that sets its unit changes nothing else. -/
theorem sets_unit {c : Instr} {f : State → CombUnit → Slot → List Byte → Nat → State} {v : CombUnit}
    (hc : exec c s = run (n < 32) s fun s => combStep s n op f)
    (hf : f s (s.unit n).stepped x (s.ctxOf x) w = s.setUnit v) : ∃ t, exec c s = .next t ∧ Around (s.setUnit v) t :=
  ⟨_, exec_of_combing h hc, by rw [hf]; exact around_after rfl rfl⟩

end

/-! ## LOADCOL (R319, R325, R335) -/

section
variable {s : State} {u : CombUnit} {x : Slot} {w : Nat}

/-- LOADCOL of a segment whose runs are right lays its column (R319, R335). -/
theorem loadcol_of_runs (h : Seg.runsOk (u.seg (W.k w)) = true) :
    let g := u.seg (W.k w)
    let col : Column := { k := W.k w, signed := Seg.signed g, nulls := Seg.nulls g, rows := Seg.rowsOf g }
    loadcol s u x w = s.setUnit { u with cols := (u.cols.filter fun y => y.k != W.k w) ++ [col] } := by
  simp [loadcol, h]

/-- Any other is malformed (R325). -/
theorem loadcol_of_bad (h : Seg.runsOk (u.seg (W.k w)) = false) :
    loadcol s u x w = malformed s x.id u.rg (W.k w) 8 (pDie ((x.group u.rg).segs.getD (W.k w) 0)) := by
  simp [loadcol, h]

end

/-! ## PARTITION (R342) -/

/-- What PARTITION takes of row `i`: the part that the hash `f` of its key names, and its value. -/
def takenRow (key value : Nat → Option Nat) (f : Nat → Nat) (i : Nat) : Option (Nat × Nat) :=
  match key i, value i with
  | some k, some v => some (f k, v)
  | _, _ => none

/-- The value that row `i` adds to part `j`. -/
def partValue (key value : Nat → Option Nat) (f : Nat → Nat) (j i : Nat) : Option Nat :=
  match key i, value i with
  | some k, some v => if f k = j then some v else none
  | _, _ => none

section
variable (key value : Nat → Option Nat) (f : Nat → Nat)

/-- The rows taken are those where neither key nor value is null. -/
theorem length_takenRows (rows : List Nat) : (rows.filterMap (takenRow key value f)).length =
    (rows.filter fun i => (key i).isSome && (value i).isSome).length := by
  induction rows with
  | nil => rfl
  | cons i l ih => cases hk : key i <;> cases hv : value i <;> simp [takenRow, hk, hv, ih]

/-- Of the rows taken, those of part `j` give its values in row order. -/
theorem takenRows_part (j : Nat) (rows : List Nat) :
    ((rows.filterMap (takenRow key value f)).filter fun y => y.1 == j).map Prod.snd = rows.filterMap (partValue key value f j) := by
  induction rows with
  | nil => rfl
  | cons i l ih =>
    cases hk : key i with
    | none => simpa [takenRow, partValue, hk] using ih
    | some k =>
      cases hv : value i with
      | none => simpa [takenRow, partValue, hk, hv] using ih
      | some v => by_cases hj : f k = j <;> simp [takenRow, partValue, hk, hv, hj, ih]

end

/-- Payloads for streams in their order. -/
theorem foldl_emit (st k : Nat) (items : Nat → Nat) (body : Nat → List Byte) (l : List Nat) (u : CombUnit) :
    l.foldl (fun acc j => emit acc (st + j) (items j) k (body j)) u =
      { u with emits := u.emits ++ l.map fun j => (st + j, 0, items j, k, body j) } := by
  induction l generalizing u with
  | nil => simp
  | cons j l ih =>
    rw [List.foldl_cons, ih]
    simp [emit]

/-- PARTITION sends each part of the rows it takes to its stream; rows not taken count in every chunk (R342). -/
theorem partition_evaluates {s : State} {n w : Nat} {x : Slot} (h : Combing s n x 0x23 w) :
    let u := s.unit n
    let g := x.group u.rg
    let rows := rowsIn (u.sel (W.sa w)) g.rows
    let col := u.col (W.k w)
    let emits := fun (l : List (Nat × Nat × Nat × Nat × List Byte)) => s.setUnit { u with pc := u.pc + 1, emits := u.emits ++ l }
    let value := fun (i : Nat) => if W.pv w then some ((g.baseRow + i) % 2 ^ 32) else (u.col (W.kv w)).at_ i
    let part := fun (j : Nat) => rows.filterMap fun i => match col.at_ i, value i with
      | some key, some v => if crc32c (leBytes 8 key) % 2 ^ W.pb w = j then some v else none
      | _, _ => none
    let taken := (rows.filter fun i => (col.at_ i).isSome && (value i).isSome).length
    ∃ t, exec (.partition n) s = .next t ∧ Around (emits ((List.range (2 ^ W.pb w)).map fun j =>
      (W.st w + j, 0, (part j).length, rows.length - taken, packItems (8 * 2 ^ W.ow w) (part j)))) t := by
  intro u g rows col emits value part taken
  have hpart (j : Nat) : part j = ((rows.filterMap (takenRow col.at_ value fun k => crc32c (leBytes 8 k) % 2 ^ W.pb w)).filter
      fun y => y.1 == j).map Prod.snd := (takenRows_part col.at_ value _ j rows).symm
  have htaken : taken = (rows.filterMap (takenRow col.at_ value fun k => crc32c (leBytes 8 k) % 2 ^ W.pb w)).length :=
    (length_takenRows col.at_ value _ rows).symm
  refine sets_unit h rfl ?_
  simp only [hpart, htaken]
  exact congrArg s.setUnit (foldl_emit ..)

end Sys2Proof.Machine
end

section
/-!
SUPPORT. Chunks that the store takes and row groups that are excluded (R325, R326, R344, R363): what each leaves of the commands,
the comb units and the registers.
-/

namespace Sys2Proof.Machine

/-- From `s` to `t` no command loses a condition or an outcome, comb units at most go, and no register but CMB_CHUNK_CNT and
CMB_RG_EXCL_CNT changes. -/
def Accrues (s t : State) : Prop :=
  t.build = s.build ∧ t.units.Sublist s.units ∧ (∀ a, a ≠ A.cmbChunkCnt → a ≠ A.cmbRgExclCnt → t.reg a = s.reg a) ∧
  ∀ n x, s.slot n = some x → ∃ y, t.slot n = some y ∧ x.conds ⊆ y.conds ∧ x.outc ⊆ y.outc

/-! ## Rules -/

section
variable {s t u : State}

theorem Accrues.refl (s : State) : Accrues s s :=
  ⟨rfl, .refl _, fun _ _ _ => rfl, fun _ x hx => ⟨x, hx, List.Subset.refl _, List.Subset.refl _⟩⟩

theorem Accrues.trans (h : Accrues s t) (k : Accrues t u) : Accrues s u := by
  obtain ⟨h1, h2, h3, h4⟩ := h
  obtain ⟨k1, k2, k3, k4⟩ := k
  refine ⟨k1.trans h1, k2.trans h2, fun a ha hb => (k3 a ha hb).trans (h3 a ha hb), fun n x hx => ?_⟩
  obtain ⟨y, hy, hyc, hyo⟩ := h4 n x hx
  obtain ⟨z, hz, hzc, hzo⟩ := k4 n y hy
  exact ⟨z, hz, List.Subset.trans hyc hzc, List.Subset.trans hyo hzo⟩

theorem Accrues.same (hb : t.build = s.build) (hu : t.units.Sublist s.units) (hr : t.regs = s.regs) (hs : t.slots = s.slots) : Accrues s t :=
  ⟨hb, hu, fun a _ _ => by rw [State.reg, hb, hr, State.reg], fun n x hx =>
    ⟨x, (congrArg (getBy Slot.id n) hs).trans hx, List.Subset.refl _, List.Subset.refl _⟩⟩

theorem Accrues.each {α : Type} {f : State → α → State} (h : ∀ s x, Accrues s (f s x)) (l : List α) (s : State) : Accrues s (s.each l f) := by
  induction l generalizing s with
  | nil => exact .refl s
  | cons x l ih => exact (h s x).trans (ih _)

theorem Accrues.updSlot (s : State) (n : Nat) (g : Slot → Slot) (hid : ∀ x, (g x).id = x.id)
    (hg : ∀ x, x.conds ⊆ (g x).conds ∧ x.outc ⊆ (g x).outc) : Accrues s (s.updSlot n g) := by
  refine ⟨rfl, .refl _, fun _ _ _ => rfl, fun m x hx => ?_⟩
  by_cases hm : m = n
  · subst hm
    exact ⟨g x, State.slot_updSlot_self g hid hx, hg x⟩
  · exact ⟨x, (s.slot_updSlot_ne g hid hm).trans hx, List.Subset.refl _, List.Subset.refl _⟩

theorem Accrues.updScan (s : State) (n : Nat) (f : ScanRun → ScanRun) : Accrues s (updScan s n f) :=
  .updSlot s n _ (fun _ => rfl) fun _ => ⟨List.Subset.refl _, List.Subset.refl _⟩

theorem Accrues.bump (s : State) {a : Nat} (n : Nat) (ha : a = A.cmbChunkCnt ∨ a = A.cmbRgExclCnt) : Accrues s (s.bump a n) := by
  refine ⟨rfl, .refl _, fun b h1 h2 => s.reg_bump_ne n ?_, fun _ x hx => ⟨x, hx, List.Subset.refl _, List.Subset.refl _⟩⟩
  rcases ha with rfl | rfl
  · exact h1
  · exact h2

/-- A condition that was met stays met. -/
theorem Accrues.met (h : Accrues s t) {n : Nat} {st : Status} (hm : s.met n st) : t.met n st := by
  obtain ⟨-, -, -, hslot⟩ := h
  obtain ⟨x, hx, hst⟩ := hm
  obtain ⟨y, hy, hc, -⟩ := hslot n x hx
  exact ⟨y, hy, hc hst⟩

/-- A unit that is free stays free. -/
theorem Accrues.unit_reset (h : Accrues s t) {n : Nat} (hn : getBy CombUnit.u n s.units = none) : t.unit n = CombUnit.reset n := by
  obtain ⟨-, hunits, -⟩ := h
  rw [State.unit, getBy_none_of_sublist hunits hn, Option.getD_none]

end

/-! ## Failures on the host side (R138, R367) -/

theorem Accrues.stopOps (s : State) (n : Nat) : Accrues s (stopOps s n) := by
  refine (Accrues.updSlot s n (fun x => { x with todo := [] }) (fun _ => rfl) fun _ => ⟨List.Subset.refl _, List.Subset.refl _⟩).trans ?_
  exact .same rfl List.filter_sublist rfl rfl

theorem Accrues.unsend (s : State) (n : Nat) : Accrues s (unsend s n) := by
  obtain ⟨ps, h | ⟨k, h⟩⟩ := unsend_eq s n <;> rw [h]
  · exact .same rfl (.refl _) rfl rfl
  · refine Accrues.trans (t := { s with ports := ps }) (.same rfl (.refl _) rfl rfl) ?_
    exact .updSlot _ n _ (fun _ => rfl) fun _ => ⟨List.Subset.refl _, List.Subset.refl _⟩

theorem Slot.conds_subset_meets (st : Status) (x : Slot) : x.conds ⊆ (x.meets st).conds := by
  simp only [Slot.meets]
  split
  · exact List.Subset.refl _
  · exact List.subset_append_left _ _

theorem Accrues.hit (s : State) (n : Nat) (st : Status) : Accrues s (hit s n st) := by
  have h : Accrues s (Machine.stopOps (s.updSlot n (Slot.meets st)) n) :=
    (Accrues.updSlot s n (Slot.meets st) (fun _ => rfl) fun x => ⟨x.conds_subset_meets st, List.Subset.refl _⟩).trans (.stopOps _ n)
  obtain he | he | he := hit_cases s n st <;> rw [he]
  · exact .refl s
  · exact h
  · exact h.trans (.unsend _ n)

theorem Accrues.hostFail (s : State) (n : Nat) (st : Status) (stage ring reason : Nat) : Accrues s (hostFail s n st stage ring reason) := by
  rw [hostFail_eq]
  refine (Accrues.updSlot s n (Slot.failedAt stage ring reason) (fun x => ?_) fun x => ?_).trans (.hit _ n st)
  · obtain ⟨_, _, _, h⟩ := x.failedAt_eq stage ring reason
    rw [h]
  · obtain ⟨_, _, _, h⟩ := x.failedAt_eq stage ring reason
    rw [h]
    exact ⟨List.Subset.refl _, List.Subset.refl _⟩

/-! ## The store takes chunks (R357, R363) -/

theorem Accrues.failUnit (s : State) (r reason : Nat) (u : BrUnit) : Accrues s (failUnit s r reason u) :=
  .trans (t := freeStore s u) (.same rfl (.refl _) rfl rfl) (.hostFail ..)

theorem Accrues.pushUnit (s : State) (r : Nat) (u : BrUnit) : Accrues s (pushUnit s r u) := by
  simp only [Machine.pushUnit]
  split
  · exact .failUnit ..
  · split
    · exact .failUnit ..
    · exact .same rfl (.refl _) rfl rfl

theorem Accrues.handChunks (s : State) (x : Slot) (l : List Chunk) : Accrues s (handChunks s x l) := by
  refine .each (fun st c => ?_) _ s
  split
  · exact .refl st
  · split
    · exact .refl st
    · refine Accrues.trans ?_ (.pushUnit ..)
      refine Accrues.trans ?_ (.bump _ _ (.inl rfl))
      exact .same rfl (.refl _) rfl rfl

section
variable {s : State} {x : Slot} {l : List Chunk}

/-- Chunks of a bounded SCAN that exceed its unit's part of the store end it. -/
theorem takeChunks_of_big (hb : x.entry.bounded = true) (hbig : s.ostBndSize < s.ostOf x.id + chunkLines l) :
    ∃ r, takeChunks s x l = some (hostFail s x.id St.outputRingFault 0 r 5) :=
  ⟨_, (if_pos hb).trans (if_pos hbig)⟩

/-- Other chunks wait for room. -/
theorem takeChunks_of_no_room (hb : x.entry.bounded = false) (hroom : s.ostGenSize < s.mover.ostGen + chunkLines l) : takeChunks s x l = none := by
  simp [takeChunks, hb, hroom]

theorem takeChunks_of_room (hbig : ¬(x.entry.bounded = true ∧ s.ostBndSize < s.ostOf x.id + chunkLines l))
    (hroom : x.entry.bounded = true ∨ s.mover.ostGen + chunkLines l ≤ s.ostGenSize) : takeChunks s x l = some (handChunks s x l) := by
  unfold takeChunks
  split
  · next hb => exact if_neg fun h => hbig ⟨hb, h⟩
  · next hb => exact if_neg (Nat.not_lt.2 (hroom.resolve_left hb))

theorem Accrues.takeChunks {t : State} (h : takeChunks s x l = some t) : Accrues s t := by
  unfold Machine.takeChunks at h
  split at h
  · split at h <;> cases h
    · exact .hostFail ..
    · exact .handChunks ..
  · split at h <;> cases h
    exact .handChunks ..

end

theorem Accrues.flushList (n : Nat) (l : List (Nat × List Chunk)) (s : State) : Accrues s (flushList n l s) := by
  induction l generalizing s with
  | nil => exact .updScan ..
  | cons y l ih =>
    simp only [Machine.flushList]
    split
    · exact .refl s
    · split
      · exact .updScan ..
      · next t ht =>
        split at ht
        · cases ht
        · exact (Accrues.takeChunks ht).trans (ih t)

theorem Accrues.flushLate (s : State) (n : Nat) : Accrues s (flushLate s n) := by
  unfold Machine.flushLate
  split
  · split
    · exact .refl s
    · exact .flushList ..
  · exact .refl s

/-! ## Exclusion (R325, R326) -/

theorem Accrues.excludeGroup (s : State) (n rg : Nat) : Accrues s (excludeGroup s n rg) := by
  unfold Machine.excludeGroup
  split
  · exact .refl s
  · split
    · exact .refl s
    · refine Accrues.trans ?_ (.flushLate ..)
      refine Accrues.trans ?_ (.updScan ..)
      refine Accrues.trans ?_ (.bump _ _ (.inr rfl))
      refine Accrues.trans ?_ (.updScan ..)
      exact .same rfl List.filter_sublist rfl rfl

/-- A command with the outcome `c` among those of items 7 to 11 (R138). -/
def Slot.withOutc (c : Nat) (x : Slot) : Slot := if x.outc.contains c then x else { x with outc := x.outc ++ [c] }

theorem outcome_slot {s : State} {n : Nat} {x : Slot} (c : Nat) (h : s.slot n = some x) : ∃ y, (outcome s n c).slot n = some y ∧ c ∈ y.outc := by
  have hid (y : Slot) : (y.withOutc c).id = y.id := by
    unfold Slot.withOutc
    split <;> rfl
  refine ⟨x.withOutc c, State.slot_updSlot_self (Slot.withOutc c) hid h, ?_⟩
  unfold Slot.withOutc
  split
  · next hc => exact List.contains_iff_mem.1 hc
  · simp

/-- A malformed segment counts once and leaves its SCAN the outcome MEDIA_UNCORRECTABLE (R325). -/
theorem ends_malformed {s : State} {x : Slot} {c : Instr} {rg k reason die : Nat} (hx : s.slot x.id = some x)
    (hc : exec c s = .next (after s (malformed s x.id rg k reason die))) : ∃ t z, exec c s = .next t ∧ t.slot x.id = some z ∧
      St.mediaUncorrectable ∈ z.outc ∧ t.regN A.cmbSegBadCnt = min (s.regN A.cmbSegBadCnt + 1) (2 ^ 32 - 1) := by
  let s1 := (s.bump A.cmbSegBadCnt).setRegN A.cmbSegLast (reason + k * 16 + die * 256)
  obtain ⟨y, hy, hmem⟩ := outcome_slot (s := s1) St.mediaUncorrectable hx
  obtain ⟨hb, -, hreg, hslot⟩ := Accrues.excludeGroup (outcome s1 x.id St.mediaUncorrectable) x.id rg
  obtain ⟨z, hz, -, hsub⟩ := hslot x.id y hy
  refine ⟨_, z, hc, (after_slot ..).trans hz, hsub hmem, ?_⟩
  rw [after_regN (by exact hb) (by decide) (by decide) (by decide), ← s.regN_bump A.cmbSegBadCnt 1, State.regN, malformed, hreg _ (by decide) (by decide)]
  exact congrArg BitVec.toNat ((s.bump A.cmbSegBadCnt).reg_setRegN_ne _ (by decide))

end Sys2Proof.Machine
end

section
/-!
SUPPORT. The commit of a row group (R325, R344, R352): what it leaves of its unit, its command's run and the counters.
-/

namespace Sys2Proof.Machine

/-! ## The commit (R325, R344, R352) -/

theorem updScan_scan {s : State} {n : Nat} {x : Slot} {r : ScanRun} (f : ScanRun → ScanRun) (hx : s.slot n = some x) (hr : x.scan = some r) :
    ∃ y, (updScan s n f).slot n = some y ∧ y.scan = some (f r) :=
  ⟨_, State.slot_updSlot_self (fun x => { x with scan := x.scan.map f }) (fun _ => rfl) hx, by rw [hr, Option.map_some]⟩

section
variable {s : State} {u : CombUnit} {x : Slot}

theorem commitCheck_of_bad {k : Nat} (pruned : Bool) (h : u.badRuns = some k) :
    commitCheck s u x pruned = malformed s x.id u.rg k 8 (pDie ((x.group u.rg).segs.getD k 0)) := by
  simp only [commitCheck, h]

theorem commitCheck_of_sound (pruned : Bool) (h : u.badRuns = none) (ha : ∀ r, x.scan = some r → r.accBad = false) :
    commitCheck s u x pruned = commitGroup s u x pruned := by
  cases hr : x.scan with
  | none => simp [commitCheck, h, hr]
  | some r => simp [commitCheck, h, hr, ha r hr]

/-- The command's run with the row group of `u` evaluated, or pruned (R344 step 4). -/
def ScanRun.evaluated (u : CombUnit) (pruned : Bool) (r : ScanRun) : ScanRun :=
  { r with eval := r.eval + 1, pruned := if pruned then r.pruned + 1 else r.pruned,
           accs := r.accs.zipIdx.map fun a => match assoc u.accs a.2 with | some p => a.1.merge p | none => a.1 }

/-- The counters of a commit. -/
def State.counted (s : State) (pruned : Bool) : State :=
  if pruned then (s.bump A.cmbRgEvalCnt).bump A.cmbRgPruneCnt else s.bump A.cmbRgEvalCnt

theorem State.counted_build (s : State) (pruned : Bool) : (s.counted pruned).build = s.build := by cases pruned <;> rfl

section
variable (s : State) (n a : Nat)

theorem updScan_build (f : ScanRun → ScanRun) : (updScan s n f).build = s.build := rfl
theorem updScan_reg (f : ScanRun → ScanRun) : (updScan s n f).reg a = s.reg a := rfl
theorem countSeqs_build (l : List Chunk) : (countSeqs s n l).build = s.build := rfl
theorem countSeqs_reg (l : List Chunk) : (countSeqs s n l).reg a = s.reg a := rfl
theorem State.setUnit_reg (v : CombUnit) : (s.setUnit v).reg a = s.reg a := rfl

end

theorem bump_updScan (s : State) (n a : Nat) (f : ScanRun → ScanRun) : (updScan s n f).bump a = updScan (s.bump a) n f := rfl

/-- The counters and the commands are apart. -/
theorem counted_updScan (s : State) (n : Nat) (f : ScanRun → ScanRun) (pruned : Bool) :
    (updScan s n f).counted pruned = updScan (s.counted pruned) n f := by
  simp only [State.counted, bump_updScan]
  cases pruned <;> rfl

/-- The place of the command's next commit. -/
def Slot.nextOrd (x : Slot) : Nat := match x.scan with | some r => r.ord | none => 0

variable (s u x) in
/-- A commit goes into the command's run, is counted and leaves the unit with its chunks. -/
theorem commitGroup_eq (pruned : Bool) : ∃ l, commitGroup s u x pruned =
    (countSeqs (updScan ((updScan s x.id (ScanRun.evaluated u pruned)).counted pruned) x.id fun r => { r with ord := r.ord + 1 }) x.id l).setUnit
      { u with running := false, commit := some l, ord := x.nextOrd } := ⟨_, rfl⟩

/-- The unit that commits holds its chunks for the store, at the place its SCAN is at. -/
theorem commitGroup_unit (pruned : Bool) : ∃ l, (commitGroup s u x pruned).unit u.u = { u with running := false, commit := some l, ord := x.nextOrd } := by
  obtain ⟨l, h⟩ := commitGroup_eq s u x pruned
  exact ⟨l, by rw [h]; exact State.unit_setUnit_self _ { u with running := false, commit := some l, ord := x.nextOrd }⟩

theorem commitGroup_reg (pruned : Bool) (a : Nat) : (commitGroup s u x pruned).reg a = (s.counted pruned).reg a := by
  obtain ⟨l, h⟩ := commitGroup_eq s u x pruned
  rw [h, counted_updScan, State.setUnit_reg, countSeqs_reg, updScan_reg, updScan_reg]

theorem commitGroup_build (pruned : Bool) : (commitGroup s u x pruned).build = s.build := by
  obtain ⟨l, h⟩ := commitGroup_eq s u x pruned
  rw [h, State.setUnit_build, countSeqs_build, updScan_build, State.counted_build, updScan_build]

theorem commitGroup_evalCnt : (commitGroup s u x false).regN A.cmbRgEvalCnt = min (s.regN A.cmbRgEvalCnt + 1) (2 ^ 32 - 1) := by
  rw [State.regN, commitGroup_reg]
  exact s.regN_bump A.cmbRgEvalCnt 1

theorem commitGroup_pruneCnt : (commitGroup s u x true).regN A.cmbRgPruneCnt = min (s.regN A.cmbRgPruneCnt + 1) (2 ^ 32 - 1) := by
  have h : (s.bump A.cmbRgEvalCnt).regN A.cmbRgPruneCnt = s.regN A.cmbRgPruneCnt := congrArg BitVec.toNat (s.reg_bump_ne 1 (by decide))
  rw [State.regN, commitGroup_reg, ← h]
  exact (s.bump A.cmbRgEvalCnt).regN_bump A.cmbRgPruneCnt 1

/-- The SCAN has evaluated one row group more, and the next commit takes the next place. -/
theorem commitGroup_scan {r : ScanRun} (hx : s.slot x.id = some x) (hr : x.scan = some r) : ∃ z q,
    (commitGroup s u x false).slot x.id = some z ∧ z.scan = some q ∧ q.ord = r.ord + 1 ∧ q.eval = r.eval + 1 ∧ q.pruned = r.pruned ∧
    q.excl = r.excl := by
  obtain ⟨l, h⟩ := commitGroup_eq s u x false
  obtain ⟨y, hy, hscan⟩ := updScan_scan (ScanRun.evaluated u false) hx hr
  obtain ⟨y', hy', hscan'⟩ := updScan_scan (s := (updScan s x.id (ScanRun.evaluated u false)).counted false) (fun r => { r with ord := r.ord + 1 }) hy hscan
  obtain ⟨z, hz, hq⟩ := updScan_scan _ hy' hscan'
  exact ⟨z, _, by rw [h]; exact hz, hq, rfl, rfl, rfl, rfl⟩

end

/-- END with the runs of every segment right commits the row group (R344). -/
theorem combEnd_commits {s : State} {n w : Nat} {x : Slot} {r : ScanRun} (h : Combing s n x 0x00 w) (hr : x.scan = some r)
    (hb : (s.unit n).badRuns = none) (ha : r.accBad = false) :
    ∃ t z q, exec (.combEnd n) s = .next t ∧ (t.unit n).running = false ∧ (t.unit n).commit.isSome = true ∧ (t.unit n).ord = r.ord ∧
      q.ord = r.ord + 1 ∧ t.slot x.id = some z ∧ z.scan = some q ∧ q.eval = r.eval + 1 ∧ q.pruned = r.pruned ∧ q.excl = r.excl ∧
      t.regN A.cmbRgEvalCnt = min (s.regN A.cmbRgEvalCnt + 1) (2 ^ 32 - 1) := by
  have hcheck : commitCheck s (s.unit n).stepped x false = commitGroup s (s.unit n).stepped x false :=
    commitCheck_of_sound false hb fun q hq => by rw [hr] at hq; cases hq; exact ha
  obtain ⟨l, hu⟩ := commitGroup_unit (s := s) (u := (s.unit n).stepped) (x := x) false
  obtain ⟨z, q, hz, hq, hord, heval, hpruned, hexcl⟩ := commitGroup_scan (u := (s.unit n).stepped) h.slot hr
  rw [show (s.unit n).stepped.u = n from s.unit_u n] at hu
  refine ⟨_, z, q, (exec_of_combing h rfl).trans (by rw [hcheck]), ?_, ?_, ?_, hord, (after_slot ..).trans hz, hq, heval, hpruned, hexcl, ?_⟩
  · rw [after_unit, hu]
  · rw [after_unit, hu]
    rfl
  · rw [after_unit, hu]
    simp [Slot.nextOrd, hr]
  · rw [after_regN (commitGroup_build false) (by decide) (by decide) (by decide)]
    exact commitGroup_evalCnt

end Sys2Proof.Machine
end

section
/-!
SUPPORT. The life of a row group in a comb unit (R22, R339, R344, R363): its grant, its start or its pruning, and its chunks' way to the store.
-/

namespace Sys2Proof.Machine

/-! ## ROW_GROUP_READY (R339, R344) -/

section
variable {s : State} {n : Nat} {x : Slot} (hx : (s.unit n).slot.bind s.slot = some x)
  (hr : (s.unit n).running = false) (hc : (s.unit n).commit = none)
include hx hr hc

/-- A row group waits for its segments. -/
theorem groupReady_of_missing (hl : (s.unit n).segs.length ≠ (x.group (s.unit n).rg).nseg) : groupReady s n = s := by
  simp [groupReady, hx, hr, hc, hl]

/-- With every segment there the prune tests decide. -/
theorem groupReady_of_whole (hl : (s.unit n).segs.length = (x.group (s.unit n).rg).nseg) (hb : s.ctxBad x = false) : groupReady s n =
    if (Scx.prog (s.ctxOf x)).any fun w => W.prune w && pruneFails (s.ctxOf x) w ((s.unit n).seg (W.k w)) then commitCheck s (s.unit n) x true
    else s.setUnit { s.unit n with running := true, pc := 0, bits := List.replicate 8 0 } := by
  have hready : ((s.unit n).running || (s.unit n).commit.isSome || (s.unit n).segs.length != (x.group (s.unit n).rg).nseg) = false := by
    simp [hr, hc, hl]
  simp only [groupReady, hx, hready, hb, Bool.false_eq_true, if_false]

end

theorem exec_rowGroupReady {s : State} {n : Nat} (hh : s.held = false) (hn : n < 32) :
    exec (.rowGroupReady n) s = .next (after s (groupReady s n)) := by
  unfold exec
  exact run_of_ok _ (decide_eq_true hn) hh

/-- A row group with every segment there is pruned, or its program starts (R339, R344). -/
theorem rowGroupReady_starts {s : State} {n : Nat} {x : Slot} (hh : s.held = false) (hn : n < 32) (hx : (s.unit n).slot.bind s.slot = some x)
    (hr : (s.unit n).running = false) (hc : (s.unit n).commit = none) (hl : (s.unit n).segs.length = (x.group (s.unit n).rg).nseg) (hb : s.ctxBad x = false) :
    let u := s.unit n
    let pruned := (Scx.prog (s.ctxOf x)).any fun w => W.prune w && pruneFails (s.ctxOf x) w (u.seg (W.k w))
    ∃ t, exec (.rowGroupReady n) s = .next t ∧
      (pruned = false → Around (s.setUnit { u with running := true, pc := 0, bits := List.replicate 8 0 }) t) ∧
      (pruned = true → u.badRuns = none → (∀ r, x.scan = some r → r.accBad = false) → (t.unit n).running = false ∧
        (t.unit n).commit.isSome = true ∧ t.regN A.cmbRgPruneCnt = min (s.regN A.cmbRgPruneCnt + 1) (2 ^ 32 - 1)) := by
  intro u pruned
  refine ⟨_, exec_rowGroupReady hh hn, fun hp => ?_, fun hp hbad hacc => ?_⟩
  · rw [groupReady_of_whole hx hr hc hl hb, if_neg (Bool.eq_false_iff.1 hp)]
    exact around_after rfl rfl
  · obtain ⟨l, hu⟩ := commitGroup_unit (s := s) (u := u) (x := x) true
    rw [show u.u = n from s.unit_u n] at hu
    rw [groupReady_of_whole hx hr hc hl hb, if_pos hp, commitCheck_of_sound true hbad hacc, after_unit, hu,
      after_regN (commitGroup_build true) (by decide) (by decide) (by decide)]
    exact ⟨rfl, rfl, commitGroup_pruneCnt⟩

/-! ## CHUNK_ACCEPT (R344, R363) -/

/-- The store has taken the chunks of excluded row groups whose turn has come. -/
def State.flushed (s : State) : State := s.each (s.slots.map Slot.id) flushLate

theorem Accrues.flushed (s : State) : Accrues s s.flushed := .each Accrues.flushLate _ s

/-- Where no chunk of an excluded row group waits there is none to take. -/
theorem flushed_of_no_late {s : State} (h : ∀ y ∈ s.slots, ∀ r, y.scan = some r → r.late = []) : s.flushed = s := by
  refine List.foldl_fixed' (fun n => ?_) _
  unfold flushLate
  split
  · next r hr =>
    obtain ⟨y, hy, hscan⟩ := Option.bind_eq_some_iff.1 hr
    simp [h y (mem_of_getBy hy) r hscan]
  · rfl

theorem exec_chunkAccept {s : State} {n : Nat} (hh : s.held = false) (hn : n < 32) :
    exec (.chunkAccept n) s = .next (after s (chunkAccept s n).flushed) := by
  unfold exec
  exact run_of_ok _ (decide_eq_true hn) hh

/-- The state in which unit `n` is free. -/
def State.unitFreed (s : State) (n : Nat) : State := { s with units := delBy CombUnit.u n s.units }

section
variable {s : State} {n : Nat} {x : Slot} {l : List Chunk} (hx : (s.unit n).slot.bind s.slot = some x) (hl : (s.unit n).commit = some l)
include hx hl

theorem chunkAccept_early (h : s.ordBefore x.id (s.unit n).ord = true) : chunkAccept s n = s := by
  simp [chunkAccept, hx, hl, h]

theorem chunkAccept_in_turn (h : s.ordBefore x.id (s.unit n).ord = false) :
    chunkAccept s n = (takeChunks (s.unitFreed n) x l).getD s := by
  simp [chunkAccept, State.unitFreed, hx, hl, h]

/-- Without its turn or without room the row group stays in its unit. -/
theorem chunkAccept_waits (h : s.ordBefore x.id (s.unit n).ord = true ∨
    (x.entry.bounded = false ∧ s.ostGenSize < s.mover.ostGen + chunkLines l)) : chunkAccept s n = s := by
  cases ho : s.ordBefore x.id (s.unit n).ord with
  | true => exact chunkAccept_early hx hl ho
  | false =>
    obtain ⟨hb, hroom⟩ := h.resolve_left (by simp [ho])
    rw [chunkAccept_in_turn hx hl ho, takeChunks_of_no_room (s := s.unitFreed n) hb hroom, Option.getD_none]

/-- In its turn the chunks of a bounded SCAN that exceed its part of the store end it. -/
theorem met_chunkAccept (ho : s.ordBefore x.id (s.unit n).ord = false) (hb : x.entry.bounded = true)
    (hbig : s.ostBndSize < s.ostOf x.id + chunkLines l) (hp : x.phase = .running) (hr : x.reject = none) :
    (chunkAccept s n).met x.id St.outputRingFault := by
  obtain ⟨r, h⟩ := takeChunks_of_big (s := s.unitFreed n) hb hbig
  obtain ⟨y, hy, hmem, -⟩ := hostFail_slot (s := s.unitFreed n) St.outputRingFault 0 r 5 (slot_of_bind hx) hp hr
  rw [chunkAccept_in_turn hx hl ho, h, Option.getD_some]
  exact ⟨y, hy, hmem⟩

/-- In its turn and with room the chunks go to the store, and the unit is free. -/
theorem chunkAccept_frees (ho : s.ordBefore x.id (s.unit n).ord = false)
    (hbig : ¬(x.entry.bounded = true ∧ s.ostBndSize < s.ostOf x.id + chunkLines l))
    (hroom : x.entry.bounded = true ∨ s.mover.ostGen + chunkLines l ≤ s.ostGenSize) :
    Accrues (s.unitFreed n) (chunkAccept s n) := by
  rw [chunkAccept_in_turn hx hl ho, takeChunks_of_room (s := s.unitFreed n) hbig hroom, Option.getD_some]
  exact .handChunks ..

end

/-! ## COMB_UNIT_GRANT (R22) -/

/-- A choice among equals gives their value. -/
theorem foldl_of_forall_eq {α : Type} {f : Option α → α → Option α} {v : α} {l : List α} (hne : l ≠ []) (hl : ∀ y ∈ l, y = v)
    (h0 : f none v = some v) (h1 : f (some v) v = some v) : l.foldl f none = some v := by
  have hrest (m : List α) (hm : ∀ y ∈ m, y = v) : m.foldl f (some v) = some v := by
    induction m with
    | nil => rfl
    | cons y m ih =>
      obtain ⟨rfl, hm⟩ := List.forall_mem_cons.1 hm
      rw [List.foldl_cons, h1, ih hm]
  obtain ⟨y, m, rfl⟩ := List.exists_cons_of_ne_nil hne
  obtain ⟨rfl, hm⟩ := List.forall_mem_cons.1 hl
  rw [List.foldl_cons, h0, hrest m hm]

theorem unitGrant_of_none {s : State} (h : s.rgWaiting = []) : unitGrant s = s := by
  rw [unitGrant, h]
  rfl

/-- The one row group that waits takes the unit it may have. -/
theorem unitGrant_of_one {s : State} {v : Nat × Nat × Option Nat × Nat × Nat} {k : Nat} (hne : s.rgWaiting ≠ []) (hv : ∀ y ∈ s.rgWaiting, y = v)
    (hk : (s.slot v.2.2.2.1).bind s.unitFor = some k) :
    unitGrant s = s.setUnit { CombUnit.reset k with slot := some v.2.2.2.1, rg := v.2.2.2.2 } := by
  rw [unitGrant, foldl_of_forall_eq hne hv rfl (ite_self _)]
  simp only [hk]

theorem exec_combUnitGrant {s : State} (hh : s.held = false) : exec .combUnitGrant s = .next (after s (unitGrant s)) := by
  unfold exec
  exact run_of_ok _ rfl hh

/-! ## The statement -/

/-- Settles O54: an instruction sets its unit, a malformed segment excludes its row group, a commit waits in its unit for the store, and what
follows of excluded row groups only adds to the commands and frees units. -/
theorem combUnitsEvaluateRowGroups : Obligations.CombUnitsEvaluateRowGroups := by
  unfold Obligations.CombUnitsEvaluateRowGroups
  intro s n x w u g set rows col emits test
  refine ⟨?_, partition_evaluates, fun h => ⟨fun hruns => ?_, fun hruns => ?_⟩, fun r k h hr hbad => ?_,
    fun r h hr hbad hacc => combEnd_commits h hr hbad hacc,
    fun hh hn hx => ⟨fun hr hc => ⟨fun hl => ?_, fun hl hb => rowGroupReady_starts hh hn hx hr hc hl hb⟩, fun l hl => ?_⟩,
    fun hh => ⟨fun hw => ?_, fun v k hne hv hk => ?_⟩⟩
  -- each of these instructions sets its unit
  · simp only [List.forall_mem_cons, List.not_mem_nil, false_implies, implies_true, and_true]
    and_intros <;> exact fun h => sets_unit h rfl rfl
  · exact sets_unit h rfl (loadcol_of_runs hruns)
  · exact ends_malformed h.slot ((exec_of_combing h rfl).trans (by rw [loadcol_of_bad (u := (s.unit n).stepped) hruns]))
  · exact ends_malformed h.slot ((exec_of_combing h rfl).trans (by rw [commitCheck_of_bad (u := (s.unit n).stepped) false hbad]))
  · exact ⟨_, exec_rowGroupReady hh hn, by rw [groupReady_of_missing hx hr hc hl]; exact around_after rfl rfl⟩
  · intro noLate turn big
    have hrun := exec_chunkAccept (s := s) hh hn
    refine ⟨fun ho ⟨hb, hbig⟩ hp hr => ⟨_, hrun, (after_met ..).2 ((Accrues.flushed _).met (met_chunkAccept hx hl ho hb hbig hp hr))⟩,
      fun hlate hw => ⟨_, hrun, ?_⟩, fun ho hbig hroom => ⟨_, hrun, ?_⟩⟩
    · rw [chunkAccept_waits hx hl hw, flushed_of_no_late hlate]
      exact around_after rfl rfl
    · rw [after_unit]
      exact ((chunkAccept_frees hx hl ho hbig hroom).trans (.flushed _)).unit_reset (getBy_delBy_self ..)
  · exact ⟨_, exec_combUnitGrant hh, by rw [unitGrant_of_none hw]; exact around_after rfl rfl⟩
  · exact ⟨_, exec_combUnitGrant hh, by rw [unitGrant_of_one hne hv hk]; exact around_after rfl rfl⟩

end Sys2Proof.Machine
end

section
/-!
SUPPORT. The buffer rings (R355 to R364): a ring of the state, its unit at the front, and the units that fail.
-/

namespace Sys2Proof.Machine

/-! ## A ring of the state -/

/-- The ring read for a number has that number. -/
@[simp] theorem State.ring_r (s : State) (r : Nat) : (s.ring r).r = r := by
  unfold State.ring
  cases h : getBy BufRing.r r s.rings with
  | none => rfl
  | some b => exact getBy_key h

/-- A ring that keeps its number is read back as it was put. -/
theorem State.ring_setRing_of_r (s : State) {b : BufRing} {r : Nat} (h : b.r = r) : (s.setRing b).ring r = b := h ▸ s.ring_setRing_self b

@[simp] theorem after_ring (s t : State) (r : Nat) : (after s t).ring r = t.ring r := by rw [State.ring, after_rings]; rfl

@[simp] theorem State.written_ring (t : State) (r : Nat) : t.written.ring r = t.ring r := rfl
@[simp] theorem State.written_rings (t : State) : t.written.rings = t.rings := rfl
@[simp] theorem State.written_port (t : State) (p : Nat) : t.written.port p = t.port p := rfl

theorem issue_ring (s : State) (p : Nat) (q : Req) (r : Nat) : (issue s p q).ring r = s.ring r := by
  obtain ⟨_, _, h⟩ := issue_frame s p q
  rw [h]
  rfl

/-! ## The next descriptors are read (R357) -/

/-- The read of the next descriptors of ring `r`: up to 8, to the end of the ring and of a 4 KiB page. -/
def State.descReq (s : State) (r : Nat) : Req :=
  let b := s.ring r
  let i := (b.head + b.taken.length) % s.brSize r
  let k := min 8 (min (s.brSize r - i) ((4096 - s.brAddr r i % 4096) / 32))
  mkRead (s.brAddr r i) (32 * k) false (.descRead r i k)

/-- The ring while its descriptors are read. -/
def BufRing.reading (b : BufRing) (now : Nat) : BufRing := { b with phase := 1, again := false, readAt := now }

section
variable {s : State} {r : Nat} {u : BrUnit} {l : List BrUnit} {x : Slot} (hu : (s.ring r).units = u :: l) (hx : s.slot u.slot = some x)
include hu hx

theorem ringRead_eq : ringRead s r = issue (s.setRing ((s.ring r).reading s.aclk)) (s.portOf x) (s.descReq r) := by
  simp only [ringRead, BufRing.reading, State.descReq, hu, hx]

theorem ringRead_ring : (ringRead s r).ring r = (s.ring r).reading s.aclk := by
  rw [ringRead_eq hu hx, issue_ring]
  exact s.ring_setRing_of_r (s.ring_r r)

theorem asked_ringRead (hs : s.stopped = false) (hp : s.portOf x < 4) : (ringRead s r).asked (s.portOf x) = s.asked (s.portOf x) ++ [s.descReq r] := by
  rw [ringRead_eq hu hx]
  exact asked_issue (s.descReq r) hp hs

end

/-! ## Units that fail (R364) -/

/-- Writes that are taken back leave the other commands. -/
theorem unsend_slot_ne (s : State) {n m : Nat} (h : m ≠ n) : (unsend s n).slot m = s.slot m := by
  obtain ⟨ps, hu | ⟨k, hu⟩⟩ := unsend_eq s n <;> rw [hu]
  · rfl
  · exact State.slot_updSlot_ne _ (fun y => { y with bytesOut := y.bytesOut - k }) (fun _ => rfl) h

/-- A condition of one command leaves the other commands. -/
theorem hit_slot_ne (s : State) {n m : Nat} (st : Status) (h : m ≠ n) : (hit s n st).slot m = s.slot m := by
  have hstop : (stopOps (s.updSlot n (Slot.meets st)) n).slot m = s.slot m := by
    rw [stopOps_slot]
    exact (State.slot_updSlot_ne _ (fun y => { y with todo := [] }) (fun _ => rfl) h).trans (s.slot_updSlot_ne (Slot.meets st) (fun _ => rfl) h)
  obtain hh | hh | hh := hit_cases s n st <;> rw [hh]
  · exact hstop
  · exact (unsend_slot_ne _ h).trans hstop

theorem hostFail_slot_ne (s : State) {n m : Nat} (st : Status) (stage ring reason : Nat) (h : m ≠ n) :
    (hostFail s n st stage ring reason).slot m = s.slot m := by
  rw [hostFail_eq, hit_slot_ne _ st h]
  refine s.slot_updSlot_ne (Slot.failedAt stage ring reason) (fun y => ?_) h
  obtain ⟨_, _, _, hy⟩ := y.failedAt_eq stage ring reason
  rw [hy]

section
variable (s : State) (r reason : Nat) (u : BrUnit)

/-- The failure of a unit is a condition of its command, and gives its room in the store back. -/
theorem failUnit_eq : ∃ stage, failUnit s r reason u = hostFail (freeStore s u) u.slot St.outputRingFault stage r reason := ⟨_, rfl⟩

/-- Beyond the command, its work and the store the failure of a unit changes nothing. -/
theorem failUnit_frame : ∃ sl os rs cs us ps m,
    failUnit s r reason u = { s with slots := sl, ops := os, recov := rs, cws := cs, units := us, ports := ps, mover := m } := by
  obtain ⟨stage, he⟩ := failUnit_eq s r reason u
  obtain ⟨_, _, _, _, _, _, h⟩ := hostFail_frame (freeStore s u) u.slot St.outputRingFault stage r reason
  exact ⟨_, _, _, _, _, _, _, he.trans h⟩

theorem failUnit_ring (k : Nat) : (failUnit s r reason u).ring k = s.ring k := by
  obtain ⟨_, _, _, _, _, _, _, h⟩ := failUnit_frame s r reason u
  rw [h]
  rfl

theorem failUnit_reg (a : Nat) : (failUnit s r reason u).reg a = s.reg a := by
  obtain ⟨_, _, _, _, _, _, _, h⟩ := failUnit_frame s r reason u
  rw [h]
  rfl

theorem failUnit_build : (failUnit s r reason u).build = s.build := by
  obtain ⟨_, _, _, _, _, _, _, h⟩ := failUnit_frame s r reason u
  rw [h]

theorem failUnit_slot_ne {n : Nat} (h : n ≠ u.slot) : (failUnit s r reason u).slot n = s.slot n := by
  obtain ⟨stage, he⟩ := failUnit_eq s r reason u
  rw [he]
  exact hostFail_slot_ne (freeStore s u) _ stage r reason h

variable {s u}

/-- A running command whose unit fails has met OUTPUT_RING_FAULT. -/
theorem met_failUnit {x : Slot} (hx : s.slot u.slot = some x) (hp : x.phase = .running) (hr : x.reject = none) :
    (failUnit s r reason u).met u.slot St.outputRingFault := by
  obtain ⟨stage, he⟩ := failUnit_eq s r reason u
  obtain ⟨y, hy, hmem, -⟩ := hostFail_slot (s := freeStore s u) St.outputRingFault stage r reason hx hp hr
  rw [he]
  exact ⟨y, hy, hmem⟩

end

/-! ### All of several units -/

/-- The units of a list fail one after the other. -/
def State.unitsFailed (s : State) (r reason : Nat) (l : List BrUnit) : State := s.each l fun st u => failUnit st r reason u

section
variable (s : State) (r reason : Nat) (l : List BrUnit)

theorem unitsFailed_ring (k : Nat) : (s.unitsFailed r reason l).ring k = s.ring k :=
  State.each_keeps (r := fun t => t.ring k) (fun t u _ => failUnit_ring t r reason u k) s

theorem unitsFailed_reg (a : Nat) : (s.unitsFailed r reason l).reg a = s.reg a :=
  State.each_keeps (r := fun t => t.reg a) (fun t u _ => failUnit_reg t r reason u a) s

theorem unitsFailed_build : (s.unitsFailed r reason l).build = s.build :=
  State.each_keeps (r := State.build) (fun t u _ => failUnit_build t r reason u) s

variable {l}

/-- Each running command with a unit among them has met OUTPUT_RING_FAULT: from the first of its units on. -/
theorem met_unitsFailed {u : BrUnit} {x : Slot} (hu : u ∈ l) (hx : s.slot u.slot = some x) (hp : x.phase = .running) (hr : x.reject = none) :
    (s.unitsFailed r reason l).met u.slot St.outputRingFault := by
  induction l generalizing s with
  | nil => cases hu
  | cons v l ih =>
    by_cases hv : u.slot = v.slot
    · rw [hv] at hx ⊢
      exact (Accrues.each (fun t w => Accrues.failUnit t r reason w) l _).met (met_failUnit r reason hx hp hr)
    · obtain rfl | hmem := List.mem_cons.1 hu
      · exact absurd rfl hv
      · exact ih (failUnit s r reason v) hmem ((failUnit_slot_ne s r reason v hv).trans hx)

end

end Sys2Proof.Machine
end

section
/-!
SUPPORT. The registers of a buffer ring that have a rule of their own (R355, R358, R360): HQ_BR_CFG and HQ_BR_KICK.
-/

namespace Sys2Proof.Machine

/-! ## The registers -/

/-- The fields of HQ_BR_CFG; those that a write reaches while EN is 1. -/
def hqBrCfgFlds : List Fld := [Reg.fr 0 4 0 12, Reg.f 7 1, Reg.f 16 16]
def hqBrCfgOnFlds : List Fld := [Reg.f 7 1, Reg.f 16 16]

/-- The rows of HQ_BR_CFG and of HQ_BR_KICK. -/
def hqBrCfgRow : RegRow := Reg.rw (A.hqBrCfg 0) [(256, 32)] 0 .immediate hqBrCfgFlds
def hqBrKickRow : RegRow := Reg.wo (A.hqBrKick 0) [(256, 32)]

theorem find_hqBrCfg : ∀ r < 256, Reg.find (A.hqBrCfg r) = some (hqBrCfgRow, [r]) := by decide +kernel

theorem find_hqBrKick : ∀ r < 256, Reg.find (A.hqBrKick r) = some (hqBrKickRow, [r]) := by decide +kernel

/-- No half of a pair lies elsewhere in the register block of a ring than at its start. -/
theorem pairBase_hqBr {a : Nat} (hlo : 0x028000 ≤ a) (hhi : a < 0x02A000) (h : a % 32 ≠ 0) : Reg.pairBase a = false := by
  simp [Reg.pairBase, A.hqAqSqbLo, A.hqAqCqbLo, A.hqArBaseLo, A.wglCalPaddrLo, A.eccWseqLo, A.rlvFgPosLo, A.rlvFgTotalLo, A.hqBrBaseLo, A.ntfTgtAddrLo]
  omega

/-- An MPORT write of a ring's register that acts, its base apart. -/
theorem accessWrite_hqBr {s t : State} {a : Nat} {v : Word} {x : RegRow} {is : List Nat} (hs : InService s) (hf : Reg.find a = some (x, is))
    (hlo : 0x028004 ≤ a) (hhi : a < 0x02A000) (h : a % 32 ≠ 0 ∧ a % 32 ≠ 4) (hx : x.base < 0x030000) (hi : s.instOk x is = true)
    (ht : actWrite s x.base (is.getD 0 0) v = some t) : accessWrite s .mport a v none = t.written :=
  accessWrite_hq hs hf (by omega) hx hi (pairBase_hqBr (by omega) hhi h.1)
    (by rw [pairBase_hqBr (a := a - 4) (by omega) (by omega) (by omega), Bool.and_false]) ht

section
variable {s : State} {r : Nat} {v : Word} (hs : InService s) (hr : r < 256)
include hs hr

theorem accessWrite_hqBrCfg : accessWrite s .mport (A.hqBrCfg r) v none = (brCfg s r v).written :=
  accessWrite_hqBr hs (find_hqBrCfg r hr) (by unfold A.hqBrCfg; omega) (by unfold A.hqBrCfg; omega) (by unfold A.hqBrCfg; omega) (by decide) rfl rfl

theorem accessWrite_hqBrKick : accessWrite s .mport (A.hqBrKick r) 1 none = (kickRing s r).written :=
  accessWrite_hqBr hs (find_hqBrKick r hr) (by unfold A.hqBrKick; omega) (by unfold A.hqBrKick; omega) (by unfold A.hqBrKick; omega) (by decide) rfl rfl

theorem exec_bufferRingEnable (hv : fld v 7 1 = 1) : exec (.bufferRingEnable r v) s = .next (after s (brCfg s r v).written) := by
  unfold exec
  exact (runBus_of_ok _ (decide_eq_true hr) hs.not_held).trans (by rw [if_pos hv, accessWrite_hqBrCfg hs hr])

theorem exec_bufferRingDisable (hv : fld v 7 1 = 0) : exec (.bufferRingDisable r v) s = .next (after s (brCfg s r v).written) := by
  unfold exec
  exact (runBus_of_ok _ (decide_eq_true hr) hs.not_held).trans (by rw [if_pos hv, accessWrite_hqBrCfg hs hr])

theorem exec_kick : exec (.kick r) s = .next (after s (kickRing s r).written) := by
  unfold exec
  exact (runBus_of_ok _ (decide_eq_true hr) hs.not_held).trans (by rw [accessWrite_hqBrKick hs hr])

end

/-- HQ_BR_CFG after the command is as the write left it. -/
theorem after_written_hqBrCfg {s t : State} {r : Nat} (hr : r < 256) (hb : t.build = s.build) :
    (after s t.written).reg (A.hqBrCfg r) = t.reg (A.hqBrCfg r) :=
  after_written_reg hb (by unfold A.hqBrCfg; omega) (by unfold A.hqBrCfg; omega) (by unfold A.hqBrCfg A.hqArDropCnt; omega)

/-! ## A write of HQ_BR_CFG (R355, R360) -/

theorem State.brEn_iff (s : State) (r : Nat) : s.brEn r = true ↔ fld (s.reg (A.hqBrCfg r)) 7 1 = 1 := beq_iff_eq

theorem State.brEn_eq_false_iff (s : State) (r : Nat) : s.brEn r = false ↔ fld (s.reg (A.hqBrCfg r)) 7 1 = 0 := by
  have hlt := fld_lt (s.reg (A.hqBrCfg r)) 7 1
  rw [← Bool.not_eq_true, s.brEn_iff]
  omega

/-- A ring that starts: at HEAD 0, without a fault. -/
def BufRing.started (b : BufRing) : BufRing := { b with head := 0, fault := false, starved := false, freason := 0, active := true, closing := false }

/-- A ring that ends at once, its units gone. -/
def BufRing.ended (b : BufRing) : BufRing :=
  { b with active := false, units := [], phase := 0, waited := false, starved := false, again := false }

/-- A ring that ends once the unit at its front is placed. -/
def BufRing.ending (b : BufRing) : BufRing := { b with closing := true, units := b.units.take 1 }

/-- A ring without a unit that takes descriptors: it is idle, or its head only waits for them. -/
def BufRing.waits (b : BufRing) : Prop := b.phase = 0 ∨ (b.phase = 1 ∧ b.starved = true ∧ b.taken = [])

section
variable {s : State} {r : Nat} {v : Word}

/-- A rise of EN starts the ring (R355). -/
theorem brCfg_rise (hv : fld v 7 1 = 1) (he : s.brEn r = false) :
    brCfg s r v = (s.setReg (A.hqBrCfg r) (Reg.merge hqBrCfgFlds (s.reg (A.hqBrCfg r)) v)).setRing (s.ring r).started := by
  have hold := (s.brEn_eq_false_iff r).1 he
  have hnew : fld (Reg.merge hqBrCfgFlds (s.reg (A.hqBrCfg r)) v) 7 1 = 1 :=
    (fld_merge_of_mem (y := Reg.f 7 1) (by decide) (by unfold Fld.apart; decide) (by decide) _ v).trans hv
  unfold hqBrCfgFlds at hnew ⊢
  simp [brCfg, hold, hnew, BufRing.started]

/-- A fall of EN ends the ring at once, and every unit fails, or else at the boundary of the unit at its front, and the others fail (R360). -/
theorem brCfg_fall (hv : fld v 7 1 = 0) (he : s.brEn r = true) : ∃ nv, fld nv 7 1 = 0 ∧
    ((s.ring r).waits → brCfg s r v = ((s.setReg (A.hqBrCfg r) nv).setRing (s.ring r).ended).unitsFailed r 6 (s.ring r).units) ∧
    (¬(s.ring r).waits → brCfg s r v = ((s.setReg (A.hqBrCfg r) nv).setRing (s.ring r).ending).unitsFailed r 6 (s.ring r).units.tail) := by
  have hold := (s.brEn_iff r).1 he
  have hnew : fld (Reg.merge hqBrCfgOnFlds (s.reg (A.hqBrCfg r)) v) 7 1 = 0 :=
    (fld_merge_of_mem (y := Reg.f 7 1) (by decide) (by unfold Fld.apart; decide) (by decide) _ v).trans hv
  refine ⟨_, hnew, fun hw => ?_, fun hw => ?_⟩ <;> unfold hqBrCfgOnFlds at hnew ⊢ <;> unfold BufRing.waits at hw
  · simp [brCfg, hold, hnew, hw, BufRing.ended, State.unitsFailed]
  · simp [brCfg, hold, hnew, hw, BufRing.ending, State.unitsFailed]

end

/-- What the units' failure leaves of a ring that was put with EN at 0. -/
theorem after_unitsFailed {s : State} {r : Nat} {nv : Word} {b : BufRing} {l : List BrUnit} (hr : r < 256) (hb : b.r = r) (hn : fld nv 7 1 = 0) :
    let t := ((s.setReg (A.hqBrCfg r) nv).setRing b).unitsFailed r 6 l
    (after s t.written).brEn r = false ∧ (after s t.written).ring r = b := by
  intro t
  have hbuild : t.build = s.build := unitsFailed_build ..
  have hreg : t.reg (A.hqBrCfg r) = nv := (unitsFailed_reg ..).trans (s.reg_setReg_self _ nv)
  refine ⟨?_, ?_⟩
  · rw [State.brEn_eq_false_iff, after_written_hqBrCfg hr hbuild, hreg, hn]
  · rw [after_ring, State.written_ring]
    exact (unitsFailed_ring ..).trans (State.ring_setRing_of_r _ hb)

/-! ## BUFFER_RING_ENABLE and BUFFER_RING_DISABLE -/

section
variable {s : State} {r : Nat} {v : Word} (hs : InService s) (hr : r < 256)
include hs hr

theorem bufferRingEnable_starts (hv : fld v 7 1 = 1) (hsize : fld v 0 4 ≤ 12) (he : s.brEn r = false) :
    ∃ t, exec (.bufferRingEnable r v) s = .next t ∧ t.brEn r = true ∧ t.brSize r = 16 * 2 ^ fld v 0 4 ∧ t.ring r = (s.ring r).started := by
  have hfld {y : Fld} (hy : y ∈ hqBrCfgFlds) := fld_merge_of_mem (fs := hqBrCfgFlds) (by decide) (by unfold Fld.apart; decide) hy (s.reg (A.hqBrCfg r)) v
  have hreg : (after s (brCfg s r v).written).reg (A.hqBrCfg r) = Reg.merge hqBrCfgFlds (s.reg (A.hqBrCfg r)) v := by
    rw [brCfg_rise hv he, after_written_hqBrCfg hr (by rfl)]
    exact s.reg_setReg_self ..
  refine ⟨_, exec_bufferRingEnable hs hr hv, ?_, ?_, ?_⟩
  · rw [State.brEn_iff, hreg]
    exact (hfld (y := Reg.f 7 1) (by decide)).trans hv
  · rw [State.brSize, State.fldOf, hreg]
    exact congrArg (16 * 2 ^ ·) ((hfld (y := Reg.fr 0 4 0 12) (by decide)).trans (if_pos (by simpa [Reg.fr, Rule.ok] using hsize)))
  · rw [after_ring, State.written_ring, brCfg_rise hv he]
    exact State.ring_setRing_of_r _ (s.ring_r r)

theorem bufferRingDisable_ends (hv : fld v 7 1 = 0) (he : s.brEn r = true) : ∃ t, exec (.bufferRingDisable r v) s = .next t ∧ t.brEn r = false ∧
    ((s.ring r).waits → t.ring r = (s.ring r).ended ∧ ∀ u ∈ (s.ring r).units, ∀ x, s.slot u.slot = some x → x.phase = .running → x.reject = none →
      t.met u.slot St.outputRingFault) ∧
    (¬(s.ring r).waits → t.ring r = (s.ring r).ending) := by
  obtain ⟨nv, hn, hends, hcloses⟩ := brCfg_fall hv he
  refine ⟨_, exec_bufferRingDisable hs hr hv, ?_⟩
  by_cases hw : (s.ring r).waits
  · rw [hends hw]
    obtain ⟨hen, hring⟩ := after_unitsFailed hr (b := (s.ring r).ended) (l := (s.ring r).units) (s.ring_r r) hn
    exact ⟨hen, fun _ => ⟨hring, fun u hu x hx hp hrj => (after_met ..).2 (met_unitsFailed _ r 6 hu hx hp hrj)⟩, fun h => absurd hw h⟩
  · rw [hcloses hw]
    obtain ⟨hen, hring⟩ := after_unitsFailed hr (b := (s.ring r).ending) (l := (s.ring r).units.tail) (s.ring_r r) hn
    exact ⟨hen, fun h => absurd h hw, fun _ => hring⟩

end

/-! ## KICK (R358) -/

section
variable {s : State} {r : Nat}

theorem kickRing_of_ne (h : (s.ring r).phase ≠ 1) : kickRing s r = s := if_pos h

/-- While descriptors are read the ring is to read once more. -/
theorem kickRing_of_reading (h : (s.ring r).phase = 1) (hd : s.descReading r = true) : kickRing s r = s.setRing { s.ring r with again := true } := by
  simp [kickRing, h, hd]

theorem kickRing_of_waiting (h : (s.ring r).phase = 1) (hd : s.descReading r = false) : kickRing s r = ringRead s r := by
  simp [kickRing, h, hd]

end

/-- A request that is issued on a port with a credit, a tag and nothing that waits leaves at once. -/
theorem issue_leaves {s : State} {p tag : Nat} (q : Req) (hs : s.stopped = false) (hp : p < 4) (hw : (s.port p).wait = []) (hc : 0 < (s.port p).rqCrd)
    (ht : freeTag (s.port p) = some tag) :
    ((issue s p q).port p).out = (s.port p).out ++ [{ q with tag := tag, sent := s.aclk, tfab := fld (s.reg (A.movTfab p)) 0 20 }] := by
  unfold issue
  rw [hs]
  refine (congrArg Port.out (pump_port s _ hp)).trans ?_
  exact pumpPort_lone (x := { s.port p with wait := (s.port p).wait ++ [q] }) _ _ (by rw [hw]; rfl) hc ht

/-- Settles O31: a write of HQ_BR_CFG starts or ends its ring, and a write of HQ_BR_KICK is one read of descriptors, now or later. -/
theorem bufferRingEnableDisableAndKick : Obligations.BufferRingEnableDisableAndKick := by
  unfold Obligations.BufferRingEnableDisableAndKick
  intro s r v hs hr
  refine ⟨fun hv hsize he => ?_, fun hv he => ?_, fun hp hd => ⟨_, exec_kick hs hr, ?_⟩, fun hp => ⟨_, exec_kick hs hr, ?_⟩,
    fun u l x tag hp hd hu hx hst hport hw hc htag => ⟨_, exec_kick hs hr, ?_⟩⟩
  · obtain ⟨t, ht, hen, hsz, hring⟩ := bufferRingEnable_starts hs hr hv hsize he
    exact ⟨t, ht, hen, hsz, by rw [hring]; rfl, by rw [hring]; rfl, by rw [hring]; rfl, by rw [hring]; rfl⟩
  · obtain ⟨t, ht, hen, hwaits, hcloses⟩ := bufferRingDisable_ends hs hr hv he
    refine ⟨t, ht, hen, fun hw => ?_, fun hw => ?_⟩
    · obtain ⟨hring, hmet⟩ := hwaits hw
      exact ⟨by rw [hring]; rfl, by rw [hring]; rfl, hmet⟩
    · rw [hcloses hw]
      exact ⟨rfl, rfl⟩
  · rw [kickRing_of_reading hp hd, after_ring, after_ports]
    exact ⟨congrArg BufRing.again (s.ring_setRing_of_r (b := { s.ring r with again := true }) (s.ring_r r)), rfl⟩
  · rw [kickRing_of_ne hp, after_rings, after_ports]
    exact ⟨rfl, rfl⟩
  · rw [kickRing_of_waiting hp hd, after_port, State.written_port, ringRead_eq hu hx]
    exact issue_leaves (s := s.setRing ((s.ring r).reading s.aclk)) (s.descReq r) hst hport hw hc htag

end Sys2Proof.Machine
end

section
/-!
SUPPORT. Units in a buffer ring (R356 to R360, R364): their start, the write-back of their descriptors, and a unit that waits.
-/

namespace Sys2Proof.Machine

/-! ## The commands -/

section
variable {s : State} {r : Nat} (hh : s.held = false) (hr : r < 256)
include hh hr

theorem exec_bufferRingPlace : exec (.bufferRingPlace r) s = .next (after s (ringPlace s r)) := by
  unfold exec
  exact run_of_ok _ (decide_eq_true hr) hh

theorem exec_descriptorWriteBack : exec (.descriptorWriteBack r) s = .next (after s (ringBack s r)) := by
  unfold exec
  exact run_of_ok _ (decide_eq_true hr) hh

theorem exec_brPoll_due (h1 : (s.ring r).phase = 1) (hst : (s.ring r).starved = true) (hd : s.descReading r = false)
    (hdue : (s.ring r).readAt + s.fldOf A.hqBrPoll 0 16 ≤ s.aclk) : exec (.brPoll r) s = .next (after s (ringRead s r)) := by
  unfold exec
  exact (run_of_ok _ (decide_eq_true hr) hh).trans (by simp [h1, hst, hd, hdue])

theorem exec_brPoll_idle (h : (s.ring r).starved = false ∨ s.aclk < (s.ring r).readAt + s.fldOf A.hqBrPoll 0 16) :
    exec (.brPoll r) s = .next (after s s) := by
  unfold exec
  refine (run_of_ok _ (decide_eq_true hr) hh).trans ?_
  rcases h with h | h
  · simp [h]
  · simp [Nat.not_le.2 h]

theorem exec_brWaitExpiry_due (h1 : (s.ring r).phase = 1) (hst : (s.ring r).starved = true) (hw : s.fldOf (A.hqBrCfg r) 16 16 ≠ 0)
    (hdue : (s.ring r).since + 1000 * s.fldOf (A.hqBrCfg r) 16 16 ≤ s.aclk) : exec (.brWaitExpiry r) s = .next (after s (failFirst s r 4)) := by
  unfold exec
  exact (run_of_ok _ (decide_eq_true hr) hh).trans (by simp [h1, hst, hw, hdue])

theorem exec_brWaitExpiry_idle
    (h : s.fldOf (A.hqBrCfg r) 16 16 = 0 ∨ s.aclk < (s.ring r).since + 1000 * s.fldOf (A.hqBrCfg r) 16 16) :
    exec (.brWaitExpiry r) s = .next (after s s) := by
  unfold exec
  refine (run_of_ok _ (decide_eq_true hr) hh).trans ?_
  rcases h with h | h
  · simp [h]
  · simp [Nat.not_le.2 h]

end

/-! ## The start of a unit (R357) -/

section
variable {s : State} {r : Nat} (hpurge : ringPurge s r = s)
include hpurge

theorem ringPlace_of_idle {u : BrUnit} {l : List BrUnit} (h : (s.ring r).phase = 0) (hu : (s.ring r).units = u :: l) (hd : s.descReading r = false) :
    ringPlace s r = ringRead s r := by
  simp [ringPlace, hpurge, h, hu, hd]

theorem ringPlace_of_placing (h : (s.ring r).phase ≠ 0) : ringPlace s r = s := by
  simp [ringPlace, hpurge, h]

end

/-! ## The write-back of one descriptor (R356) -/

/-- The write that gives descriptor `f` of the unit `u` of command `x` back. -/
def State.backReq (s : State) (r : Nat) (u : BrUnit) (x : Slot) (first : Bool) (f : Descr × Nat × Nat) : Req :=
  let bad := (List.range (f.2.2 / 64)).any fun j => u.psn.contains (f.2.1 / 64 + j) || u.hole.contains (f.2.1 / 64 + j)
  mkWrite (s.brAddr r f.1.idx + 12) (descBytes u x first (f.2.1 + f.2.2 == u.bytes.length) bad f.2.2) x.entry.durable false (.descBack r x.id first)

/-- The command after the write-back of the descriptor at `a`. -/
def Slot.gaveBack (p a : Nat) (y : Slot) : Slot := { y with lastLine := some (a / 64 * 64, false), lastPort := p }

theorem descBack_eq (s : State) (r : Nat) (u : BrUnit) (x : Slot) (f : Descr × Nat × Nat) (first : Bool) :
    descBack s r u x u.bytes.length f first =
      (issue s (s.portOf x) (s.backReq r u x first f)).updSlot x.id (Slot.gaveBack (s.portOf x) (s.brAddr r f.1.idx + 12)) := rfl

theorem Outputs.descBack (s : State) (r : Nat) (u : BrUnit) (x : Slot) (f : Descr × Nat × Nat) (first : Bool) :
    Outputs x.id s (descBack s r u x u.bytes.length f first) := by
  rw [descBack_eq]
  exact (Outputs.issue ..).trans (.updSlot x.id _ (Slot.gaveBack _ _) (fun _ => rfl) fun _ => ⟨_, _, _, _, _, rfl⟩)

/-- Output leaves the rings and where their descriptors lie. -/
theorem Outputs.ring {n : Nat} {s t : State} (h : Outputs n s t) (r : Nat) : t.ring r = s.ring r := by
  obtain ⟨⟨_, _, _, rfl⟩, -⟩ := h
  rfl

theorem Outputs.backReq {n r : Nat} {s t : State} (h : Outputs n s t) (hr : r < 256) : t.backReq r = s.backReq r := by
  obtain ⟨-, hreg, -⟩ := h
  have hbase {a : Nat} (ha : a < 0x030000) : t.regN a = s.regN a := congrArg BitVec.toNat (hreg a (by unfold A.movPsnCnt; omega))
  have haddr (i : Nat) : t.brAddr r i = s.brAddr r i := by
    rw [State.brAddr, State.pair, hbase (by unfold A.hqBrBaseLo; omega), hbase (by unfold A.hqBrBaseLo; omega)]
    rfl
  funext u x first f
  rw [State.backReq, haddr]
  rfl

section
variable {s : State} {r : Nat} {u : BrUnit} {x : Slot}

theorem asked_descBack (hp : s.portOf x < 4) (hs : s.stopped = false) (f : Descr × Nat × Nat) (first : Bool) :
    (descBack s r u x u.bytes.length f first).asked (s.portOf x) = s.asked (s.portOf x) ++ [s.backReq r u x first f] := by
  rw [descBack_eq]
  exact asked_issue (s.backReq r u x first f) hp hs

/-- Descriptors that go back one after the other are asked for in their order. -/
theorem asked_descBacks (hr : r < 256) (hp : s.portOf x < 4) (hs : s.stopped = false) (l : List (Descr × Nat × Nat)) :
    (s.each l fun st f => descBack st r u x u.bytes.length f false).asked (s.portOf x) = s.asked (s.portOf x) ++ l.map (s.backReq r u x false) := by
  induction l generalizing s with
  | nil => exact (List.append_nil _).symm
  | cons f l ih =>
    have h := Outputs.descBack s r u x f false
    have hrest := ih (s := Machine.descBack s r u x u.bytes.length f false) (by rw [h.portOf]; exact hp) (h.stopped.trans hs)
    rw [h.portOf, h.backReq hr, asked_descBack hp hs, List.append_assoc] at hrest
    exact hrest

end

/-! ## DESCRIPTOR_WRITE_BACK (R357) -/

/-- A write of the unit at the front of ring `r` for command `n`, of data or of a descriptor, has not been answered. -/
def State.unitWriting (s : State) (r n : Nat) : Bool :=
  s.anyReq fun p => match p with | .unitData q k => q == r && k == n | .descBack q k _ => q == r && k == n | _ => false

/-- The ring in another phase of its unit. -/
def BufRing.inPhase (b : BufRing) (k : Nat) : BufRing := { b with phase := k }

section
variable {s : State} {r : Nat} {u : BrUnit} {l : List BrUnit} {x : Slot} (hpurge : ringPurge s r = s) (hu : (s.ring r).units = u :: l)
  (hx : s.slot u.slot = some x)
include hpurge hu hx

theorem ringBack_of_writing (hb : s.unitWriting r u.slot = true) : ringBack s r = s := by
  simp only [ringBack, hpurge, hu, hx]
  exact if_pos hb

section
variable (hb : s.unitWriting r u.slot = false)
include hb

/-- With every write answered, the descriptors but the first go back where there are any, and then the first. -/
theorem ringBack_eq : ringBack s r =
    let fs := fills (s.ring r).taken 0 u.bytes.length
    if (s.ring r).phase = 2 ∧ 2 ≤ fs.length then
      (s.setRing ((s.ring r).inPhase 3)).each fs.tail fun st f => descBack st r u x u.bytes.length f false
    else if (s.ring r).phase = 2 ∨ (s.ring r).phase = 3 then
      fs.head?.elim s fun f => descBack (s.setRing ((s.ring r).inPhase 4)) r u x u.bytes.length f true
    else s := by
  unfold BufRing.inPhase
  simp only [ringBack, hpurge, hu, hx]
  refine (if_neg (Bool.eq_false_iff.1 hb)).trans ?_
  cases fills (s.ring r).taken 0 u.bytes.length <;> simp

/-- With the data written, the descriptors but the first go back. -/
theorem ringBack_of_data {f g : Descr × Nat × Nat} {m : List (Descr × Nat × Nat)} (hph : (s.ring r).phase = 2)
    (hf : fills (s.ring r).taken 0 u.bytes.length = f :: g :: m) :
    ringBack s r = (s.setRing ((s.ring r).inPhase 3)).each (g :: m) fun st f => descBack st r u x u.bytes.length f false := by
  simp [ringBack_eq hpurge hu hx hb, hph, hf]

/-- With no other descriptor left to go back, the first goes. -/
theorem ringBack_of_first {f : Descr × Nat × Nat} {m : List (Descr × Nat × Nat)} (hph : (s.ring r).phase = 2 ∧ m = [] ∨ (s.ring r).phase = 3)
    (hf : fills (s.ring r).taken 0 u.bytes.length = f :: m) :
    ringBack s r = descBack (s.setRing ((s.ring r).inPhase 4)) r u x u.bytes.length f true := by
  rcases hph with ⟨hph, rfl⟩ | hph <;> simp [ringBack_eq hpurge hu hx hb, hph, hf]

/-- With no descriptor taken, or in another phase, none goes back. -/
theorem ringBack_of_none (h : (s.ring r).phase ≠ 2 ∧ (s.ring r).phase ≠ 3 ∨ fills (s.ring r).taken 0 u.bytes.length = []) : ringBack s r = s := by
  rcases h with ⟨h2, h3⟩ | h
  · simp [ringBack_eq hpurge hu hx hb, h2, h3]
  · simp [ringBack_eq hpurge hu hx hb, h]

theorem ringBack_data_spec {f g : Descr × Nat × Nat} {m : List (Descr × Nat × Nat)} (hr : r < 256) (hp : s.portOf x < 4) (hs : s.stopped = false)
    (hph : (s.ring r).phase = 2) (hf : fills (s.ring r).taken 0 u.bytes.length = f :: g :: m) :
    (ringBack s r).ring r = (s.ring r).inPhase 3 ∧
    (ringBack s r).asked (s.portOf x) = s.asked (s.portOf x) ++ (g :: m).map (s.backReq r u x false) := by
  rw [ringBack_of_data hpurge hu hx hb hph hf]
  refine ⟨((Outputs.each _ (fun st f => .descBack st r u x f false) _ _).ring r).trans (s.ring_setRing_of_r (s.ring_r r)), ?_⟩
  exact asked_descBacks (s := s.setRing ((s.ring r).inPhase 3)) hr hp hs (g :: m)

theorem ringBack_first_spec {f : Descr × Nat × Nat} {m : List (Descr × Nat × Nat)} (hp : s.portOf x < 4) (hs : s.stopped = false)
    (hph : (s.ring r).phase = 2 ∧ m = [] ∨ (s.ring r).phase = 3) (hf : fills (s.ring r).taken 0 u.bytes.length = f :: m) :
    (ringBack s r).ring r = (s.ring r).inPhase 4 ∧ (ringBack s r).asked (s.portOf x) = s.asked (s.portOf x) ++ [s.backReq r u x true f] := by
  rw [ringBack_of_first hpurge hu hx hb hph hf]
  refine ⟨((Outputs.descBack ..).ring r).trans (s.ring_setRing_of_r (s.ring_r r)), ?_⟩
  exact asked_descBack (s := s.setRing ((s.ring r).inPhase 4)) hp hs f true

/-- HEAD does not move before the first descriptor's write is answered. -/
theorem ringBack_head (hr : r < 256) (hp : s.portOf x < 4) (hs : s.stopped = false) : ((ringBack s r).ring r).head = (s.ring r).head := by
  cases hf : fills (s.ring r).taken 0 u.bytes.length with
  | nil => rw [ringBack_of_none hpurge hu hx hb (.inr hf)]
  | cons f m =>
    by_cases h3 : (s.ring r).phase = 3
    · rw [(ringBack_first_spec hpurge hu hx hb hp hs (.inr h3) hf).1]; rfl
    · by_cases h2 : (s.ring r).phase = 2
      · cases m with
        | nil => rw [(ringBack_first_spec hpurge hu hx hb hp hs (.inl ⟨h2, rfl⟩) hf).1]; rfl
        | cons g m => rw [(ringBack_data_spec hpurge hu hx hb hr hp hs h2 hf).1]; rfl
      · rw [ringBack_of_none hpurge hu hx hb (.inl ⟨h2, h3⟩)]

end

end

/-! ## A unit that has waited too long (R358, R364) -/

theorem failFirst_eq {s : State} {r : Nat} {u : BrUnit} {l : List BrUnit} (reason : Nat) (hu : (s.ring r).units = u :: l) :
    failFirst s r reason = failUnit (ringNext s (s.ring r) (s.ring r).head) r reason u := by
  simp only [failFirst, hu]

section
variable {s : State} {r : Nat} {u : BrUnit} {l : List BrUnit} {x : Slot} (hu : (s.ring r).units = u :: l)
include hu

theorem failFirst_ring (reason : Nat) : ((failFirst s r reason).ring r).units = l ∧ ((failFirst s r reason).ring r).head = (s.ring r).head := by
  have hring : (ringNext s (s.ring r) (s.ring r).head).ring r = _ := s.ring_setRing_of_r (s.ring_r r)
  rw [failFirst_eq reason hu, failUnit_ring, hring]
  exact ⟨congrArg List.tail hu, rfl⟩

theorem met_failFirst (reason : Nat) (hx : s.slot u.slot = some x) (hp : x.phase = .running) (hr : x.reject = none) :
    (failFirst s r reason).met u.slot St.outputRingFault := by
  rw [failFirst_eq reason hu]
  exact met_failUnit (s := ringNext s (s.ring r) (s.ring r).head) r reason hx hp hr

end

/-- Settles O55: a unit's start and the poll are one read of descriptors, its write-back is one of two rounds of writes, and its failure
leaves HEAD. -/
theorem bufferRingsPlaceUnits : Obligations.BufferRingsPlaceUnits := by
  unfold Obligations.BufferRingsPlaceUnits
  intro s r u l x hh hs hr hpurge hu hx hp b p i k read fs busy back
  have hplace := exec_bufferRingPlace (s := s) hh hr
  have hback := exec_descriptorWriteBack (s := s) hh hr
  refine ⟨fun h0 hd => ⟨_, hplace, ?_⟩, fun h0 => ⟨_, hplace, ?_⟩, fun hb => ⟨_, hback, ?_⟩, fun hb => ⟨_, hback, ?_⟩,
    fun h1 hst hd hdue => ⟨_, exec_brPoll_due hh hr h1 hst hd hdue, ?_⟩, fun h => ⟨_, exec_brPoll_idle hh hr h, around_after rfl rfl⟩,
    fun h1 hst hw hdue hrun hrej => ⟨_, exec_brWaitExpiry_due hh hr h1 hst hw hdue, ?_⟩,
    fun h => ⟨_, exec_brWaitExpiry_idle hh hr h, around_after rfl rfl⟩⟩
  · rw [ringPlace_of_idle hpurge h0 hu hd, after_ring, after_asked, ringRead_ring hu hx]
    exact ⟨rfl, hu, asked_ringRead hu hx hs hp⟩
  · rw [ringPlace_of_placing hpurge h0]
    exact around_after rfl rfl
  · rw [ringBack_of_writing hpurge hu hx hb]
    exact around_after rfl rfl
  · rw [after_ring, after_asked]
    refine ⟨ringBack_head hpurge hu hx hb hr hp hs, fun f h2 hf => ?_, fun f g m h2 hf => ?_, fun f m h3 hf => ?_⟩
    · obtain ⟨hring, hask⟩ := ringBack_first_spec hpurge hu hx hb hp hs (.inl ⟨h2, rfl⟩) hf
      exact ⟨by rw [hring]; rfl, hask⟩
    · obtain ⟨hring, hask⟩ := ringBack_data_spec hpurge hu hx hb hr hp hs h2 hf
      exact ⟨by rw [hring]; rfl, hask⟩
    · obtain ⟨hring, hask⟩ := ringBack_first_spec hpurge hu hx hb hp hs (.inr h3) hf
      exact ⟨by rw [hring]; rfl, hask⟩
  · rw [after_asked]
    exact asked_ringRead hu hx hs hp
  · rw [after_met, after_ring]
    exact ⟨met_failFirst hu 4 hx hrun hrej, failFirst_ring hu 4⟩

end Sys2Proof.Machine
end

section
/-!
SUPPORT. MOV_ABORT (R373) where HQ_BR_CFG has EN = 1 for a ring that the block holds nothing of.
-/

namespace Sys2Proof.Machine

/-- The row of MOV_CTL. -/
def movCtlRow : RegRow := Reg.wo A.movCtl []

theorem find_movCtl : Reg.find A.movCtl = some (movCtlRow, []) := by decide

theorem exec_movAbort {s : State} (hs : InService s) : exec .movAbort s = .next (after s (movAbort s).written) := by
  have hden : s.denied A.movCtl = false := denied_false' hs.init_done (by decide) (by decide) (by decide)
  have hact : actWrite s A.movCtl 0 1 = some (movAbort s) := rfl
  have hw : writeReg s .mport A.movCtl 1 = movAbort s := writeReg_act find_movCtl rfl (by decide) (by decide) hact
  unfold exec
  refine (runBus_of_ok _ rfl hs.not_held).trans ?_
  rw [accessWrite_mport 1 hs.power_st hden (by decide), hw]
  rfl

/-- A block in service in which HQ_BR_CFG[0] has EN = 1 and no ring has a record. -/
def strayRing : State :=
  { State.reset with pins := Pins.reset, init := { State.reset.init with done := true }, regs := [(A.hqBrCfg 0, 0x80)] }

theorem strayRing_inService : InService strayRing := ⟨⟨rfl, rfl⟩, rfl⟩

/-- The abort clears EN of the rings that have a record, and so leaves this one. -/
theorem movAbort_strayRing : (movAbort strayRing).brEn 0 = true ∧ (movAbort strayRing).build = strayRing.build := by decide +kernel

/-- Refutes O32: the clause that MOV_ABORT leaves every ring with EN = 0 has no premise that a ring whose EN is 1 has a record. The abort clears EN
for the rings of `State.rings` alone; in service with EN of ring 0 at 1 and `State.rings` empty, EN stays. (A write of HQ_BR_CFG leads to no such
state: a rise of EN makes the record.) -/
theorem not_moverAbortReleaseAndFlush : ¬ Obligations.MoverAbortReleaseAndFlush := by
  unfold Obligations.MoverAbortReleaseAndFlush
  intro h
  obtain ⟨habort, -⟩ := h strayRing strayRing_inService
  obtain ⟨t, ht, -, -, -, -, -, -, hoff, -⟩ := habort rfl
  obtain rfl := Host.Outcome.next.inj ((exec_movAbort strayRing_inService).symm.trans ht)
  obtain ⟨hen, hbuild⟩ := movAbort_strayRing
  have hkept : (after strayRing (movAbort strayRing).written).brEn 0 = (movAbort strayRing).brEn 0 := by
    rw [State.brEn, State.fldOf, after_written_hqBrCfg (by decide) hbuild]
    rfl
  exact Bool.false_ne_true ((hoff 0 (by decide)).symm.trans (hkept.trans hen))

end Sys2Proof.Machine
end

section
/-!
SUPPORT. The fixed point of the notification controller (R394, R396, R398): one evaluation reaches it, so every frame leaves it.
-/

namespace Sys2Proof.Machine

/-! ## The rising lists of numbers an evaluation makes -/

theorem addN_sortedLT (n : Nat) {l : List Nat} (h : l.SortedLT) : (addN n l).SortedLT := by
  rw [List.sortedLT_iff_pairwise] at h ⊢
  have hmem (l : List Nat) (x : Nat) : x ∈ addN n l ↔ x = n ∨ x ∈ l := by
    simpa [or_comm] using addN_fold_mem [n] l x
  induction l with
  | nil => exact List.pairwise_singleton ..
  | cons y ys ih =>
    obtain ⟨hy, hys⟩ := List.pairwise_cons.mp h
    have hrest : ∀ x ∈ addN n ys, x = n ∨ x ∈ ys := fun x hx => (hmem ys x).mp hx
    unfold addN at hrest ih ⊢
    simp only [putBy, id]
    split
    case isTrue hlt => exact List.pairwise_cons.mpr ⟨fun x hx => (List.mem_cons.mp hx).elim (· ▸ hlt) fun hx => hlt.trans (hy x hx), h⟩
    case isFalse hlt =>
      split
      case isTrue heq => exact heq ▸ h
      case isFalse hne =>
        refine List.pairwise_cons.mpr ⟨fun x hx => ?_, ih hys⟩
        rcases hrest x hx with rfl | hx
        · omega
        · exact hy x hx

theorem addN_fold_sortedLT (l : List Nat) : (l.foldl (fun acc n => addN n acc) []).SortedLT := by
  suffices h : ∀ acc : List Nat, acc.SortedLT → (l.foldl (fun acc n => addN n acc) acc).SortedLT from h [] (by simp [List.sortedLT_iff_pairwise])
  induction l with
  | nil => exact fun _ h => h
  | cons y ys ih => exact fun acc h => ih _ (addN_sortedLT y h)

/-- Lists of the same numbers make the same rising list. -/
theorem addN_fold_congr {l m : List Nat} (h : ∀ x, x ∈ l ↔ x ∈ m) :
    l.foldl (fun acc n => addN n acc) [] = m.foldl (fun acc n => addN n acc) [] :=
  (addN_fold_sortedLT l).eq_of_mem_iff (addN_fold_sortedLT m) fun x => by simp only [addN_fold_mem, h x]

/-! ## What an evaluation reads of the controller's own state: the latches and the stacks -/

section
variable {s t : State} (hm : ∃ m, t = { s with ntf := m }) (hl : ∀ n, (t.src n).latch = (s.src n).latch)
  (hk : ∀ k, (t.tgt k).stack = (s.tgt k).stack)

include hm hl in
theorem raised_of_latches (n : Nat) : t.raised n = s.raised n := by
  obtain ⟨m, rfl⟩ := hm
  unfold State.raised
  rw [hl]
  rfl

include hm hk in
theorem eligible_of_stacks (k n : Nat) : t.eligible k n = s.eligible k n := by
  obtain ⟨m, rfl⟩ := hm
  unfold State.eligible Tgt.running
  rw [hk]
  rfl

include hm hl in
theorem pendingSrc_of_latches (x : Src) : t.pendingSrc x = s.pendingSrc x := by
  have hr := raised_of_latches hm hl x.s
  obtain ⟨m, rfl⟩ := hm
  unfold State.pendingSrc
  rw [hr]
  rfl

include hm hk in
theorem routeOf_of_stacks (x : Src) : t.routeOf x = s.routeOf x := by
  have he := eligible_of_stacks hm hk
  obtain ⟨m, rfl⟩ := hm
  unfold State.routeOf
  simp only [he]
  rfl

include hm hl hk in
theorem evalSrc_of_latches (x : Src) : t.evalSrc x = s.evalSrc x := by
  have hr := raised_of_latches hm hl
  have hp := pendingSrc_of_latches hm hl
  have ho := routeOf_of_stacks hm hk
  obtain ⟨m, rfl⟩ := hm
  unfold State.evalSrc
  simp only [hr, hp, ho]
  rfl

include hm hl hk in
theorem evalTgt_of_latches (srcs : List Src) (x : Tgt) : t.evalTgt srcs x = s.evalTgt srcs x := by
  have hp := pendingSrc_of_latches hm hl
  have he := eligible_of_stacks hm hk
  obtain ⟨m, rfl⟩ := hm
  unfold State.evalTgt State.candsOf
  simp only [hp, he]
  rfl

end

/-! ## A second evaluation of one source and of one target -/

theorem mem_enabledAt_of_routeOf {s : State} {x : Src} {t : Nat} (h : s.routeOf x = some t) : t ∈ s.enabledAt x.s := by
  unfold State.routeOf at h
  simp only at h
  split at h
  case h_1 t' hf =>
    obtain rfl := Option.some.inj h
    have := List.mem_of_find?_eq_some hf
    simp only [List.mem_append, List.mem_filter] at this
    exact this.elim And.left And.left
  case h_2 =>
    have := List.mem_of_mem_head? h
    simp only [List.mem_append, List.mem_filter] at this
    exact this.elim And.left And.left

/-- What an evaluation makes of a source before its route: READY where it is raised and due, and cleared where it is not raised. -/
def State.marked (s : State) (x : Src) : Src :=
  if s.raised x.s then
    (if decide (s.fldOf (A.ntfSrcCfg x.s) 4 8 ≤ x.n) || s.timerMet x || s.bypass x.s then { x with ready := true } else x)
  else { x with n := 0, timer := none, fired := false, ready := false }

/-- The route an evaluation gives a source: a pending one keeps a target at which it is enabled (R396). -/
def State.routed (s : State) (y : Src) : Src :=
  if s.pendingSrc y then
    (match y.route with
     | some t => if t ∈ s.enabledAt y.s then y else { y with route := s.routeOf y }
     | none => { y with route := s.routeOf y })
  else { y with route := none }

theorem State.evalSrc_eq (s : State) (x : Src) : s.evalSrc x = s.routed (s.marked x) := rfl

theorem State.marked_route (s : State) (x : Src) (r : Option Nat) : s.marked { s.marked x with route := r } = { s.marked x with route := r } := by
  by_cases hr : s.raised x.s = true
  · by_cases hd : (decide (s.fldOf (A.ntfSrcCfg x.s) 4 8 ≤ x.n) || s.timerMet x || s.bypass x.s) = true
    · have hx : s.marked x = { x with ready := true } := by rw [State.marked, if_pos hr, if_pos hd]
      rw [hx, State.marked, if_pos hr, ite_self]
    · have hx : s.marked x = x := by rw [State.marked, if_pos hr, if_neg hd]
      rw [hx]
      exact (if_pos hr).trans (if_neg hd)
  · have hx : s.marked x = { x with n := 0, timer := none, fired := false, ready := false } := if_neg hr
    rw [hx]
    exact if_neg hr

theorem State.routed_keeps (s : State) (y : Src) : ∃ r, s.routed y = { y with route := r } := by
  unfold State.routed
  split
  · split
    · split
      · exact ⟨y.route, rfl⟩
      · exact ⟨_, rfl⟩
    · exact ⟨_, rfl⟩
  · exact ⟨_, rfl⟩

/-- A pending source is enabled somewhere, so a route is found. -/
theorem State.routeOf_isSome {s : State} {y : Src} (h : s.pendingSrc y = true) : ∃ t, s.routeOf y = some t := by
  have hne : s.enabledAt y.s ≠ [] := by
    intro he
    simp [State.pendingSrc, he] at h
  unfold State.routeOf
  simp only
  split
  · exact ⟨_, rfl⟩
  · refine Option.isSome_iff_exists.mp (List.isSome_head?.mpr fun he => ?_)
    obtain ⟨t, ht⟩ := List.exists_mem_of_ne_nil _ hne
    simp only [List.append_eq_nil_iff, List.filter_eq_nil_iff] at he
    have h1 := he.1 t ht
    have h2 := he.2 t ht
    simp only [decide_eq_true_eq] at h1 h2
    omega

theorem State.routed_of_enabled {s : State} {y : Src} {t : Nat} (h : y.route = some t) (he : t ∈ s.enabledAt y.s) (hp : s.pendingSrc y = true) :
    s.routed y = y := by simp [State.routed, hp, h, he]

theorem State.routed_again {s : State} {y : Src} (hp : s.pendingSrc y = true) :
    s.routed { y with route := s.routeOf y } = { y with route := s.routeOf y } := by
  obtain ⟨t, ht⟩ := s.routeOf_isSome hp
  exact s.routed_of_enabled ht (mem_enabledAt_of_routeOf ht) hp

theorem State.routed_routed (s : State) (y : Src) : s.routed (s.routed y) = s.routed y := by
  by_cases hp : s.pendingSrc y = true
  · cases hr : y.route with
    | none =>
      have hy : s.routed y = { y with route := s.routeOf y } := by simp [State.routed, hp, hr]
      rw [hy, s.routed_again hp]
    | some t =>
      by_cases he : t ∈ s.enabledAt y.s
      · rw [s.routed_of_enabled hr he hp, s.routed_of_enabled hr he hp]
      · have hy : s.routed y = { y with route := s.routeOf y } := by simp [State.routed, hp, hr, he]
        rw [hy, s.routed_again hp]
  · have hy : s.routed y = { y with route := none } := if_neg hp
    rw [hy]
    exact if_neg hp

theorem State.evalSrc_evalSrc (s : State) (x : Src) : s.evalSrc (s.evalSrc x) = s.evalSrc x := by
  obtain ⟨r, hr⟩ := s.routed_keeps (s.marked x)
  have hm : s.marked (s.routed (s.marked x)) = s.routed (s.marked x) := by rw [hr, s.marked_route]
  rw [s.evalSrc_eq x, s.evalSrc_eq, hm, s.routed_routed]

/-- A target that has its candidates gains none (R398). -/
theorem State.evalTgt_of_cands {s : State} {srcs : List Src} {x : Tgt} (h : s.candsOf srcs x.t = x.cands) : s.evalTgt srcs x = x := by
  have hgain : (x.cands.any fun n => !decide (n ∈ x.cands) && x.cands.all fun o => s.outranks n o) = false :=
    List.any_eq_false.mpr fun n hn => by simp [hn]
  simp only [State.evalTgt, h, hgain, Bool.false_and, Bool.or_false]

/-! ## The whole evaluation -/

/-- The state in which the controller has evaluated. -/
def State.evaluated (s : State) : State := { s with ntf := s.settledNtf }

theorem settle_p0 {s : State} (h : s.power.st = .p0) : settle s = s.evaluated := if_pos h

section
variable {s : State} (hp : s.power.st = .p0)

/-- The sources as evaluated. -/
def State.evaledSrcs (s : State) : List Src := s.liveSrcs.map fun n => s.evalSrc (s.src n)

/-- Only the controller's own state differs. -/
theorem State.evaluated_eq (s : State) : ∃ m, s.evaluated = { s with ntf := m } := ⟨_, rfl⟩

include hp

theorem evaluated_latch (n : Nat) : (s.evaluated.src n).latch = (s.src n).latch := settle_p0 hp ▸ (settle_src s n).2.2
theorem evaluated_stack (k : Nat) : (s.evaluated.tgt k).stack = (s.tgt k).stack := settle_p0 hp ▸ (settle_tgt s k).1

theorem evaluated_raised (n : Nat) : s.evaluated.raised n = s.raised n := raised_of_latches s.evaluated_eq (evaluated_latch hp) n

end

theorem State.evaluated_src {s : State} {n : Nat} (h : n ∈ s.liveSrcs) : s.evaluated.src n = s.evalSrc (s.src n) := by
  have hg := getBy_map_of_key Src.s (fun n => s.evalSrc (s.src n)) (fun n => by simp) n s.liveSrcs
  rw [if_pos h] at hg
  exact congrArg (Option.getD · _) hg

theorem State.evaluated_tgt {s : State} {k : Nat} (h : k ∈ liveTgts s.ntf.tgts s.evaledSrcs) :
    s.evaluated.tgt k = s.evalTgt s.evaledSrcs (s.tgt k) := by
  have hg := getBy_map_of_key Tgt.t (fun t => s.evalTgt s.evaledSrcs (s.tgt t)) (fun n => by simp [State.evalTgt]) k (liveTgts s.ntf.tgts s.evaledSrcs)
  rw [if_pos h] at hg
  exact congrArg (Option.getD · _) hg

section
variable {s : State} (hp : s.power.st = .p0)
include hp

/-- The sources that need evaluating are those that needed it. -/
theorem evaluated_liveSrcs : s.evaluated.liveSrcs = s.liveSrcs := by
  have hr : s.evaluated.raised = s.raised := funext (evaluated_raised hp)
  have hs : s.evaluated.ntf.srcs.map Src.s = s.liveSrcs := by simp [State.evaluated, State.settledNtf, Function.comp_def]
  refine addN_fold_congr fun x => ?_
  have hx : x ∈ s.liveSrcs ↔ _ := addN_fold_mem _ [] x
  rw [hr, hs]
  simp only [List.mem_append, List.not_mem_nil, or_false] at hx ⊢
  rw [hx]
  have hq : s.evaluated.qps = s.qps := rfl
  rw [hq]
  tauto

theorem evaluated_evaledSrcs : s.evaluated.evaledSrcs = s.evaledSrcs := by
  unfold State.evaledSrcs
  rw [evaluated_liveSrcs hp]
  refine List.map_congr_left fun n hn => ?_
  rw [evalSrc_of_latches s.evaluated_eq (evaluated_latch hp) (evaluated_stack hp), State.evaluated_src hn, State.evalSrc_evalSrc]

/-- An evaluation of what an evaluation left changes nothing. -/
theorem evaluated_settledNtf : s.evaluated.settledNtf = s.settledNtf := by
  have hsrc := evaluated_evaledSrcs hp
  have hlive : liveTgts s.evaluated.ntf.tgts s.evaledSrcs = liveTgts s.ntf.tgts s.evaledSrcs := by
    have ht : s.evaluated.ntf.tgts.map Tgt.t = liveTgts s.ntf.tgts s.evaledSrcs := by
      simp [State.evaluated, State.settledNtf, State.evalTgt, State.evaledSrcs, Function.comp_def]
    refine addN_fold_congr fun x => ?_
    have hx : x ∈ liveTgts s.ntf.tgts s.evaledSrcs ↔ _ := addN_fold_mem _ [] x
    rw [ht]
    simp only [List.mem_append, List.not_mem_nil, or_false] at hx ⊢
    rw [hx]
    tauto
  have htgt : ∀ k ∈ liveTgts s.ntf.tgts s.evaledSrcs, s.evaluated.evalTgt s.evaledSrcs (s.evaluated.tgt k) = s.evalTgt s.evaledSrcs (s.tgt k) := fun k hk => by
    rw [evalTgt_of_latches s.evaluated_eq (evaluated_latch hp) (evaluated_stack hp), State.evaluated_tgt hk]
    exact State.evalTgt_of_cands rfl
  have h : s.evaluated.settledNtf = { s.evaluated.ntf with
      srcs := s.evaluated.evaledSrcs
      tgts := (liveTgts s.evaluated.ntf.tgts s.evaluated.evaledSrcs).map fun k => s.evaluated.evalTgt s.evaluated.evaledSrcs (s.evaluated.tgt k) } := rfl
  rw [h, hsrc, hlive, List.map_congr_left htgt]
  rfl

end

/-- One evaluation reaches the fixed point, from every state. -/
theorem settled_settle (s : State) : Settled (settle s) := by
  by_cases hp : s.power.st = .p0
  · rw [Settled, settle_p0 hp, settle_p0 (s := s.evaluated) hp, State.evaluated, evaluated_settledNtf hp]
    rfl
  · have h : settle s = s := if_neg hp
    rw [Settled, h, h]

theorem settled_after (s t : State) : Settled (after s t) := settled_settle _

/-- The controller does not look at the commands that wait. -/
theorem Settled.rest {s : State} (h : Settled s) (l : List Instr) : Settled { s with pending := l } := by
  have hl : settle { s with pending := l } = { settle s with pending := l } := by
    unfold settle
    split <;> rfl
  rw [Settled, hl, h]

/-! ## Every frame leaves the fixed point -/

section
variable {s t : State} (hs : Settled s) {ok : Bool} {f : State → State}
include hs

/-- A frame answers the state as it was or what an evaluation left. -/
theorem settled_ite {b : Bool} (h : (if ok then .next (if b then s else after s (f s)) else .fault .noSuchUnit : Host.Outcome State Fault Refusal) = .next t) :
    Settled t := by
  split at h
  · obtain rfl := Host.Outcome.next.inj h
    split
    · exact hs
    · exact settled_after s _
  · cases h

theorem settled_run (h : run ok s f = .next t) : Settled t := settled_ite hs h

theorem settled_runBus (h : runBus ok s f = .next t) : Settled t := settled_ite hs h

theorem settled_runPin (h : runPin s f = .next t) : Settled t := settled_ite (ok := true) (b := false) (f := f) hs h

theorem settled_exec {c : Instr} (h : exec c s = .next t) : Settled t := by
  by_cases hp : isPin c = false
  · obtain ⟨-, ok, f, hf⟩ | ⟨-, ok, f, hf⟩ := exec_frame c s hp
    · exact settled_runBus hs (hf ▸ h)
    · exact settled_run hs (hf ▸ h)
  · cases c with
    | porstNAssert | porstNRelease | srstNAssert | srstNRelease | optAckRise | optAckFall | smokeSequence | plossNRise => unfold exec at h; exact settled_runPin hs h
    | tgtIdleChange k level =>
      change execTgtIdleChange k level s = _ at h
      unfold execTgtIdleChange at h
      split at h
      · exact settled_runPin hs h
      · cases h
    | _ => exact absurd rfl hp

end

/-- Settles O60: `settle` is idempotent on every state, and each frame ends with it or leaves the state as it was. -/
theorem everyStepSettles : Obligations.EveryStepSettles := by
  intro s t hs h
  cases hc : s.pending with
  | nil =>
    obtain rfl := Host.Outcome.next.inj ((step_nil hc).symm.trans h)
    unfold idle
    split
    · exact hs
    · exact settled_after s _
  | cons c rest => exact settled_exec (hs.rest rest) ((step_cons hc).symm.trans h)

end Sys2Proof.Machine
end

section
/-!
SUPPORT. The notification controller's accesses (R394, R397, R400 to R402): claim, complete and the moderation timer.
-/

namespace Sys2Proof.Machine

/-! ## An MPORT write of a register with a rule of its own, in any region -/

/-- An access is served after INIT_DONE, and of GLB and SEC before it, where no rule of RPL2 closes the register (R61, R432). -/
theorem denied_of_row {s : State} {a : Nat} {r : RegRow} {is : List Nat} (hd : s.init.done = true ∨ a < 0x020000) (hf : Reg.find a = some (r, is))
    (hreq : a ≠ A.secRplReq) (hcsw : r.base ≠ A.seqCswData 0 0) (hent : r.base ≠ A.seqEnt 0 0) : s.denied a = false := by
  have hrow : rowBase a = some r.base := by rw [rowBase, hf]; rfl
  have hopen : (!s.init.done && inRegion a && decide (0x020000 ≤ a)) = false := by
    rcases hd with hd | ha
    · rw [hd]; rfl
    · rw [decide_eq_false (by omega), Bool.and_false]
  rw [State.denied, hopen, hrow]
  simp [hreq, hcsw, hent]

theorem accessWrite_acts {s t : State} {a : Nat} {v : Word} {r : RegRow} {is : List Nat} (hp : s.power.st = .p0)
    (hd : s.init.done = true ∨ a < 0x020000) (hf : Reg.find a = some (r, is)) (hreq : a ≠ A.secRplReq) (hcsw : r.base ≠ A.seqCswData 0 0)
    (hent : r.base ≠ A.seqEnt 0 0) (hi : s.instOk r is = true) (h1 : Reg.pairBase a = false) (h2 : (decide (4 ≤ a) && Reg.pairBase (a - 4)) = false)
    (ht : actWrite s r.base (is.getD 0 0) v = some t) : accessWrite s .mport a v none = t.written := by
  rw [accessWrite_mport v hp (denied_of_row hd hf hreq hcsw hent) (bne_iff_ne.2 hreq), writeReg_act hf hi h1 h2 ht]
  rfl

/-! ## What follows a command with the ring producers off -/

section
variable {s u : State}

/-- The controller keeps who is served, the last claim and the latch of each source. -/
theorem after_off_src (hoff : RingsOff u) (n : Nat) : ((after s u).src n).active = (u.src n).active ∧
    ((after s u).src n).lastT = (u.src n).lastT ∧ ((after s u).src n).latch = (u.src n).latch := by
  rw [after_off_eq s hoff]
  exact settle_src { u with pending := s.pending, build := s.build } n

/-- A raised source that is marked READY stays so. -/
theorem settle_ready {n : Nat} (hp : s.power.st = .p0) (hn : n ∈ s.ntf.srcs.map Src.s) (hr : s.raised n = true)
    (h : (s.src n).ready = true ∨ s.timerMet (s.src n) = true) : ((settle s).src n).ready = true := by
  have hlive : n ∈ s.liveSrcs := (addN_fold_mem _ [] n).mpr (.inl (List.mem_append_left _ (List.mem_append_left _ hn)))
  rw [settle_p0 hp, State.evaluated_src hlive, State.evalSrc_eq]
  obtain ⟨r, hrt⟩ := s.routed_keeps (s.marked (s.src n))
  rw [hrt]
  change (s.marked (s.src n)).ready = true
  rw [State.marked, State.src_s, if_pos hr]
  split
  · rfl
  next hdue =>
    rcases h with h | h
    · exact h
    · simp [h] at hdue

end

/-- A source that has been set has a record. -/
theorem mem_srcs_setSrc (s : State) (x : Src) : x.s ∈ (s.setSrc x).ntf.srcs.map Src.s := by
  by_contra hn
  have hg := getBy_putBy_self Src.s x s.ntf.srcs
  exact absurd ((getBy_none hn).symm.trans hg) (by simp)

theorem mem_srcs_setSrc_of_s (s : State) {x : Src} {n : Nat} (h : x.s = n) : n ∈ (s.setSrc x).ntf.srcs.map Src.s := h ▸ mem_srcs_setSrc s x

theorem State.src_setSrc_of_s (s : State) {x : Src} {n : Nat} (h : x.s = n) : (s.setSrc x).src n = x := h ▸ s.src_setSrc_self x
theorem State.tgt_setTgt_of_t (s : State) {x : Tgt} {k : Nat} (h : x.t = k) : (s.setTgt x).tgt k = x := h ▸ s.tgt_setTgt_self x

/-! ## The moderation timer (R394) -/

/-- A source with its moderation timer at TIME. -/
def Src.timedOut (x : Src) : Src := { x with fired := true }

theorem exec_moderationTimer {s : State} {n : Nat} (hs : Awake s) (h1 : 1 ≤ n) (h2 : n < 1088) (ht : s.timerMet (s.src n) = true) :
    exec (.moderationTimer n) s = .next (after s (s.setSrc (s.src n).timedOut)) := by
  unfold exec
  refine (run_of_ok _ (by simp [h1, h2]) hs.1).trans ?_
  simp only [ht, hs.2]
  rfl

/-- A timer that has met TIME still does once it has fired. -/
theorem timerMet_timedOut {s : State} {x : Src} (h : s.timerMet x = true) : s.timerMet x.timedOut = true := by
  unfold State.timerMet at h ⊢
  cases ht : x.timer with
  | none => simp [ht] at h
  | some e => simp [Src.timedOut, ht]

/-- Whether a source is raised does not depend on the counts and timers of the sources. -/
theorem raised_setSrc {s : State} {x : Src} (h : x.latch = (s.src x.s).latch) (n : Nat) : (s.setSrc x).raised n = s.raised n := by
  refine raised_of_latches (t := s.setSrc x) ⟨_, rfl⟩ (fun m => ?_) n
  by_cases hm : m = x.s
  · rw [hm, State.src_setSrc_self, h]
  · rw [State.src_setSrc_ne s hm]

/-- Settles O28: a timer that meets TIME marks its source, and the evaluation after the command finds it raised. -/
theorem moderationTimerMakesReady : Obligations.ModerationTimerMakesReady := by
  intro s n hs hoff h1 h2 ht hr
  have hid : (s.src n).timedOut.s = n := s.src_s n
  have hset : (s.setSrc (s.src n).timedOut).src n = (s.src n).timedOut := s.src_setSrc_of_s hid
  refine ⟨_, exec_moderationTimer hs h1 h2 ht, ?_, _, around_after rfl rfl⟩
  rw [after_off (s := s) (u := s.setSrc (s.src n).timedOut) rfl rfl hoff]
  refine settle_ready (s := s.setSrc (s.src n).timedOut) hs.2 (mem_srcs_setSrc_of_s s hid) ?_ (.inr ?_)
  · rw [raised_setSrc (by rw [hid]; rfl), hr]
  · rw [hset]
    exact timerMet_timedOut ht

/-! ## The two paths of a claim and of a complete (R402) -/

/-- An access of the controller on either path leaves the state `u`, and returns `v`. -/
def State.served (path : ClaimPath) (write : Bool) (v : Word) (u : State) : State :=
  match path with
  | .registerBus => mpAnswer (if write then keyBreak u else u) false v
  | .targetPort => tpRespond u write false v

section
variable (path : ClaimPath) (write : Bool) (v : Word) (u : State)

@[simp] theorem State.served_reg (a : Nat) : (u.served path write v).reg a = u.reg a := by cases path <;> cases write <;> rfl
@[simp] theorem State.served_src (n : Nat) : (u.served path write v).src n = u.src n := by cases path <;> cases write <;> rfl
@[simp] theorem State.served_tgt (k : Nat) : (u.served path write v).tgt k = u.tgt k := by cases path <;> cases write <;> rfl
@[simp] theorem State.served_srcs : (u.served path write v).ntf.srcs = u.ntf.srcs := by cases path <;> cases write <;> rfl
@[simp] theorem State.served_power : (u.served path write v).power = u.power := by cases path <;> cases write <;> rfl
@[simp] theorem State.served_pending : (u.served path write v).pending = u.pending := by cases path <;> cases write <;> rfl
@[simp] theorem State.served_build : (u.served path write v).build = u.build := by cases path <;> cases write <;> rfl
@[simp] theorem State.served_raised (n : Nat) : (u.served path write v).raised n = u.raised n := by cases path <;> cases write <;> rfl
@[simp] theorem State.served_data : claimData path (u.served path write v) = v := by cases path <;> rfl

theorem claimData_after (s : State) : claimData path (after s u) = claimData path u := by
  cases path with
  | registerBus => exact congrArg Answer.data (after_answer s u)
  | targetPort => exact congrArg Answer.data (after_tpAnswer s u)

theorem ringsOff_served {path : ClaimPath} {write : Bool} {v : Word} {u : State} (h : RingsOff u) : RingsOff (u.served path write v) :=
  h.congr fun _ _ => State.served_reg ..

end

theorem find_ntfClaim : ∀ k < 64, Reg.find (A.ntfClaim k) = some (⟨A.ntfClaim 0, [(64, 0x40)], .rc, 0, .immediate, [], false⟩, [k]) := by decide

theorem find_ntfComplete : ∀ k < 64, Reg.find (A.ntfComplete k) = some (Reg.wo (A.ntfComplete 0) [(64, 0x40)], [k]) := by decide

section
variable {s : State} {k : Nat} (hs : InService s) (hk : k < 64) (path : ClaimPath)
include hs hk

theorem exec_ntfClaim : exec (.ntfClaim path k) s =
    .next (after s ((claim s k).2.served path false (BitVec.ofNat 32 (claim s k).1))) := by
  unfold exec
  refine (runBus_of_ok _ (decide_eq_true hk) hs.not_held).trans ?_
  cases path with
  | registerBus =>
    have hd := denied_of_row (.inl hs.init_done) (find_ntfClaim k hk) (by unfold A.ntfClaim A.secRplReq; omega) (by decide) (by decide)
    simp only [regAccess_served false 0 _ hs.power_st hd]
    rfl
  | targetPort =>
    simp only [ntfPage, tpServe_p0 _ _ _ _ hs.init_done hs.power_st]
    rfl

theorem exec_ntfComplete (v : Word) : exec (.ntfComplete path k v) s =
    .next (after s ((complete s k (fld v 0 11)).served path true 0)) := by
  unfold exec
  refine (runBus_of_ok _ (decide_eq_true hk) hs.not_held).trans ?_
  cases path with
  | registerBus =>
    have hw : accessWrite s .mport (A.ntfComplete k) v none = (complete s k (fld v 0 11)).written := by
      refine accessWrite_acts hs.power_st (.inl hs.init_done) (find_ntfComplete k hk) ?_ (by decide) (by decide) rfl ?_ ?_ rfl
      · unfold A.ntfComplete A.secRplReq; omega
      · revert k; decide
      · revert k; decide
    simp only [hw]
    rfl
  | targetPort =>
    simp only [ntfPage, tpServe_p0 _ _ _ _ hs.init_done hs.power_st]
    rfl

end

/-! ## The highest-ranked candidate (R397, R400) -/

/-- One candidate against the best so far. -/
def State.better (s : State) (acc : Option Nat) (n : Nat) : Option Nat :=
  match acc with
  | none => some n
  | some m => if s.outranks n m then some n else acc

theorem State.bestCand_eq (s : State) (k : Nat) : s.bestCand k = (s.tgt k).cands.foldl s.better none := rfl

theorem State.better_some (s : State) (m n : Nat) : s.better (some m) n = some n ∨ s.better (some m) n = some m := by
  unfold State.better
  simp only
  split
  · exact .inl rfl
  · exact .inr rfl

/-- The best of a list is one of it, or the best before. -/
theorem State.foldl_better_mem (s : State) (l : List Nat) (m : Nat) : ∃ n, l.foldl s.better (some m) = some n ∧ (n = m ∨ n ∈ l) := by
  induction l generalizing m with
  | nil => exact ⟨m, rfl, .inl rfl⟩
  | cons x xs ih =>
    rw [List.foldl_cons]
    rcases s.better_some m x with h | h <;> rw [h]
    · obtain ⟨n, hn, hm⟩ := ih x
      exact ⟨n, hn, .inr (List.mem_cons.mpr hm)⟩
    · obtain ⟨n, hn, hm⟩ := ih m
      exact ⟨n, hn, hm.imp_right (List.mem_cons_of_mem x)⟩

/-- In FC32 the lowest number ranks highest (R397). -/
theorem State.foldl_better_le {s : State} (hb : s.build = .fc32) {l : List Nat} {m n : Nat} (h : l.foldl s.better (some m) = some n) :
    n ≤ m ∧ ∀ x ∈ l, n ≤ x := by
  induction l generalizing m with
  | nil => exact ⟨(Option.some.inj h).ge, by simp⟩
  | cons x xs ih =>
    have hx : s.better (some m) x = some (min x m) := by
      simp only [State.better, State.outranks, hb, Config.nested, Bool.false_eq_true, if_false, decide_eq_true_eq]
      split
      · rw [Nat.min_eq_left (by omega)]
      · rw [Nat.min_eq_right (by omega)]
    rw [List.foldl_cons, hx] at h
    obtain ⟨hm, hl⟩ := ih h
    exact ⟨by omega, List.forall_mem_cons.mpr ⟨by omega, hl⟩⟩

theorem bestCand_some {s : State} {k n : Nat} (h : s.bestCand k = some n) :
    n ∈ (s.tgt k).cands ∧ (s.build = .fc32 → ∀ m ∈ (s.tgt k).cands, n ≤ m) := by
  rw [s.bestCand_eq] at h
  cases hc : (s.tgt k).cands with
  | nil => rw [hc] at h; cases h
  | cons x xs =>
    rw [hc] at h
    obtain ⟨n', hn, hm⟩ := s.foldl_better_mem xs x
    obtain rfl := Option.some.inj (h.symm.trans hn)
    exact ⟨List.mem_cons.mpr hm, fun hb => List.forall_mem_cons.mpr (State.foldl_better_le hb h)⟩

theorem bestCand_none {s : State} {k : Nat} (h : s.bestCand k = none) : (s.tgt k).cands = [] := by
  rw [s.bestCand_eq] at h
  cases hc : (s.tgt k).cands with
  | nil => rfl
  | cons x xs =>
    rw [hc] at h
    obtain ⟨n, hn, -⟩ := s.foldl_better_mem xs x
    exact absurd (h.symm.trans hn) (by simp)

/-! ## Claim (R400) -/

/-- A source as a claim by target `k` leaves it. -/
def Src.claimed (x : Src) (k : Nat) : Src :=
  { x with n := 0, timer := none, fired := false, ready := false, latch := false, active := some k, route := none, lastT := some k }

/-- A target as its claim of source `n` leaves it. -/
def Tgt.serving (g : Tgt) (n prio : Nat) : Tgt := { g with stack := (n, prio) :: g.stack, cands := g.cands.filter (· != n) }

/-- The state after target `k` has claimed source `n`. -/
def State.claimed (s : State) (k n : Nat) : State :=
  ((s.setSrc ((s.src n).claimed k)).setTgt ((s.tgt k).serving n (s.prio n))).updQp (n - 64) fun q =>
    if 64 ≤ n then { q with irqNow := false } else q

theorem claim_some {s : State} {k n : Nat} (h : s.bestCand k = some n) : claim s k = (n, s.claimed k n) := by
  simp only [claim, h]
  rfl

theorem claim_none {s : State} {k : Nat} (h : s.bestCand k = none) : claim s k = (0, s.bump A.ntfEmptyClaimCnt) := by
  simp only [claim, h]

section
variable (s : State) (k n : Nat)

theorem State.claimed_src : (s.claimed k n).src n = (s.src n).claimed k := s.src_setSrc_of_s (x := (s.src n).claimed k) (s.src_s n)

theorem State.claimed_tgt : (s.claimed k n).tgt k = (s.tgt k).serving n (s.prio n) :=
  State.tgt_setTgt_of_t _ (x := (s.tgt k).serving n (s.prio n)) (s.tgt_t k)

theorem State.claimed_tgt_ne {j : Nat} (h : j ≠ k) : (s.claimed k n).tgt j = s.tgt j :=
  State.tgt_setTgt_ne _ (x := (s.tgt k).serving n (s.prio n)) (by rw [Tgt.serving, s.tgt_t k]; exact h)

end

/-- An access that only counts, in a counter of the controller, leaves what is served. -/
theorem served_counts {s : State} {a : Nat} (hoff : RingsOff s) (ha : 0x046400 ≤ a) (ha' : a < 0x047000) (path : ClaimPath) (write : Bool) (v : Word) :
    let t := after s ((s.bump a).served path write v)
    (∀ j, (t.tgt j).stack = (s.tgt j).stack) ∧ (∀ n, (t.src n).active = (s.src n).active) ∧ t.regN a = min (s.regN a + 1) (2 ^ 32 - 1) := by
  have hring : RingsOff (s.bump a) := hoff.congr fun j hj => s.reg_bump_ne _ (by unfold A.wglRingCfg; omega)
  have hpend : ((s.bump a).served path write v).pending = s.pending := State.served_pending ..
  have hbuild : ((s.bump a).served path write v).build = s.build := State.served_build ..
  refine ⟨fun j => (after_tgt hpend hbuild j).1.trans ?_, fun n => (after_off_src (ringsOff_served hring) n).1.trans ?_, ?_⟩
  · rw [State.served_tgt]; rfl
  · rw [State.served_src]; rfl
  · rw [after_regN hbuild (by unfold A.glbPwrCtl; omega) (by unfold A.hqArDropCnt; omega) (.inl (by omega)), State.regN, State.served_reg]
    exact s.regN_bump a 1

/-- Settles O25: a claim is one update of its source and its target, which the evaluation after it keeps. -/
theorem claimActivatesHighestCandidate : Obligations.ClaimActivatesHighestCandidate := by
  intro s k path hs hoff hk
  have hexec := exec_ntfClaim hs hk path
  refine ⟨fun n hn => ⟨_, hexec, ?_⟩, fun hn => ⟨_, hexec, ?_⟩⟩
  · rw [claim_some hn, claimData_after, State.served_data]
    have hoff' : RingsOff ((s.claimed k n).served path false (BitVec.ofNat 32 n)) := ringsOff_served hoff
    obtain ⟨hact, hlast, hlatch⟩ := after_off_src (s := s) hoff' n
    rw [State.served_src, State.claimed_src] at hact hlast hlatch
    have htgt (j : Nat) := (after_tgt (s := s) (t := (s.claimed k n).served path false (BitVec.ofNat 32 n)) (by simp; rfl) (by simp; rfl) j).1
    obtain ⟨hmem, hle⟩ := bestCand_some hn
    refine ⟨rfl, hact, hlast, hlatch, ?_, fun j hj => ?_, hmem, hle⟩
    · rw [htgt, State.served_tgt, State.claimed_tgt]
      rfl
    · rw [htgt, State.served_tgt, State.claimed_tgt_ne s k n hj]
  · rw [claim_none hn, claimData_after, State.served_data]
    exact ⟨rfl, bestCand_none hn, served_counts hoff (by decide) (by decide) path false 0⟩

/-! ## Complete (R401) -/

/-- A source whose service has ended; it is READY where it is `raised`. -/
def Src.ended (x : Src) (raised : Bool) : Src := { x with active := none, ready := x.ready || raised }

/-- A target with its newest service gone. -/
def Tgt.resumed (g : Tgt) (rest : List (Nat × Nat)) : Tgt := { g with stack := rest }

/-- The state after target `k` has completed its newest source `n`. -/
def State.serviceEnded (s : State) (k n : Nat) (rest : List (Nat × Nat)) : State :=
  (s.setTgt ((s.tgt k).resumed rest)).setSrc ((s.src n).ended (s.raised n))

theorem complete_newest {s : State} {k n p : Nat} {rest : List (Nat × Nat)} (h : (s.tgt k).stack = (n, p) :: rest) :
    complete s k n = s.serviceEnded k n rest := by
  simp only [complete, h, if_pos]
  rfl

theorem complete_other {s : State} {k n : Nat} (h : ∀ p rest, (s.tgt k).stack ≠ (n, p) :: rest) : complete s k n = s.bump A.ntfCmplErrCnt := by
  unfold complete
  split
  next m p rest hst =>
    refine if_neg fun hm => h p rest ?_
    rw [hst, hm]
  · rfl

section
variable (s : State) (k n : Nat) (rest : List (Nat × Nat))

theorem State.serviceEnded_src : (s.serviceEnded k n rest).src n = (s.src n).ended (s.raised n) :=
  State.src_setSrc_of_s _ (x := (s.src n).ended (s.raised n)) (s.src_s n)

theorem State.serviceEnded_tgt : (s.serviceEnded k n rest).tgt k = (s.tgt k).resumed rest :=
  s.tgt_setTgt_of_t (x := (s.tgt k).resumed rest) (s.tgt_t k)

theorem State.serviceEnded_raised (m : Nat) : (s.serviceEnded k n rest).raised m = s.raised m :=
  (raised_setSrc (s := s.setTgt ((s.tgt k).resumed rest)) (x := (s.src n).ended (s.raised n)) (by
    rw [show ((s.src n).ended (s.raised n)).s = n from s.src_s n]; rfl) m).trans (raised_of_latches ⟨_, rfl⟩ (fun _ => rfl) m)

theorem State.serviceEnded_mem : n ∈ (s.serviceEnded k n rest).ntf.srcs.map Src.s :=
  mem_srcs_setSrc_of_s _ (x := (s.src n).ended (s.raised n)) (s.src_s n)

end

/-- Settles O26: the source named leaves the stack, and the evaluation after the command finds it READY where it is still raised. -/
theorem completeEndsNamedService : Obligations.CompleteEndsNamedService := by
  intro s k path v hs hoff hk
  have hexec := exec_ntfComplete hs hk path v
  refine ⟨fun p rest hst => ⟨_, hexec, ?_⟩, fun hst => ⟨_, hexec, ?_⟩⟩
  · rw [complete_newest hst]
    generalize fld v 0 11 = n at *
    let u := (s.serviceEnded k n rest).served path true 0
    have hpend : u.pending = s.pending := State.served_pending ..
    have hbuild : u.build = s.build := State.served_build ..
    have hoff' : RingsOff u := ringsOff_served hoff
    refine ⟨(after_tgt hpend hbuild k).1.trans ?_, (after_off_src hoff' n).1.trans ?_, fun hr => ?_⟩
    · rw [State.served_tgt, State.serviceEnded_tgt]; rfl
    · rw [State.served_src, State.serviceEnded_src]; rfl
    · rw [after_off hpend hbuild hoff']
      refine settle_ready ?_ ?_ ?_ (.inl ?_)
      · rw [State.served_power]; exact hs.power_st
      · rw [State.served_srcs]; exact s.serviceEnded_mem k n rest
      · rw [State.served_raised, State.serviceEnded_raised, hr]
      · rw [State.served_src, State.serviceEnded_src, hr]; exact Bool.or_true _
  · rw [complete_other hst]
    exact served_counts hoff (by decide) (by decide) path true 0

end Sys2Proof.Machine
end

section
/-!
SUPPORT. The waggle fabric's channels and timers (R406, R410, R416, R418, R419): what firing a channel does in P0.
-/

namespace Sys2Proof.Machine

/-! ## What follows a command with the ring producers off -/

theorem after_off_wgl (s : State) {u : State} (h : RingsOff u) : (after s u).wgl = u.wgl := by
  rw [after_off_eq s h]
  obtain ⟨n, hn, -⟩ := settle_eq { u with pending := s.pending, build := s.build }
  rw [hn]

theorem after_off_regN {s u : State} (hb : u.build = s.build) (h : RingsOff u) (a : Nat) : (after s u).regN a = u.regN a :=
  congrArg BitVec.toNat (after_off_reg hb h a)

/-- What follows a command leaves the waggle timers to it. -/
theorem after_timer {s u : State} (hp : u.pending = s.pending) (hb : u.build = s.build) (k : Nat) : (after s u).timer k = u.timer k := by
  obtain ⟨-, -, -, -, -, -, -, htimers, -⟩ := around_after hp hb
  rw [State.timer, htimers, State.timer]

/-- A record that no command owns changes the alert ring and HQ_AR_DROP_CNT. -/
theorem raise_eq (s : State) (typ src i0 i1 i2 : Nat) : ∃ al rs, s.raise typ src i0 i1 i2 = { s with alert := al, regs := rs } ∧
    ∀ a, a ≠ A.hqArDropCnt → (s.raise typ src i0 i1 i2).reg a = s.reg a := by
  unfold State.raise
  split
  · exact ⟨_, _, rfl, fun _ _ => rfl⟩
  · exact ⟨_, _, rfl, fun a ha => State.reg_bump_ne { s with alert := { s.alert with lost := true } } 1 ha⟩

/-! ## Triggers (R416) -/

/-- The state with the latch of task `k` for channel `c` set. -/
def State.latching (s : State) (c k : Nat) : State :=
  { s with wgl := { s.wgl with latch := s.wgl.latch.filter (· != (k, c)) ++ [(k, c)] } }

theorem trigger_p0 {s : State} (c k : Nat) (h : s.power.st = .p0) : trigger s c k = s.latching c k := by
  have h2 : (s.power.st == .p2) = false := by rw [h]; rfl
  have h1 : leaveP1 s = s := leaveP1_of_ne (by rw [h]; decide)
  simp only [trigger, h2, h1, Bool.and_false, Bool.false_eq_true, if_false, ite_self]
  rfl

/-- The triggers of a channel in P0 set latches, and no other part of the state. -/
theorem triggers_p0 {s : State} (c : Nat) (l : List Nat) (h : s.power.st = .p0) :
    ∃ ls, s.each l (fun st k => trigger st c k) = { s with wgl := { s.wgl with latch := ls } } ∧
      ∀ x, x ∈ s.wgl.latch ∨ (∃ k ∈ l, x = (k, c)) → x ∈ ls := by
  unfold State.each
  induction l generalizing s with
  | nil => exact ⟨_, rfl, fun x hx => hx.elim id (by simp)⟩
  | cons k l ih =>
    rw [List.foldl_cons, trigger_p0 c k h]
    obtain ⟨ls, hls, hmem⟩ := ih (s := s.latching c k) h
    refine ⟨ls, hls, fun x hx => hmem x ?_⟩
    have hlatch : (s.latching c k).wgl.latch = s.wgl.latch.filter (· != (k, c)) ++ [(k, c)] := rfl
    rw [hlatch]
    by_cases hxk : x = (k, c)
    · exact .inl (by simp [hxk])
    · rcases hx with hx | ⟨j, hj, rfl⟩
      · exact .inl (by simp [hx, hxk])
      · rcases List.mem_cons.mp hj with rfl | hj
        · exact absurd rfl hxk
        · exact .inr ⟨j, hj, rfl⟩

/-! ## One firing (R406, R418, R419) -/

/-- The firings of channel `c` in the window so far. -/
def State.firings (s : State) (c : Nat) : Nat := (assoc s.wgl.counts c).getD 0

/-- The channel's firing is marked as of WGL_FIRE where it is. -/
def State.marking (s : State) (soft : Bool) (c : Nat) : State := if soft then { s with wgl := { s.wgl with soft := addN c s.wgl.soft } } else s

/-- The firing is counted in the window, and raises the channel's source. -/
def State.firing (s : State) (c : Nat) : State :=
  let t := { s with wgl := { s.wgl with counts := putBy Prod.fst (c, s.firings c + 1) s.wgl.counts } }
  ((t.setSrc { t.src (5 + c) with latch := true }).event (5 + c)).bump (A.wglFireCnt c)

section
variable {s : State} (soft : Bool) {c : Nat}

theorem State.marking_eq : ∃ l, s.marking soft c = { s with wgl := { s.wgl with soft := l } } := by
  cases soft
  · exact ⟨s.wgl.soft, rfl⟩
  · exact ⟨_, rfl⟩

theorem fireChan_disabled (h : bit (s.regN A.wglChEn) c = false) : fireChan soft s c = s := by simp [fireChan, h]

section
variable (he : bit (s.regN A.wglChEn) c = true)
include he

theorem fireChan_past_limit (h : s.fldOf A.wglLoopCfg 0 16 < s.firings c + 1) : fireChan soft s c = loopStop (s.marking soft c) c := by
  have hm : (s.marking soft c).fldOf A.wglLoopCfg 0 16 < (s.marking soft c).firings c + 1 := by
    obtain ⟨l, hl⟩ := State.marking_eq (s := s) (c := c) soft
    rw [hl]; exact h
  have hn : ¬((!bit (s.regN A.wglChEn) c) = true) := by simp [he]
  unfold fireChan
  rw [if_neg hn]
  exact if_pos hm

theorem fireChan_fires (h : s.firings c + 1 ≤ s.fldOf A.wglLoopCfg 0 16) :
    fireChan soft s c = ((s.marking soft c).firing c).each (tasksOn ((s.marking soft c).firing c) c) fun st k => trigger st c k := by
  have hm : ¬(s.marking soft c).fldOf A.wglLoopCfg 0 16 < (s.marking soft c).firings c + 1 := by
    obtain ⟨l, hl⟩ := State.marking_eq (s := s) (c := c) soft
    rw [hl]; exact Nat.not_lt.mpr h
  have hn : ¬((!bit (s.regN A.wglChEn) c) = true) := by simp [he]
  unfold fireChan
  rw [if_neg hn]
  exact if_neg hm

end

theorem State.firing_src (s : State) (c : Nat) : ((s.firing c).src (5 + c)).latch = true := by
  let t : State := { s with wgl := { s.wgl with counts := putBy Prod.fst (c, s.firings c + 1) s.wgl.counts } }
  have h1 := t.src_setSrc_of_s (x := { t.src (5 + c) with latch := true }) (n := 5 + c) (t.src_s _)
  have h2 : (((t.setSrc { t.src (5 + c) with latch := true }).event (5 + c)).src (5 + c)).latch = true := by
    unfold State.event
    rw [State.src_setSrc_of_s _ (by simp), h1]
  exact h2

theorem State.firing_counts (s : State) (c : Nat) : assoc (s.firing c).wgl.counts c = some (s.firings c + 1) := assoc_putBy_self ..

theorem State.firing_regN (s : State) (c : Nat) : (s.firing c).regN (A.wglFireCnt c) = min (s.regN (A.wglFireCnt c) + 1) (2 ^ 32 - 1) :=
  State.regN_bump _ (A.wglFireCnt c) 1

theorem State.firing_reg_ne (s : State) {a c : Nat} (h : a ≠ A.wglFireCnt c) : (s.firing c).reg a = s.reg a := State.reg_bump_ne _ 1 h

end

/-- A channel that fires in P0: its source, its count, its window, its tasks, and no other register. -/
theorem fireChan_spec {s : State} {c : Nat} (soft : Bool) (hp : s.power.st = .p0) (he : bit (s.regN A.wglChEn) c = true)
    (h : s.firings c + 1 ≤ s.fldOf A.wglLoopCfg 0 16) :
    let t := fireChan soft s c
    (t.src (5 + c)).latch = true ∧ t.regN (A.wglFireCnt c) = min (s.regN (A.wglFireCnt c) + 1) (2 ^ 32 - 1) ∧
    assoc t.wgl.counts c = some (s.firings c + 1) ∧ (∀ k, k < 33 → bit (s.regN (A.wglTcmap k)) c = true → (k, c) ∈ t.wgl.latch) ∧
    ∀ a, a ≠ A.wglFireCnt c → t.reg a = s.reg a := by
  rw [fireChan_fires soft he h]
  have hmark : (s.marking soft c).power.st = .p0 ∧ (s.marking soft c).firings c = s.firings c ∧ ∀ a, (s.marking soft c).reg a = s.reg a := by
    obtain ⟨l, hl⟩ := State.marking_eq (s := s) (c := c) soft
    rw [hl]
    exact ⟨hp, rfl, fun _ => rfl⟩
  generalize s.marking soft c = m at hmark
  obtain ⟨hp, hn, hreg⟩ := hmark
  have hsrc := m.firing_src c
  have hcounts := m.firing_counts c
  have hcnt := m.firing_regN c
  have hne (a : Nat) (ha : a ≠ A.wglFireCnt c) := (m.firing_reg_ne ha).trans (hreg a)
  have htask (k : Nat) (hk : k < 33) (hb : bit (s.regN (A.wglTcmap k)) c = true) : k ∈ tasksOn (m.firing c) c := by
    refine List.mem_filter.mpr ⟨List.mem_range.mpr hk, ?_⟩
    rw [State.regN, hne _ (by unfold A.wglTcmap A.wglFireCnt; omega)]
    exact hb
  rw [hn] at hcounts
  rw [State.regN, State.regN, hreg] at hcnt
  have hpf : (m.firing c).power.st = .p0 := hp
  generalize m.firing c = v at *
  obtain ⟨ls, hls, hmem⟩ := triggers_p0 c (tasksOn v c) hpf
  rw [hls]
  exact ⟨hsrc, hcnt, hcounts, fun k hk hb => hmem _ (.inr ⟨k, htask k hk hb, rfl⟩), hne⟩

/-- A firing past the limit disables its channel and records that (R418, R419). -/
theorem loopStop_spec {s : State} {c : Nat} (hc : c < 32) (hp : s.power.st = .p0) :
    let t := loopStop s c
    bit (t.regN A.wglChEn) c = false ∧ bit (t.regN A.wglLoopSts) c = true ∧ t.wgl = s.wgl ∧
    ∀ a, a ≠ A.wglChEn → a ≠ A.wglLoopSts → a ≠ A.hqArDropCnt → t.reg a = s.reg a := by
  let s1 := s.setReg A.wglChEn (s.reg A.wglChEn &&& ~~~ BitVec.ofNat 32 (1 <<< c))
  let s2 := s1.setReg A.wglLoopSts (s1.reg A.wglLoopSts ||| BitVec.ofNat 32 (1 <<< c))
  have h2 : s2.power.st ≠ .p2 := by rw [show s2.power.st = s.power.st from rfl, hp]; decide
  have hs : ∃ i0 i1 i2, loopStop s c = s2.raise 8 c i0 i1 i2 := ⟨_, _, _, if_neg h2⟩
  obtain ⟨i0, i1, i2, hs⟩ := hs
  obtain ⟨al, rs, hr, hreg⟩ := raise_eq s2 8 c i0 i1 i2
  have hbit : (BitVec.ofNat 32 (1 <<< c)).getLsbD c = true := by
    rw [BitVec.getLsbD_ofNat, decide_eq_true hc, Bool.true_and, Nat.one_shiftLeft, Nat.testBit_two_pow_self]
  rw [hs]
  refine ⟨?_, ?_, by rw [hr]; rfl, fun a h1 h2 h3 => ?_⟩
  · rw [State.regN, hreg _ (by decide), State.reg_setReg_ne _ _ (by decide), State.reg_setReg_self, bit, BitVec.testBit_toNat, BitVec.getLsbD_and,
      BitVec.getLsbD_not, hbit]
    simp
  · rw [State.regN, hreg _ (by decide), State.reg_setReg_self, bit, BitVec.testBit_toNat, BitVec.getLsbD_or, hbit, Bool.or_true]
  · rw [hreg _ h3, State.reg_setReg_ne _ _ h2, State.reg_setReg_ne _ _ h1]

/-! ## A write of WGL_FIRE -/

/-- The row of WGL_FIRE. -/
def wglFireRow : RegRow := Reg.wo A.wglFire []

theorem find_wglFire : Reg.find A.wglFire = some (wglFireRow, []) := by decide

theorem filter_bit_two_pow : ∀ c < 32, (List.range 32).filter (bit (2 ^ c)) = [c] := by decide

theorem exec_wglFire {s : State} {c : Nat} {v : Word} (hs : InService s) (hc : c < 32) (hv : v.toNat = 2 ^ c) :
    exec (.wglFire v) s = .next (after s (fireChan true s c).written) := by
  have hw : fireWrite s v = fireChan true s c := by
    rw [fireWrite, hv, filter_bit_two_pow c hc]
    rfl
  have hacc : accessWrite s .mport A.wglFire v none = (fireChan true s c).written :=
    accessWrite_acts hs.power_st (.inl hs.init_done) find_wglFire (by decide) (by decide) (by decide) rfl (by decide) (by decide)
      (congrArg some hw)
  unfold exec
  exact (runBus_of_ok _ rfl hs.not_held).trans (by rw [hacc])

theorem exec_loopWindowEnd {s : State} (hh : s.held = false) : exec .loopWindowEnd s = .next (after s (windowEnd s)) := by
  unfold exec
  exact run_of_ok _ rfl hh

/-- Settles O38: each case of a firing is one update, which nothing that follows the command touches. -/
theorem waggleChannelFiresUpToItsLimit : Obligations.WaggleChannelFiresUpToItsLimit := by
  intro s c v hs hoff hc hv n limit
  have hexec := exec_wglFire hs hc hv
  have hfires := Fires.fireChan true s hc
  have hbuild : (fireChan true s c).written.build = s.build := hfires.build
  have hring (k : Nat) (hk : k < 4) : 0x050390 ≤ A.wglRingCfg k ∧ A.wglRingCfg k < 0x0503A0 := by unfold A.wglRingCfg; omega
  refine ⟨fun he hl => ⟨_, hexec, ?_⟩, fun he hl => ⟨_, hexec, ?_⟩, fun he => ⟨_, hexec, ?_⟩, ⟨_, exec_loopWindowEnd hs.not_held, ?_⟩⟩
  · obtain ⟨hlatch, hcnt, hwin, htask, hreg⟩ := fireChan_spec true hs.power_st he hl
    have hoff' : RingsOff (fireChan true s c).written := hoff.congr fun k hk => hreg _ (by have := hring k hk; unfold A.wglFireCnt; omega)
    rw [after_off_wgl s hoff', after_off_regN hbuild hoff']
    exact ⟨(after_off_src hoff' (5 + c)).2.2.trans hlatch, hcnt, hwin, htask⟩
  · obtain ⟨l, hm⟩ := State.marking_eq (s := s) (c := c) true
    have hp : (s.marking true c).power.st = .p0 := by rw [hm]; exact hs.power_st
    obtain ⟨hen, hsts, hwgl, hreg⟩ := loopStop_spec hc hp
    rw [← fireChan_past_limit true he hl] at hen hsts hwgl hreg
    have hmark (a : Nat) : (s.marking true c).reg a = s.reg a := by rw [hm]; rfl
    have hoff' : RingsOff (fireChan true s c).written := hoff.congr fun k hk => by
      have := hring k hk
      exact (hreg _ (by unfold A.wglChEn; omega) (by unfold A.wglLoopSts; omega) (by unfold A.hqArDropCnt; omega)).trans (hmark _)
    rw [after_off_wgl s hoff', after_off_regN hbuild hoff', after_off_regN hbuild hoff', after_off_regN hbuild hoff']
    refine ⟨hen, hsts, ?_, congrArg BitVec.toNat ((hreg _ ?_ ?_ ?_).trans (hmark _))⟩
    · exact (congrArg Wgl.latch hwgl).trans (by rw [hm])
    all_goals unfold A.wglFireCnt
    · unfold A.wglChEn; omega
    · unfold A.wglLoopSts; omega
    · unfold A.hqArDropCnt; omega
  · rw [fireChan_disabled true he]
    exact after_off_wgl s (u := s.written) hoff
  · unfold windowEnd
    split
    · rw [after_off_wgl s (u := { s with wgl := { s.wgl with counts := [], soft := [] } }) hoff]
    · rw [after_off_wgl s hoff]

end Sys2Proof.Machine
end

section
/-!
SUPPORT. The waggle tasks (R411 to R416, R420): what a clock domain does when it samples the latches of one task.
-/

namespace Sys2Proof.Machine

/-! ## Sampling (R416) -/

/-- The state with the latches of task `k` cleared. -/
def State.unlatched (s : State) (k : Nat) : State := { s with wgl := { s.wgl with latch := s.wgl.latch.filter fun x => x.1 != k } }

/-- The state with the latches of task `k` cleared, and their merge counted. -/
def State.merged (s : State) (k : Nat) : State := if 2 ≤ (s.latches k).length then (s.unlatched k).bump A.wglCoincCnt else s.unlatched k

theorem sampleTask_unlatched {s : State} {k : Nat} (h : s.latches k = []) : sampleTask s k = s := by simp [sampleTask, h]

theorem sampleTask_latched {s : State} {k : Nat} (h : s.latches k ≠ []) (hk : kclkTask k = true → s.power.st ≠ .p2) :
    sampleTask s k = taskTake (s.merged k) k := by
  refine if_neg fun hn => hn.elim (fun he => h (List.isEmpty_iff.mp he)) fun hn => hk hn.1 hn.2

section
variable (s : State) (k : Nat)

theorem State.merged_eq : ∃ r, s.merged k = { s with regs := r, wgl := { s.wgl with latch := s.wgl.latch.filter fun x => x.1 != k } } := by
  unfold State.merged
  split <;> exact ⟨_, rfl⟩

theorem State.merged_power : (s.merged k).power = s.power := by obtain ⟨_, h⟩ := s.merged_eq k; rw [h]
theorem State.merged_build : (s.merged k).build = s.build := by obtain ⟨_, h⟩ := s.merged_eq k; rw [h]
theorem State.merged_taskBusy (j : Nat) : (s.merged k).taskBusy j = s.taskBusy j := by obtain ⟨_, h⟩ := s.merged_eq k; rw [h]; rfl

theorem State.merged_reg_ne {a : Nat} (h : a ≠ A.wglCoincCnt) : (s.merged k).reg a = s.reg a := by
  unfold State.merged
  split
  · exact State.reg_bump_ne _ 1 h
  · rfl

theorem State.merged_coinc : (s.merged k).regN A.wglCoincCnt =
    if 2 ≤ (s.latches k).length then min (s.regN A.wglCoincCnt + 1) (2 ^ 32 - 1) else s.regN A.wglCoincCnt := by
  unfold State.merged
  split
  · exact State.regN_bump _ A.wglCoincCnt 1
  · rfl

theorem State.merged_one {s : State} {k : Nat} {x : Nat × Nat} (h : s.latches k = [x]) : s.merged k = s.unlatched k := by
  rw [State.merged, h]
  exact if_neg (by simp)

/-- A merge leaves no latch of its task, and those of the others. -/
theorem latches_of_unlatched {t : State} (h : t.wgl.latch = s.wgl.latch.filter fun x => x.1 != k) :
    t.latches k = [] ∧ ∀ j, j ≠ k → t.latches j = s.latches j := by
  refine ⟨?_, fun j hj => ?_⟩ <;> unfold State.latches <;> rw [h, List.filter_filter]
  · exact List.filter_eq_nil_iff.mpr fun x _ => by simp
  · refine List.filter_congr fun x _ => ?_
    by_cases hx : x.1 = j
    · simp [hx, hj]
    · simp [hx]

end

/-! ## The commands that sample a task -/

/-- The commands by which the clock domains sample the tasks, in a build with `g` groups. -/
def taskCommands (g : Nat) : List (Nat × Instr) :=
  [(0, Instr.patrolStart), (1, .patrolStop), (2, .calStart), (3, .eraseResumeAll), (4, .eraseSuspendAll), (5, .dispatchRelease), (6, .dispatchHold),
    (7, .snapshot), (8, .wake)] ++ (List.range 8).map (fun i => (9 + i, Instr.timerStart i)) ++ (List.range 8).map (fun i => (17 + i, Instr.timerStop i)) ++
    (List.range g).map (fun g => (25 + g, Instr.grpEnable g)) ++ (List.range g).map (fun g => (29 + g, Instr.grpDisable g))

theorem groups_le (b : Build) : Config.groups b ≤ 4 := by cases b <;> decide

theorem exec_task {s : State} {k : Nat} {c : Instr} (hh : s.held = false) (h : (k, c) ∈ taskCommands (Config.groups s.build)) :
    exec c s = .next (after s (sampleTask s k)) := by
  have hg := groups_le s.build
  simp only [taskCommands, List.mem_append, List.mem_cons, List.mem_map, List.mem_range, List.not_mem_nil, or_false, Prod.mk.injEq] at h
  rcases h with ((((⟨rfl, rfl⟩ | ⟨rfl, rfl⟩ | ⟨rfl, rfl⟩ | ⟨rfl, rfl⟩ | ⟨rfl, rfl⟩ | ⟨rfl, rfl⟩ | ⟨rfl, rfl⟩ | ⟨rfl, rfl⟩ | ⟨rfl, rfl⟩) | ⟨i, hi, rfl, rfl⟩) |
    ⟨i, hi, rfl, rfl⟩) | ⟨g, hi, rfl, rfl⟩) | ⟨g, hi, rfl, rfl⟩ <;> unfold exec
  case inl.inl.inr | inl.inl.inl.inr => exact run_of_ok _ (decide_eq_true hi) hh
  case inl.inr | inr => exact run_of_ok _ (decide_eq_true (by omega)) hh
  all_goals exact run_of_ok _ rfl hh

theorem lt_of_taskCommands {g k : Nat} {c : Instr} (hg : g ≤ 4) (h : (k, c) ∈ taskCommands g) : k < 33 := by
  simp only [taskCommands, List.mem_append, List.mem_cons, List.mem_map, List.mem_range, List.not_mem_nil, or_false, Prod.mk.injEq] at h
  omega

/-! ## An overrun (R416) -/

/-- The registers that no task but an overrun writes: its counts and the configuration of the ring producers. -/
def Watched (a : Nat) : Prop := a = A.wglOvrCnt ∨ a = A.wglCoincCnt ∨ (0x050390 ≤ a ∧ a < 0x0503A0)

/-- A change that leaves the watched registers. -/
def Unwatched (s t : State) : Prop := t.build = s.build ∧ ∀ a, Watched a → t.reg a = s.reg a

section
variable {s t u : State}

theorem Unwatched.refl (s : State) : Unwatched s s := ⟨rfl, fun _ _ => rfl⟩
theorem Unwatched.trans (h : Unwatched s t) (k : Unwatched t u) : Unwatched s u := ⟨k.1.trans h.1, fun a ha => (k.2 a ha).trans (h.2 a ha)⟩

theorem Unwatched.setReg {a : Nat} (v : Word) (h : ¬Watched a) : Unwatched s (s.setReg a v) :=
  ⟨rfl, fun _ hb => s.reg_setReg_ne v fun he => h (he ▸ hb)⟩

theorem watched_wglRingCfg {k : Nat} (hk : k < 4) : Watched (A.wglRingCfg k) := .inr (.inr (by unfold A.wglRingCfg; omega))

theorem Unwatched.ringsOff (h : Unwatched s t) (hs : RingsOff s) : RingsOff t := hs.congr fun _ hk => h.2 _ (watched_wglRingCfg hk)

theorem State.merged_ringsOff {s : State} (k : Nat) (h : RingsOff s) : RingsOff (s.merged k) :=
  h.congr fun j hj => s.merged_reg_ne k (by unfold A.wglRingCfg A.wglCoincCnt; omega)

end

/-- An overrun is recorded in its two registers. -/
theorem overrun_spec (s : State) {k : Nat} (hk : k < 33) : bit ((overrun s k).regN (A.wglOvr (k / 32))) (k % 32) = true ∧
    (overrun s k).regN A.wglOvrCnt = min (s.regN A.wglOvrCnt + 1) (2 ^ 32 - 1) ∧
    ∀ a, a ≠ A.wglOvr (k / 32) → a ≠ A.wglOvrCnt → (overrun s k).reg a = s.reg a := by
  have hne : A.wglOvrCnt ≠ A.wglOvr (k / 32) := by unfold A.wglOvr A.wglOvrCnt; omega
  have hbit : (BitVec.ofNat 32 (1 <<< (k % 32))).getLsbD (k % 32) = true := by
    rw [BitVec.getLsbD_ofNat, decide_eq_true (Nat.mod_lt k (by decide)), Bool.true_and, Nat.one_shiftLeft, Nat.testBit_two_pow_self]
  unfold overrun
  refine ⟨?_, (State.regN_bump _ _ 1).trans ?_, fun a h1 h2 => ?_⟩
  · rw [State.regN, State.reg_bump_ne _ 1 hne.symm, State.reg_setReg_self, bit, BitVec.testBit_toNat, BitVec.getLsbD_or, hbit, Bool.or_true]
  · rw [State.regN, State.reg_setReg_ne _ _ hne]
    rfl
  · rw [State.reg_bump_ne _ 1 h2, State.reg_setReg_ne _ _ h1]

/-! ## What the tasks leave in P0 -/

/-- A channel fired in P0 leaves the watched registers. -/
theorem fireChan_unwatched {s : State} {c : Nat} (soft : Bool) (hc : c < 32) (hp : s.power.st = .p0) :
    Unwatched s (fireChan soft s c) ∧ (fireChan soft s c).power.st = .p0 := by
  have hfires := Fires.fireChan soft s hc
  have hpow : (fireChan soft s c).power = s.power := by
    obtain ⟨-, -, -, -, -, -, -, hpow, -⟩ := hfires
    exact hpow (by rw [hp]; decide)
  refine ⟨⟨hfires.build, fun a ha => ?_⟩, by rw [hpow, hp]⟩
  by_cases he : bit (s.regN A.wglChEn) c = true
  · by_cases hl : s.firings c + 1 ≤ s.fldOf A.wglLoopCfg 0 16
    · obtain ⟨-, -, -, -, hreg⟩ := fireChan_spec soft hp he hl
      refine hreg a ?_
      unfold Watched A.wglOvrCnt A.wglCoincCnt at ha
      unfold A.wglFireCnt
      omega
    · obtain ⟨l, hm⟩ := State.marking_eq (s := s) (c := c) soft
      have hpm : (s.marking soft c).power.st = .p0 := by rw [hm]; exact hp
      obtain ⟨-, -, -, hreg⟩ := loopStop_spec hc hpm
      unfold Watched A.wglOvrCnt A.wglCoincCnt at ha
      rw [fireChan_past_limit soft he (by omega), hreg a, hm]
      · rfl
      · unfold A.wglChEn; omega
      · unfold A.wglLoopSts; omega
      · unfold A.hqArDropCnt; omega
  · rw [fireChan_disabled soft (Bool.eq_false_iff.mpr he)]

/-- A producer's pulse in P0 leaves the watched registers. -/
theorem produce_unwatched {s : State} (p : Nat) (hp : s.power.st = .p0) : Unwatched s (produce s p) := by
  have h (l : List Nat) (hl : ∀ c ∈ l, c < 32) : ∀ s : State, s.power.st = .p0 → Unwatched s (s.each l (fireChan false)) := by
    induction l with
    | nil => exact fun s _ => .refl s
    | cons c l ih =>
      intro s hp
      obtain ⟨hfire, hpow⟩ := fireChan_unwatched false (hl c List.mem_cons_self) hp
      exact hfire.trans (ih (fun c hc => hl c (List.mem_cons_of_mem _ hc)) _ hpow)
  exact h _ (fun c hc => List.mem_range.mp (List.mem_of_mem_filter hc)) s hp

theorem passEnd_unwatched {s : State} (hp : s.power.st = .p0) : Unwatched s (passEnd s) := by
  have hcount : Unwatched s (s.bump A.rlvFgPassCnt) := .setReg _ (by unfold Watched; decide)
  unfold passEnd
  extract_lets cont
  generalize Forager.mk .. = f
  exact hcount.trans (produce_unwatched (s := (s.bump A.rlvFgPassCnt).setFg f) 54 hp)

theorem passStart_unwatched {s : State} (hp : s.power.st = .p0) : Unwatched s (passStart s) := by
  unfold passStart
  extract_lets f s1 n
  split
  · exact (Unwatched.setReg (s := s1.setFg { s1.fg with pos := n }) _ (by unfold Watched; decide)).trans (passEnd_unwatched hp)
  · exact .refl s

/-- The 16 copies of a snapshot, one after the other. -/
theorem each_setReg {f : Nat → Nat} {v : Nat → Word} {l : List Nat} (s : State) (hf : ∀ i ∈ l, ∀ j ∈ l, f i = f j → i = j) (a : Nat) :
    let t := s.each l fun st k => st.setReg (f k) (v k)
    (∀ k ∈ l, t.reg (f k) = v k) ∧ ((∀ k ∈ l, a ≠ f k) → t.reg a = s.reg a) ∧ ∃ r, t = { s with regs := r } := by
  unfold State.each
  induction l using List.reverseRecOn with
  | nil => exact ⟨nofun, fun _ => rfl, _, rfl⟩
  | append_singleton l k ih =>
    obtain ⟨hset, hkeep, r, hr⟩ := ih fun i hi j hj => hf i (List.mem_append_left _ hi) j (List.mem_append_left _ hj)
    rw [List.foldl_append, List.foldl_cons, List.foldl_nil]
    refine ⟨fun i hi => ?_, fun ha => ?_, ?_⟩
    · by_cases he : f i = f k
      · rw [he, State.reg_setReg_self, hf i hi k (by simp) he]
      · rw [State.reg_setReg_ne _ _ he]
        refine hset i ((List.mem_append.mp hi).elim id fun hi => ?_)
        rw [List.mem_singleton.mp hi] at he
        exact absurd rfl he
    · rw [State.reg_setReg_ne _ _ (ha k (by simp))]
      exact hkeep fun i hi => ha i (List.mem_append_left _ hi)
    · rw [hr]
      exact ⟨_, rfl⟩

/-- The state with the 16 copies made. -/
def State.snapped (s : State) : State := s.each (List.range 16) fun st k => st.setReg (A.wglSnap k) (s.snapValue k)

theorem snapshot_eq (s : State) : snapshot s = s.snapped.useFree.bump A.wglSnapSeq := rfl

theorem State.snapped_spec (s : State) (a : Nat) : (∀ k ∈ List.range 16, s.snapped.reg (A.wglSnap k) = s.snapValue k) ∧
    ((∀ k ∈ List.range 16, a ≠ A.wglSnap k) → s.snapped.reg a = s.reg a) ∧ ∃ r, s.snapped = { s with regs := r } :=
  each_setReg s (fun i _ j _ h => by unfold A.wglSnap at h; omega) a

theorem State.reg_useFree (s : State) (n a : Nat) : (s.useFree n).reg a = s.reg a := rfl

section
variable (s : State)

theorem snapshot_copies (k : Nat) (hk : k < 16) : (snapshot s).reg (A.wglSnap k) = s.snapValue k := by
  have hne : A.wglSnap k ≠ A.wglSnapSeq := by unfold A.wglSnapSeq A.wglSnap; omega
  rw [snapshot_eq, State.reg_bump_ne _ 1 hne, State.reg_useFree]
  exact (s.snapped_spec 0).1 k (List.mem_range.mpr hk)

theorem snapshot_counts : (snapshot s).regN A.wglSnapSeq = min (s.regN A.wglSnapSeq + 1) (2 ^ 32 - 1) := by
  have hne (k : Nat) (_ : k ∈ List.range 16) : A.wglSnapSeq ≠ A.wglSnap k := by unfold A.wglSnapSeq A.wglSnap; omega
  rw [snapshot_eq, State.regN_bump, State.regN, State.reg_useFree, (s.snapped_spec _).2.1 hne, State.regN]

theorem snapshot_unwatched : Unwatched s (snapshot s) := by
  refine ⟨?_, fun a ha => ?_⟩
  · obtain ⟨-, -, r, hr⟩ := s.snapped_spec 0
    rw [snapshot_eq, hr]
    rfl
  · unfold Watched A.wglOvrCnt A.wglCoincCnt at ha
    have hne : a ≠ A.wglSnapSeq := by unfold A.wglSnapSeq; omega
    have hsnap (k : Nat) (hk : k ∈ List.range 16) : a ≠ A.wglSnap k := by
      have := List.mem_range.mp hk
      unfold A.wglSnap
      omega
    rw [snapshot_eq, State.reg_bump_ne _ 1 hne, State.reg_useFree]
    exact (s.snapped_spec a).2.1 hsnap

end

theorem wakeTask_p0 {s : State} (hp : s.power.st = .p0) : wakeTask s = s := by
  rw [wakeTask, leaveP1_of_ne (by rw [hp]; decide)]
  exact if_pos (.inl (by rw [hp]; decide))

theorem grpSet_unwatched (s : State) (g : Nat) (on : Bool) : Unwatched s (grpSet s g on) := by
  unfold grpSet
  split
  · exact .setReg _ (by unfold Watched; decide)
  · exact .refl s

theorem Unwatched.ite {s t u : State} {p : Prop} [Decidable p] (ht : Unwatched s t) (hu : Unwatched s u) : Unwatched s (if p then t else u) := by
  split
  · exact ht
  · exact hu

theorem taskAct_unwatched {s : State} (k : Nat) (hp : s.power.st = .p0) : Unwatched s (taskAct s k) := by
  have hpass : Unwatched s (patrolStart s) := passStart_unwatched (s := fgDrop s) hp
  have hdisp (n : Nat) : Unwatched s (s.setFldOf A.wglDisp 0 1 n) := .setReg _ (by unfold Watched; decide)
  have hwake : Unwatched s (wakeTask s) := by rw [wakeTask_p0 hp]; exact .refl s
  unfold taskAct
  refine .ite hpass <| .ite (.refl s) <| .ite (.refl s) <| .ite (.refl s) <| .ite (.refl s) <| .ite (hdisp 0) <| .ite (hdisp 1) <|
    .ite (snapshot_unwatched s) <| .ite hwake <| .ite (.refl s) <| .ite (.refl s) <| .ite (grpSet_unwatched s _ _) (grpSet_unwatched s _ _)

/-- Settles O41: a sample merges the latches of its task, and of what follows only an overrun writes the registers that count. -/
theorem busyTasksOverrunOnce : Obligations.BusyTasksOverrunOnce := by
  intro s k c hh hp hoff hmem up coinc
  have hexec := exec_task hh hmem
  have hk : k < 33 := lt_of_taskCommands (groups_le _) hmem
  have hnp2 : kclkTask k = true → s.power.st ≠ .p2 := fun _ => by rw [hp]; decide
  have hovr : Watched A.wglOvrCnt := .inl rfl
  have hmc : Watched A.wglCoincCnt := .inr (.inl rfl)
  have hcount : (s.merged k).regN A.wglOvrCnt = s.regN A.wglOvrCnt := congrArg BitVec.toNat (s.merged_reg_ne k (by decide))
  have hmoff := State.merged_ringsOff k hoff
  have hmbuild := s.merged_build k
  refine ⟨fun hl => ⟨_, hexec, ?_⟩, fun hl hb => ⟨_, hexec, ?_⟩, fun hl hb => ⟨_, hexec, ?_⟩⟩
  · rw [sampleTask_unlatched hl]
    exact around_after rfl rfl
  · have htake : sampleTask s k = overrun (s.merged k) k := by
      rw [sampleTask_latched hl hnp2]
      exact if_pos ((s.merged_taskBusy k k).trans hb)
    obtain ⟨hbit, hcnt, hreg⟩ := overrun_spec (s.merged k) hk
    obtain ⟨r, hr⟩ := s.merged_eq k
    have hou : RingsOff (overrun (s.merged k) k) := hmoff.congr fun j hj =>
      hreg _ (by unfold A.wglRingCfg A.wglOvr; omega) (by unfold A.wglRingCfg A.wglOvrCnt; omega)
    have hbuild : (overrun (s.merged k) k).build = s.build := hmbuild
    have hlatch : (after s (overrun (s.merged k) k)).wgl.latch = s.wgl.latch.filter fun x => x.1 != k := by
      rw [after_off_wgl s hou, hr]
      rfl
    obtain ⟨hnone, hothers⟩ := latches_of_unlatched s k hlatch
    rw [htake, after_off_regN hbuild hou, after_off_regN hbuild hou, after_off_regN hbuild hou]
    refine ⟨hnone, hothers, hbit, hcnt.trans (by rw [hcount]), ?_, fun a h1 h2 h3 => ?_, ?_⟩
    · refine Eq.trans (congrArg BitVec.toNat (hreg _ ?_ (by decide))) (s.merged_coinc k)
      unfold A.wglOvr A.wglCoincCnt
      omega
    · rw [after_off_reg hbuild hou, hreg a h1 h2, s.merged_reg_ne k h3]
    · rw [hr]
      exact ⟨_, around_after rfl rfl⟩
  · have htake : sampleTask s k = taskAct (s.merged k) k := by
      rw [sampleTask_latched hl hnp2]
      exact if_neg (Bool.eq_false_iff.mp ((s.merged_taskBusy k k).trans hb))
    have hact := taskAct_unwatched k (s := s.merged k) (by rw [s.merged_power, hp])
    have hau := hact.ringsOff hmoff
    obtain ⟨hbuild, hreg⟩ := hact
    rw [htake, after_off_regN (hbuild.trans hmbuild) hau, after_off_regN (hbuild.trans hmbuild) hau]
    exact ⟨(congrArg BitVec.toNat (hreg _ hovr)).trans hcount, (congrArg BitVec.toNat (hreg _ hmc)).trans (s.merged_coinc k)⟩

end Sys2Proof.Machine
end

section
/-!
SUPPORT. What each waggle task does (R411 to R416, R420, R438).
-/

namespace Sys2Proof.Machine

/-- The record of a timer has its number. -/
@[simp] theorem State.timer_k (s : State) (k : Nat) : (s.timer k).k = k := by
  unfold State.timer
  cases h : getBy WTimer.k k s.wgl.timers with
  | none => rfl
  | some x => simpa using getBy_key h

theorem State.timer_setTimer_of_k (s : State) {x : WTimer} {k : Nat} (h : x.k = k) : (s.setTimer x).timer k = x := h ▸ s.timer_setTimer_self x

section
variable (s : State) {k : Nat}

theorem taskAct_timerStart (hk : k < 8) : taskAct s (9 + k) = timerRun s k := by
  unfold taskAct
  iterate 9 rw [if_neg (by omega)]
  rw [if_pos (by omega), Nat.add_sub_cancel_left]

theorem taskAct_timerStop (hk : k < 8) : taskAct s (17 + k) = timerHalt s k := by
  unfold taskAct
  iterate 10 rw [if_neg (by omega)]
  rw [if_pos (by omega), Nat.add_sub_cancel_left]

theorem taskAct_grpEnable (hk : k < 4) : taskAct s (25 + k) = grpSet s k true := by
  unfold taskAct
  iterate 11 rw [if_neg (by omega)]
  rw [if_pos (by omega), Nat.add_sub_cancel_left]

theorem taskAct_grpDisable : taskAct s (29 + k) = grpSet s k false := by
  unfold taskAct
  iterate 12 rw [if_neg (by omega)]
  rw [Nat.add_sub_cancel_left]

/-- A task above ERASE_SUSPEND_ALL is never busy. -/
theorem taskBusy_of_lt (h : 4 < k) : s.taskBusy k = false := by
  unfold State.taskBusy
  iterate 3 rw [if_neg (by omega)]

end

/-- WGL_DISP.HOLD is set or cleared. -/
theorem after_setDisp {s : State} (hoff : RingsOff s) {k : Nat} (n : Nat) : (after s ((s.merged k).setFldOf A.wglDisp 0 1 n)).fldOf A.wglDisp 0 1 = n % 2 := by
  have hu : RingsOff ((s.merged k).setFldOf A.wglDisp 0 1 n) := (State.merged_ringsOff k hoff).congr fun j hj =>
    State.reg_setFldOf_ne _ _ _ _ (by unfold A.wglRingCfg A.wglDisp; omega)
  rw [State.fldOf, after_off_reg (u := (s.merged k).setFldOf A.wglDisp 0 1 n) (s.merged_build k) hu]
  exact State.fldOf_setFldOf_self _ _ n (by decide)

/-- WGL_GRP_CTL.EN of a group that is present is set or cleared. -/
theorem after_grpSet {s : State} {g : Nat} (hg : g < Config.groups s.build) (hoff : RingsOff s) (k : Nat) (on : Bool) : (after s (grpSet (s.unlatched k) g on)).fldOf A.wglGrpCtl g 1 = on.toNat := by
  have hset : grpSet (s.unlatched k) g on = (s.unlatched k).setFldOf A.wglGrpCtl g 1 on.toNat := if_pos hg
  have hu := (grpSet_unwatched (s.unlatched k) g on)
  have hlt := groups_le s.build
  rw [State.fldOf, after_off_reg (s := s) hu.1 (hu.ringsOff hoff), hset]
  refine (State.fldOf_setFldOf_self _ _ _ (by omega)).trans ?_
  cases on <;> rfl

section
variable {s : State} (hh : s.held = false)
include hh

/-- A task that is not busy and has one latch acts. -/
theorem exec_task_acts {k : Nat} {c : Instr} {x : Nat × Nat} (h : (k, c) ∈ taskCommands (Config.groups s.build))
    (hl : s.latches k = [x]) (hk : kclkTask k = true → s.power.st ≠ .p2) (hb : s.taskBusy k = false) :
    exec c s = .next (after s (taskAct (s.unlatched k) k)) := by
  have hbusy : (s.unlatched k).taskBusy k = false := hb
  rw [exec_task hh h, sampleTask_latched (by simp [hl]) hk, State.merged_one hl, taskTake, hbusy]
  rfl

/-! ## WAKE (R420, R438) -/

section
variable {c : Nat} (hl : s.latches 8 = [(8, c)])
include hl

theorem exec_wake : exec .wake s = .next (after s (wakeTask (s.unlatched 8))) :=
  exec_task_acts hh (by simp [taskCommands]) hl (fun h => absurd h (by decide)) rfl

theorem wake_p2 (hp : s.power.st = .p2) (hw : s.power.waking = false) : ∃ t, exec .wake s = .next t ∧
    (s.power.clkStop = false → t.power.waking = true ∧ t.init.phase = 8) ∧
    (s.power.clkStop = true → t.power.waitClk = true ∧ t.power.waking = false) := by
  have hp' : (s.unlatched 8).power.st = .p2 := hp
  have hact : wakeTask (s.unlatched 8) = startWake (s.unlatched 8) := by rw [wakeTask, leaveP1_of_ne (by rw [hp']; decide)]
  have hne (h : (startWake (s.unlatched 8)).power.st = .p2) : (startWake (s.unlatched 8)).power.st ≠ .p1 := by rw [h]; decide
  refine ⟨_, exec_wake hh hl, fun hc => ?_, fun hc => ?_⟩ <;> rw [hact]
  · have hstart := startWake_running hp' hw hc
    rw [after_power s (hne (by rw [hstart]; exact hp)), after_init, hstart]
    exact ⟨rfl, rfl⟩
  · have hstart := startWake_stopped hp' hw hc
    rw [after_power s (hne (by rw [hstart]; exact hp)), hstart]
    exact ⟨rfl, hw⟩

theorem wake_p1 (hp : s.power.st = .p1) : ∃ t, exec .wake s = .next t ∧ t.power.st = .p0 ∧ t.pwrReq = 0 := by
  let u : State := ({ s.unlatched 8 with power := { s.power with st := .p0 } } : State).setFldOf A.glbPwrCtl 0 2 0
  have hleave : leaveP1 (s.unlatched 8) = u := if_pos hp
  have hst : u.power.st = .p0 := rfl
  have hne : u.power.st ≠ .p1 := by rw [hst]; decide
  have hact : wakeTask (s.unlatched 8) = u := by
    rw [wakeTask, hleave]
    exact if_pos (.inl (by rw [hst]; decide))
  refine ⟨_, exec_wake hh hl, ?_, ?_⟩ <;> rw [hact]
  · rw [after_power s hne]
    rfl
  · rw [State.pwrReq, State.fldOf, after_reg (s := s) (t := u) rfl (fun _ => hne) (by decide) (by decide)]
    exact State.fldOf_setFldOf_self _ _ 0 (by decide)

end

/-! ## The tasks of the KCLK domain and the timers, in P0 -/

section
variable {c : Nat} (hp : s.power.st = .p0)
include hp

theorem exec_patrolStart (hl : s.latches 0 = [(0, c)]) (hb : s.taskBusy 0 = false) (hd : s.fg.dies.all s.fgChanBad = false) :
    ∃ t, exec .patrolStart s = .next t ∧ t.fg.run = true ∧ t.fg.waiting = false ∧ t.fg.pos = 0 ∧ t.fg.passes = min (s.fg.passes + 1) (2 ^ 32 - 1) := by
  refine ⟨_, exec_task_acts hh (by simp [taskCommands]) hl (fun _ => by rw [hp]; decide) hb, ?_⟩
  have hstart : taskAct (s.unlatched 0) 0 = (fgDrop (s.unlatched 0)).setFg (fgDrop (s.unlatched 0)).fg.begun :=
    passStart_of_page (s := fgDrop (s.unlatched 0)) hd
  rw [State.fg, after_rlv, hstart]
  exact ⟨rfl, rfl, rfl, rfl⟩

theorem exec_patrolStop (hl : s.latches 1 = [(1, c)]) : ∃ t, exec .patrolStop s = .next t ∧ t.fg.run = false ∧ t.fg.waiting = false ∧ t.fg.pages = [] := by
  refine ⟨_, exec_task_acts hh (by simp [taskCommands]) hl (fun _ => by rw [hp]; decide) rfl, ?_⟩
  rw [State.fg, after_rlv]
  exact ⟨rfl, rfl, rfl⟩

theorem exec_calStart (hoff : RingsOff s) (hl : s.latches 2 = [(2, c)]) (hb : s.taskBusy 2 = false) :
    ∃ t, exec .calStart s = .next t ∧ t.wgl.calBusy = true ∧ t.rlv.calWait = s.rlv.calWait ++
      [(none, s.pair A.wglCalPaddrLo, s.fldOf A.wglCalCtl 0 11 + 1, s.fldOf A.wglCalCtl 11 15)] := by
  refine ⟨_, exec_task_acts hh (by simp [taskCommands]) hl (fun _ => by rw [hp]; decide) hb, ?_⟩
  have hact : taskAct (s.unlatched 2) 2 = calTask (s.unlatched 2) := rfl
  rw [hact, after_rlv, after_off_wgl s (u := calTask (s.unlatched 2)) hoff]
  exact ⟨rfl, rfl⟩

theorem exec_eraseResumeAll (hl : s.latches 3 = [(3, c)]) :
    ∃ t, exec .eraseResumeAll s = .next t ∧ ∀ o ∈ t.ops, o.kind = .erase → o.active = true → o.expl = false := by
  refine ⟨_, exec_task_acts hh (by simp [taskCommands]) hl (fun _ => by rw [hp]; decide) rfl, ?_⟩
  rw [after_ops]
  intro o ho hkind hact
  obtain ⟨x, -, rfl⟩ := List.mem_map.mp ho
  by_cases hx : (x.kind == .erase && x.expl && x.active) = true
  · rw [if_pos hx]
  · rw [if_neg hx] at hkind hact ⊢
    simpa [hkind, hact] using hx

theorem exec_eraseSuspendAll (hl : s.latches 4 = [(4, c)]) (hb : s.taskBusy 4 = false) :
    ∃ t, exec .eraseSuspendAll s = .next t ∧ t.ops = s.ops.map fun o => if s.suspendable o then
      (if o.stage = .suspended ∧ o.resume = false then { o with expl := true } else { o with wantSusp := some (o.wantSusp.getD taskSlot) }) else o := by
  refine ⟨_, exec_task_acts hh (by simp [taskCommands]) hl (fun _ => by rw [hp]; decide) hb, ?_⟩
  rw [after_ops]
  refine List.map_congr_left fun o _ => if_congr Iff.rfl (if_congr (by simp) rfl ?_) rfl
  cases hw : o.wantSusp <;> simp [hw]

theorem exec_dispatchRelease (hoff : RingsOff s) (hl : s.latches 5 = [(5, c)]) : ∃ t, exec .dispatchRelease s = .next t ∧ t.fldOf A.wglDisp 0 1 = 0 := by
  refine ⟨_, exec_task_acts hh (by simp [taskCommands]) hl (fun _ => by rw [hp]; decide) rfl, ?_⟩
  have hset := after_setDisp hoff (k := 5) 0
  rwa [State.merged_one hl] at hset

theorem exec_dispatchHold (hoff : RingsOff s) (hl : s.latches 6 ≠ []) : ∃ t, exec .dispatchHold s = .next t ∧
    t.fldOf A.wglDisp 0 1 = 1 ∧ t.latches 6 = [] ∧
    t.regN A.wglCoincCnt = if 2 ≤ (s.latches 6).length then min (s.regN A.wglCoincCnt + 1) (2 ^ 32 - 1) else s.regN A.wglCoincCnt := by
  have hact : sampleTask s 6 = (s.merged 6).setFldOf A.wglDisp 0 1 1 := by
    rw [sampleTask_latched hl fun _ => by rw [hp]; decide]
    rfl
  have hu : RingsOff ((s.merged 6).setFldOf A.wglDisp 0 1 1) := (State.merged_ringsOff 6 hoff).congr fun j hj =>
    State.reg_setFldOf_ne _ _ _ _ (by unfold A.wglRingCfg A.wglDisp; omega)
  obtain ⟨r, hr⟩ := s.merged_eq 6
  refine ⟨_, exec_task hh (by simp [taskCommands] : (6, _) ∈ _), ?_⟩
  rw [hact]
  refine ⟨after_setDisp hoff 1, (latches_of_unlatched s 6 ?_).1, ?_⟩
  · rw [after_off_wgl s hu, hr]
    rfl
  · rw [after_off_regN (u := (s.merged 6).setFldOf A.wglDisp 0 1 1) (s.merged_build 6) hu, State.regN, State.reg_setFldOf_ne _ _ _ _ (by decide)]
    exact s.merged_coinc 6

theorem exec_snapshot (hoff : RingsOff s) (hl : s.latches 7 = [(7, c)]) : ∃ t, exec .snapshot s = .next t ∧
    (∀ k < 16, t.reg (A.wglSnap k) = (s.unlatched 7).snapValue k) ∧ t.regN A.wglSnapSeq = min (s.regN A.wglSnapSeq + 1) (2 ^ 32 - 1) := by
  refine ⟨_, exec_task_acts hh (by simp [taskCommands]) hl (fun _ => by rw [hp]; decide) rfl, ?_⟩
  have hact : taskAct (s.unlatched 7) 7 = snapshot (s.unlatched 7) := rfl
  have hu := snapshot_unwatched (s.unlatched 7)
  have hsoff := hu.ringsOff (s := s.unlatched 7) hoff
  rw [hact]
  refine ⟨fun k hk => ?_, ?_⟩
  · rw [after_off_reg (s := s) hu.1 hsoff]
    exact snapshot_copies _ k hk
  · rw [after_off_regN (s := s) hu.1 hsoff]
    exact snapshot_counts _

section
variable {k : Nat} (hk : k < 8)
include hk

theorem exec_timerStart (hl : s.latches (9 + k) = [(9 + k, c)]) :
    ∃ t, exec (.timerStart k) s = .next t ∧ t.timer k = { s.timer k with run := true, elapsed := 0, arm := false } := by
  refine ⟨_, exec_task_acts hh (by simp [taskCommands, hk]) hl (fun _ => by rw [hp]; decide) (taskBusy_of_lt s (by omega)), ?_⟩
  rw [taskAct_timerStart _ hk, after_timer (s := s) (u := timerRun (s.unlatched (9 + k)) k) rfl rfl]
  exact State.timer_setTimer_of_k _ (s.timer_k k)

theorem exec_timerStop (hl : s.latches (17 + k) = [(17 + k, c)]) :
    ∃ t, exec (.timerStop k) s = .next t ∧ t.timer k = { s.timer k with run := false, arm := false } := by
  refine ⟨_, exec_task_acts hh (by simp [taskCommands, hk]) hl (fun _ => by rw [hp]; decide) (taskBusy_of_lt s (by omega)), ?_⟩
  rw [taskAct_timerStop _ hk, after_timer (s := s) (u := timerHalt (s.unlatched (17 + k)) k) rfl rfl]
  exact State.timer_setTimer_of_k _ (s.timer_k k)

end

section
variable {g : Nat} (hg : g < Config.groups s.build)
include hg

theorem exec_grpEnable (hoff : RingsOff s) (hl : s.latches (25 + g) = [(25 + g, c)]) :
    ∃ t, exec (.grpEnable g) s = .next t ∧ t.fldOf A.wglGrpCtl g 1 = 1 := by
  have hlt := groups_le s.build
  refine ⟨_, exec_task_acts hh (by simp [taskCommands, hg]) hl (fun _ => by rw [hp]; decide) (taskBusy_of_lt s (by omega)), ?_⟩
  rw [taskAct_grpEnable _ (by omega)]
  exact after_grpSet hg hoff (25 + g) true

theorem exec_grpDisable (hoff : RingsOff s) (hl : s.latches (29 + g) = [(29 + g, c)]) :
    ∃ t, exec (.grpDisable g) s = .next t ∧ t.fldOf A.wglGrpCtl g 1 = 0 := by
  refine ⟨_, exec_task_acts hh (by simp [taskCommands, hg]) hl (fun _ => by rw [hp]; decide) (taskBusy_of_lt s (by omega)), ?_⟩
  rw [taskAct_grpDisable]
  exact after_grpSet hg hoff (29 + g) false

end

end

end

/-- Settles O40: one lemma for each task. -/
theorem waggleTasksActOnTheirLatch : Obligations.WaggleTasksActOnTheirLatch := by
  intro s c hh
  refine ⟨fun _ hl => ⟨wake_p2 hh hl, wake_p1 hh hl⟩, ?_⟩
  intro hp hoff u one
  refine ⟨exec_patrolStart hh hp, exec_patrolStop hh hp, exec_calStart hh hp hoff,
    exec_eraseResumeAll hh hp, exec_eraseSuspendAll hh hp, exec_dispatchRelease hh hp hoff, fun hl => ?_, exec_snapshot hh hp hoff,
    fun k hk hl => exec_timerStart hh hp hk hl, fun k hk hl => exec_timerStop hh hp hk hl, fun g hg hl => exec_grpEnable hh hp hg hoff hl,
    fun g hg hl => exec_grpDisable hh hp hg hoff hl, fun hl => ?_⟩
  · obtain ⟨t, ht, hdisp, -⟩ := exec_dispatchHold hh hp hoff (by simp [show s.latches 6 = [(6, c)] from hl])
    exact ⟨t, ht, hdisp⟩
  · have hexec := exec_dispatchHold hh hp hoff (fun h => by simp [h] at hl)
    rwa [if_pos hl] at hexec

end Sys2Proof.Machine
end

section
/-!
SUPPORT. What the placement of appends and the smoke sequence's own stops leave alone: the block's phase, the sequence's steps, the waggle timers;
and no codeword or recovery is added (R311, R439).
-/

namespace Sys2Proof.Machine

/-- A change that leaves the phase, the smoke sequence and the waggle timers, and adds no codeword and no recovery. -/
structure Calm (s t : State) : Prop where
  pending : t.pending = s.pending
  build : t.build = s.build
  init : t.init = s.init
  smoke : t.smoke = s.smoke
  pins : t.pins = s.pins
  timers : t.wgl.timers = s.wgl.timers
  cws : t.cws ⊆ s.cws
  recov : t.recov ⊆ s.recov

/-- What such a change reads. -/
def State.still (s : State) : List Instr × Build × Init × Smoke × Pins × List WTimer × List Cw × List Recov :=
  (s.pending, s.build, s.init, s.smoke, s.pins, s.wgl.timers, s.cws, s.recov)

/-! ## Rules -/

section
variable {s t u : State}

theorem Calm.refl (s : State) : Calm s s := ⟨rfl, rfl, rfl, rfl, rfl, rfl, List.Subset.refl _, List.Subset.refl _⟩

theorem Calm.same (h : t.still = s.still) : Calm s t := by
  simp only [State.still, Prod.mk.injEq] at h
  obtain ⟨hpending, hbuild, hinit, hsmoke, hpins, htimers, hcws, hrecov⟩ := h
  exact ⟨hpending, hbuild, hinit, hsmoke, hpins, htimers, hcws ▸ List.Subset.refl _, hrecov ▸ List.Subset.refl _⟩

theorem Calm.trans (h : Calm s t) (k : Calm t u) : Calm s u :=
  ⟨k.pending.trans h.pending, k.build.trans h.build, k.init.trans h.init, k.smoke.trans h.smoke, k.pins.trans h.pins, k.timers.trans h.timers,
    List.Subset.trans k.cws h.cws, List.Subset.trans k.recov h.recov⟩

theorem Calm.ite {p : Prop} [Decidable p] (ht : Calm s t) (hu : Calm s u) : Calm s (if p then t else u) := by
  split
  · exact ht
  · exact hu

theorem Calm.foldl {β : Type} {g : State → β → State} (h : ∀ s x, Calm s (g s x)) (l : List β) (s : State) : Calm s (l.foldl g s) := by
  induction l generalizing s with
  | nil => exact .refl s
  | cons x l ih => exact (h s x).trans (ih _)

theorem Calm.each {β : Type} {g : State → β → State} (h : ∀ s x, Calm s (g s x)) (l : List β) (s : State) : Calm s (s.each l g) := .foldl h l s

theorem Calm.of_fires (h : Fires s t) : Calm s t := by
  obtain ⟨⟨r, w, n, a, p, he⟩, -, -, -, -, -, -, -, htimers, -⟩ := h
  exact ⟨by rw [he], by rw [he], by rw [he], by rw [he], by rw [he], htimers, by rw [he]; exact List.Subset.refl _, by rw [he]; exact List.Subset.refl _⟩

theorem Calm.updSlot (s : State) (n : Nat) (f : Slot → Slot) : Calm s (s.updSlot n f) := .same rfl
theorem Calm.setReg (s : State) (a : Nat) (v : Word) : Calm s (s.setReg a v) := .same rfl
theorem Calm.setRlv (s : State) (r : Rlv) : Calm s { s with rlv := r } := .same rfl
theorem Calm.updChan (s : State) (ch : Nat) (f : Chan → Chan) : Calm s (s.updChan ch f) := .same rfl

end

/-! ## Ends of a command -/

theorem Calm.stopOps (s : State) (n : Nat) : Calm s (stopOps s n) :=
  ⟨rfl, rfl, rfl, rfl, rfl, rfl, List.filter_subset_self _, List.filter_subset_self _⟩

theorem Calm.unsend (s : State) (n : Nat) : Calm s (unsend s n) := by
  obtain ⟨ps, h | ⟨k, h⟩⟩ := unsend_eq s n <;> rw [h] <;> exact .same rfl

theorem Calm.hit (s : State) (n : Nat) (st : Status) : Calm s (hit s n st) := by
  have h : Calm s (Machine.stopOps (s.updSlot n (Slot.meets st)) n) := (Calm.updSlot s n _).trans (.stopOps _ n)
  obtain he | he | he := hit_cases s n st <;> rw [he]
  · exact .refl s
  · exact h
  · exact h.trans (.unsend _ n)

theorem Calm.rejectCmd (s : State) (n : Nat) (st : Status) (res0 : Nat) : Calm s (rejectCmd s n st res0) :=
  (Calm.updSlot s n (Slot.refused st res0)).trans (.stopOps _ n)

/-! ## Ledgers (R311) -/

theorem Calm.placeOp (s : State) (o : Op) : Calm s (placeOp s o) := .same rfl

theorem Calm.setLedger (s : State) (x : Ledger) : Calm s (s.setLedger x) := .same rfl

theorem Calm.ledgerOp (s : State) (kind : OpKind) (die seg : Nat) (image : List Byte) : Calm s (ledgerOp s kind die seg image) := .placeOp ..

theorem Calm.ledgerWrite (s : State) (x : Ledger) : Calm s (ledgerWrite s x) := (Calm.setLedger s _).trans (.ledgerOp ..)

theorem Calm.ledgerRead (s : State) (stream die seg : Nat) : Calm s (ledgerRead s stream die seg) := by
  unfold Machine.ledgerRead
  split
  · exact .setLedger ..
  · exact (Calm.setLedger s _).trans (.ledgerOp ..)

theorem Calm.wearCheck (s : State) (x : Ledger) : Calm s (wearCheck s x).2 := by
  unfold Machine.wearCheck
  split
  · refine .trans (t := wearAlarm s { x with alarm := true } 1 0) (.of_fires (.raise ..)) ?_
    exact .ite (.same rfl) (.refl _)
  · exact .refl s

theorem Calm.ledgerEnter (s : State) (stream die seg : Nat) : Calm s (ledgerEnter s stream die seg) := by
  have h : Calm s (Machine.ledgerRead (ledgerEvict s stream die seg) stream die seg) := (Calm.setRlv s _).trans (.ledgerRead ..)
  unfold Machine.ledgerEnter
  simp only
  split
  · exact h
  · split
    · exact (h.trans (.wearCheck ..)).trans (.ledgerWrite ..)
    · exact h.trans (.setLedger ..)

/-! ## Admission (R111, R176, R306) -/

theorem Calm.markErased (s : State) (n idx : Nat) : Calm s (markErased s n idx) := (Calm.updSlot s n (Slot.erasedAt idx)).trans (.updSlot ..)

theorem Calm.takeErased (s : State) (x : Slot) : Calm s (takeErased s x) := by
  have h : Calm s (s.each (s.underErase x) fun st y => Machine.markErased st x.id y.1) := .each (fun _ _ => .markErased ..) _ s
  exact .ite (h.trans (.hit ..)) h

theorem Calm.admitted (s : State) (x : Slot) (plan : List Op) : Calm s (admitted s x plan) := by
  have h : Calm s (({ s.setSlot (s.admittedSlot x plan) with adms := s.adms + 1 } : State).each plan Machine.placeOp) :=
    (Calm.same (s := s) (t := { s.setSlot (s.admittedSlot x plan) with adms := s.adms + 1 }) rfl).trans (.each .placeOp plan _)
  exact h.trans (.takeErased ..)

theorem Calm.admitCmd (s : State) (n : Nat) (next : Phase) : Calm s (admitCmd s n next) := by
  unfold Machine.admitCmd
  split
  · exact .refl s
  next x _ =>
    simp only
    split
    · exact (Calm.setReg s (A.admRefuseCnt x.entry.lcls) _).trans (.rejectCmd ..)
    · exact .admitted ..

theorem Calm.admitNext (s : State) (n : Nat) (held : Bool) : Calm s (admitNext s n held) := by
  unfold Machine.admitNext
  split
  · exact .refl s
  · exact .ite (.updSlot ..) (.ite (.updSlot ..) (.admitCmd ..))

theorem Calm.placeAppend {s t : State} {x : Slot} (h : placeAppend s x = some t) : Calm s t := by
  unfold Machine.placeAppend at h
  simp only at h
  split at h
  · cases h
  · obtain rfl := Option.some.inj h
    refine .trans ?_ (.updSlot _ x.id _)
    refine .trans ?_ (.setRlv _ _)
    refine .trans ?_ (.setReg ..)
    refine .trans ?_ (.setReg ..)
    exact .trans (.each (fun _ _ => .each (fun _ _ => .ledgerRead ..) _ _) _ _) (.each (fun _ _ => .each (fun _ _ => .ledgerEnter ..) _ _) _ _)

theorem Calm.placeStart (s : State) (x : Slot) (held : Bool) : Calm s (placeStart s x held) := by
  unfold Machine.placeStart
  simp only
  split
  · exact .trans (.each (fun _ _ => .ledgerRead ..) _ s) (.updSlot _ x.id _)
  · split
    next h => exact (Calm.placeAppend h).trans (.admitNext ..)
    · exact .rejectCmd ..

theorem Calm.placeAgain (s : State) (n : Nat) : Calm s (placeAgain s n) := by
  unfold Machine.placeAgain
  split
  · exact .refl s
  · split
    · refine .ite (.refl s) ?_
      split
      · exact .rejectCmd ..
      · exact .placeStart ..
    · exact .refl s

theorem Calm.placeWaiting (s : State) : Calm s (placeWaiting s) := .each .placeAgain _ s

/-! ## What the smoke sequence stops (R439, R440) -/

theorem Calm.event (s : State) (n : Nat) : Calm s (s.event n) := .same rfl

theorem Calm.abandon (s : State) (o : Op) : Calm s (abandon s o) := .same rfl

theorem Calm.patrolStop (s : State) : Calm s (patrolStop s) :=
  ⟨rfl, rfl, rfl, rfl, rfl, rfl, List.filter_subset_self _, List.filter_subset_self _⟩

theorem Calm.chOpEnd (s : State) (ch res n : Nat) : Calm s (chOpEnd s ch res n) := .updChan ..

/-- A record, of a command or of none, leaves them. -/
theorem Calm.raise (s : State) (typ src i0 i1 i2 : Nat) (owner : Option Nat) : Calm s (s.raise typ src i0 i1 i2 owner) := by
  unfold State.raise
  split
  · exact .same rfl
  · unfold State.dropRecord State.recordEnd
    split <;> exact .same rfl

theorem Calm.calDoneRecord (s : State) (x : CalSlot) : Calm s (calDoneRecord s x) := by
  unfold Machine.calDoneRecord
  extract_lets s1
  have h1 : Calm s s1 := by
    unfold s1
    split <;> exact .raise ..
  exact .ite h1 (h1.trans (.of_fires (.produce s1 53)))

theorem Calm.calEnd (s : State) (x : CalSlot) : Calm s (calEnd s x) := by
  unfold Machine.calEnd
  split
  · exact (Calm.same (s := s) (t := { s.delCal x.k with wgl := { s.wgl with calBusy := false } }) rfl).trans (.calDoneRecord ..)
  · exact .same rfl

theorem Calm.resumeOp (s : State) {o : Op} (h : o.wantRes = none) : Calm s (resumeOp s o) := by
  unfold Machine.resumeOp
  rw [h]
  exact .same rfl

theorem Calm.updOp (s : State) (n : Nat) (f : Op → Op) : Calm s (s.updOp n f) := .same rfl

theorem Calm.smokeOp (s : State) (o : Op) : Calm s (smokeOp s o) := by
  have hcut : Calm s (Machine.abandon (ceHigh (resetLun s o.die) (dieCh o.die)) o) := (Calm.same (s := s) (t := ceHigh (resetLun s o.die) (dieCh o.die)) rfl).trans (.abandon _ o)
  unfold Machine.smokeOp
  refine .ite (.abandon s o) (.ite (.refl s) (.ite hcut (.ite ?_ (.updOp ..))))
  exact (Calm.updOp s o.id fun y => { y with expl := false, wantRes := none, wantSusp := none, wantAlso := [] }).trans (.resumeOp _ rfl)

end Sys2Proof.Machine
end

section
/-!
SUPPORT. The waggle timers (R410): the writes that start and stop one, its expiry, and an edge of ACLK.
-/

namespace Sys2Proof.Machine

/-- The row of WGL_TMR_CTL. -/
def wglTmrCtlRow : RegRow := Reg.wo (A.wglTmrCtl 0) [(8, 8)]

theorem find_wglTmrCtl : ∀ k < 8, Reg.find (A.wglTmrCtl k) = some (wglTmrCtlRow, [k]) := by decide

section
variable {s : State} {k : Nat} (hs : InService s) (hk : k < 8)
include hs hk

/-- A write of WGL_TMR_CTL of a timer. -/
theorem accessWrite_wglTmrCtl (v : Word) : accessWrite s .mport (A.wglTmrCtl k) v none = (timerWrite s k v).written := by
  refine accessWrite_acts hs.power_st (.inl hs.init_done) (find_wglTmrCtl k hk) ?_ (by decide) (by decide) rfl ?_ ?_ rfl
  · unfold A.wglTmrCtl A.secRplReq; omega
  · revert k; decide
  · revert k; decide

theorem exec_wglTmrStart : exec (.wglTmrStart k) s = .next (after s (timerArm s k).written) := by
  unfold exec
  exact (runBus_of_ok _ (decide_eq_true hk) hs.not_held).trans (by rw [accessWrite_wglTmrCtl hs hk]; rfl)

theorem exec_wglTmrStop : exec (.wglTmrStop k) s = .next (after s (timerHalt s k).written) := by
  unfold exec
  exact (runBus_of_ok _ (decide_eq_true hk) hs.not_held).trans (by rw [accessWrite_wglTmrCtl hs hk]; rfl)

end

/-! ## PERIOD -/

/-- A timer at PERIOD: a periodic one runs again, a one-shot one stops. -/
def State.expired (s : State) (k : Nat) : WTimer :=
  if s.fldOf (A.wglTmrCfg k) 28 1 = 1 then { s.timer k with elapsed := (s.timer k).elapsed - s.fldOf (A.wglTmrCfg k) 0 28 } else { s.timer k with run := false }

theorem State.expired_k (s : State) (k : Nat) : (s.expired k).k = k := by
  unfold State.expired
  split <;> exact s.timer_k k

section
variable {s : State} {k : Nat} (hr : (s.timer k).run = true) (he : s.fldOf (A.wglTmrCfg k) 0 28 ≤ (s.timer k).elapsed)
include hr he

theorem timerExpire_due : timerExpire s k = produce (s.setTimer (s.expired k)) (41 + k) := if_pos ⟨hr, he⟩

theorem exec_waggleTimerExpiry (hh : s.held = false) (hk : k < 8) :
    exec (.waggleTimerExpiry k) s = .next (after s (produce (s.setTimer (s.expired k)) (41 + k))) := by
  rw [← timerExpire_due hr he]
  exact run_of_ok _ (decide_eq_true hk) hh

end

/-- The pulse of a timer leaves the timers. -/
theorem after_expired (s : State) (k : Nat) : (after s (produce (s.setTimer (s.expired k)) (41 + k))).timer k = s.expired k := by
  have hcalm := Calm.of_fires (Fires.produce (s.setTimer (s.expired k)) (41 + k))
  rw [after_timer (s := s) hcalm.pending hcalm.build, State.timer, hcalm.timers]
  exact s.timer_setTimer_of_k (s.expired_k k)

/-- A producer enabled onto one channel fires it. -/
theorem produce_one {s : State} {p c : Nat} (hc : c < 32) (h : s.regN (A.wglPmap p) = 2 ^ c) : produce s p = fireChan false s c := by
  simp only [produce, h, filter_bit_two_pow c hc]
  rfl

/-- A pulse fires the one channel it is enabled onto, below the limit. -/
theorem produce_latch (s0 : State) {s : State} {p c : Nat} (hp : s.power.st = .p0) (hoff : RingsOff s) (hc : c < 32) (h : s.regN (A.wglPmap p) = 2 ^ c)
    (he : bit (s.regN A.wglChEn) c = true) (hl : s.firings c + 1 ≤ s.fldOf A.wglLoopCfg 0 16) : ((after s0 (produce s p)).src (5 + c)).latch = true := by
  obtain ⟨hlatch, -⟩ := fireChan_spec false hp he hl
  have hkeep := (fireChan_unwatched false hc hp).1.ringsOff hoff
  rw [produce_one hc h, (after_off_src hkeep (5 + c)).2.2]
  exact hlatch

/-! ## An edge of ACLK -/

theorem WTimer.edge_k (x : WTimer) : x.edge.k = x.k := by
  unfold WTimer.edge
  split
  · rfl
  · split <;> rfl

theorem getBy_edge (k : Nat) (l : List WTimer) : getBy WTimer.k k (l.map WTimer.edge) = (getBy WTimer.k k l).map WTimer.edge := by
  induction l with
  | nil => rfl
  | cons x l ih => by_cases hx : x.k = k <;> simp [getBy, WTimer.edge_k, hx, ih]

/-- An edge of ACLK starts a timer that is armed. -/
theorem tick_timer {s : State} {k : Nat} (ha : (s.timer k).arm = true) (h8 : s.smoke.step ≠ 8) :
    (tick s).timer k = { s.timer k with run := true, elapsed := 0, arm := false } := by
  have htimer : getBy WTimer.k k s.wgl.timers = some (s.timer k) := by
    unfold State.timer at ha ⊢
    cases h : getBy WTimer.k k s.wgl.timers with
    | none => simp [h] at ha
    | some x => rfl
  unfold tick
  rw [smokeEnd_of_ne (by exact h8), State.timer, (Calm.placeWaiting _).timers, getBy_edge, htimer]
  exact if_pos ha

/-- An edge of ACLK completes, with what waits and the build kept. -/
theorem Calm.tick {s : State} (h8 : s.smoke.step ≠ 8) : (tick s).pending = s.pending ∧ (tick s).build = s.build := by
  unfold Machine.tick
  rw [smokeEnd_of_ne (by exact h8)]
  exact ⟨(Calm.placeWaiting _).pending, (Calm.placeWaiting _).build⟩

/-- Settles O39: each write, the expiry and the edge is one update of its timer, which nothing that follows touches. -/
theorem waggleTimersStartStopAndExpire : Obligations.WaggleTimersStartStopAndExpire := by
  intro s k hs hoff hk
  refine ⟨⟨_, exec_wglTmrStart hs hk, ?_⟩, ⟨_, exec_wglTmrStop hs hk, ?_⟩, fun hr he => ⟨_, exec_waggleTimerExpiry hr he hs.not_held hk, after_expired s k, ?_⟩, ?_⟩
  · rw [after_timer (s := s) (u := (timerArm s k).written) rfl rfl]
    exact s.timer_setTimer_of_k (s.timer_k k)
  · rw [after_timer (s := s) (u := (timerHalt s k).written) rfl rfl]
    exact s.timer_setTimer_of_k (s.timer_k k)
  · intro c hc hmap hen hl
    exact produce_latch s (s := s.setTimer (s.expired k)) hs.power_st hoff hc hmap hen hl
  · intro t ht ha h8
    rw [step_nil rfl, Host.Outcome.next.injEq, idle, if_neg (by rw [show State.held { s with pending := [] } = s.held from rfl, hs.not_held]; decide)] at ht
    obtain ⟨hpending, hbuild⟩ := Calm.tick (s := { s with pending := [] }) h8
    rw [← ht, after_timer hpending hbuild]
    exact tick_timer (s := { s with pending := [] }) ha h8

end Sys2Proof.Machine
end

section
/-!
SUPPORT. The start of the smoke sequence (R70, R439): the fall of PLOSS_N.
-/

namespace Sys2Proof.Machine

/-! ## No pulse enters P2 -/

theorem each_preserves {α : Type} {P : State → Prop} {g : State → α → State} (h : ∀ s x, P s → P (g s x)) (l : List α) :
    ∀ s, P s → P (s.each l g) := by
  induction l with
  | nil => exact fun _ hs => hs
  | cons x l ih => exact fun s hs => ih _ (h s x hs)

/-- The block is not in P2. -/
def State.clocked (s : State) : Prop := s.power.st ≠ .p2

theorem leaveP1_clocked {s : State} (h : s.clocked) : (leaveP1 s).clocked := by
  unfold leaveP1
  split
  · exact PState.noConfusion
  · exact h

theorem trigger_clocked {s : State} (c k : Nat) (h : s.clocked) : (trigger s c k).clocked := by
  have hp : (s.power.st == .p2) = false := beq_eq_false_iff_ne.mpr h
  unfold trigger
  rw [hp, Bool.and_false, if_neg (by decide)]
  by_cases hk : kclkTask k = true
  · simp only [hk, if_true]
    exact leaveP1_clocked h
  · simp only [hk]
    exact h

theorem loopStop_power (s : State) (c : Nat) : (loopStop s c).power = s.power := by
  unfold loopStop
  extract_lets s1 s2 i0 i1 lim
  split
  · rfl
  · obtain ⟨_, _, h, -⟩ := raise_eq s2 8 c i0 i1 lim
    rw [h]
    rfl

theorem fireChan_clocked (soft : Bool) {s : State} (c : Nat) (h : s.clocked) : (fireChan soft s c).clocked := by
  have hm : (s.marking soft c).clocked := by
    obtain ⟨l, hl⟩ := State.marking_eq (s := s) (c := c) soft
    rw [hl]; exact h
  by_cases he : bit (s.regN A.wglChEn) c = true
  · by_cases hl : s.firings c + 1 ≤ s.fldOf A.wglLoopCfg 0 16
    · rw [fireChan_fires soft he hl]
      exact each_preserves (fun s k => trigger_clocked c k) _ ((s.marking soft c).firing c) hm
    · rw [fireChan_past_limit soft he (by omega), State.clocked, loopStop_power]
      exact hm
  · rw [fireChan_disabled soft (Bool.eq_false_iff.mpr he)]
    exact h

theorem levelProducer_clocked {s : State} (p : Nat) (holds rearm : Bool) (h : s.clocked) : (levelProducer s p holds rearm).clocked := by
  unfold levelProducer
  split
  · split <;> exact h
  · split
    · exact each_preserves (fun _ c => fireChan_clocked false c) _ { s with wgl := { s.wgl with unarmed := addN p s.wgl.unarmed } } h
    · exact h

/-! ## Steps 1 to 3 (R439, R440) -/

/-- A calm change of a state without codewords and recoveries adds none. -/
theorem Calm.none {s t : State} (h : Calm s t) (hc : s.cws = []) (hr : s.recov = []) : t.cws = [] ∧ t.recov = [] :=
  ⟨List.subset_nil.mp (hc ▸ h.cws), List.subset_nil.mp (hr ▸ h.recov)⟩

/-- What stops at once leaves no codeword and no recovery. -/
theorem smokeStop_spec (s : State) : Calm s (smokeStop s) ∧ (smokeStop s).cws = [] ∧ (smokeStop s).recov = [] := by
  unfold smokeStop
  extract_lets gone s1 r s2 s3 w s4
  have h1 : Calm s s1 := (Calm.each .abandon _ s).trans (.patrolStop _)
  have h2 : Calm s1 s2 := ⟨rfl, rfl, rfl, rfl, rfl, rfl, List.nil_subset _, List.nil_subset _⟩
  have h3 : Calm s2 s3 := .each .calEnd _ s2
  have h4 : Calm s3 s4 := .same rfl
  have h5 : Calm s2 (s4.each (s4.chans.filter fun c => c.op.isSome) fun st c => Machine.chOpEnd st c.id 1 0) :=
    (h3.trans h4).trans (.each (fun _ _ => .chOpEnd ..) _ s4)
  exact ⟨(h1.trans h2).trans h5, h5.none rfl rfl⟩

/-- Before the stops the sequence has its first phase and step; they leave both. -/
theorem smokeBegin_of_leaveP1 (s : State) : ∃ sm, Calm { leaveP1 s with init := { (leaveP1 s).init with phase := 10 }, smoke := sm } (smokeBegin s) ∧
    sm.step = 4 ∧ sm.start = (leaveP1 s).aclk ∧ sm.seq = (leaveP1 s).regN A.rlvSmokeSeq ∧ (smokeBegin s).cws = [] ∧ (smokeBegin s).recov = [] := by
  unfold smokeBegin
  extract_lets u gate entries lost i s1 s2 s3
  have h1 : s1 = { leaveP1 s with init := { (leaveP1 s).init with phase := 10 }, smoke := s1.smoke } ∧ s1.smoke.step = 4 ∧
    s1.smoke.start = (leaveP1 s).aclk ∧ s1.smoke.seq = (leaveP1 s).regN A.rlvSmokeSeq := ⟨rfl, rfl, rfl, rfl⟩
  have h2 : Calm s1 s2 := (Calm.event s1 2).trans (.foldl (fun _ _ => .hit ..) _ _)
  obtain ⟨hstop, hcws, hrecov⟩ := smokeStop_spec s2
  have h3 : Calm (smokeStop s2) s3 := .each .smokeOp _ _
  clear_value s1 s2 s3
  have hwake : Calm s3 { s3 with chans := s3.chans.map fun c => { c with ctxs := c.ctxs.map (wakeCtx false) } } := .same rfl
  obtain ⟨hs1, hstep, hstart, hseq⟩ := h1
  refine ⟨s1.smoke, ?_, hstep, hstart, hseq, (h3.trans hwake).none hcws hrecov⟩
  rw [← hs1]
  exact ((h2.trans hstop).trans h3).trans hwake

/-- The sequence begins at the edge's time, with the number of the next event. -/
theorem smokeBegin_spec (s : State) : (smokeBegin s).pending = s.pending ∧ (smokeBegin s).build = s.build ∧ (smokeBegin s).pins = s.pins ∧
    (smokeBegin s).init.phase = 10 ∧ (smokeBegin s).smoke.step = 4 ∧ (smokeBegin s).smoke.start = s.aclk ∧
    (smokeBegin s).smoke.seq = s.regN A.rlvSmokeSeq ∧ (smokeBegin s).cws = [] ∧ (smokeBegin s).recov = [] := by
  obtain ⟨sm, hcalm, hstep, hstart, hseq, hnone⟩ := smokeBegin_of_leaveP1 s
  obtain ⟨⟨r, w, n, a, p, he⟩, hreg, -⟩ := Fires.leaveP1 s
  have hcnt : (leaveP1 s).regN A.rlvSmokeSeq = s.regN A.rlvSmokeSeq := congrArg BitVec.toNat (hreg _ (fun h => absurd h (by decide)) (by decide) (by decide))
  rw [hcnt] at hseq
  rw [hcalm.pending, hcalm.build, hcalm.pins, hcalm.init, hcalm.smoke]
  rw [he] at hstart ⊢
  exact ⟨rfl, rfl, rfl, rfl, hstep, hstart, hseq, hnone⟩

/-! ## PLOSS_N falls -/

/-- What the PLOSS producer leaves of a state whose PLOSS_N has fallen. -/
def State.plossed (s : State) : State := levelProducer { s with pins := { s.pins with ploss := true } } 40 true false

section
variable {s : State}

theorem plossed_fires (s : State) : Fires { s with pins := { s.pins with ploss := true } } s.plossed := .levelProducer _ 40 true false

theorem plossed_smoking (s : State) : s.plossed.smoking = s.smoking := by
  obtain ⟨⟨_, _, _, _, _, he⟩, -⟩ := plossed_fires s
  rw [he]
  rfl

theorem plossFall_eq (hh : s.held = false) (hl : s.pins.ploss = false) : plossFall s = smokeStart s.plossed := by
  have hh' : State.held { s with pins := { s.pins with ploss := true } } = false := hh
  simp only [plossFall, hl, hh']
  rfl

theorem smokeStart_begins (hs : s.smoking = false) (hp : s.power.st ≠ .p2) (hd : s.init.done = true) : smokeStart s = smokeBegin s := by
  simp [smokeStart, hs, hp, hd]

theorem smokeStart_early (hs : s.smoking = false) (hp : s.power.st ≠ .p2) (hd : s.init.done = false) : smokeStart s =
    { s with init := { s.init with phase := 11, optReq := 0, want := 0, loading := false }, smoke := { Smoke.reset with done := true } } := by
  simp [smokeStart, hs, hp, hd]

theorem smokeStart_none (h : s.smoking = true ∨ s.power.st = .p2) : smokeStart s = s := if_pos h

theorem exec_smokeSequence (hh : s.held = false) (hl : s.pins.ploss = false) : exec .smokeSequence s = .next (after s (smokeStart s.plossed)) := by
  unfold exec
  exact (runPin_eq s plossFall).trans (by rw [plossFall_eq hh hl])

/-- PLOSS_N stays fallen. -/
theorem smokeStart_pins (s : State) : (smokeStart s).pins = s.pins := by
  unfold smokeStart
  split
  · rfl
  · split
    · obtain ⟨-, -, hpins, -⟩ := smokeBegin_spec s
      exact hpins
    · rfl

end

/-- Settles O12: the producer's pulse leaves the phase and the power state to the start of the sequence, and what it stops leaves both. -/
theorem smokeSequenceStartsWhenPlossFalls : Obligations.SmokeSequenceStartsWhenPlossFalls := by
  intro s hh hl
  have hfires := plossed_fires s
  have hsmoking := plossed_smoking s
  have hclocked : s.power.st ≠ .p2 → s.plossed.power.st ≠ .p2 := levelProducer_clocked (s := { s with pins := { s.pins with ploss := true } }) 40 true false
  refine ⟨_, exec_smokeSequence hh hl, ?_, fun hs hp hd => ?_, fun hs hp hd => ?_, fun hor => ?_⟩
  · rw [after_pins, smokeStart_pins, hfires.pins]
  · obtain ⟨⟨_, _, _, _, _, he⟩, hreg, -⟩ := hfires
    have hseq : s.plossed.regN A.rlvSmokeSeq = s.regN A.rlvSmokeSeq := congrArg BitVec.toNat (hreg _ (fun h => absurd h (by decide)) (by decide) (by decide))
    have haclk : s.plossed.aclk = s.aclk := by rw [he]
    obtain ⟨-, -, -, hphase, hstep, hstart, hnum, hcws, hrecov⟩ := smokeBegin_spec s.plossed
    rw [smokeStart_begins (hsmoking.trans hs) (hclocked hp) (by rw [he]; exact hd), after_init, after_smoke, after_cws, after_recov]
    exact ⟨hphase, hstep, hstart.trans haclk, hnum.trans hseq, hcws, hrecov⟩
  · obtain ⟨⟨_, _, _, _, _, he⟩, -⟩ := hfires
    rw [smokeStart_early (hsmoking.trans hs) (hclocked hp) (by rw [he]; exact hd), after_init, after_smoke, he]
    exact ⟨rfl, rfl⟩
  · have hnone : s.plossed.smoking = true ∨ s.plossed.power.st = .p2 := by
      refine hor.imp hsmoking.trans fun hp => ?_
      obtain ⟨-, -, -, -, -, -, -, hpower, -⟩ := hfires
      rw [hpower (by rw [show State.power { s with pins := { s.pins with ploss := true } } = s.power from rfl, hp]; decide)]
      exact hp
    obtain ⟨⟨_, _, _, _, _, he⟩, -⟩ := hfires
    rw [smokeStart_none hnone, after_smoke, after_init, after_ops, after_slots, he]
    exact ⟨rfl, rfl, rfl, rfl⟩

end Sys2Proof.Machine
end

section
/-!
SUPPORT. Steps 6 to 8 of the smoke sequence (R439 to R442): the ledger writes, the smoke record and the summary.
-/

namespace Sys2Proof.Machine

/-! ## An operation that is placed leaves those that wait -/

/-- An operation with the owner and the kind of `o` is among the operations. -/
def Op.Among (o : Op) (l : List Op) : Prop := ∃ y ∈ l, y.owner = o.owner ∧ y.kind = o.kind

theorem among_map {o : Op} {l : List Op} {f : Op → Op} (h : o.Among l) (hf : ∀ x, (f x).owner = x.owner ∧ (f x).kind = x.kind) : o.Among (l.map f) := by
  obtain ⟨y, hy, howner, hkind⟩ := h
  exact ⟨f y, List.mem_map_of_mem hy, (hf y).1.trans howner, (hf y).2.trans hkind⟩

theorem among_updBy {o : Op} {l : List Op} {p : Op → Bool} {f : Op → Op} (h : o.Among l) (hf : ∀ x, (f x).owner = x.owner ∧ (f x).kind = x.kind) :
    o.Among (updBy p f l) := by
  refine among_map h fun x => ?_
  split
  · exact hf x
  · exact ⟨rfl, rfl⟩

theorem among_insertRev {o : Op} (s : State) (e : Op) (l acc : List Op) (h : o.Among (l ++ acc)) : o.Among (insertRev s e l acc) := by
  induction l generalizing acc with
  | nil =>
    obtain ⟨y, hy, hk⟩ := h
    exact ⟨y, List.mem_cons_of_mem _ hy, hk⟩
  | cons x l ih =>
    obtain ⟨y, hy, howner, hkind⟩ := h
    have hmem : y = x ∨ y ∈ l ++ acc := List.mem_cons.mp hy
    unfold insertRev
    split
    · refine ih _ ⟨y, ?_, howner, hkind⟩
      rcases hmem with rfl | hm
      · simp
      · simp only [List.mem_append, List.mem_cons] at hm ⊢
        tauto
    · split
      next w _ =>
        rcases hmem with rfl | hm
        · exact ih _ ⟨y.spend w, by simp, howner, hkind⟩
        · refine ih _ ⟨y, ?_, howner, hkind⟩
          simp only [List.mem_append, List.mem_cons] at hm ⊢
          tauto
      · refine ⟨y, ?_, howner, hkind⟩
        simp only [List.mem_append, List.mem_cons, List.mem_reverse] at hmem ⊢
        tauto

theorem among_placeOp {s : State} {o : Op} (e : Op) (h : o.Among s.ops) : o.Among (placeOp s e).ops := by
  have hpass : o.Among (s.passXfers e) := by
    refine among_map h fun x => ?_
    split
    · split <;> exact ⟨rfl, rfl⟩
    · exact ⟨rfl, rfl⟩
  obtain ⟨y, hy, hk⟩ := hpass
  refine among_updBy (among_insertRev _ _ _ [] ⟨y, ?_, hk⟩) fun _ => ⟨rfl, rfl⟩
  simpa using hy

/-! ## Step 6 (R439) -/

/-- From `s` to `t` operations are placed and ledgers change, and nothing else. -/
def Writes (s t : State) : Prop := ∃ os k r, t = { s with ops := os, opNo := k, rlv := r }

theorem each_ledgerWrite_writes (l : List Ledger) (s : State) : Writes s (s.each l ledgerWrite) := by
  refine each_preserves (P := Writes s) (fun t x h => ?_) l s ⟨_, _, _, rfl⟩
  obtain ⟨_, _, _, rfl⟩ := h
  exact ⟨_, _, _, rfl⟩

theorem among_ledgerWrite {s : State} {o : Op} (x : Ledger) (h : o.Among s.ops) : o.Among (ledgerWrite s x).ops :=
  among_placeOp (s := s.setLedger { x with dirty := true }) _ h

theorem mem_ledgerOp (s : State) (kind : OpKind) (die seg : Nat) (image : List Byte) :
    ∃ o ∈ (ledgerOp s kind die seg image).ops, o.owner = .ledger die seg ∧ o.kind = kind := by
  have h (e : Op) : ∃ o ∈ (placeOp s e).ops, o.owner = e.owner ∧ o.kind = e.kind := by
    obtain ⟨o, ho, howner, hkind, -⟩ := mem_placeOp s e
    exact ⟨o, ho, howner, hkind⟩
  exact h _

/-- Each ledger that is written has its line write. -/
theorem each_ledgerWrite_ops (l : List Ledger) (s : State) {x : Ledger} (hx : x ∈ l) :
    ∃ o ∈ (s.each l ledgerWrite).ops, o.owner = .ledger x.die x.seg ∧ o.kind = .lineWrite := by
  induction l generalizing s with
  | nil => cases hx
  | cons y l ih =>
    rcases List.mem_cons.mp hx with rfl | hx
    · obtain ⟨o, ho, howner, hkind⟩ := mem_ledgerOp (s.setLedger { x with dirty := true }) .lineWrite x.die x.seg x.line
      have hfirst : o.Among (ledgerWrite s x).ops := ⟨o, ho, rfl, rfl⟩
      obtain ⟨z, hz, hzo, hzk⟩ := each_preserves (P := fun t => o.Among t.ops) (fun t e h => among_ledgerWrite e h) l _ hfirst
      exact ⟨z, hz, hzo.trans howner, hzk.trans hkind⟩
    · exact ih _ hx

section
variable {s : State} (hh : s.held = false)
include hh

section
variable (h4 : s.smoke.step = 4) (hl : s.ops.any (fun o => o.kind == .lineWrite && o.slotOf.isSome) = false)
include h4 hl

/-- The sequence in step 6. -/
def State.ledgering (s : State) : State := { s with smoke := { s.smoke with step := 6 } }

/-- The ledgers whose changed line is not yet on its way. -/
def State.dueLedgers (s : State) : List Ledger := s.rlv.ledger.filter fun l => l.loaded && l.dirty &&
  !(s.ops.any fun (o : Op) => o.owner == .ledger l.die l.seg && o.kind == .lineWrite)

theorem exec_smokeLedgerWrite : exec .smokeLedgerWrite s = .next (after s (s.ledgering.each s.dueLedgers ledgerWrite)) := by
  have hw : smokeLedger s = s.ledgering.each s.dueLedgers ledgerWrite := if_neg (by simp [h4, hl])
  rw [← hw]
  exact run_of_ok _ rfl hh

theorem smokeLedgerWrite_spec : ∃ t, exec .smokeLedgerWrite s = .next t ∧ t.smoke = { s.smoke with step := 6 } ∧ t.init = s.init ∧
    t.slots = s.slots ∧ t.keys = s.keys ∧
    (∀ l ∈ s.rlv.ledger, l.loaded = true → l.dirty = true →
      s.ops.any (fun o => o.owner == .ledger l.die l.seg && o.kind == .lineWrite) = false →
      ∃ o ∈ t.ops, o.owner = .ledger l.die l.seg ∧ o.kind = .lineWrite) ∧
    (s.rlv.ledger.all (fun l => !(l.loaded && l.dirty)) = true → Around { s with smoke := { s.smoke with step := 6 } } t) := by
  refine ⟨_, exec_smokeLedgerWrite hh h4 hl, ?_⟩
  obtain ⟨os, k, r, he⟩ := each_ledgerWrite_writes s.dueLedgers s.ledgering
  rw [after_smoke, after_init, after_slots, after_keys, after_ops]
  refine ⟨by rw [he]; rfl, by rw [he]; rfl, by rw [he]; rfl, by rw [he]; rfl, fun l hmem hload hdirty hno => ?_, fun hall => ?_⟩
  · exact each_ledgerWrite_ops _ _ (List.mem_filter.mpr ⟨hmem, by simp only [hload, hdirty, hno]; rfl⟩)
  · have hnone : s.dueLedgers = [] := List.filter_eq_nil_iff.mpr fun l hm => by
      have := List.all_eq_true.mp hall l hm
      simp only [Bool.not_eq_true'] at this
      simp [this]
    rw [hnone]
    exact around_after rfl rfl

end

/-! ## Step 7 (R441) -/

/-- The lines of the record, placed one after the other from line `at_` of the region. -/
def State.putLine (s : State) (at_ : Nat) (st : State) (y : List Byte × Nat) : State :=
  placeOp st { mkOp .smoke .lineWrite 8 st.admSeq (linePaddr s.smokeDie (s.smokeFirst * 4096 + at_ + y.2)) 0 1 [] with
    image := mkLine y.1 0 (s.smoke.seq % 2 ^ 24) }

/-- The sequence in step 7. -/
def State.recording (s : State) : State := { s with smoke := { s.smoke with step := 7 } }

/-- Where the record begins. -/
def State.recordAt (s : State) : Nat := if s.smokeRegion < s.fldOf A.rlvSmokeCur 0 24 + (smokeLines s).length then 0 else s.fldOf A.rlvSmokeCur 0 24

/-- The lines of the record, with their places in the region. -/
def State.recordLines (s : State) : List (Nat × List Byte) := (smokeLines s).zipIdx.map fun y => (s.recordAt + y.2, y.1)

/-- The state with the record written. -/
def State.recorded (s : State) : State :=
  let t := s.recording.each (smokeLines s).zipIdx (s.putLine s.recordAt)
  (({ t with smoke := { t.smoke with written := true, lines := s.recordLines } }).setRegN A.rlvSmokeCur
    ((s.recordAt + (smokeLines s).length) % s.smokeRegion)).setRegN A.rlvSmokeSeq (min (s.smoke.seq + 1) (2 ^ 32 - 1))

section
variable (h6 : s.smoke.step = 6)
  (hops : s.ops.all (fun o => o.stage == .done || o.kind == .read || o.kind == .lineRead || o.kind == .calRead) = true)
include h6 hops

omit hh in
theorem smokeRecord_eq : smokeRecord s = if s.smokeOn then s.recorded else s.recording := by
  have hnone : s.ops.any (fun (o : Op) => o.stage != .done &&
      (o.kind == .program || o.kind == .erase || o.kind == .lineWrite || o.kind == .exclusive)) = false := by
    refine List.any_eq_false.mpr fun o ho => ?_
    have := List.all_eq_true.mp hops o ho
    cases hk : o.kind <;> simp_all
  have hn : ¬(s.smoke.step ≠ 6 ∨ s.ops.any (fun (o : Op) => o.stage != .done &&
      (o.kind == .program || o.kind == .erase || o.kind == .lineWrite || o.kind == .exclusive)) = true) := by simp [h6, hnone]
  unfold smokeRecord
  rw [if_neg hn]
  cases hon : s.smokeOn <;> rfl

theorem exec_smokeRecordWrite : exec .smokeRecordWrite s = .next (after s (if s.smokeOn then s.recorded else s.recording)) := by
  rw [← smokeRecord_eq h6 hops]
  exact run_of_ok _ rfl hh

end

end

theorem recorded_eq (s : State) : ∃ os k, s.recorded =
    (({ s with ops := os, opNo := k, smoke := { s.smoke with step := 7, written := true, lines := s.recordLines } } : State).setRegN A.rlvSmokeCur
      ((s.recordAt + (smokeLines s).length) % s.smokeRegion)).setRegN A.rlvSmokeSeq (min (s.smoke.seq + 1) (2 ^ 32 - 1)) := by
  have h : ∃ os k, s.recording.each (smokeLines s).zipIdx (s.putLine s.recordAt) = { s.recording with ops := os, opNo := k } := by
    refine each_preserves (P := fun t => ∃ os k, t = { s.recording with ops := os, opNo := k }) (fun t x ht => ?_) _ s.recording ⟨_, _, rfl⟩
    obtain ⟨_, _, rfl⟩ := ht
    exact ⟨_, _, rfl⟩
  obtain ⟨os, k, h⟩ := h
  refine ⟨os, k, ?_⟩
  unfold State.recorded
  rw [h]
  rfl

theorem smokeLines_length (s : State) : (smokeLines s).length = 1 + (s.smoke.entries.length + 15) / 16 := by
  simp [smokeLines, Nat.add_comm]

theorem recordLines_fst (s : State) : s.recordLines.map Prod.fst = (List.range (smokeLines s).length).map (s.recordAt + ·) := by
  rw [State.recordLines, List.map_map, List.range_eq_range', ← List.zipIdx_map_snd 0 (smokeLines s), List.map_map]
  rfl

/-- The region has at most 4,096 segments of 4,096 lines. -/
theorem smokeRegion_le (s : State) : s.smokeRegion ≤ 2 ^ 24 := by
  have h := fld_lt (s.regAt (dieCh s.smokeDie) A.rlvSmokeReg) 16 12
  unfold State.smokeRegion State.smokeNseg State.smokeNsegAt State.fldAt
  omega

theorem smokeRegion_pos (s : State) : 0 < s.smokeRegion := Nat.mul_pos (Nat.succ_pos _) (by decide)

theorem recorded_regN (s : State) : s.recorded.regN A.rlvSmokeCur = (s.recordAt + (smokeLines s).length) % s.smokeRegion ∧
    s.recorded.regN A.rlvSmokeSeq = min (s.smoke.seq + 1) (2 ^ 32 - 1) := by
  have hle := smokeRegion_le s
  have hlt := Nat.mod_lt (s.recordAt + (smokeLines s).length) (smokeRegion_pos s)
  unfold State.recorded
  extract_lets t
  constructor
  · rw [State.regN, State.reg_setRegN_ne _ _ (by decide)]
    exact (State.regN_setRegN_self _ _ _).trans (Nat.mod_eq_of_lt (by omega))
  · exact (State.regN_setRegN_self _ _ _).trans (Nat.mod_eq_of_lt (by omega))

/-- What the record's write leaves. -/
theorem after_recorded (s : State) :
    let n := 1 + (s.smoke.entries.length + 15) / 16
    let first := if s.smokeNseg * 4096 < s.fldOf A.rlvSmokeCur 0 24 + n then 0 else s.fldOf A.rlvSmokeCur 0 24
    let t := after s s.recorded
    t.smoke.written = true ∧ t.smoke.lines.map Prod.fst = (List.range n).map (first + ·) ∧
    t.regN A.rlvSmokeCur = (first + n) % (s.smokeNseg * 4096) ∧ t.regN A.rlvSmokeSeq = min (s.smoke.seq + 1) (2 ^ 32 - 1) ∧ t.slots = s.slots ∧ t.keys = s.keys := by
  intro n first t
  have hn : (smokeLines s).length = n := smokeLines_length s
  have hfirst : s.recordAt = first := by rw [State.recordAt, hn]; rfl
  obtain ⟨hcur, hseq⟩ := recorded_regN s
  have hlines := recordLines_fst s
  rw [hn, hfirst] at hcur hlines
  obtain ⟨os, k, he⟩ := recorded_eq s
  have hb : s.recorded.build = s.build := by rw [he]; rfl
  unfold t
  rw [after_smoke, after_regN hb (by decide) (by decide) (by decide), after_regN hb (by decide) (by decide) (by decide), after_slots, after_keys]
  refine ⟨by rw [he]; rfl, ?_, hcur, hseq, by rw [he]; rfl, by rw [he]; rfl⟩
  rw [he]
  exact hlines

/-! ## Step 8 (R442) -/

section
variable {s : State} (hh : s.held = false)
include hh

theorem exec_smokeSummary : exec .smokeSummary s = .next (after s (smokeSummary s)) := run_of_ok _ rfl hh

end

/-- The SMOKE_SUMMARY record waits, so step 8 does not end at once. -/
theorem smokeSummary_raises {s : State} (h7 : s.smoke.step = 7) (ho : s.ops.any (fun o => o.owner == .smoke) = false) (har : s.arEn = true) :
    ∃ n r, smokeSummary s = { s with smoke := { s.smoke with step := 8, summary := n }, alert := { s.alert with queue := s.alert.queue ++ [r] } } ∧
      r.typ = 5 ∧ r.src = 0 ∧ r.info2 = min (s.aclk - s.smoke.start) (2 ^ 32 - 1) ∧
      r.info0 = s.smoke.seq + s.smoke.entries.length * 2 ^ 32 + s.smoke.written.toNat * 2 ^ 48 := by
  have hn : ¬(s.smoke.step ≠ 7 ∨ s.ops.any (fun (o : Op) => o.owner == .smoke) = true) := by simp [h7, ho]
  have har' (sm : Smoke) : State.arEn { s with smoke := sm } = true := har
  unfold smokeSummary
  rw [if_neg hn]
  extract_lets n sm s1 info0
  have hraise : s1.raise 5 0 info0 n (min (s.aclk - s.smoke.start) (2 ^ 32 - 1)) = { s1 with alert := { s.alert with queue := s.alert.queue ++
      [{ typ := 5, src := 0, info0 := info0, info1 := n, info2 := min (s.aclk - s.smoke.start) (2 ^ 32 - 1), time := s.aclk % 2 ^ 32, owner := none }] } } :=
    if_pos (har' _)
  rw [hraise, smokeEnd, if_neg (by simp)]
  exact ⟨n, _, rfl, rfl, rfl, rfl, rfl⟩

/-- Settles O13: each step is one update, and the records it makes wait behind those that waited. -/
theorem smokeStepsWriteLedgerRecordAndSummary : Obligations.SmokeStepsWriteLedgerRecordAndSummary := by
  intro s hh
  refine ⟨smokeLedgerWrite_spec hh, fun h6 hops => ⟨_, exec_smokeRecordWrite hh h6 hops, ?_⟩, fun h7 ho har => ⟨_, exec_smokeSummary hh, ?_⟩,
    fun h8 hq hout hs => ⟨_, exec_smokeSummary hh, ?_⟩⟩
  · cases hon : s.smokeOn with
    | false =>
      rw [if_neg (by decide), after_smoke, after_init]
      exact ⟨rfl, rfl, rfl, fun _ => around_after rfl rfl, nofun⟩
    | true =>
      obtain ⟨os, k, he⟩ := recorded_eq s
      rw [if_pos rfl]
      refine ⟨?_, ?_, ?_, nofun, fun _ => after_recorded s⟩
      · rw [after_smoke, he]; rfl
      · rw [after_smoke, he]; rfl
      · rw [after_init, he]; rfl
  · obtain ⟨n, r, he, hr⟩ := smokeSummary_raises h7 ho har
    have hq : s.alert.queue ++ [r] <+: (after s (smokeSummary s)).alert.queue := by
      have hpre := around_after (s := s) (u := smokeSummary s) (by rw [he]) (by rw [he])
      obtain ⟨-, -, -, -, -, -, hpre, -⟩ := hpre
      rw [he] at hpre ⊢
      exact hpre
    refine ⟨by rw [after_smoke, he], r, hq.subset (by simp), hr⟩
  · have hend : smokeSummary s = { s with init := { s.init with phase := 11 }, smoke := { s.smoke with step := 0, done := true } } := by
      simp [smokeSummary, smokeEnd, h8, hq, hout, hs]
    rw [hend]
    exact around_after rfl rfl

end Sys2Proof.Machine
end

section
/-!
SUPPORT. The protection level (R432 to R434): RAISE, the two keyed writes, the zeroization and the load after it.
-/

namespace Sys2Proof.Machine

/-! ## RAISE (R432) -/

theorem exec_rplRaise {s : State} (hs : Awake s) : exec .rplRaise s = .next (after s (rplRaise s).written) := by
  have hfind : Reg.find A.secRplCtl = some (Reg.wo A.secRplCtl [], []) := by decide
  have hacc : accessWrite s .mport A.secRplCtl 1 none = (rplRaise s).written :=
    accessWrite_acts hs.2 (.inr (by decide)) hfind (by decide) (by decide) (by decide) rfl (by decide) (by decide) rfl
  unfold exec
  exact (runBus_of_ok _ rfl hs.1).trans (by rw [hacc])

theorem rplRaise_written (s : State) : (rplRaise s).written = { s with answer := { refused := false, data := 0 }, init := { s.init with
    keyArmed := false, raised := s.init.raised || s.level == 0 } } := by
  unfold rplRaise
  split
  next h => simp [State.written, keyBreak, mpAnswer, h]
  next h => simp [State.written, keyBreak, mpAnswer, h]

/-! ## The keyed writes (R433) -/

/-- A write of SEC_RPL_REQ does not break the pair it is of. -/
theorem exec_rplLowerRequest {s : State} (v : Word) (hs : Awake s) (hl : s.level ≠ 2) :
    exec (.rplLowerRequest v) s = .next (after s (mpAnswer (rplReq s v) false 0)) := by
  have hfind : Reg.find A.secRplReq = some (Reg.wo A.secRplReq [], []) := by decide
  have hwrite : writeReg s .mport A.secRplReq v = rplReq s v := writeReg_act hfind rfl (by decide) (by decide) rfl
  have hacc : accessWrite s .mport A.secRplReq v none = mpAnswer (rplReq s v) false 0 := by
    rw [accessWrite, regAccess_served true v _ hs.2 (denied_below (by decide) hl), hwrite]
    rfl
  unfold exec
  exact (runBus_of_ok _ rfl hs.1).trans (by rw [hacc])

theorem exec_rplLowerRequest_denied {s : State} (v : Word) (hs : Awake s) (hl : s.level = 2) :
    exec (.rplLowerRequest v) s = .next (after s (mpAnswer s true 0)) := by
  have hd : s.denied A.secRplReq = true := by simp [State.denied, hl]
  unfold exec
  exact (runBus_of_ok _ rfl hs.1).trans (by rw [accessWrite_denied v hs.2 hd])

section
variable {s : State}

/-- The first condition of R433 that fails, with its number; 0 where none does. -/
def State.lowerRefusal (s : State) : Nat :=
  if s.level ≠ 1 then 1 else if s.slots ≠ [] then 2 else if s.qps.any (fun q => s.qpEn q.qid) then 3
  else if s.san.busy then 4 else if s.init.keyArmed = false then 5 else 0

/-- The state with the zeroization of a lowering begun. -/
def State.zeroizing (s : State) : State :=
  { s with init := { s.init with lowering := .zeroize, phase := 9, result := 0, refuse := 0, keyArmed := false } }

theorem rplJudge_eq (s : State) : rplJudge s s.init.keyArmed = if s.lowerRefusal = 0 then s.zeroizing else rplRefuse s s.lowerRefusal := by
  have hslots : (!s.slots.isEmpty) = true ↔ s.slots ≠ [] := by simp
  have hkey : (!s.init.keyArmed) = true ↔ s.init.keyArmed = false := by simp
  unfold rplJudge State.lowerRefusal
  by_cases h1 : s.level ≠ 1
  · simp only [if_pos h1]
    rfl
  by_cases h2 : s.slots ≠ []
  · simp only [if_neg h1, hslots, if_pos h2]
    rfl
  by_cases h3 : s.qps.any (fun q => s.qpEn q.qid) = true
  · simp only [if_neg h1, hslots, if_neg h2, if_pos h3]
    rfl
  by_cases h4 : s.san.busy = true
  · simp only [if_neg h1, hslots, if_neg h2, if_neg h3, if_pos h4]
    rfl
  by_cases h5 : s.init.keyArmed = false
  · simp only [if_neg h1, hslots, if_neg h2, if_neg h3, if_neg h4, hkey, if_pos h5]
    rfl
  · simp only [if_neg h1, hslots, if_neg h2, if_neg h3, if_neg h4, hkey, if_neg h5]
    rfl

end

/-- Settles O14: the answer and what each write makes of the pair and of the level. -/
theorem protectionLevelRaiseAndLowerRequest : Obligations.ProtectionLevelRaiseAndLowerRequest := by
  intro s hs ok
  refine ⟨⟨_, exec_rplRaise hs, ?_⟩, fun hl hno => ⟨fun hk => ⟨_, exec_rplLowerRequest _ hs hl, ?_⟩, ⟨_, exec_rplLowerRequest _ hs hl, ?_⟩,
    fun v h1 h2 => ⟨_, exec_rplLowerRequest _ hs hl, ?_⟩⟩, fun hl v => ⟨_, exec_rplLowerRequest_denied v hs hl, around_after rfl rfl⟩⟩
  · rw [rplRaise_written]
    exact around_after rfl rfl
  · have hreq : rplReq s 0x000052B0 = { s with init := { s.init with keyArmed := true } } := by simp [rplReq, State.lowering, hno, hk]
    rw [hreq]
    exact around_after rfl rfl
  · have hreq : rplReq s 0x00004F7A = rplJudge s s.init.keyArmed := by simp [rplReq, State.lowering, hno]
    rw [hreq]
    refine ⟨fun (h : s.lowerRefusal ≠ 0) => ?_, fun (h : s.lowerRefusal = 0) => ?_⟩
    · rw [rplJudge_eq, if_neg h]
      exact around_after rfl rfl
    · rw [rplJudge_eq, if_pos h]
      exact around_after rfl rfl
  · have hreq : rplReq s v = rplRefuse s 5 := by
      unfold rplReq
      rw [if_neg (by simp [State.lowering, hno]), if_neg h1, if_neg h2]
    rw [hreq]
    exact around_after rfl rfl

/-! ## The zeroization (R434) -/

/-- Only the channels' branch caches change. -/
theorem clearCaches_eq (s : State) (g : Nat) : ∃ l, clearCaches s g = { s with chans := l } := by
  refine each_preserves (P := fun t => ∃ l, t = { s with chans := l }) (fun t ch h => ?_) (groupChans g) s ⟨_, rfl⟩
  obtain ⟨_, rfl⟩ := h
  exact ⟨_, rfl⟩

theorem foldl_clearCaches_eq (l : List Nat) (s : State) : ∃ cs, l.foldl clearCaches s = { s with chans := cs } := by
  refine each_preserves (P := fun t => ∃ cs, t = { s with chans := cs }) (fun t g h => ?_) l s ⟨_, rfl⟩
  obtain ⟨_, rfl⟩ := h
  obtain ⟨cs, h⟩ := clearCaches_eq { s with chans := _ } g
  exact ⟨cs, h⟩

/-- A control store without the customer's region and entries. -/
def Store.wiped (x : Store) : Store := { x with words := x.words.filter (fun e => decide (e.1 < 12288)), entries := [] }

theorem zeroizeDone_eq {s : State} (h : s.init.lowering = .zeroize) : ∃ m cs, zeroizeDone s =
    { s with keys := [], scanCtx := [], slots := [], qps := [QP.fresh 0], stores := s.stores.map Store.wiped, mem := m, chans := cs,
             init := { s.init with lowering := .rewrite }.requesting 2 } := by
  unfold zeroizeDone
  rw [if_neg (by simp [h])]
  extract_lets wipe gone m s1 s2
  obtain ⟨cs, hs2⟩ : ∃ cs, s2 = { s1 with chans := cs } := foldl_clearCaches_eq _ s1
  clear_value s2
  subst hs2
  exact ⟨s1.mem, cs, rfl⟩

theorem exec_zeroizeDone {s : State} (hh : s.held = false) : exec .zeroizeDone s = .next (after s (zeroizeDone s)) := by
  unfold exec
  exact run_of_ok _ rfl hh

theorem mem_map_wiped {l : List Store} {x : Store} (h : x ∈ l.map Store.wiped) : x.entries = [] ∧ ∀ e ∈ x.words, e.1 < 12288 := by
  obtain ⟨y, -, rfl⟩ := List.mem_map.mp h
  exact ⟨rfl, fun e he => of_decide_eq_true (List.mem_filter.mp he).2⟩

/-! ## The load that ends a lowering (R434) -/

/-- The level is read from the load's results alone (R432). -/
theorem level_congr {s t : State} (h1 : t.init.area = s.init.area) (h2 : t.init.raised = s.init.raised) (h3 : t.init.rplSec = s.init.rplSec) :
    t.level = s.level := by simp only [State.level, h1, h2, h3]

/-- The block once a lowering has ended. -/
def State.lowered (s : State) (result : Nat) : State :=
  { s with init := { s.init with lowering := .none, result := result, phase := 7, optReq := 0, want := 0, loading := false, header := [] } }

theorem lowerEnd_done {s : State} (h : s.init.done = true) (result : Nat) : lowerEnd s result = s.lowered result := if_pos h

section
variable {s : State} {rest : List Byte} (hw : s.init.lowering = .load) (hd : s.init.done = true) (hl : s.init.loading = true) (hh : s.init.header ≠ [])
  (hlen : 8 + rest.length = leAt s.init.header 4 2) (hok : areaErr (Config.groups s.build) (s.init.header ++ rest) = 0)
include hw hd hl hh hlen hok

theorem areaLoaded_lowering : areaLoaded s rest =
    if (mkArea (Config.groups s.build) (s.init.header ++ rest)).rpl = 0 then
      { s.lowered 1 with init := { (s.lowered 1).init with rplSec := 0, raised := false } } else s.lowered 2 := by
  have hlow : s.lowering = true := by simp [State.lowering, hw]
  have hgo : ¬(((!s.init.loading) = true) ∨ s.init.header = [] ∨ 8 + rest.length ≠ leAt s.init.header 4 2) := by simp [hl, hh, hlen]
  unfold areaLoaded
  rw [if_neg hgo]
  simp only [hok, hlow, lowerEnd_done hd, ne_eq, not_true_eq_false, if_false, if_true]
  split <;> rfl

end

/-- Settles O15: the wipe is one update, and the load after it changes the level only where its RPL is 0. -/
theorem loweringZeroizesAndReloads : Obligations.LoweringZeroizesAndReloads := by
  intro s hh
  refine ⟨fun hz => ⟨_, exec_zeroizeDone hh, ?_⟩, fun hw hd ha hlev hl hhead rest hlen hok => ⟨_, exec_optionAreaLoaded hh rest, ?_⟩⟩
  · obtain ⟨m, cs, he⟩ := zeroizeDone_eq hz
    rw [after_keys, after_scanCtx, after_slots, after_qps, after_stores, after_init, he]
    exact ⟨rfl, rfl, rfl, rfl, fun _ => mem_map_wiped, rfl⟩
  · have hlevel (t : State) : (after s t).level = t.level := level_congr (by rw [after_init]) (by rw [after_init]) (by rw [after_init])
    rw [hlevel, after_init, areaLoaded_lowering hw hd hl hhead hlen hok]
    split
    next h0 =>
      refine ⟨rfl, rfl, rfl, fun _ => ⟨rfl, ?_⟩, fun h => absurd h0 h⟩
      obtain ⟨a, harea⟩ := Option.isSome_iff_exists.mp ha
      have hopen : a.rpl2 = false := by
        cases h2 : a.rpl2 with
        | false => rfl
        | true => simp [State.level, harea, h2] at hlev
      simp [State.level, State.lowered, harea, hopen]
    next h0 => exact ⟨rfl, rfl, rfl, fun h => absurd h h0, fun _ => ⟨rfl, (level_congr (t := s.lowered 2) rfl rfl rfl).trans hlev⟩⟩

end Sys2Proof.Machine
end

section
/-!
SUPPORT. The reset sequence from step 4 on (R422, R423), and the request for a low-power state and the entry to P1 (R436, R437).
-/

namespace Sys2Proof.Machine

/-! ## Steps 4 to 7 (R422, R423) -/

theorem exec_reload {s : State} (hs : Awake s) : exec .reload s = .next (after s (reloadWrite s).written) := by
  have hfind : Reg.find A.glbInitCtl = some (Reg.wo A.glbInitCtl [], []) := by decide
  have hacc : accessWrite s .mport A.glbInitCtl 1 none = (reloadWrite s).written :=
    accessWrite_acts hs.2 (.inr (by decide)) hfind (by decide) (by decide) (by decide) rfl (by decide) (by decide) rfl
  unfold exec
  exact (runBus_of_ok _ rfl hs.1).trans (by rw [hacc])

/-- RELOAD restarts at step 1 only where ERR is not 0. -/
theorem reloadWrite_written (s : State) : (reloadWrite s).written =
    { s with answer := { refused := false, data := 0 }, init := { (if s.init.err = 0 then s.init else s.init.stepOne) with keyArmed := false } } := by
  unfold reloadWrite
  split <;> rfl

theorem exec_sramFillDone {s : State} (hh : s.held = false) (hp : s.init.phase = 5) (found : List FillFinding) :
    exec (.sramFillDone found) s = .next (after s (initDone (fillAll s found))) := by
  have hdone : fillDone s found = initDone (fillAll s found) := if_pos hp
  unfold exec
  exact (run_of_ok _ rfl hh).trans (by rw [hdone])

theorem initDone_spec (s : State) : (initDone s).init.done = true ∧ (initDone s).init.phase = 7 ∧ (initDone s).target.rqGrant = 1 ∧
    (initDone s).target.wdGrant = 1 := ⟨rfl, rfl, rfl, rfl⟩

/-- Settles O5: each step is one update of the sequence's phase, which what follows leaves. -/
theorem resetSequenceStepsFourToSeven : Obligations.ResetSequenceStepsFourToSeven := by
  intro s
  refine ⟨fun hh hp he => ?_, fun hh hp he => ?_, fun hs => ⟨_, exec_reload hs, ?_⟩, fun hh hp found => ⟨_, exec_sramFillDone hh hp found, ?_⟩⟩
  · have hlock : exec .referencePllLock s = .next (after s { s with init := { s.init with pll := true, phase := 5 } }) :=
      (run_of_ok _ rfl hh).trans (by rw [if_pos ⟨hp, he⟩])
    exact ⟨_, hlock, around_after rfl rfl⟩
  · have htimeout : exec .pllLockTimeout s =
        .next (after s (if 100 ≤ s.aclk - s.init.pllAt then { s with init := { s.init with err := 6 } } else s)) :=
      (run_of_ok _ rfl hh).trans (by simp only [hp, he, true_and])
    refine ⟨_, htimeout, ?_⟩
    split <;> exact around_after rfl rfl
  · rw [reloadWrite_written]
    exact around_after rfl rfl
  · rw [after_init, after_target]
    exact initDone_spec _

/-! ## GLB_PWR_CTL (R436) -/

/-- The fields of GLB_PWR_CTL: REQ, AUTO and IDLE_US. -/
def pwrCtlFlds : List Fld := [Reg.fr 0 2 0 2, Reg.f 2 1, Reg.fr 16 16 1 65535]

section
variable (old v : Word)

/-- A field of GLB_PWR_CTL takes the value written where that is not reserved. -/
theorem fld_pwrCtl {y : Fld} (hy : y ∈ pwrCtlFlds) : fld (Reg.merge pwrCtlFlds old v) y.lo y.w = if y.rule.ok (fld v y.lo y.w) then fld v y.lo y.w else fld old y.lo y.w := by
  refine fld_merge_of_mem (by decide) ?_ hy old v
  unfold pwrCtlFlds Fld.apart
  decide

theorem fld_pwrCtl_req : fld (Reg.merge pwrCtlFlds old v) 0 2 = if fld v 0 2 = 3 then fld old 0 2 else fld v 0 2 := by
  have hlt := fld_lt v 0 2
  refine (fld_pwrCtl old v (y := Reg.fr 0 2 0 2) (by decide)).trans ?_
  by_cases h : fld v 0 2 = 3
  · rw [if_pos h, if_neg (by simp [Reg.fr, Rule.ok, h])]
    rfl
  · rw [if_neg h, if_pos (by simp [Reg.fr, Rule.ok]; omega)]
    rfl

theorem fld_pwrCtl_auto : fld (Reg.merge pwrCtlFlds old v) 2 1 = fld v 2 1 := fld_pwrCtl old v (y := Reg.f 2 1) (by decide)

theorem fld_pwrCtl_idle : fld (Reg.merge pwrCtlFlds old v) 16 16 = if fld v 16 16 = 0 then fld old 16 16 else fld v 16 16 := by
  have hlt := fld_lt v 16 16
  refine (fld_pwrCtl old v (y := Reg.fr 16 16 1 65535) (by decide)).trans ?_
  by_cases h : fld v 16 16 = 0
  · rw [if_pos h, if_neg (by simp [Reg.fr, Rule.ok, h])]
    rfl
  · rw [if_neg h, if_pos (by simp [Reg.fr, Rule.ok]; omega)]
    rfl

end

/-- The row of GLB_PWR_CTL. -/
def glbPwrCtlRow : RegRow := Reg.rw A.glbPwrCtl [] 0x00640000 .immediate pwrCtlFlds true

theorem exec_powerStateRequest {s : State} (hs : InService s) (v : Word) : exec (.powerStateRequest v) s = .next (after s (pwrCtlWrite s v).written) := by
  have hfind : Reg.find A.glbPwrCtl = some (glbPwrCtlRow, []) := by decide
  have hacc : accessWrite s .mport A.glbPwrCtl v none = (pwrCtlWrite s v).written :=
    accessWrite_acts hs.power_st (.inr (by decide)) hfind (by decide) (by decide) (by decide) rfl (by decide) (by decide) rfl
  unfold exec
  exact (runBus_of_ok _ rfl hs.not_held).trans (by rw [hacc])

/-! ## Entry to P1 (R437) -/

section
variable {s : State} (hoff : RingsOff s)
include hoff

/-- In P1 nothing follows a command. -/
theorem after_enterP1 : after s (enterP1 s) = enterP1 s := by
  have h : after s (enterP1 s) = settle (enterP1 s) := after_off rfl rfl hoff
  have hp : (enterP1 s).power.st ≠ .p0 := PState.noConfusion
  rw [h]
  exact if_neg hp

/-- A command without effect leaves what the evaluation makes of the state. -/
theorem after_self : after s s = settle s := after_off rfl rfl hoff

variable (hh : s.held = false)
include hh

theorem p1Entry_enters (hr : s.pwrReq = 1) (hm : s.mayRest false = true) : exec .p1Entry s = .next (enterP1 s) := by
  rw [← after_enterP1 hoff]
  exact (run_of_ok _ rfl hh).trans (by rw [if_pos ⟨hr, hm⟩])

theorem p1Entry_waits (hm : s.mayRest false = false) : exec .p1Entry s = .next (settle s) := by
  rw [← after_self hoff]
  exact (run_of_ok _ rfl hh).trans (by rw [if_neg (by simp [hm])])

theorem autoP1Idle_enters (hr : s.pwrReq = 0) (ha : s.fldOf A.glbPwrCtl 2 1 = 1) (hm : s.mayRest false = true)
    (hi : s.fldOf A.glbPwrCtl 16 16 ≤ s.power.idle) : exec .autoP1Idle s = .next (enterP1 s) := by
  rw [← after_enterP1 hoff]
  exact (run_of_ok _ rfl hh).trans (by rw [if_pos ⟨hr, ha, hm, hi⟩])

theorem autoP1Idle_waits (h : s.mayRest false = false ∨ s.power.idle < s.fldOf A.glbPwrCtl 16 16) : exec .autoP1Idle s = .next (settle s) := by
  have hn : ¬(s.pwrReq = 0 ∧ s.fldOf A.glbPwrCtl 2 1 = 1 ∧ s.mayRest false = true ∧ s.fldOf A.glbPwrCtl 16 16 ≤ s.power.idle) := by
    rintro ⟨-, -, hm, hi⟩
    rcases h with h | h
    · rw [h] at hm
      cases hm
    · omega
  rw [← after_self hoff]
  exact (run_of_ok _ rfl hh).trans (by rw [if_neg hn])

end

/-- Settles O9: a write of GLB_PWR_CTL field by field, and each entry as its condition has it. -/
theorem lowPowerRequestAndP1Entry : Obligations.LowPowerRequestAndP1Entry := by
  intro s hoff
  refine ⟨fun hs v => ⟨_, exec_powerStateRequest hs v, ?_⟩, fun hh => p1Entry_enters hoff hh, fun hh => autoP1Idle_enters hoff hh,
    fun hh hi => autoP1Idle_waits hoff hh (.inr hi), fun hh hm => ⟨p1Entry_waits hoff hh hm, autoP1Idle_waits hoff hh (.inl hm)⟩⟩
  have hu : RingsOff (pwrCtlWrite s v).written := hoff.congr fun k hk => State.reg_setReg_ne _ _ (by unfold A.wglRingCfg A.glbPwrCtl; omega)
  have hreg : (after s (pwrCtlWrite s v).written).reg A.glbPwrCtl = Reg.merge pwrCtlFlds (s.reg A.glbPwrCtl) v :=
    (after_off_reg (u := (pwrCtlWrite s v).written) rfl hu _).trans (s.reg_setReg_self ..)
  rw [State.pwrReq, State.fldOf, State.fldOf, State.fldOf, hreg]
  refine ⟨fld_pwrCtl_req .., fld_pwrCtl_auto .., fld_pwrCtl_idle .., ?_⟩
  exact around_after (u := (pwrCtlWrite s v).written) rfl rfl

end Sys2Proof.Machine
end

section
/-!
SUPPORT. The entry to P2 (R437): what the retention registers and the ACLK domain hold.
-/

namespace Sys2Proof.Machine

/-! ## The registers in retention -/

/-- A register's row is held in retention. -/
def keptAt (a : Nat) : Bool := match Reg.find a with | some (r, _) => r.kept | none => false

theorem keptAt_of_find {a : Nat} {r : RegRow} {i : List Nat} (h : Reg.find a = some (r, i)) : keptAt a = r.kept := by rw [keptAt, h]

theorem getBy_filter_key {α : Type} (key : α → Nat) (p : Nat → Bool) (k : Nat) (l : List α) :
    getBy key k (l.filter fun x => p (key x)) = if p k then getBy key k l else none := by
  induction l with
  | nil => simp
  | cons x l ih =>
    by_cases hx : key x = k
    · subst hx
      cases hp : p (key x) <;> simp [hp, getBy] at ih ⊢
      exact ih
    · cases hp : p (key x) <;> simp [hp, getBy, hx, ih]

/-- The state with the registers in retention alone. -/
def State.retained (s : State) : State := { s with regs := s.regs.filter fun e => keptAt e.1 }

theorem retained_reg (s : State) (a : Nat) : s.retained.reg a = if keptAt a then s.reg a else Reg.resetValue s.build a := by
  have h := getBy_filter_key Prod.fst keptAt a s.regs
  unfold State.reg regGet assoc
  rw [show s.retained.regs = s.regs.filter fun e => keptAt e.1 from rfl, h]
  split <;> rfl

/-- EN of the log streams in `l` is forced to 0. -/
def State.streamsOff (s : State) (l : List Nat) : State := s.each l fun st i => st.setFldOf (A.hqLsCtl i) 0 1 0

theorem keptRegs_eq (s : State) : keptRegs s = s.retained.streamsOff (List.range 64) := rfl

theorem streamsOff_eq (s : State) (l : List Nat) : ∃ r, s.streamsOff l = { s with regs := r } := by
  refine each_preserves (P := fun t => ∃ r, t = { s with regs := r }) (fun t i h => ?_) l s ⟨_, rfl⟩
  obtain ⟨_, rfl⟩ := h
  exact ⟨_, rfl⟩

theorem streamsOff_reg_ne {a : Nat} (s : State) {l : List Nat} (h : ∀ k ∈ l, a ≠ A.hqLsCtl k) : (s.streamsOff l).reg a = s.reg a := by
  unfold State.streamsOff State.each
  induction l generalizing s with
  | nil => rfl
  | cons k l ih =>
    rw [List.foldl_cons, ih _ fun j hj => h j (List.mem_cons_of_mem _ hj)]
    exact State.reg_setFldOf_ne s 0 1 0 (h k List.mem_cons_self)

theorem setFldOf_streamOff {s : State} {k : Nat} (i : Nat) (h : s.fldOf (A.hqLsCtl k) 0 1 = 0) : (s.setFldOf (A.hqLsCtl i) 0 1 0).fldOf (A.hqLsCtl k) 0 1 = 0 := by
  by_cases hki : A.hqLsCtl k = A.hqLsCtl i
  · rw [hki]
    exact State.fldOf_setFldOf_self s _ 0 (by decide)
  · rw [State.fldOf, State.reg_setFldOf_ne s _ _ _ hki]
    exact h

theorem streamsOff_fld {k : Nat} (s : State) {l : List Nat} (hk : k ∈ l) : (s.streamsOff l).fldOf (A.hqLsCtl k) 0 1 = 0 := by
  unfold State.streamsOff
  induction l generalizing s with
  | nil => cases hk
  | cons i l ih =>
    rcases List.mem_cons.mp hk with rfl | hk
    · exact each_preserves (P := fun t => t.fldOf (A.hqLsCtl k) 0 1 = 0) (fun _ i => setFldOf_streamOff i) l _
        (State.fldOf_setFldOf_self s _ 0 (by decide))
    · exact ih _ hk

theorem keptAt_hqLsCtl {k : Nat} (hk : k < 64) : keptAt (A.hqLsCtl k) = true := keptAt_of_find (find_hqLsCtl k hk)

/-! ## The entry -/

/-- The block as the writes and the patrol leave it before the clocks stop. -/
def State.quieted (s : State) : State := takeNow (patrolStop s) fun _ => true

theorem quieted_eq (s : State) : ∃ rs l os cs rc rl, s.quieted = { s with regs := rs, pend := l, ops := os, cws := cs, recov := rc, rlv := rl } := by
  obtain ⟨rs, l, h⟩ := takeNow_eq (patrolStop s) fun _ => true
  exact ⟨rs, l, _, _, _, _, h⟩

/-- Where no write waits, no register changes. -/
theorem quieted_reg {s : State} (h : s.pend = []) (a : Nat) : s.quieted.reg a = s.reg a := by
  have hp : (patrolStop s).pend = [] := h
  unfold State.quieted takeNow
  rw [hp]
  rfl

theorem keptRegs_keeps (s : State) : ∃ r, keptRegs s = { s with regs := r } := by
  rw [keptRegs_eq]
  exact streamsOff_eq s.retained _

/-- What the entry keeps, beside the registers in retention. -/
theorem enterP2_spec (s : State) : let t := enterP2 s
    t.build = s.build ∧ t.regs = (keptRegs s.quieted).regs ∧ t.power.st = .p2 ∧ t.keys = [] ∧ t.scanCtx = [] ∧ t.slots = [] ∧
    t.qps = [QP.fresh 0] ∧ t.ops = [] ∧ t.rlv = Rlv.reset ∧ t.stores = (State.resetOf s.build).stores ∧ t.init = { s.init with keyArmed := false, result := 0, refuse := 0 } ∧
    t.aclk = s.aclk ∧ t.wgl.timers = s.wgl.timers ∧ t.mem.rrep = s.mem.rrep := by
  obtain ⟨rs, l, os, cs, rc, rl, hq⟩ := quieted_eq s
  obtain ⟨r, hr⟩ := keptRegs_keeps s.quieted
  unfold enterP2
  rw [show keptRegs (takeNow (patrolStop s) fun _ => true) = keptRegs s.quieted from rfl]
  rw [hr, hq]
  exact ⟨rfl, rfl, rfl, rfl, rfl, rfl, rfl, rfl, rfl, rfl, rfl, rfl, rfl, rfl⟩

/-- In P2 nothing follows a command but the queue of commands. -/
theorem after_of_p2 (s : State) {u : State} (h : u.power.st = .p2) : after s u = { u with pending := s.pending, build := s.build } := by
  rw [after, ringCheck, if_pos h]
  exact if_neg (by rw [show State.power { u with pending := s.pending, build := s.build } = u.power from rfl, h]; decide)

theorem exec_p2Entry {s : State} (hh : s.held = false) (hr : s.pwrReq = 2) (hm : s.mayRest true = true) : exec .p2Entry s = .next (after s (enterP2 s)) :=
  (run_of_ok _ rfl hh).trans (by rw [if_pos ⟨hr, hm⟩])

/-- The registers after the entry. -/
theorem after_enterP2_reg (s : State) (a : Nat) : (after s (enterP2 s)).reg a = (s.quieted.retained.streamsOff (List.range 64)).reg a := by
  obtain ⟨-, hregs, hp, -⟩ := enterP2_spec s
  obtain ⟨rs, l, os, cs, rc, rl, hq⟩ := quieted_eq s
  obtain ⟨r, hr⟩ := keptRegs_keeps s.quieted
  have hb : (keptRegs s.quieted).build = s.build := by rw [hr, hq]
  rw [← keptRegs_eq, after_of_p2 s hp, State.reg, State.reg, hb, ← hregs]

/-- A register that is not of a log stream's control: its value in retention, or its reset value. -/
theorem after_enterP2_reg_ne (s : State) {a : Nat} (h : ∀ k < 64, a ≠ A.hqLsCtl k) :
    (after s (enterP2 s)).reg a = if keptAt a then s.quieted.reg a else Reg.resetValue s.build a := by
  obtain ⟨rs, l, os, cs, rc, rl, hq⟩ := quieted_eq s
  have hb : s.quieted.build = s.build := by rw [hq]
  rw [after_enterP2_reg, streamsOff_reg_ne _ fun k hk => h k (List.mem_range.mp hk), retained_reg, hb]

/-- Settles O10: the entry is one update, whose registers are those in retention with every stream's EN at 0. -/
theorem p2EntryKeepsOnlyRetainedState : Obligations.P2EntryKeepsOnlyRetainedState := by
  intro s hh hr hm
  obtain ⟨-, -, hp, hkeys, hctx, hslots, hqps, hops, hrlv, hstores, hinit, haclk, htimers, hrrep⟩ := enterP2_spec s
  refine ⟨_, exec_p2Entry hh hr hm, ?_, ?_, ?_, ?_, ?_, ?_, ?_, ?_, ?_, ?_, ?_, ?_, ?_, ?_, fun a r i hf hk => ?_, fun k hk => ?_, fun hpend _ a r i hf hk hne => ?_⟩
  case refine_15 =>
    have hkept := keptAt_of_find hf
    rw [hk] at hkept
    rw [after_enterP2_reg_ne s fun k hlt he => ?_, hkept]
    · rfl
    · rw [he, keptAt_hqLsCtl hlt] at hkept
      cases hkept
  case refine_16 =>
    rw [State.lsEn, State.fldOf, after_enterP2_reg, ← State.fldOf, streamsOff_fld _ (List.mem_range.mpr hk)]
    rfl
  case refine_17 =>
    rw [after_enterP2_reg_ne s hne, keptAt_of_find hf, hk, quieted_reg hpend]
    rfl
  case refine_11 => exact level_congr (by rw [after_init, hinit]) (by rw [after_init, hinit]) (by rw [after_init, hinit])
  all_goals
    rw [after_of_p2 s hp]
    generalize enterP2 s = u at *
  · exact hp
  · exact hkeys
  · exact hctx
  · exact hslots
  · exact hqps
  · exact hops
  · exact hrlv
  · exact hstores
  · exact (congrArg Init.area hinit :)
  · exact (congrArg Init.kek hinit :)
  · exact haclk
  · exact htimers
  · exact hrrep

end Sys2Proof.Machine
end
